-- ==== Sys2Proof/Word.lean ====
section
/-! DEFINITION. Words, bytes and the sparse table type.

Arithmetic of the part is little-endian throughout (00_scope.md R16). -/

namespace Sys2Proof

/-- A 64-bit register or operand word. -/
abbrev U64 := BitVec 64

/-- One byte. -/
abbrev Byte := BitVec 8

/-- A run of bytes, lowest address first. -/
abbrev Bytes := List Byte

/-- One 128-byte coherence line (11_coherence.md R335); bit `8 i + j` is bit `j` of byte `i`. -/
abbrev LineData := BitVec 1024

/-- The number of a scalar register `s0`-`s31`, or of a vector register. -/
abbrev SReg := BitVec 5

/-- An IEEE single held as its bits. -/
abbrev F32 := BitVec 32

/-- An accumulator cell of 40 bits (05_matrix_units.md R163). -/
abbrev XF40 := BitVec 40

/-- A sparse table: key and value pairs, keys strictly rising, no value equal to the default
that an unlisted key stands for. The operations and the canonical form are in Machine/Table.lean. -/
abbrev SMap (α : Type) := List (Nat × α)

end Sys2Proof
end

