-- ==== Sys2Proof/Syntax.lean ====
section
/-! DEFINITION. The commands of the block: one constructor of `Instr` for each row of
spec/opcode_table.json, with the operands a sender gives it.

The table gives its rows no bits, so the operands are the model's choice: they hold what the rule
of the row names (notes/assumptions/17.md). -/
namespace Sys2Proof

/-- Who makes a register access (02_address_map.md R62, R76): a hart, the sequencer of a cluster,
or the Tumbler itself. -/
inductive Agent where
  | hart (n : Nat)
  | seq (c : Nat)
  | tumbler
  deriving DecidableEq, Repr

/-- The part of a 64-bit register that a write addresses (R76). -/
inductive RegPart where
  | full | low | high
  deriving DecidableEq, Repr

/-- The data of a register write: the part addressed and the value, of which a half write uses the
low 32 bits (R76). -/
structure RegW where
  part : RegPart
  val : U64
  deriving DecidableEq, Repr

/-- What chooses the bundle of a network message (01_package_and_hinges.md R29). -/
inductive MsgKey where
  | line (pa : Nat)
  | hasp (id : BitVec 14)
  | other
  deriving DecidableEq, Repr

/-- A network message: class (R26), key (R29), the dies it runs between (0-3 the quadrants, 4 the
host die) and the data of its flits. -/
structure NetMsg where
  cls : BitVec 2
  key : MsgKey
  src : Nat
  dst : Nat
  body : List (BitVec 512)
  deriving DecidableEq, Repr

/-- A flit as it stands on the wires: 64 data bytes and the sideband word of R26. -/
structure Flit where
  data : BitVec 512
  side : BitVec 64
  deriving DecidableEq, Repr

/-- Hasp scopes (04_iluchezia_bundles.md R157). -/
inductive Scope where
  | agent | cluster | package | system
  deriving DecidableEq, Repr

/-- `MMA` and `MMAC` slot fields (R147). -/
structure MmaF where
  unit : BitVec 2
  acc : Bool
  fmtA : BitVec 4
  fmtB : BitVec 4
  ra : SReg
  ras : SReg
  rb : SReg
  rbs : SReg
  rk : SReg
  rsc : SReg
  deriving DecidableEq, Repr

/-- `ZDRAIN` slot fields (R149). -/
structure ZdrainF where
  unit : BitVec 2
  rm : BitVec 2
  dfmt : BitVec 4
  sat : Bool
  rd : SReg
  rds : SReg
  rsc : SReg
  deriving DecidableEq, Repr

/-- `ZLOAD` slot fields (R149). -/
structure ZloadF where
  unit : BitVec 2
  sfmt : BitVec 4
  rs : SReg
  rss : SReg
  deriving DecidableEq, Repr

/-- `MCFG` slot fields (R149, R150). -/
structure McfgF where
  unit : BitVec 2
  item : BitVec 4
  rv : SReg
  deriving DecidableEq, Repr

/-- Vector slot fields (R151) but the opcode. -/
structure VecF where
  unit : BitVec 1
  msk : BitVec 3
  men : Bool
  mz : Bool
  vd : SReg
  vs1 : SReg
  vs2 : SReg
  vs3 : SReg
  t : BitVec 4
  t2 : BitVec 4
  rs : SReg
  rs2 : SReg
  fn : BitVec 12
  deriving DecidableEq, Repr

/-- SFU operation fields (R156) but the opcode. -/
structure SfuF where
  unit : BitVec 1
  vd : SReg
  vs : SReg
  prec : Bool
  msk : BitVec 3
  men : Bool
  mz : Bool
  deriving DecidableEq, Repr

/-- Mover slot fields (R154). -/
structure MovF where
  mover : BitVec 1
  rdesc : SReg
  dloc : Bool
  hasp : BitVec 14
  cnt : Bool
  spec : Bool
  deriving DecidableEq, Repr

/-- Operation of an `Atomic` (R134). -/
inductive AmoOp where
  | add | swap | cas
  deriving DecidableEq, Repr

/-- Operation of a hart AMO, LR or SC. The RISC-V operations are PRESUMED: the profile of R435 is a
standard outside the spec. -/
inductive HartAmoOp where
  | swap | add | xor | and | or | min | max | minu | maxu | lr | sc
  deriving DecidableEq, Repr

/-- The memory type that the page of an access gives (15_host_die.md R437, Svpbmt): that of the physical range, NC or
IO. -/
inductive PageType where
  | pma | nc | io
  deriving DecidableEq, Repr

/-- A hart load or instruction fetch after paging: width `2 ^ size` bytes, destination register,
virtual address for `mtval`, physical address and the page's memory type. -/
structure HartLd where
  rd : SReg
  va : U64
  pa : Nat
  size : BitVec 2
  signed : Bool
  fetch : Bool
  page : PageType
  deriving DecidableEq, Repr

/-- A hart store after paging: width `2 ^ size` bytes from register `rs`. -/
structure HartSt where
  rs : SReg
  va : U64
  pa : Nat
  size : BitVec 2
  page : PageType
  deriving DecidableEq, Repr

/-- A hart AMO, LR or SC after paging, on 4 or 8 bytes. -/
structure HartAmoF where
  op : HartAmoOp
  rd : SReg
  rs : SReg
  va : U64
  pa : Nat
  dword : Bool
  page : PageType
  deriving DecidableEq, Repr

/-- The step of 13_tiers_and_flash.md R404 that served a flash read, or none. -/
inductive FlashServe where
  | hard | shifted | soft | rebuilt | failed
  deriving DecidableEq, Repr

/-- What a scrub of a line found (19_reset_and_ras.md R533). -/
inductive ScrubResult where
  | clean | corrected | uncorrectable
  deriving DecidableEq, Repr

/-- A link-layer frame: 8 units of 32 bytes and the trailer of 14_fabric_and_pods.md R415. -/
structure Frame where
  units : BitVec 2048
  trailer : BitVec 128
  deriving DecidableEq, Repr

/-- A fabric packet: the header of R418 and its payload bytes. -/
structure Packet where
  hdr : BitVec 256
  payload : Bytes
  deriving DecidableEq, Repr

/-- What a `HELLO` carries (R430). -/
structure HelloInfo where
  serial : U64
  devnum : BitVec 6
  configured : Bool
  podId : U64
  port : BitVec 4
  deriving DecidableEq, Repr

/-- A relayed management command (R431, R521): sender and its sequence number, the pod host's owner key
identifier, the mailbox, the command slot and its inline data. -/
structure RelayInfo where
  src : BitVec 6
  mseq : BitVec 32
  owner : U64
  mailbox : Nat
  slot : BitVec 512
  data : Bytes
  deriving DecidableEq, Repr

/-- Topologies of R425. -/
inductive Topology where
  | fullMesh (m : Nat)
  | torus4
  | torus8
  deriving DecidableEq, Repr

/-- A pod configuration record (R432): the serial numbers expected behind the ports are a list of
(port, serial number). -/
structure PodRecord where
  podId : U64
  topology : Topology
  devnum : BitVec 6
  peers : List (Nat × U64)
  deriving DecidableEq, Repr

/-- An inbound PCIe request (15_host_die.md R448, R449): root port, requester ID, PASID and
untranslated address. -/
structure PcieReq where
  port : Nat
  requester : BitVec 16
  pasid : BitVec 20
  addr : U64
  deriving DecidableEq, Repr

/-- The largest of the frames that bring a request to an Ethernet port (R450): its bytes, and its 802.1Q tag, if it has
one: priority and VLAN. -/
structure EthFrame where
  bytes : Nat
  tag : Option (BitVec 3 × BitVec 12)
  deriving DecidableEq, Repr

/-- An inbound RDMA request: Ethernet port, frames, connection, PASID and remote address (R450-R452). -/
structure RdmaReq where
  frame : EthFrame
  port : Nat
  qpn : BitVec 15
  pasid : BitVec 20
  addr : U64
  deriving DecidableEq, Repr

/-- What the regulators report at the end of a power window (17_power_clocks_thermal.md R486-R488,
R495, R497): average input power in watts, the largest input current over 100 µs in amperes and, before the
first calibrated readings, the highest root in MHz whose estimated power stays within the limit. -/
structure WindowReading where
  inputW : BitVec 16
  inputA : BitVec 16
  estimateMhz : Nat
  deriving DecidableEq, Repr

/-- Measured energy in microjoules since the last update (R498): of quadrant cores, stacks, host die and module, and
the part of its quadrant's that a cluster used while it ran a launch charging a work-queue counter. -/
structure EnergyReading where
  core : List (Nat × Nat)
  stack : List (Nat × Nat)
  hostDie : Nat
  module : Nat
  share : List (Nat × (Nat × Nat))
  deriving DecidableEq, Repr

/-- What an error detector reports: the fields of an error record that it fixes
(19_reset_and_ras.md R536), and the kind of structure (R532). -/
structure ErrInfo where
  level : BitVec 8
  cls : BitVec 16
  quad : BitVec 8
  cluster : BitVec 8
  agent : BitVec 8
  struct : BitVec 8
  status : BitVec 8
  paddr : U64
  vaddr : U64
  space : BitVec 16
  hart : BitVec 8
  syndrome : BitVec 32
  detail : U64
  deriving DecidableEq, Repr

/-- Vector opcodes in the order of R153 (04_iluchezia_bundles.md). -/
inductive VOp where
  | vadd | vsub | vmul | vfma | vfnma | vmin | vmax | vabs | vneg | vadds | vmuls | vfmas
  | vand | vor | vxor | vnot | vsll | vsrl | vsra | vcmp | mand | mor | mxor | mnot
  | vmov | vbcast | cvt | mxpack | mxunpk | redsum | redmax | redmin | smaxc | welf | wmerge
  | vld | vst | vtrn | vtrnq
  deriving DecidableEq, Repr

/-- SFU functions in the order of R158. -/
inductive SfuOp where
  | exp2 | log2 | rcp | rsq | tanh | sig | erf | sin | cos | lut
  deriving DecidableEq, Repr

/-- Conditional branches (R129). -/
inductive BrOp where
  | beq | bne | blt | bge | bltu | bgeu
  deriving DecidableEq, Repr

/-- ALU-group operations (R130). -/
inductive AluOp where
  | add | sub | and | or | xor | sll | srl | sra | slt | sltu | mul | min | max | minu | maxu
  deriving DecidableEq, Repr

/-- Immediate ALU operations (R129). -/
inductive AluIOp where
  | addi | andi | ori | xori | slti | sltiu
  deriving DecidableEq, Repr

/-- Immediate shifts (R129). -/
inductive ShiftOp where
  | slli | srli | srai
  deriving DecidableEq, Repr

/-- Line-cache group operations (R129, R136). -/
inductive LcOp where
  | clean | inval | flush | cleanw | invalw | flushw | lock | unlock
  deriving DecidableEq, Repr

/-- Sync operations of the SFU/sync slot (R158). -/
inductive SyncOp where
  | add (rh rv : SReg) (scope : Scope)
  | wait (rh rv : SReg) (scope : Scope)
  | set (rh rv : SReg) (scope : Scope)
  | reset (rh : SReg) (scope : Scope)
  | fenceC
  | fenceP
  | fenceS
  deriving DecidableEq, Repr

/-- The scalar slot (R128-R143). Loads and stores carry log2 of their width. -/
inductive Scalar where
  | nop
  | alu (op : AluOp) (rd rs1 rs2 : SReg)
  | alui (op : AluIOp) (rd rs1 : SReg) (imm : BitVec 16)
  | shift (op : ShiftOp) (rd rs1 : SReg) (sh : BitVec 6)
  | lui (rd : SReg) (imm : BitVec 21)
  | load (size : BitVec 2) (signed : Bool) (rd rs1 : SReg) (imm : BitVec 16)
  | store (size : BitVec 2) (rs2 rs1 : SReg) (imm : BitVec 16)
  | ldl (rd rs1 : SReg) (imm : BitVec 16)
  | stl (rs2 rs1 : SReg) (imm : BitVec 16)
  | branch (op : BrOp) (rs1 rs2 : SReg) (off : BitVec 16)
  | jal (rd : SReg) (off : BitVec 21)
  | jalr (rd rs1 : SReg) (imm : BitVec 16)
  | loop (rc : SReg) (body : BitVec 16)
  | loopi (t : BitVec 10) (body : BitVec 16)
  | brk (rs : SReg) (sense : Bool) (level : BitVec 2)
  | amo (op : AmoOp) (rd rs1 rs2 : SReg)
  | rdcyc (rd : SReg)
  | lidx (rd : SReg) (depth : BitVec 2)
  | rdspace (rd : SReg)
  | lc (op : LcOp) (rd rs1 : SReg)
  deriving DecidableEq, Repr

/-- The matrix slot (R144). -/
inductive Matrix where
  | mma (complex : Bool) (f : MmaF)
  | zdrain (f : ZdrainF)
  | zload (f : ZloadF)
  | mcfg (f : McfgF)
  deriving DecidableEq, Repr

/-- The SFU/sync slot (R158). -/
inductive Sfu where
  | fn (op : SfuOp) (f : SfuF)
  | lutLd (vs : SReg)
  | lutCommit
  | sync (op : SyncOp)
  deriving DecidableEq, Repr

/-- A decoded bundle (R120-R126). -/
structure Bundle256 where
  scalar : Scalar
  matrix : Option Matrix
  vector : Option (VOp × VecF)
  mover : Option MovF
  sfu : Option Sfu
  pred : BitVec 3
  wh : Bool
  stop : Bool
  sbar : Bool
  deriving DecidableEq, Repr

/-- The commands of the block, in the order of spec/opcode_table.json. -/
inductive Instr where
  | registerWrite (ag : Agent) (addr : Nat) (size : Nat) (val : U64)
  | hingeMessageSend (side : Nat) (m : NetMsg)
  | msgFlit (side : Nat) (b : Nat) (f : Flit)
  | idleFlit (side : Nat) (b : Nat) (f : Flit)
  | replayFlit (side : Nat) (b : Nat) (f : Flit)
  | retrainFlit (side : Nat) (b : Nat) (f : Flit)
  | discFlit (side : Nat) (b : Nat) (f : Flit)
  | widthFlit (side : Nat) (b : Nat) (f : Flit)
  | replayLimit (side : Nat) (b : Nat)
  | flitAckTimeout (side : Nat) (b : Nat)
  | forwardedClockLoss (side : Nat) (b : Nat)
  | hingeAttemptStart (h : Nat)
  | hingeClockLock (h : Nat)
  | hingeDeskewDone (h : Nat)
  | hingePatternDone (h : Nat) (passA : BitVec 16) (passB : BitVec 16)
  | hingeStateTimeout (h : Nat)
  | hingeFailcountReset (h : Nat)
  | hostLossTimeout (q : Nat)
  | discSendTimer (die : Nat)
  | discoveryClose
  | hngRetrain (q : Nat) (h : Nat)
  | hngClrCnt (q : Nat) (h : Nat)
  | bundleIssue (c : Nat)
  | scalarLoadReturn (c : Nat) (id : Nat)
  | clusterHalt (c : Nat)
  | dspCtlWrite (q : Nat) (w : RegW)
  | dspQcfgWrite (q : Nat) (n : Nat) (w : RegW)
  | dspQdb (q : Nat) (n : Nat) (w : RegW)
  | launchRecordRead (q : Nat) (n : Nat)
  | queueStale (q : Nat) (n : Nat)
  | launchStart (q : Nat)
  | launchCompletion (q : Nat) (id : Nat)
  | clusterFaultReport (c : Nat)
  | dspAbort (q : Nat) (w : RegW)
  | clusterStopTimeout (c : Nat)
  | dspCrst (q : Nat) (w : RegW)
  | clusterReset (c : Nat)
  | clusterPowerGate (c : Nat)
  | nop (c : Nat)
  | add (c : Nat) (rd : SReg) (rs1 : SReg) (rs2 : SReg)
  | sub (c : Nat) (rd : SReg) (rs1 : SReg) (rs2 : SReg)
  | and (c : Nat) (rd : SReg) (rs1 : SReg) (rs2 : SReg)
  | or (c : Nat) (rd : SReg) (rs1 : SReg) (rs2 : SReg)
  | xor (c : Nat) (rd : SReg) (rs1 : SReg) (rs2 : SReg)
  | sll (c : Nat) (rd : SReg) (rs1 : SReg) (rs2 : SReg)
  | srl (c : Nat) (rd : SReg) (rs1 : SReg) (rs2 : SReg)
  | sra (c : Nat) (rd : SReg) (rs1 : SReg) (rs2 : SReg)
  | slt (c : Nat) (rd : SReg) (rs1 : SReg) (rs2 : SReg)
  | sltu (c : Nat) (rd : SReg) (rs1 : SReg) (rs2 : SReg)
  | mul (c : Nat) (rd : SReg) (rs1 : SReg) (rs2 : SReg)
  | min (c : Nat) (rd : SReg) (rs1 : SReg) (rs2 : SReg)
  | max (c : Nat) (rd : SReg) (rs1 : SReg) (rs2 : SReg)
  | minu (c : Nat) (rd : SReg) (rs1 : SReg) (rs2 : SReg)
  | maxu (c : Nat) (rd : SReg) (rs1 : SReg) (rs2 : SReg)
  | addi (c : Nat) (rd : SReg) (rs1 : SReg) (imm : BitVec 16)
  | andi (c : Nat) (rd : SReg) (rs1 : SReg) (imm : BitVec 16)
  | ori (c : Nat) (rd : SReg) (rs1 : SReg) (imm : BitVec 16)
  | xori (c : Nat) (rd : SReg) (rs1 : SReg) (imm : BitVec 16)
  | slti (c : Nat) (rd : SReg) (rs1 : SReg) (imm : BitVec 16)
  | sltiu (c : Nat) (rd : SReg) (rs1 : SReg) (imm : BitVec 16)
  | slli (c : Nat) (rd : SReg) (rs1 : SReg) (sh : BitVec 6)
  | srli (c : Nat) (rd : SReg) (rs1 : SReg) (sh : BitVec 6)
  | srai (c : Nat) (rd : SReg) (rs1 : SReg) (sh : BitVec 6)
  | lui (c : Nat) (rd : SReg) (imm : BitVec 21)
  | lb (c : Nat) (rd : SReg) (rs1 : SReg) (imm : BitVec 16)
  | lbu (c : Nat) (rd : SReg) (rs1 : SReg) (imm : BitVec 16)
  | lh (c : Nat) (rd : SReg) (rs1 : SReg) (imm : BitVec 16)
  | lhu (c : Nat) (rd : SReg) (rs1 : SReg) (imm : BitVec 16)
  | lw (c : Nat) (rd : SReg) (rs1 : SReg) (imm : BitVec 16)
  | lwu (c : Nat) (rd : SReg) (rs1 : SReg) (imm : BitVec 16)
  | ld (c : Nat) (rd : SReg) (rs1 : SReg) (imm : BitVec 16)
  | sb (c : Nat) (rs2 : SReg) (rs1 : SReg) (imm : BitVec 16)
  | sh (c : Nat) (rs2 : SReg) (rs1 : SReg) (imm : BitVec 16)
  | sw (c : Nat) (rs2 : SReg) (rs1 : SReg) (imm : BitVec 16)
  | sd (c : Nat) (rs2 : SReg) (rs1 : SReg) (imm : BitVec 16)
  | ldl (c : Nat) (rd : SReg) (rs1 : SReg) (imm : BitVec 16)
  | stl (c : Nat) (rs2 : SReg) (rs1 : SReg) (imm : BitVec 16)
  | beq (c : Nat) (rs1 : SReg) (rs2 : SReg) (off : BitVec 16)
  | bne (c : Nat) (rs1 : SReg) (rs2 : SReg) (off : BitVec 16)
  | blt (c : Nat) (rs1 : SReg) (rs2 : SReg) (off : BitVec 16)
  | bge (c : Nat) (rs1 : SReg) (rs2 : SReg) (off : BitVec 16)
  | bltu (c : Nat) (rs1 : SReg) (rs2 : SReg) (off : BitVec 16)
  | bgeu (c : Nat) (rs1 : SReg) (rs2 : SReg) (off : BitVec 16)
  | jal (c : Nat) (rd : SReg) (off : BitVec 21)
  | jalr (c : Nat) (rd : SReg) (rs1 : SReg) (imm : BitVec 16)
  | loop (c : Nat) (rc : SReg) (body : BitVec 16)
  | loopi (c : Nat) (t : BitVec 10) (body : BitVec 16)
  | brk (c : Nat) (rs : SReg) (sense : Bool) (level : BitVec 2)
  | amoadd (c : Nat) (rd : SReg) (rs1 : SReg) (rs2 : SReg)
  | amoswap (c : Nat) (rd : SReg) (rs1 : SReg) (rs2 : SReg)
  | amocas (c : Nat) (rd : SReg) (rs1 : SReg) (rs2 : SReg)
  | rdcyc (c : Nat) (rd : SReg)
  | lidx (c : Nat) (rd : SReg) (depth : BitVec 2)
  | rdspace (c : Nat) (rd : SReg)
  | lcClean (c : Nat) (rd : SReg) (rs1 : SReg)
  | lcInval (c : Nat) (rd : SReg) (rs1 : SReg)
  | lcFlush (c : Nat) (rd : SReg) (rs1 : SReg)
  | lcCleanw (c : Nat) (rd : SReg) (rs1 : SReg)
  | lcInvalw (c : Nat) (rd : SReg) (rs1 : SReg)
  | lcFlushw (c : Nat) (rd : SReg) (rs1 : SReg)
  | lcLock (c : Nat) (rd : SReg) (rs1 : SReg)
  | lcUnlock (c : Nat) (rd : SReg) (rs1 : SReg)
  | mma (c : Nat) (f : MmaF)
  | mmac (c : Nat) (f : MmaF)
  | zdrain (c : Nat) (f : ZdrainF)
  | zload (c : Nat) (f : ZloadF)
  | mcfg (c : Nat) (f : McfgF)
  | vadd (c : Nat) (f : VecF)
  | vsub (c : Nat) (f : VecF)
  | vmul (c : Nat) (f : VecF)
  | vfma (c : Nat) (f : VecF)
  | vfnma (c : Nat) (f : VecF)
  | vmin (c : Nat) (f : VecF)
  | vmax (c : Nat) (f : VecF)
  | vabs (c : Nat) (f : VecF)
  | vneg (c : Nat) (f : VecF)
  | vadds (c : Nat) (f : VecF)
  | vmuls (c : Nat) (f : VecF)
  | vfmas (c : Nat) (f : VecF)
  | vand (c : Nat) (f : VecF)
  | vor (c : Nat) (f : VecF)
  | vxor (c : Nat) (f : VecF)
  | vnot (c : Nat) (f : VecF)
  | vsll (c : Nat) (f : VecF)
  | vsrl (c : Nat) (f : VecF)
  | vsra (c : Nat) (f : VecF)
  | vcmp (c : Nat) (f : VecF)
  | mand (c : Nat) (f : VecF)
  | mor (c : Nat) (f : VecF)
  | mxor (c : Nat) (f : VecF)
  | mnot (c : Nat) (f : VecF)
  | vmov (c : Nat) (f : VecF)
  | vbcast (c : Nat) (f : VecF)
  | cvt (c : Nat) (f : VecF)
  | mxpack (c : Nat) (f : VecF)
  | mxunpk (c : Nat) (f : VecF)
  | redsum (c : Nat) (f : VecF)
  | redmax (c : Nat) (f : VecF)
  | redmin (c : Nat) (f : VecF)
  | smaxc (c : Nat) (f : VecF)
  | welf (c : Nat) (f : VecF)
  | wmerge (c : Nat) (f : VecF)
  | vld (c : Nat) (f : VecF)
  | vst (c : Nat) (f : VecF)
  | vtrn (c : Nat) (f : VecF)
  | vtrnq (c : Nat) (f : VecF)
  | exp2 (c : Nat) (f : SfuF)
  | log2 (c : Nat) (f : SfuF)
  | rcp (c : Nat) (f : SfuF)
  | rsq (c : Nat) (f : SfuF)
  | tanh (c : Nat) (f : SfuF)
  | sig (c : Nat) (f : SfuF)
  | erf (c : Nat) (f : SfuF)
  | sin (c : Nat) (f : SfuF)
  | cos (c : Nat) (f : SfuF)
  | lut (c : Nat) (f : SfuF)
  | lutLd (c : Nat) (vs : SReg)
  | lutCommit (c : Nat)
  | mov (c : Nat) (f : MovF)
  | haspAdd (c : Nat) (rh : SReg) (rv : SReg) (scope : Scope)
  | haspWait (c : Nat) (rh : SReg) (rv : SReg) (scope : Scope) (wh : Bool)
  | haspSet (c : Nat) (rh : SReg) (rv : SReg) (scope : Scope)
  | haspReset (c : Nat) (rh : SReg) (scope : Scope)
  | fenceC (c : Nat)
  | fenceP (c : Nat)
  | fenceS (c : Nat)
  | frontEndPrepare (c : Nat) (va : U64)
  | preIssue (c : Nat) (va : U64)
  | moverCommandStart (c : Nat) (m : Nat)
  | moverDataResponse (c : Nat) (m : Nat) (id : Nat) (piece : Nat)
  | moverCommandComplete (c : Nat) (m : Nat) (id : Nat)
  | cluLandzWrite (ag : Agent) (c : Nat) (z : Nat) (w : RegW)
  | landzWriteApply (c : Nat)
  | haspOpRelease (c : Nat)
  | haspBankApply (q : Nat) (i : Nat)
  | haspWaitTimeout (c : Nat) (id : Nat)
  | hspOpAdd (q : Nat) (index : BitVec 12) (value : BitVec 48)
  | hspOpSet (q : Nat) (index : BitVec 12) (value : BitVec 48)
  | hspOpReset (q : Nat) (index : BitVec 12)
  | hspRop (ag : Agent) (q : Nat) (hasp : BitVec 14) (dev : BitVec 6) (value : BitVec 42)
  | hspNcfgWrite (q : Nat) (n : Nat) (w : RegW)
  | hspNthrWrite (q : Nat) (n : Nat) (w : RegW)
  | hartLoad (h : Nat) (a : HartLd)
  | hartStore (h : Nat) (a : HartSt)
  | hartAmo (h : Nat) (a : HartAmoF)
  | hartFence (h : Nat) (pred : BitVec 4) (succ : BitVec 4)
  | fencePod (h : Nat)
  | cboClean (h : Nat) (pa : Nat) (va : U64)
  | cboFlush (h : Nat) (pa : Nat) (va : U64)
  | cboInval (h : Nat) (pa : Nat) (va : U64) (cbie : Bool)
  | cboZero (h : Nat) (pa : Nat) (va : U64)
  | gets (agent : Nat) (line : Nat)
  | getm (agent : Nat) (line : Nat)
  | puts (agent : Nat) (line : Nat)
  | putf (agent : Nat) (line : Nat)
  | pute (agent : Nat) (line : Nat)
  | putm (agent : Nat) (line : Nat) (keep : Bool) (data : LineData) (poison : Bool)
  | readonce (req : Nat) (line : Nat)
  | writefull (req : Nat) (line : Nat) (mask : BitVec 128) (data : LineData) (poison : Bool)
  | atomic (req : Nat) (addr : Nat) (op : AmoOp) (operand : U64) (compare : U64)
  | homeRequestResume (home : Nat) (line : Nat)
  | fwdgets (agent : Nat) (line : Nat) (req : Nat) (once : Bool)
  | fwdgetm (agent : Nat) (line : Nat) (req : Nat)
  | inv (agent : Nat) (line : Nat)
  | backinv (agent : Nat) (line : Nat)
  | invack (agent : Nat) (line : Nat)
  | wback (agent : Nat) (line : Nat)
  | data (src : Nat) (dst : Nat) (line : Nat) (data : LineData) (poison : Bool)
  | datae (agent : Nat) (line : Nat) (data : LineData) (poison : Bool)
  | dataf (agent : Nat) (line : Nat) (data : LineData) (poison : Bool)
  | cluLcctlWrite (c : Nat) (w : RegW)
  | xltInvalSpace (q : Nat) (w : RegW)
  | invalidationComplete (id : Nat)
  | walkEntryRead (q : Nat) (space : Nat) (va : U64)
  | spaceSet (mb : Nat)
  | spaceInval (mb : Nat)
  | spaceGet (mb : Nat)
  | relocate (mb : Nat)
  | setShelfSplit (mb : Nat)
  | setScPolicy (mb : Nat)
  | flashRead (id : Nat) (served : FlashServe)
  | flashReadTimeout (id : Nat)
  | flashBackgroundRelocate (block : Nat)
  | flashCounterSave
  | flashScrub (block : Nat) (bad : Bool)
  | flashDeferEnd
  | imageEraseDone (image : Nat)
  | patrolScrub (line : Nat) (found : ScrubResult)
  | fabricFrameReceive (port : Nat) (f : Frame)
  | fabricPortTrain (port : Nat) (ok : Bool)
  | fabricTrainRetry (port : Nat)
  | frameAckTimeout (port : Nat)
  | frameReplayLimit (port : Nat)
  | fecLockLoss (port : Nat)
  | linkGroupJoin (port : Nat)
  | writePacket (port : Nat) (p : Packet)
  | readPacket (port : Nat) (p : Packet)
  | atomicPacket (port : Nat) (p : Packet)
  | haspAddPacket (port : Nat) (p : Packet)
  | readResp (port : Nat) (p : Packet)
  | remoteTimeout (tag : Nat)
  | hello (port : Nat) (i : HelloInfo)
  | helloTimer (port : Nat)
  | relayCmd (port : Nat) (p : Packet) (r : RelayInfo)
  | relayRsp (port : Nat) (p : Packet)
  | relayResendTimer (mseq : BitVec 32)
  | config (port : Nat) (p : Packet) (r : PodRecord)
  | configAck (port : Nat) (p : Packet)
  | ping (port : Nat) (p : Packet)
  | fabPctlRetrain (port : Nat)
  | fabPctlClrCnt (port : Nat)
  | fabPctlDisable (port : Nat) (v : Bool)
  | pcieWrite (f : PcieReq) (data : Bytes) (ro : Bool) (ep : Bool)
  | pcieRead (f : PcieReq) (len : Nat)
  | pcieCompletionTimeout (h : Nat)
  | rdmaWriteReceive (r : RdmaReq) (data : Bytes)
  | rdmaAckReceive (id : Nat)
  | ethLinkChange (e : Nat) (up : Bool)
  | tmbDb (ag : Agent) (mb : Nat) (w : RegW)
  | doorbellStale (mb : Nat)
  | commandComplete (mb : Nat)
  | commandTimeout (mb : Nat)
  | tmbWcfgWrite (ag : Agent) (mb : Nat) (w : RegW)
  | tmbEvptrWrite (ag : Agent) (mb : Nat) (w : RegW)
  | getCaps (mb : Nat)
  | getTopology (mb : Nat)
  | getStatus (mb : Nat)
  | setDstate (mb : Nat)
  | setPowerCap (mb : Nat)
  | setRampTable (mb : Nat)
  | setHbmMap (mb : Nat)
  | setPcieWidth (mb : Nat)
  | getClocks (mb : Nat)
  | setFixedFreq (mb : Nat)
  | clearFixedFreq (mb : Nat)
  | setBoost (mb : Nat)
  | wqAbort (mb : Nat)
  | wqStatus (mb : Nat)
  | imgList (mb : Nat)
  | imgCreate (mb : Nat)
  | imgWrite (mb : Nat)
  | imgSeal (mb : Nat)
  | imgErase (mb : Nat)
  | fltDefer (mb : Nat)
  | podNeighbours (mb : Nat)
  | podConfigure (mb : Nat)
  | podCheck (mb : Nat)
  | podRelay (mb : Nat)
  | getMeasurements (mb : Nat)
  | attestQuote (mb : Nat)
  | ownerEnroll (mb : Nat)
  | fwStage (mb : Nat)
  | fwActivate (mb : Nat)
  | debugChallenge (mb : Nat)
  | debugUnlock (mb : Nat)
  | mbAssign (mb : Nat)
  | errRead (mb : Nat)
  | errClear (mb : Nat)
  | logRead (mb : Nat)
  | resetDevice (mb : Nat)
  | resetHost (mb : Nat)
  | resetQuadrant (mb : Nat)
  | reattach (mb : Nat)
  | energyRead (mb : Nat)
  | telemRead (mb : Nat)
  | eventMask (mb : Nat)
  | dirRead (mb : Nat)
  | regPeek (mb : Nat)
  | rootSlewStart
  | powerWindow (r : WindowReading)
  | rampWindow (region : Nat) (demand : BitVec 8)
  | droopDetect (region : Nat)
  | droopRecover (region : Nat)
  | thermalSensorReading (sensor : Nat) (temp : BitVec 12)
  | thermalTrip (sensor : Nat)
  | railOvercurrent (q : Nat)
  | railOvercurrentRelease (q : Nat)
  | vinPeakTimeout
  | estimatorCalibrated
  | energyUpdate (e : EnergyReading)
  | thmClrMax (sensor : Nat) (w : RegW)
  | bootWatchdog
  | hartFwConfirm
  | remoteSessionOpen (certOk : Bool)
  | remoteSessionRequest (slot : BitVec 512) (body : Bytes)
  | remoteSessionTimeout
  | correctedError (e : ErrInfo)
  | uncorrectableError (e : ErrInfo)
  | pwrEnRise
  | pwrEnFall
  | modRstNFall
  | modRstNRise
  | vinRise
  | vinDip (mv : Nat)
  | vinLoss
  | vinOvervoltage
  | vsbLoss
  | refclkLoss
  | railOutOfRegulation (rail : Nat)
  | smbWriteWord (word : BitVec 16) (pec : Bool)
  | smbBlockWrite (data : Bytes) (pec : Bool)
  | smbProcessCall (n : Nat) (pec : Bool)
  | smbAlertResponse
  | rootSlewEnd
  | engineOperationEnd (c : Nat) (e : Nat)
  | storeAcknowledged (c : Nat) (id : Nat)
  | pcieCompletion (h : Nat) (data : U64) (ok : Bool)
  | rdmaReadReceive (r : RdmaReq) (len : Nat)
  | rdmaWriteTimeout (id : Nat)
  | intxPinChange (p : Nat) (i : Nat) (level : Bool)
  deriving DecidableEq, Repr

end Sys2Proof
end

