-- ==== Sys2Proof/Decode.lean ====
section
/-! DEFINITION. Command words. No row of spec/opcode_table.json gives bits to a command (every
"fields" list is empty), so no word spells a command. -/

namespace Sys2Proof

/-- The command a table word spells: none, for every word. -/
def decodeTableWord (_nbits _w : Nat) : Option Instr := none

end Sys2Proof
end

