-- ==== Sys2Proof/Config.lean ====
section
/-! DEFINITION. What the spec leaves open, as constants without a body: no proof can see a value of
theirs. -/

namespace Sys2Proof.Config

/-- The free bits of notes/assumptions/3.md: each value the spec leaves undefined is this constant
applied to a fresh number. -/
opaque freeBits : Nat → U64

/-- The set of a slice of the L3 that a line falls in (15_host_die.md R440, R441; notes/assumptions/107.md). -/
opaque l3Set : Nat → Nat

/-- The offset, in the block of an Ethernet port, of the register that holds the base of its connection table
(15_host_die.md R452; notes/assumptions/14.md). -/
opaque ethTableOffset : Nat

/-- The reduced argument at which an SFU function first gives a result, where 07_special_functions.md R229 and R234 only
bound it: function code, `PREC`, FP32 code of the result; the value i / 2^n (notes/assumptions/22.md). -/
opaque sfuEdge : Nat → Bool → Nat → Int × Nat

/-- The bits `SIN` or `COS` gives where R229 only bounds them: function code, `PREC`, FP32 code of the argument reduced
to a turn (notes/assumptions/22.md). -/
opaque sfuBits : Nat → Bool → Nat → BitVec 32

/-- Key identifiers of 18_boot_and_security.md R504: the Caerlis root, provisioning and debug keys, and the
module's identity key (notes/assumptions/30.md). -/
opaque rootKey : U64
opaque provisioningKey : U64
opaque debugKey : U64
opaque identityKey : U64

/-- ECDSA P-521 verification of a signature of 132 bytes over a message under the key of an identifier
(R504; notes/assumptions/30.md). -/
opaque sigOk : U64 → Bytes → Bytes → Bool

/-- The signature of the identity key over a message (R515), and the DER identity certificate (R512). -/
opaque identitySign : Bytes → BitVec 1056
opaque identityCert : Bytes

/-- The boot ROM (R513). -/
opaque bootRom : Bytes

/-- Outcome of the IOMMU for a request of a device: device ID, PASID, untranslated address and whether it
writes; the translated physical address, or none for a fault (15_host_die.md R448; notes/assumptions/31.md). -/
opaque iommu : Nat → BitVec 20 → U64 → Bool → Option Nat

end Sys2Proof.Config
end

