-- ==== Sys2Proof/Machine/StateLink.lean ====
section
/-! DEFINITION. State of the hinges and of discovery (01_package_and_hinges.md).

Sides are numbered 0-3 for the host die's ports and 4 + 3q + h for hinge h of the base die of seat
q. Hinges are numbered 0-3 for the host hinges of seats 0-3, 4 for 0-1, 5 for 2-3, 6 for 0-2 and
7 for 1-3. -/

namespace Sys2Proof.Machine

/-- Hinge states in the order of their codes (R36). -/
inductive HState where
  | off | clock | deskew | pattern | widthSet | confirm | active | failed
  deriving DecidableEq, Repr

/-- A flit in a replay buffer (R32, R41): the flit as sent, the message it ends (on its `TAIL`
flit), and whether an `ACK` has covered it. -/
structure TxFlit where
  flit : Flit
  ends : Option NetMsg
  acked : Bool
  deriving DecidableEq, Repr

/-- A flit waiting for its turn on a bundle: type, sideband marks and data (R26). -/
structure RawFlit where
  typ : BitVec 4
  head : Bool
  tail : Bool
  cls : BitVec 2
  data : BitVec 512
  ends : Option NetMsg
  deriving DecidableEq, Repr

/-- One bundle seen from one side: what it sends on bundle n and what it receives on the paired
bundle n (R21, R31-R33). -/
structure Bundle where
  txSeq : BitVec 8
  replay : List TxFlit
  queue : List RawFlit
  rxSeq : BitVec 8
  discarding : Bool
  part : List (BitVec 512)
  deriving DecidableEq, Repr

/-- A bundle before its first flit: the first sequenced flit takes `SEQ` 0 (R41;
notes/assumptions/6.md). -/
def Bundle.reset : Bundle :=
  { txSeq := 0xFF, replay := [], queue := [], rxSeq := 0xFF, discarding := false, part := [] }

/-- A message handed to the mesh of the receiving die (R24, R30). -/
structure Delivered where
  side : Nat
  cls : BitVec 2
  body : List (BitVec 512)
  deriving DecidableEq, Repr

/-- One side of a hinge (R36-R45, R56-R58). -/
structure Side where
  st : HState
  /-- Width in use, or adopted in this attempt: half. -/
  half : Bool
  /-- Width before the retrain under way, once the hinge has been ACTIVE (R41). -/
  before : Option Bool
  failCount : BitVec 2
  passMap : BitVec 16
  /-- This side makes an abbreviated attempt (R44). -/
  short : Bool
  /-- This side was reset and trains with a peer that was not (R44). -/
  fresh : Bool
  /-- The next attempt is full on both sides (R45). -/
  forceFull : Bool
  /-- A retrain is requested and has not begun. -/
  wanted : Bool
  /-- An attempt failed and the next has not begun (R39). -/
  waiting : Bool
  crcErr : BitVec 16
  replays : BitVec 16
  retrains : BitVec 16
  bundles : SMap Bundle
  /-- Messages that reached the hinge while it could not carry them (R40). -/
  held : List NetMsg
  /-- The discovery record last received on this side (R52). -/
  peer : Option (BitVec 512)
  deriving DecidableEq, Repr

/-- A side of an unpowered hinge (R56 reset values). -/
def Side.reset : Side :=
  { st := .off, half := false, before := none, failCount := 0, passMap := 0, short := false,
    fresh := false, forceFull := false, wanted := false, waiting := false, crcErr := 0,
    replays := 0, retrains := 0, bundles := [], held := [], peer := none }

/-- The hinges of the package and discovery. -/
structure Links where
  sides : SMap Side
  /-- Flits sent and not yet received: receiving side, bundle and flit, oldest first. -/
  wire : List (Nat × (Nat × Flit))
  /-- Messages delivered, oldest first. -/
  mesh : List Delivered
  /-- Messages that completed with `LINK_LOST` (R47). -/
  lost : List NetMsg
  /-- Nonces of dies 0-3 (base dies) and 4 (host die), drawn at reset (R52). -/
  nonces : SMap U64
  /-- Discovery is open (R51). -/
  discOpen : Bool
  /-- Records at the Tumbler: receiving side and record (R52). -/
  records : List (Nat × BitVec 512)
  /-- Quadrants that repeat discovery after a quadrant reset (R55). -/
  rediscover : List Nat
  /-- Messages of a diagonal pair held at their source seat, with that seat, while the only seat they may pass is
  under a quadrant reset (R46). -/
  diag : List (Nat × NetMsg)
  /-- Discovery records of hinges 1 and 2 that a base die holds until its hinge 0 is `ACTIVE` (R52): receiving side
  and record. -/
  discHeld : List (Nat × BitVec 512)
  deriving DecidableEq, Repr

/-- No hinge powered. -/
def Links.reset : Links :=
  { sides := [], wire := [], mesh := [], lost := [], nonces := [], discOpen := false,
    records := [], rediscover := [], diag := [], discHeld := [] }

end Sys2Proof.Machine
end

