-- ==== Sys2Proof/Machine/Table.lean ====
section
/-! DEFINITION. Sparse tables: reading, writing and their canonical form, and byte, bit-field and
list helpers shared by every family. -/

namespace Sys2Proof.Machine

/-- The value a table holds under key `k`; an unlisted key holds `d`. -/
def tblGet {α : Type} (d : α) : SMap α → Nat → α
  | [], _ => d
  | (j, v) :: r, k => if j = k then v else tblGet d r k

/-- The table without key `k`. -/
def tblDel {α : Type} : SMap α → Nat → SMap α
  | [], _ => []
  | (j, w) :: r, k => if j = k then tblDel r k else (j, w) :: tblDel r k

/-- The table with an entry put before the first greater key. -/
def tblIns {α : Type} : SMap α → Nat → α → SMap α
  | [], k, v => [(k, v)]
  | (j, w) :: r, k, v => if k < j then (k, v) :: (j, w) :: r else (j, w) :: tblIns r k v

/-- The table with value `v` under key `k`. Writing the default removes the entry. -/
def tblPut {α : Type} [DecidableEq α] (d : α) (m : SMap α) (k : Nat) (v : α) : SMap α :=
  if v = d then tblDel m k else tblIns (tblDel m k) k v

/-- The table with the value under `k` changed by `f`. -/
def tblMod {α : Type} [DecidableEq α] (d : α) (m : SMap α) (k : Nat) (f : α → α) : SMap α :=
  tblPut d m k (f (tblGet d m k))

/-- Canonical form, for keys of at least `lo`: keys strictly rising, no default listed. -/
def tblWfFrom {α : Type} [DecidableEq α] (d : α) : Nat → SMap α → Bool
  | _, [] => true
  | lo, (j, v) :: r => decide (lo ≤ j) && (decide (v ≠ d) && tblWfFrom d (j + 1) r)

/-- Canonical form of a table. -/
def tblWf {α : Type} [DecidableEq α] (d : α) (m : SMap α) : Bool := tblWfFrom d 0 m

/-- The numbers `a, a + 1, ..., a + n - 1`. -/
def span (a n : Nat) : List Nat := (List.range n).map (a + ·)

/-- Bit `i` of a number. -/
def bitOf (x i : Nat) : Bool := x.testBit i

/-- Bits `[lo + w - 1 : lo]` of a number. -/
def bitsOf (x lo w : Nat) : Nat := x / 2 ^ lo % 2 ^ w

/-- A truth value as a number. -/
def boolNat (b : Bool) : Nat := if b then 1 else 0

/-- A truth value as one bit. -/
def boolBit (b : Bool) : BitVec 1 := if b then 1 else 0

/-- `n` bytes of a number, lowest first (little-endian, 00_scope.md R16). -/
def toBytes : Nat → Nat → Bytes
  | 0, _ => []
  | n + 1, x => BitVec.ofNat 8 x :: toBytes n (x / 256)

/-- The number that bytes spell, lowest first. -/
def ofBytes : Bytes → Nat
  | [] => 0
  | b :: r => b.toNat + 256 * ofBytes r

/-- The list with entry `i` replaced. -/
def setNth {α : Type} : List α → Nat → α → List α
  | [], _, _ => []
  | _ :: r, 0, v => v :: r
  | x :: r, i + 1, v => x :: setNth r i v

/-- A saturating increment of a `w`-bit counter by `n`. -/
def satAdd {w : Nat} (x : BitVec w) (n : Nat) : BitVec w :=
  if x.toNat + n < 2 ^ w then BitVec.ofNat w (x.toNat + n) else BitVec.allOnes w


/-- The bits of a register that a write addresses, as a mask: a half write leaves the other half
alone (02_address_map.md R76). -/
def regMask (w : RegW) : U64 :=
  match w.part with
  | .full => 0xFFFFFFFFFFFFFFFF
  | .low => 0x00000000FFFFFFFF
  | .high => 0xFFFFFFFF00000000

/-- The written value in its place in the register: the data of a write to the high half lies in
bits [63:32]. -/
def regBits (w : RegW) : U64 :=
  match w.part with
  | .full => w.val
  | .low => w.val &&& 0xFFFFFFFF
  | .high => w.val <<< 32

/-- A read-write register after a write: the addressed half takes the written bits. -/
def regMerge (old : U64) (w : RegW) : U64 :=
  (old &&& ~~~regMask w) ||| (regBits w &&& regMask w)

/-- Whether a write sets bit `i` of its register (W1C and W1S bits, R76). -/
def regSets (w : RegW) (i : Nat) : Bool := (regBits w &&& regMask w).getLsbD i

end Sys2Proof.Machine
end

