-- ==== Sys2Proof/Machine/LinkOps.lean ====
section
/-! DEFINITION. Hinge link layer, training and discovery checks as functions of `Links`
(01_package_and_hinges.md). -/

namespace Sys2Proof.Machine

/-! ## Numbering -/

/-- Hinge of a side. -/
def hingeOf (s : Nat) : Nat :=
  if s < 4 then s
  else
    let q := (s - 4) / 3
    match (s - 4) % 3 with
    | 0 => q
    | 1 => if q < 2 then 4 else 5
    | _ => if q % 2 = 0 then 6 else 7

/-- Base-die side of hinge index `h` at seat `q` (R20). -/
def baseSide (q h : Nat) : Nat := 4 + 3 * q + h

/-- The authoritative side of a hinge (R43): the base die of a host hinge, the lower seat of
another. -/
def authSide (h : Nat) : Nat :=
  match h with
  | 4 => baseSide 0 1
  | 5 => baseSide 2 1
  | 6 => baseSide 0 2
  | 7 => baseSide 1 2
  | q => baseSide q 0

/-- The other side of a hinge. -/
def subSide (h : Nat) : Nat :=
  match h with
  | 4 => baseSide 1 1
  | 5 => baseSide 3 1
  | 6 => baseSide 2 2
  | 7 => baseSide 3 2
  | q => q

/-- The side at the other end of the hinge. -/
def peerSide (s : Nat) : Nat := if authSide (hingeOf s) = s then subSide (hingeOf s) else authSide (hingeOf s)

/-- The die of a side: 0-3 a base die, 4 the host die. -/
def dieOf (s : Nat) : Nat := if s < 4 then 4 else (s - 4) / 3

/-- Bundles of a hinge in each direction (R21). -/
def bundleCount (h : Nat) : Nat := if h < 4 then 8 else 16

/-! ## Flits -/

/-- One bit of the reflected CRC-32C division (R28). -/
def crcBit (c : BitVec 32) : BitVec 32 :=
  if c.getLsbD 0 then (c >>> 1) ^^^ 0x82F63B78 else c >>> 1

/-- One byte of CRC-32C. -/
def crcByte (c : BitVec 32) (b : Byte) : BitVec 32 :=
  crcBit (crcBit (crcBit (crcBit (crcBit (crcBit (crcBit (crcBit (c ^^^ b.setWidth 32))))))))

/-- CRC-32C of a run of bytes (R28). -/
def crc32c (bs : Bytes) : BitVec 32 := ~~~(bs.foldl crcByte 0xFFFFFFFF)

/-- Flit fields (R26). -/
def flitType (f : Flit) : BitVec 4 := f.side.extractLsb' 0 4
def flitHead (f : Flit) : Bool := f.side.getLsbD 4
def flitTail (f : Flit) : Bool := f.side.getLsbD 5
def flitClass (f : Flit) : BitVec 2 := f.side.extractLsb' 6 2
def flitCrc (f : Flit) : BitVec 32 := f.side.extractLsb' 16 32
def flitSeq (f : Flit) : BitVec 8 := f.side.extractLsb' 48 8
def flitAck (f : Flit) : BitVec 8 := f.side.extractLsb' 56 8

/-- The 68 bytes the CRC of a flit covers, in order (R28). -/
def flitCrcBytes (data : BitVec 512) (lo16 : BitVec 16) (seq ack : BitVec 8) : Bytes :=
  toBytes 64 data.toNat ++ toBytes 2 lo16.toNat ++ [seq, ack]

/-- A flit with its CRC (R26, R28). -/
def mkFlit (typ : BitVec 4) (head tail : Bool) (cls : BitVec 2) (data : BitVec 512)
    (seq ack : BitVec 8) : Flit :=
  let lo16 : BitVec 16 := (0 : BitVec 8) ++ cls ++ boolBit tail ++ boolBit head ++ typ
  { data := data, side := ack ++ seq ++ crc32c (flitCrcBytes data lo16 seq ack) ++ lo16 }

/-- Whether a received flit's CRC holds (R33). -/
def flitGood (f : Flit) : Bool :=
  flitCrc f = crc32c (flitCrcBytes f.data (f.side.extractLsb' 0 16) (flitSeq f) (flitAck f))

/-- Flit types that are sequenced: `MSG` and `DISC` (R27). -/
def typeSequenced (t : BitVec 4) : Bool := t = 1 || t = 2

/-! ## Access -/

/-- Side `n`. -/
def Links.side (l : Links) (n : Nat) : Side := tblGet Side.reset l.sides n

/-- The links with side `n` changed. -/
def Links.updSide (l : Links) (n : Nat) (f : Side → Side) : Links :=
  { l with sides := tblMod Side.reset l.sides n f }

/-- Both sides of a hinge changed. -/
def Links.updHinge (l : Links) (h : Nat) (f : Side → Side) : Links :=
  (l.updSide (authSide h) f).updSide (subSide h) f

/-- Bundle `b` of a side. -/
def Side.bundle (s : Side) (b : Nat) : Bundle := tblGet Bundle.reset s.bundles b

/-- The side with bundle `b` changed. -/
def Side.updBundle (s : Side) (b : Nat) (f : Bundle → Bundle) : Side :=
  { s with bundles := tblMod Bundle.reset s.bundles b f }

/-- State of a hinge: that of its authoritative side, and once that side is `ACTIVE`, that of the other, so that
a hinge is `ACTIVE` when both its sides are (R36). -/
def Links.hingeState (l : Links) (h : Nat) : HState :=
  if (l.side (authSide h)).st = .active then (l.side (subSide h)).st else (l.side (authSide h)).st

/-! ## Bundle selection -/

/-- Active bundle i as a bundle number: i at full width, 2i at half width (R29). -/
def activeBundle (half : Bool) (i : Nat) : Nat := if half then 2 * i else i

/-- log2 of the bundles in use in one direction (R23, R29). -/
def widthLog (h : Nat) (half : Bool) : Nat := (if h < 4 then 3 else 4) - boolNat half

/-- The bundle a message goes on (R29). -/
def bundleFor (h : Nat) (half : Bool) (k : MsgKey) : Nat :=
  let b := widthLog h half
  match k with
  | .line pa => activeBundle half (bitsOf pa 7 b ^^^ bitsOf pa (7 + b) b)
  | .hasp id => activeBundle half (bitsOf id.toNat 0 b)
  | .other => activeBundle half 0

/-! ## Sending -/

/-- A message as flits: `HEAD` on the first, `TAIL` on the last (R26). -/
def msgFlits (m : NetMsg) : List RawFlit :=
  let n := m.body.length
  m.body.mapIdx (fun i d =>
    { typ := 1, head := i = 0, tail := i + 1 = n, cls := m.cls, data := d,
      ends := if i + 1 = n then some m else none })

/-- Sequenced flits not yet acknowledged on a bundle (R32). -/
def Bundle.unacked (b : Bundle) : Nat := (b.replay.filter (fun t => !t.acked)).length

/-- Flits sent from a bundle's queue while fewer than 128 are unacknowledged, and an `IDLE` flit in place of the
next with 128 unacknowledged (R31, R32): the bundle after, and the flits put on the wire. The `IDLE` flits of cycles
in which a bundle has nothing to send are not put on the wire (notes/assumptions/100.md). -/
def pump : List RawFlit → Bundle → Bundle × List Flit
  | [], b => ({ b with queue := [] }, [])
  | r :: rs, b =>
    if b.unacked < 128 then
      let seq := b.txSeq + 1
      let f := mkFlit r.typ r.head r.tail r.cls r.data seq b.rxSeq
      let (b', fs) := pump rs { b with
        txSeq := seq, replay := b.replay ++ [{ flit := f, ends := r.ends, acked := false }] }
      (b', f :: fs)
    else ({ b with queue := r :: rs }, [mkFlit 0 false false 0 0 b.txSeq b.rxSeq])

/-- Flits put on the wire towards the peer of side `n`. -/
def Links.emit (l : Links) (n b : Nat) (fs : List Flit) : Links :=
  { l with wire := l.wire ++ fs.map (fun f => (peerSide n, (b, f))) }

/-- An unsequenced flit sent on bundle `b` (R31). -/
def Links.emitPlain (l : Links) (n b : Nat) (typ : BitVec 4) (data : BitVec 512) : Links :=
  let bu := (l.side n).bundle b
  l.emit n b [mkFlit typ false false 0 data bu.txSeq bu.rxSeq]

/-- Bundle `b` of side `n` sends what it can. -/
def Links.pumpBundle (l : Links) (n b : Nat) : Links :=
  let bu := (l.side n).bundle b
  let (bu', fs) := pump bu.queue bu
  (l.updSide n (·.updBundle b (fun _ => bu'))).emit n b fs

/-- A flit queued on a bundle and sent when there is room. -/
def Links.queueFlits (l : Links) (n b : Nat) (rs : List RawFlit) : Links :=
  (l.updSide n (·.updBundle b (fun bu => { bu with queue := bu.queue ++ rs }))).pumpBundle n b

/-- A message sent on an ACTIVE side (R29, R32). -/
def Links.sendActive (l : Links) (n : Nat) (m : NetMsg) : Links :=
  l.queueFlits n (bundleFor (hingeOf n) (l.side n).half m.key) (msgFlits m)

/-- A message handed to side `n`: sent when the hinge is ACTIVE, lost when it is FAILED (R47), held
otherwise (R40). -/
def Links.send (l : Links) (n : Nat) (m : NetMsg) : Links :=
  match l.hingeState (hingeOf n) with
  | .active => l.sendActive n m
  | .failed => { l with lost := l.lost ++ [m] }
  | _ => l.updSide n (fun s => { s with held := s.held ++ [m] })

/-! ## Receiving -/

/-- The flits of a replay buffer up to and with `SEQ` a marked acknowledged; none when no flit
carries it. -/
def ackUpTo (a : BitVec 8) (ts : List TxFlit) : List TxFlit :=
  if ts.any (fun t => !t.acked && flitSeq t.flit = a) then
    let i := ts.findIdx (fun t => !t.acked && flitSeq t.flit = a)
    ts.mapIdx (fun j t => if j ≤ i then { t with acked := true } else t)
  else ts

/-- The replay buffer without the flits of messages whose `TAIL` is acknowledged (R41): a flit that
ends no message is dropped when the flit that ends its message is. -/
def dropAcked (ts : List TxFlit) : List TxFlit :=
  let n := (ts.mapIdx (fun i t =>
    if t.acked && (t.ends.isSome || flitType t.flit = 2) then i + 1 else 0)).foldl max 0
  ts.drop n

/-- A bundle whose replay buffer takes a cumulative acknowledgement (R32). -/
def Bundle.ack (a : BitVec 8) (bu : Bundle) : Bundle := { bu with replay := dropAcked (ackUpTo a bu.replay) }

/-- A cumulative acknowledgement for bundle `b` of side `n` (R32). -/
def Links.takeAck (l : Links) (n b : Nat) (a : BitVec 8) : Links :=
  (l.updSide n (·.updBundle b (·.ack a))).pumpBundle n b

/-- The flits of a bundle that no acknowledgement covers sent again, in their order (R33, R36). A copy is the flit as it
was first sent, so it carries the `ACK` of that time (notes/assumptions/101.md). -/
def Links.resend (l : Links) (n b : Nat) : Links :=
  l.emit n b ((((l.side n).bundle b).replay.filter (fun t => !t.acked)).map (·.flit))

/-- A `REPLAY` for bundle `b` of side `n` (R33): what `ACK` covers is acknowledged, what follows is sent again, and new
flits follow the replayed ones. -/
def Links.takeReplay (l : Links) (n b : Nat) (a : BitVec 8) : Links :=
  ((l.updSide n (·.updBundle b (·.ack a))).resend n b).pumpBundle n b

/-- The first flit in flight to bundle `b` of side `n` has arrived. -/
def dropWire (n b : Nat) : List (Nat × (Nat × Flit)) → List (Nat × (Nat × Flit))
  | [] => []
  | x :: r => if x.1 = n ∧ x.2.1 = b then r else x :: dropWire n b r

/-- A side asks for a retrain of its hinge (R34, R35): its `RETRAIN` flit asks the peer. -/
def Links.wantRetrain (l : Links) (n b : Nat) : Links :=
  if (l.side n).st = .active then
    (l.updSide n (fun s => { s with wanted := true })).emitPlain n b 4 0
  else l

/-- A flit with a failed CRC (R33): counted, and a `REPLAY` sent on the paired bundle. -/
def Links.badCrc (l : Links) (n b : Nat) : Links :=
  (l.updSide n (fun s => { s.updBundle b (fun bu => { bu with discarding := true }) with
      crcErr := satAdd s.crcErr 1, replays := satAdd s.replays 1 })).emitPlain n b 5 0

/-- A `MSG` flit accepted in sequence: its data joins the message, which is delivered with its
`TAIL` (R30, R41). -/
def Links.takeMsg (l : Links) (n b : Nat) (f : Flit) : Links :=
  let part := (if flitHead f then [] else ((l.side n).bundle b).part) ++ [f.data]
  let l1 := l.updSide n (·.updBundle b (fun bu =>
    { bu with rxSeq := flitSeq f, discarding := false, part := if flitTail f then [] else part }))
  if flitTail f then { l1 with mesh := l1.mesh ++ [{ side := n, cls := flitClass f, body := part }] }
  else l1

/-- A record reaches the Tumbler while discovery is open or repeated (R52, R55). -/
def Links.fileDisc (l : Links) (n : Nat) (d : BitVec 512) : Links :=
  if l.discOpen || !l.rediscover.isEmpty then
    { l with records := l.records.filter (fun r => r.1 ≠ n) ++ [(n, d)] }
  else l

/-- A `DISC` flit accepted in sequence (R52): the record is kept. One of a host port reaches the Tumbler; one of hinge 1 or
2 of a base die reaches it over that die's hinge 0, and waits at the die while that hinge is not `ACTIVE`
(notes/assumptions/102.md). -/
def Links.takeDisc (l : Links) (n b : Nat) (f : Flit) : Links :=
  let l1 := l.updSide n (fun s => { s.updBundle b (fun bu =>
    { bu with rxSeq := flitSeq f, discarding := false }) with peer := some f.data })
  if n < 4 then l1.fileDisc n f.data
  else if (n - 4) % 3 = 0 then l1
  else if l.hingeState (dieOf n) = .active then l1.fileDisc n f.data
  else { l1 with discHeld := l1.discHeld.filter (fun r => r.1 ≠ n) ++ [(n, f.data)] }

/-- The records a base die holds go to the Tumbler when its hinge 0 is `ACTIVE` (R52). -/
def Links.flushDisc (l : Links) (h : Nat) : Links :=
  let mine (r : Nat × BitVec 512) : Bool := dieOf r.1 = h
  (l.discHeld.filter mine).foldl (fun l r => l.fileDisc r.1 r.2) { l with discHeld := l.discHeld.filter (fun r => !mine r) }

/-- A flit of the receiver's ACTIVE hinge (R33, R34): failed CRC, acknowledgement, protocol error,
or acceptance. -/
def Links.receive (l : Links) (n b : Nat) (f : Flit) : Links :=
  let l := { l with wire := dropWire n b l.wire }
  if !flitGood f then l.badCrc n b
  else if flitType f = 5 then l.takeReplay n b (flitAck f)
  else
    let l := l.takeAck n b (flitAck f)
    let bu := (l.side n).bundle b
    if typeSequenced (flitType f) then
      if flitSeq f = bu.rxSeq + 1 then
        if flitType f = 1 then l.takeMsg n b f else l.takeDisc n b f
      else if bu.discarding then l
      else l.wantRetrain n b
    else if 6 ≤ (flitType f).toNat then l.wantRetrain n b
    else if flitType f = 4 then l.updSide n (fun s => { s with wanted := true })
    else l

/-! ## Training -/

/-- The full pass map of a hinge. -/
def fullMap (h : Nat) : BitVec 16 := if h < 4 then 0x00FF else 0xFFFF

/-- The even bundles of a hinge. -/
def evenMap (h : Nat) : BitVec 16 := if h < 4 then 0x0055 else 0x5555

/-- The width a pass map allows: `some false` full, `some true` half, none (R38). -/
def mapWidth (h : Nat) (p : BitVec 16) : Option Bool :=
  if p &&& fullMap h = fullMap h then some false
  else if p &&& evenMap h = evenMap h then some true
  else none

/-- The width a side can hold in this attempt (R38), from the pass map of the last `PATTERN` its receivers ran: on a side that
makes an abbreviated attempt, the map it kept (R44; notes/assumptions/19.md). -/
def sideWidth (h : Nat) (s : Side) : Option Bool := mapWidth h s.passMap

/-- A WIDTH statement (R43). -/
def widthData (half phase short : Bool) (passMap : BitVec 16) : BitVec 512 :=
  (0 : BitVec 480) ++ passMap ++ (0 : BitVec 13) ++ boolBit short ++ boolBit phase ++ boolBit half

/-- A retrain attempt starts (R36): both sides enter CLOCK. A side that was not reset and whose peer
was makes an abbreviated attempt, unless the next attempt must be full (R44, R45). The hinge is then
not ACTIVE, and what it carried before is remembered for R41. Flits on its wires are gone: they stand in the replay
buffers. -/
def Links.startAttempt (l : Links) (h : Nat) : Links :=
  let a := l.side (authSide h)
  let b := l.side (subSide h)
  let start (s peer : Side) : Side := { s with
    st := .clock, waiting := false, wanted := false
    before := if s.st = .active then some s.half else s.before
    short := !s.fresh && peer.fresh && !s.forceFull
    forceFull := false
    retrains := satAdd s.retrains 1 }
  { (l.updSide (authSide h) (fun s => start s b)).updSide (subSide h) (fun s => start s a) with
    wire := l.wire.filter (fun w => hingeOf w.1 ≠ h) }

/-- Both sides of a hinge move from one training state to the next. -/
def Links.advance (l : Links) (h : Nat) (old new : HState) : Links :=
  if (l.side (authSide h)).st = old ∧ (l.side (subSide h)).st = old ∧
      !(l.side (authSide h)).waiting then
    l.updHinge h (fun s => { s with st := new })
  else l

/-- Messages a side carries over a change of width, in the order of the old bundles (R41). -/
def carried (s : Side) : List NetMsg :=
  (List.range 16).flatMap (fun b =>
    ((s.bundle b).replay.filter (fun t => !t.acked)).filterMap (·.ends) ++
      (s.bundle b).queue.filterMap (·.ends))

/-- A hinge side fails: every message it holds or carries is lost (R47). -/
def Links.failSide (l : Links) (n : Nat) : Links :=
  let s := l.side n
  { l.updSide n (fun s => { s with
      st := .failed, waiting := false, wanted := false, bundles := [], held := [] }) with
    lost := l.lost ++ carried s ++ s.held
    wire := l.wire.filter (fun w => hingeOf w.1 ≠ hingeOf n) }

/-- A hinge enters FAILED (R39, R54). -/
def Links.failHinge (l : Links) (h : Nat) : Links :=
  (l.failSide (authSide h)).failSide (subSide h)

/-- An attempt fails (R39): the failed-attempt count rises, and with the third consecutive failure
the hinge enters FAILED; until the next attempt starts `STATE` reads CLOCK. `full` asks for a full
next attempt on both sides (R45). The count of the authoritative side decides, where a quadrant reset has cleared the
other's; an attempt that reaches `ACTIVE` for less than 10 ms does not break a row of failures, for the count returns to
zero only after 10 ms (notes/assumptions/103.md). -/
def Links.failAttempt (l : Links) (h : Nat) (full : Bool) : Links :=
  let l1 := l.updHinge h (fun s => { s with
    failCount := s.failCount + 1, st := .clock, waiting := true, wanted := false,
    forceFull := s.forceFull || full })
  if (l1.side (authSide h)).failCount = 3 then l1.failHinge h else l1

/-- PATTERN ends (R37, R38): each side that tested its receivers records its pass map, and the
attempt fails when a side can hold no width; otherwise the sides settle the width, and the side that
speaks first in WIDTH_SET sends its statement (R44). The statements of WIDTH_SET go on bundle 0, and the statement that
brings the other side's pass map has `WIDTH` 0 (notes/assumptions/104.md). -/
def Links.patternDone (l : Links) (h : Nat) (pa pb : BitVec 16) : Links :=
  let upd (p : BitVec 16) (s : Side) : Side :=
    if s.short then s else { s with passMap := p &&& fullMap h }
  let l1 := (l.updSide (authSide h) (upd pa)).updSide (subSide h) (upd pb)
  let a := l1.side (authSide h)
  let b := l1.side (subSide h)
  if (sideWidth h a).isNone || (sideWidth h b).isNone then l1.failAttempt h false
  else
    let l2 := l1.updHinge h (fun s => { s with st := .widthSet })
    if a.short || b.short then
      let w := (sideWidth h a).getD true
      (l2.updSide (authSide h) (fun s => { s with half := w })).emitPlain (authSide h) 0 3
        (widthData w false a.short a.passMap)
    else l2.emitPlain (subSide h) 0 3 (widthData false false b.short b.passMap)

/-- A side enters CONFIRM and states the width it has adopted on each active bundle (R45). -/
def Links.enterConfirm (l : Links) (n : Nat) (half : Bool) : Links :=
  let l1 := l.updSide n (fun s => { s with st := .confirm, half := half })
  let s := l1.side n
  (List.range (2 ^ widthLog (hingeOf n) half)).foldl (fun l i =>
    l.emitPlain n (activeBundle half i) 3 (widthData half true s.short s.passMap)) l1

/-- What the other side has received is acknowledged on every bundle, so that no message is carried twice (R40, R41;
notes/assumptions/105.md). -/
def Links.syncAcks (l : Links) (n : Nat) : Links :=
  let p := l.side (peerSide n)
  (List.range 16).foldl (fun l b => l.updSide n (·.updBundle b (·.ack (p.bundle b).rxSeq))) l

/-- A side of a hinge that is `ACTIVE` again carries on (R40, R41): at an unchanged width the unacknowledged flits are sent
again; at a changed width partly received messages are discarded, sequence counts restart and the carried
messages are assigned anew; then the held messages follow. -/
def Links.resume (l : Links) (n : Nat) : Links :=
  let s := l.side n
  let l1 := l.updSide n (fun s => { s with held := [], short := false, fresh := false, before := some s.half })
  if s.before = some s.half then
    let l2 := (List.range 16).foldl (fun l b => (l.resend n b).pumpBundle n b) l1
    s.held.foldl (fun l m => l.sendActive n m) l2
  else
    let l2 := l1.updSide n (fun s => { s with bundles := [] })
    (carried s ++ s.held).foldl (fun l m => l.sendActive n m) l2

/-- A side goes `ACTIVE`; once both have, what the hinge holds goes on (R40, R41), and the records that wait for a host
hinge are sent (R52). -/
def Links.goActive (l : Links) (n : Nat) : Links :=
  let l1 := l.updSide n (fun s => { s with st := .active })
  if (l.side (peerSide n)).st = .active then
    ((((l1.syncAcks n).syncAcks (peerSide n)).resume (peerSide n)).resume n).flushDisc (hingeOf n)
  else l1

/-- A `WIDTH` flit received in WIDTH_SET (R43, R44). -/
def Links.widthSetFlit (l : Links) (n : Nat) (d : BitVec 512) : Links :=
  let h := hingeOf n
  let me := l.side n
  let peer := l.side (peerSide n)
  if me.short || peer.short then
    -- abbreviated attempt: the authoritative side announced; the other adopts the narrower width
    if n = subSide h then
      let w := d.getLsbD 0 || (sideWidth h me).getD true
      ((l.enterConfirm n w).enterConfirm (authSide h) (l.side (authSide h)).half)
    else l
  else if n = authSide h then
    -- full attempt: the pass map of the other side has arrived; announce what both maps allow
    match mapWidth h me.passMap, mapWidth h (d.extractLsb' 16 16) with
    | some x, some y =>
      (l.updSide n (fun s => { s with half := x || y })).emitPlain n 0 3
        (widthData (x || y) false false me.passMap)
    | _, _ => l.failAttempt h false
  else
    (l.enterConfirm n (d.getLsbD 0)).enterConfirm (authSide h) (l.side (authSide h)).half

/-- A `WIDTH` flit received in CONFIRM (R45): an equal statement makes this side ACTIVE; a different
one fails the attempt, and the next is full. -/
def Links.confirmFlit (l : Links) (n : Nat) (d : BitVec 512) : Links :=
  if d.getLsbD 0 = (l.side n).half then l.goActive n
  else l.failAttempt (hingeOf n) true

/-- A `WIDTH` flit received (R43-R45). -/
def Links.widthFlit (l : Links) (n b : Nat) (f : Flit) : Links :=
  let l := { l with wire := dropWire n b l.wire }
  if !flitGood f then l.badCrc n b
  else
    match (l.side n).st, f.data.getLsbD 1 with
    | .widthSet, false => l.widthSetFlit n f.data
    | .confirm, true => l.confirmFlit n f.data
    | _, _ => l

/-! ## Discovery -/

/-- Discovery record fields (R52). -/
def discType (d : BitVec 512) : BitVec 8 := d.extractLsb' 0 8
def discHinge (d : BitVec 512) : BitVec 4 := d.extractLsb' 8 4
def discEchoValid (d : BitVec 512) : Bool := d.getLsbD 24
def discNonce (d : BitVec 512) : U64 := d.extractLsb' 32 64
def discEcho (d : BitVec 512) : U64 := d.extractLsb' 96 64

/-- The hinge index of a side on its own die (R20, R52). -/
def sideIndex (n : Nat) : Nat := if n < 4 then n else (n - 4) % 3

/-- The record a side sends (R52). -/
def discRecord (l : Links) (n : Nat) : BitVec 512 :=
  let typ : BitVec 8 := if n < 4 then 1 else 2
  let nonce := tblGet 0 l.nonces (dieOf n)
  let (v, en, et, ei) : Bool × U64 × BitVec 8 × BitVec 4 :=
    match (l.side n).peer with
    | some d => (true, discNonce d, discType d, discHinge d)
    | none => (false, 0, 0, 0)
  (0 : BitVec 340) ++ ei ++ et ++ en ++ nonce ++ (0 : BitVec 7) ++ boolBit v ++
    (0x01 : BitVec 8) ++ (0 : BitVec 4) ++ BitVec.ofNat 4 (sideIndex n) ++ typ

/-- The sides of a die. -/
def sidesOf (die : Nat) : List Nat :=
  if die = 4 then [0, 1, 2, 3] else [baseSide die 0, baseSide die 1, baseSide die 2]

/-- A die sends a `DISC` flit on the lowest active bundle of each ACTIVE hinge (R51). -/
def Links.sendDisc (l : Links) (die : Nat) : Links :=
  (sidesOf die).foldl (fun l n =>
    if l.hingeState (hingeOf n) = .active then
      l.queueFlits n 0 [{ typ := 2, head := false, tail := false, cls := 0,
                          data := discRecord l n, ends := none }]
    else l) l

/-- The record the Tumbler holds for receiving side `n`. -/
def Links.recordAt (l : Links) (n : Nat) : Option (BitVec 512) :=
  (l.records.find? (fun r => r.1 = n)).map (·.2)

/-- Nonce that arrived on host port `q`: the nonce of the base die of seat `q` (R53). -/
def Links.seatNonce (l : Links) (q : Nat) : Option U64 := (l.recordAt q).map discNonce

/-- The check of a host hinge (R53): `DIE_TYPE` 0x02, `HINGE_IDX` 0, a nonce no other present port
carries, and no echo of the die's own nonce. -/
def Links.hostHingeOk (l : Links) (seats : List Nat) (q : Nat) : Bool :=
  match l.recordAt q with
  | none => false
  | some d => discType d = 2 && discHinge d = 0 &&
      seats.all (fun p => p = q || l.seatNonce p ≠ some (discNonce d)) &&
      !(discEchoValid d && discEcho d = discNonce d)

/-- One direction of the check of a base-to-base hinge (R53): the record received on side `n` comes
from the die whose nonce arrived on its host port, echoes the receiver's, and names the same hinge
index on both dies. -/
def Links.baseRecordOk (l : Links) (n : Nat) : Bool :=
  match l.recordAt n with
  | none => false
  | some d => discType d = 2 && (discHinge d).toNat = sideIndex n &&
      l.seatNonce (dieOf (peerSide n)) = some (discNonce d) && discEchoValid d &&
      l.seatNonce (dieOf n) = some (discEcho d) && discEcho d ≠ discNonce d

/-- Whether a hinge passes the checks of R53. -/
def Links.hingeOk (l : Links) (seats : List Nat) (h : Nat) : Bool :=
  if h < 4 then l.hostHingeOk seats h
  else l.baseRecordOk (authSide h) && l.baseRecordOk (subSide h)

/-- The seats a hinge touches. -/
def hingeSeats (h : Nat) : List Nat :=
  if h < 4 then [h] else [dieOf (authSide h), dieOf (subSide h)]

/-- The hinges that touch seat `q`. -/
def seatHinges (q : Nat) : List Nat := (List.range 8).filter (fun h => (hingeSeats h).contains q)

/-- The hinges of a module with these present seats (R3). -/
def presentHinges (seats : List Nat) : List Nat :=
  (List.range 8).filter (fun h => (hingeSeats h).all seats.contains)

end Sys2Proof.Machine
end

