-- ==== Sys2Proof/Machine/StateFabric.lean ====
section
/-! DEFINITION. State of the fabric ports and of the pod (14_fabric_and_pods.md). -/

namespace Sys2Proof.Machine

/-- Port states in the order of their codes (R414). -/
inductive PortState where
  | off | training | link | active | down
  deriving DecidableEq, Repr

/-- A packet that waits inside the module: the REFCLK cycles since it came in (R426). -/
structure Queued where
  pk : Packet
  age : Nat
  deriving DecidableEq, Repr

/-- One fabric port (R414-R417, R434): state, counters and link layer. -/
structure Port where
  st : PortState
  group : BitVec 4
  gvalid : Bool
  peerDev : BitVec 6
  peerPort : BitVec 4
  peerCfg : Bool
  retrains : BitVec 16
  fecUncorr : BitVec 16
  replaysReq : BitVec 16
  creditStall : BitVec 16
  disable : Bool
  /-- The peer's last `HELLO` (R430). -/
  hello : Option HelloInfo
  /-- `SEQ` of the last frame sent and of the last good frame received (R415). -/
  txSeq : BitVec 12
  rxSeq : BitVec 12
  /-- Frames sent and not acknowledged, oldest first (R416). -/
  replay : List Frame
  discarding : Bool
  /-- A `NAK` waits for room in the replay buffer (R416). -/
  nakOwed : Bool
  /-- The port is joining its group, which sends nothing until then (R422). -/
  joining : Bool
  /-- A packet has waited for credits in the current interval of 1 µs (R434). -/
  waited : Bool
  /-- Credits held per virtual channel, and units freed since the last frame (R415, R417). -/
  credits : List Nat
  freed : List Nat
  /-- Packets that wait for credits or room, oldest first. -/
  out : List Queued
  /-- Units received that do not yet make a whole packet. -/
  part : List (BitVec 256)
  /-- Whole packets received and not yet taken up, oldest first. -/
  inq : List Queued
  deriving DecidableEq, Repr

/-- Receive buffers of a peer in units (R417): the credits a sender starts with
(notes/assumptions/12.md). -/
def startCredits : List Nat := [512, 512, 1024]

/-- A port right after reset (R434). -/
def Port.reset : Port :=
  { st := .off, group := 0, gvalid := false, peerDev := 0, peerPort := 0, peerCfg := false,
    retrains := 0, fecUncorr := 0, replaysReq := 0, creditStall := 0, disable := false,
    hello := none, txSeq := 0xFFF, rxSeq := 0xFFF, replay := [], discarding := false,
    nakOwed := false, joining := false, waited := false, credits := startCredits, freed := [0, 0, 0], out := [], part := [], inq := [] }

/-- `FAB_RT` of one device number (R433). -/
structure RtEntry where
  valid : Bool
  reqGrp : BitVec 4
  rspGrp : BitVec 4
  deriving DecidableEq, Repr

/-- `FAB_LGRP` of one group but `LIVE`, which is computed from the ports (R433). -/
structure LinkGroup where
  ports : BitVec 12
  dim : Bool
  dateline : Bool
  valid : Bool
  peer : BitVec 6
  deriving DecidableEq, Repr

/-- What a remote request was sent for: a scalar access, a scalar store, a descriptor read, a piece of a mover
command (for a write, the part at an offset of the piece), its destination addition, and so on. -/
inductive RemoteOwner where
  | seqAccess (c id : Nat)
  | seqStore (c id : Nat)
  | seqDesc (c : Nat)
  | mover (c m id piece part : Nat)
  | moverHasp (c m id : Nat)
  | haspAdd (c : Nat)
  | rop (ag : Agent) (hasp : BitVec 14) (bank : BitVec 6)
  | hart (h id : Nat)
  | hartStore (h id : Nat)
  deriving DecidableEq, Repr

/-- A request that left for another module and is not acknowledged (R427). -/
structure RemoteReq where
  tag : BitVec 16
  typ : BitVec 4
  owner : RemoteOwner
  hasp : BitVec 14
  addr : Nat
  len : Nat
  deriving DecidableEq, Repr

/-- A relayed command without its reply (R431): sequence number, target, relaying mailbox, what was sent and
how often it was sent again. -/
structure RelayOut where
  mseq : BitVec 32
  dst : BitVec 6
  mb : Nat
  body : Bytes
  resent : Nat
  deriving DecidableEq, Repr

/-- A packet that waits for a port to join its group (R422): the group, and the egress ports it can reach. -/
structure JoinWait where
  group : Nat
  ports : List Nat
  q : Queued
  deriving DecidableEq, Repr

/-- The fabric of the module and its part in the pod. -/
structure Fabric where
  ports : SMap Port
  devnum : BitVec 6
  podMember : Bool
  timeouts : BitVec 16
  unroute : BitVec 16
  expired : BitVec 16
  malformed : BitVec 16
  rt : SMap RtEntry
  lgrp : SMap LinkGroup
  reqs : List RemoteReq
  nextTag : BitVec 16
  waiting : List JoinWait
  /-- The pod configuration record of SPI-NOR (R432). -/
  podRec : Option PodRecord
  /-- Frames put on the lanes: port and frame, oldest first. -/
  lanes : List (Nat × Frame)
  mseq : BitVec 32
  relays : List RelayOut
  /-- Relayed commands executed: sender and `MSEQ` (R431). -/
  executed : List (BitVec 6 × BitVec 32)
  /-- Relayed commands being executed: the mailbox that stands for each, sender and `MSEQ` (R431). -/
  serving : List (Nat × (BitVec 6 × BitVec 32))
  /-- Answers of a pod check in progress: device number and `POD_MEMBER` (R432). -/
  pongs : List (BitVec 6 × Bool)
  /-- `CONFIG`s without their `CONFIG_ACK` (R432). -/
  awaited : List (BitVec 32)
  deriving DecidableEq, Repr

def RtEntry.reset : RtEntry := { valid := false, reqGrp := 0, rspGrp := 0 }

def LinkGroup.reset : LinkGroup :=
  { ports := 0, dim := false, dateline := false, valid := false, peer := 0 }

/-- The fabric right after a cold reset (R68, R433, R434). -/
def Fabric.reset : Fabric :=
  { ports := [], devnum := 0, podMember := false, timeouts := 0, unroute := 0, expired := 0,
    malformed := 0, rt := [], lgrp := [], reqs := [], nextTag := 0, waiting := [], podRec := none, lanes := [],
    mseq := 0, relays := [], executed := [], serving := [], pongs := [], awaited := [] }

end Sys2Proof.Machine
end

