-- ==== Sys2Proof/Machine/FabricOps.lean ====
section
/-! DEFINITION. Fabric link layer, packets, routes and pod tables as functions of `Fabric`
(14_fabric_and_pods.md). -/

namespace Sys2Proof.Machine

/-! ## Access -/

def Fabric.port (f : Fabric) (n : Nat) : Port := tblGet Port.reset f.ports n

def Fabric.updPort (f : Fabric) (n : Nat) (g : Port → Port) : Fabric :=
  { f with ports := tblMod Port.reset f.ports n g }

def Fabric.group (f : Fabric) (g : Nat) : LinkGroup := tblGet LinkGroup.reset f.lgrp g

def Fabric.route (f : Fabric) (d : Nat) : RtEntry := tblGet RtEntry.reset f.rt d

/-- Ports of a group that are `ACTIVE`, in ascending order (R422, R433). -/
def Fabric.live (f : Fabric) (g : Nat) : List Nat :=
  (List.range 12).filter (fun n => (f.group g).ports.getLsbD n && (f.port n).st = .active)

/-! ## Packets -/

/-- Header fields (R418). -/
def pkType (p : Packet) : BitVec 4 := p.hdr.extractLsb' 0 4
def pkVc (p : Packet) : Nat := (p.hdr.extractLsb' 4 2).toNat
def pkCnt (p : Packet) : Bool := p.hdr.getLsbD 6
def pkErrf (p : Packet) : Bool := p.hdr.getLsbD 7
def pkLength (p : Packet) : Nat := (p.hdr.extractLsb' 8 9).toNat
def pkDst (p : Packet) : BitVec 6 := p.hdr.extractLsb' 17 6
def pkSrc (p : Packet) : BitVec 6 := p.hdr.extractLsb' 23 6
def pkTag (p : Packet) : BitVec 16 := p.hdr.extractLsb' 32 16
def pkLife (p : Packet) : Nat := (p.hdr.extractLsb' 48 10).toNat
def pkAddr (p : Packet) : Nat := (p.hdr.extractLsb' 64 56).toNat
def pkHasp (p : Packet) : BitVec 14 := p.hdr.extractLsb' 128 14
def pkValue (p : Packet) : BitVec 48 := p.hdr.extractLsb' 144 48
def pkStatus (p : Packet) : BitVec 8 := p.hdr.extractLsb' 192 8
def pkAop (p : Packet) : BitVec 4 := p.hdr.extractLsb' 200 4

/-- A header (R418) with every reserved bit zero. -/
def mkHeader (typ : BitVec 4) (vc : BitVec 2) (cnt errf : Bool) (length : Nat)
    (dst src : BitVec 6) (tag : BitVec 16) (life : Nat) (addr : Nat) (hasp : BitVec 14)
    (value : BitVec 48) (status : BitVec 8) (aop : BitVec 4) : BitVec 256 :=
  (0 : BitVec 52) ++ aop ++ status ++ value ++ (0 : BitVec 2) ++ hasp ++ (0 : BitVec 8) ++
    BitVec.ofNat 56 addr ++ (0 : BitVec 6) ++ BitVec.ofNat 10 life ++ tag ++ (0 : BitVec 3) ++
    src ++ dst ++ BitVec.ofNat 9 length ++ boolBit errf ++ boolBit cnt ++ vc ++ typ

/-- The reserved bits of a header (R418). -/
def reservedMask : BitVec 256 :=
  mkHeader 0 0 false false 0 0 0 0 0 0 0 0 0 0 |||
  ((0xFFFFFFFFFFFFF : BitVec 256) <<< 204) ||| ((3 : BitVec 256) <<< 142) |||
  ((0xFF : BitVec 256) <<< 120) ||| ((0x3F : BitVec 256) <<< 58) ||| ((7 : BitVec 256) <<< 29)

/-- A packet every module discards: reserved `TYPE`, a set reserved bit, or a `LENGTH` above 256
(R418). -/
def pkMalformed (p : Packet) : Bool :=
  pkType p = 0 || 6 < (pkType p).toNat || p.hdr &&& reservedMask ≠ 0 || 256 < pkLength p

/-- Whether an access crosses an aligned 256-byte boundary. -/
def crosses256 (addr len : Nat) : Bool := len ≠ 0 && addr / 256 ≠ (addr + len - 1) / 256

/-- A packet that breaks a further limit of R419 at its destination (R418). `known` says whether
its `TAG` names an outstanding request. -/
def pkRefused (p : Packet) (known : Bool) : Bool :=
  match (pkType p).toNat with
  | 1 => crosses256 (pkAddr p) (pkLength p)
  | 2 => crosses256 (pkAddr p) (pkLength p) || pkLength p = 0
  | 3 => !known
  | 5 => 2 < (pkAop p).toNat || pkLength p ≠ 16
  | _ => false

/-- A header with `LIFE` replaced (R426). -/
def setLife (h : BitVec 256) (life : Nat) : BitVec 256 :=
  (h &&& ~~~((0x3FF : BitVec 256) <<< 48)) ||| (BitVec.ofNat 256 (life % 1024) <<< 48)

/-- A header with `VC` replaced (R424). -/
def setVc (h : BitVec 256) (vc : BitVec 2) : BitVec 256 :=
  (h &&& ~~~((3 : BitVec 256) <<< 4)) ||| (vc.setWidth 256 <<< 4)

/-- The key that selects a port of a group (R422). -/
def pkKey (p : Packet) : Nat :=
  match (pkType p).toNat with
  | 4 => (pkHasp p).toNat
  | 3 => (pkTag p).toNat
  | 6 => 0
  | _ => if (pkType p).toNat = 1 && pkCnt p then (pkHasp p).toNat
         else bitsOf (pkAddr p) 7 9 ^^^ bitsOf (pkAddr p) 16 9

/-- Payload units of a packet after its header (R418). -/
def pkUnits (p : Packet) : Nat := 1 + (p.payload.length + 31) / 32

/-- The units of a packet: header, then the payload padded with zeros. -/
def packUnits : Nat → Bytes → List (BitVec 256)
  | 0, _ => []
  | n + 1, bs => BitVec.ofNat 256 (ofBytes (bs.take 32)) :: packUnits n (bs.drop 32)

/-! ## Link layer -/

/-- Trailer fields (R415). -/
def trSeq (f : Frame) : BitVec 12 := f.trailer.extractLsb' 0 12
def trAck (f : Frame) : BitVec 12 := f.trailer.extractLsb' 12 12
def trCred (f : Frame) (v : Nat) : Nat := (f.trailer.extractLsb' (24 + 10 * v) 10).toNat
def trNak (f : Frame) : Bool := f.trailer.getLsbD 63
def trCrc (f : Frame) : BitVec 32 := f.trailer.extractLsb' 64 32

/-- CRC of a frame: over the 256 unit bytes and trailer bits [63:0] (R415). -/
def frameCrc (units : BitVec 2048) (lo : BitVec 64) : BitVec 32 :=
  crc32c (toBytes 256 units.toNat ++ toBytes 8 lo.toNat)

/-- Whether a received frame's CRC holds. -/
def frameGood (f : Frame) : Bool := trCrc f = frameCrc f.units (f.trailer.extractLsb' 0 64)

/-- A frame with its trailer (R415). -/
def mkFrame (units : BitVec 2048) (seq ack : BitVec 12) (freed : List Nat) (nak : Bool) : Frame :=
  let c (v : Nat) : BitVec 10 := BitVec.ofNat 10 (freed.getD v 0)
  let lo : BitVec 64 := boolBit nak ++ (0 : BitVec 9) ++ c 2 ++ c 1 ++ c 0 ++ ack ++ seq
  { units := units, trailer := (0 : BitVec 32) ++ frameCrc units lo ++ lo }

/-- Units joined into the 2,048 bits of a frame, unit 0 lowest. -/
def joinUnits : List (BitVec 256) → BitVec 2048
  | [] => 0
  | u :: us => (joinUnits us <<< 256) ||| u.setWidth 2048

/-- One frame sent on a port: it takes the next `SEQ`, returns the freed credits and stays in the
replay buffer (R415, R416). -/
def Fabric.sendFrame (f : Fabric) (n : Nat) (us : List (BitVec 256)) (nak : Bool) : Fabric :=
  let p := f.port n
  let fr := mkFrame (joinUnits us) (p.txSeq + 1) p.rxSeq p.freed nak
  { f.updPort n (fun p => { p with
      txSeq := p.txSeq + 1, replay := p.replay ++ [fr], freed := [0, 0, 0] }) with
    lanes := f.lanes ++ [(n, fr)] }

/-- Units sent in frames of 8, the last padded with zero units (notes/assumptions/20.md). -/
def Fabric.sendUnits (f : Fabric) (n : Nat) : Nat → List (BitVec 256) → Fabric
  | 0, _ => f
  | k + 1, us =>
    if us.isEmpty then f else (f.sendFrame n (us.take 8) false).sendUnits n k (us.drop 8)

/-- The time in µs a packet has spent in the module, rounded up and at least 1 (R426). -/
def Queued.residence (q : Queued) : Nat := max 1 ((q.age + 99) / 100)

/-- A packet whose `LIFE` reaches 700 is discarded, but for `MGMT` (R426). -/
def pkExpired (p : Packet) (life : Nat) : Bool := 700 ≤ life && pkType p ≠ 6

/-- A `NAK` that waits is sent once the replay buffer has room (R416). -/
def Fabric.payNak (f : Fabric) (n : Nat) : Fabric :=
  if (f.port n).nakOwed && (f.port n).replay.length < 256 then
    (f.updPort n (fun p => { p with nakOwed := false })).sendFrame n [] true
  else f

/-- Packets queued on a port leave while the port is up, the replay buffer has room and the credits
of the packet's channel cover its units (R416, R417). Each takes its time in the module into `LIFE` (R426). -/
def Fabric.drainPort (f : Fabric) (n : Nat) : Nat → Fabric
  | 0 => f
  | k + 1 =>
    let p := f.port n
    match p.out with
    | [] => f
    | q :: rest =>
      let need := pkUnits q.pk
      let have' := p.credits.getD (pkVc q.pk) 0
      let life := pkLife q.pk + q.residence
      if pkExpired q.pk life then
        ({ f.updPort n (fun p => { p with out := rest }) with expired := satAdd f.expired 1 }).drainPort n k
      else if (p.st = .active || p.st = .link) && need ≤ have' &&
          p.replay.length + (need + 7) / 8 ≤ 256 then
        let f1 := f.updPort n (fun p => { p with
          out := rest, credits := setNth p.credits (pkVc q.pk) (have' - need) })
        (f1.sendUnits n (need + 1)
          (setLife q.pk.hdr life :: packUnits (need - 1) q.pk.payload)).drainPort n k
      else f

/-- What a port can send now leaves it. -/
def Fabric.serve (f : Fabric) (n : Nat) : Fabric :=
  (f.payNak n).drainPort n ((f.port n).out.length + 1)

/-- A packet put into the queue of a port. -/
def Fabric.enqueue (f : Fabric) (n : Nat) (q : Queued) : Fabric :=
  (f.updPort n (fun p => { p with out := p.out ++ [q] })).serve n

/-- Replay frames that an `ACK` does not cover. -/
def unackedFrames (a : BitVec 12) (fs : List Frame) : List Frame :=
  if fs.any (fun f => trSeq f = a) then fs.drop (fs.findIdx (fun f => trSeq f = a) + 1) else fs

/-- Bytes of a run of units. -/
def unitBytes (us : List (BitVec 256)) : Bytes := us.flatMap (fun u => toBytes 32 u.toNat)

/-- Whole packets at the front of a run of units, and the units left over. Zero units between
packets are padding. -/
def takePackets : Nat → List (BitVec 256) → List Packet × List (BitVec 256)
  | 0, us => ([], us)
  | _ + 1, [] => ([], [])
  | k + 1, u :: us =>
    if u = 0 then takePackets k us
    else
      let len := min (pkLength { hdr := u, payload := [] }) 256
      let typ := (u.extractLsb' 0 4).toNat
      let n := if typ = 2 || typ = 4 then 0 else (len + 31) / 32
      if us.length < n then ([], u :: us)
      else
        let (ps, r) := takePackets k (us.drop n)
        ({ hdr := u, payload := (unitBytes (us.take n)).take len } :: ps, r)

/-- The 8 units of a frame. -/
def frameUnits (f : Frame) : List (BitVec 256) :=
  (List.range 8).map (fun i => f.units.extractLsb' (256 * i) 256)

/-- A bad frame: a replay is asked for (R416). -/
def Fabric.askReplay (f : Fabric) (n : Nat) : Fabric :=
  (f.updPort n (fun p => { p with
    discarding := true, nakOwed := true, replaysReq := satAdd p.replaysReq 1 })).payNak n

/-- The next frame in order: its `ACK`, its credits and its units (R415, R417). -/
def Port.takeFrame (p : Port) (fr : Frame) : Port :=
  let us := p.part ++ frameUnits fr
  let (ps, r) := takePackets us.length us
  { p with
    replay := unackedFrames (trAck fr) p.replay
    credits := (List.range 3).map (fun v => p.credits.getD v 0 + trCred fr v)
    rxSeq := trSeq fr, discarding := false, part := r
    inq := p.inq ++ ps.map (fun x => { pk := x, age := 0 }) }

/-- The frames that a `NAK` asks for go on the lanes again, in their order (R416). -/
def Fabric.resend (f : Fabric) (n : Nat) : Fabric :=
  { f with lanes := f.lanes ++ (f.port n).replay.map (fun x => (n, x)) }

/-- A frame received on a port (R415, R416): one that is not the next in order is discarded. -/
def Fabric.receiveFrame (f : Fabric) (n : Nat) (fr : Frame) : Fabric :=
  if !frameGood fr then f.askReplay n
  else if trSeq fr ≠ (f.port n).rxSeq + 1 then f
  else
    let f1 := f.updPort n (·.takeFrame fr)
    (if trNak fr then f1.resend n else f1).serve n

/-- The packet as it stands among those received on port `n`; one just in, where it does not. -/
def Port.received (p : Port) (pk : Packet) : Queued :=
  match p.inq.find? (fun q => q.pk = pk) with
  | some q => q
  | none => { pk := pk, age := 0 }

/-- The module has consumed a packet that arrived on port `n`: its units are freed, and the next frame
returns them with the acknowledgement (R415, R417). -/
def Fabric.consume (f : Fabric) (n : Nat) (pk : Packet) : Fabric :=
  if !(f.port n).inq.any (fun q => q.pk = pk) then f
  else
    let f1 := f.updPort n (fun p => { p with
      inq := p.inq.eraseP (fun q => q.pk = pk)
      freed := setNth p.freed (pkVc pk) (p.freed.getD (pkVc pk) 0 + pkUnits pk) })
    if (f1.port n).replay.length < 256 then f1.sendFrame n [] false else f1

/-- A port leaves the link layer: queues and buffers are discarded and sequence counts restart
(R414, R422). -/
def Port.restart (p : Port) : Port :=
  { p with txSeq := 0xFFF, rxSeq := 0xFFF, replay := [], discarding := false, nakOwed := false,
           joining := false, waited := false, credits := startCredits, freed := [0, 0, 0],
           out := [], part := [], inq := [], hello := none }

/-! ## Routes -/

/-- Whether a request is local, remote through the fabric, or unroutable (R69). -/
inductive Reach where
  | own | remote | unroutable
  deriving DecidableEq, Repr

def Fabric.reach (f : Fabric) (pa : Nat) : Reach :=
  let d := bitsOf pa 50 6
  if d = f.devnum.toNat then .own
  else if f.podMember && (f.route d).valid then .remote
  else .unroutable

/-- The virtual channel of a request after it leaves through group `g`, having arrived on a group
`arr` or started here (R424). -/
def nextVc (p : Packet) (arr : Option LinkGroup) (g : LinkGroup) : BitVec 2 :=
  if pkType p = 3 || pkType p = 6 then 2
  else
    let vc : BitVec 2 := match arr with
      | none => 0
      | some a => if a.dim ≠ g.dim then 0 else BitVec.ofNat 2 (pkVc p)
    if g.dateline then 1 else vc

/-- A port of a group that is joining it (R422). -/
def Fabric.joiner (f : Fabric) (g : Nat) : Option Nat :=
  (List.range 12).find? (fun n => (f.group g).ports.getLsbD n && (f.port n).joining)

/-- A packet put on the port of a group that its key selects, of the egress ports it can reach (R422, R423, R564). -/
def Fabric.place (f : Fabric) (w : JoinWait) : Fabric :=
  let live := f.live w.group
  match live[pkKey w.q.pk % live.length]? with
  | none => { f with unroute := satAdd f.unroute 1 }
  | some n =>
    if w.ports.contains n then f.enqueue n w.q else { f with unroute := satAdd f.unroute 1 }

/-- A packet sent towards its `DST`: through its group's port, kept while a port joins the group, or discarded
and counted as unroutable (R422-R424). `reachable` says which egress ports can be reached inside the module. -/
def Fabric.forward (f : Fabric) (arr : Option LinkGroup) (reachable : Nat → Bool) (q : Queued) : Fabric :=
  let e := f.route (pkDst q.pk).toNat
  let gi := if pkType q.pk = 3 || pkType q.pk = 6 then e.rspGrp.toNat else e.reqGrp.toNat
  if !e.valid then { f with unroute := satAdd f.unroute 1 }
  else
    let w : JoinWait :=
      { group := gi, ports := (List.range 12).filter reachable
        q := { q with pk := { q.pk with hdr := setVc q.pk.hdr (nextVc q.pk arr (f.group gi)) } } }
    if (f.joiner gi).isSome then { f with waiting := f.waiting ++ [w] } else f.place w

/-- Packets whose group has no port joining any more go on (R422). -/
def Fabric.release (f : Fabric) : Fabric :=
  let (stay, go) := f.waiting.partition (fun w => (f.joiner w.group).isSome)
  go.foldl Fabric.place { f with waiting := stay }

/-- Every packet that a port has taken has been acknowledged at link level (R422). -/
def Port.quiet (p : Port) : Bool := p.out.isEmpty && p.replay.all (fun fr => fr.units = 0)

/-- The group a packet arrived on. -/
def Fabric.arrival (f : Fabric) (n : Nat) : Option LinkGroup :=
  if (f.port n).gvalid then some (f.group (f.port n).group.toNat) else none

/-- `AOP` of an atomic (R418). -/
def amoCode : AmoOp → BitVec 4
  | .add => 0
  | .swap => 1
  | .cas => 2

/-- A request that left through the outbound port of cluster `c` (10_memory_ordering.md R316). -/
def RemoteOwner.ofPort (o : RemoteOwner) (c : Nat) : Bool :=
  match o with
  | .seqAccess d _ | .seqStore d _ | .seqDesc d | .mover d _ _ _ _ => d = c
  | _ => false

/-- The first `TAG` from `t` on that no request holds; `n` bounds the search (R427). -/
def Fabric.freeTag (f : Fabric) : Nat → BitVec 16 → BitVec 16
  | 0, t => t
  | n + 1, t => if f.reqs.any (fun r => r.tag = t) then f.freeTag n (t + 1) else t

/-- A request packet of this module: it takes a `TAG` and is held outstanding until its
acknowledgement (R419, R427). -/
def Fabric.request (f : Fabric) (typ : BitVec 4) (cnt errf : Bool) (len addr : Nat) (dst : BitVec 6)
    (hasp : BitVec 14) (value : BitVec 48) (aop : BitVec 4) (payload : Bytes)
    (owner : RemoteOwner) (reachable : Nat → Bool) : Fabric :=
  let tag := f.freeTag (f.reqs.length + 1) f.nextTag
  let hdr := mkHeader typ 0 cnt errf len dst f.devnum tag 0 addr hasp value 0 aop
  let f1 : Fabric := { f with
    reqs := f.reqs ++ [({
      tag := tag, typ := typ, owner := owner, hasp := hasp, addr := addr, len := len } : RemoteReq)]
    nextTag := tag + 1 }
  f1.forward none reachable { pk := { hdr := hdr, payload := payload }, age := 0 }

/-- The acknowledgement of a request (R419). -/
def Fabric.respond (f : Fabric) (p : Packet) (status : BitVec 8) (payload : Bytes)
    (reachable : Nat → Bool) : Fabric :=
  f.forward none reachable
    { pk := { hdr := mkHeader 3 2 false false payload.length (pkSrc p) f.devnum (pkTag p) 0 0 0 0 status 0,
              payload := payload }
      age := 0 }

/-! ## Topologies (R425) -/

/-- Ring length and module count of a torus; 0 for a full mesh. -/
def ringLen : Topology → Nat
  | .fullMesh _ => 0
  | .torus4 => 4
  | .torus8 => 8

/-- Ports of torus group `g` by variant: 0 TV872, 1 TV860, 2 TV836 (R425). -/
def torusPorts (variant g : Nat) : List Nat :=
  match variant, g with
  | 0, 0 => [0, 1, 2] | 0, 1 => [3, 4, 5] | 0, 2 => [6, 7, 8] | 0, _ => [9, 10, 11]
  | 1, 0 => [0, 1] | 1, 1 => [3, 4] | 1, 2 => [6, 7] | 1, _ => [9, 10]
  | _, 0 => [0, 1] | _, 1 => [3, 4] | _, 2 => [6] | _, _ => [7]

/-- The neighbour of device `d` on torus group `g` (X+, X-, Y+, Y-). -/
def torusPeer (w d g : Nat) : Nat :=
  let x := d % w
  let y := d / w
  match g with
  | 0 => y * w + (x + 1) % w
  | 1 => y * w + (x + w - 1) % w
  | 2 => (y + 1) % w * w + x
  | _ => (y + w - 1) % w * w + x

/-- Whether the group's link is the dateline of its ring: between coordinate W - 1 and 0, in either
direction. -/
def torusDateline (w d g : Nat) : Bool :=
  match g with
  | 0 => d % w + 1 = w
  | 1 => d % w = 0
  | 2 => d / w + 1 = w
  | _ => d / w = 0

/-- Step of a request along a ring from `a` to `b`: the shorter way, + when equal. -/
def shorterWay (w a b : Nat) : Bool := decide (2 * ((b + w - a) % w) ≤ w)

/-- Group of a torus request from `d` to `e` (X before Y). -/
def torusReq (w d e : Nat) : Nat :=
  if d % w ≠ e % w then (if shorterWay w (d % w) (e % w) then 0 else 1)
  else (if shorterWay w (d / w) (e / w) then 2 else 3)

/-- Group of a torus response: the direct way, never a wrapping link, X before Y. -/
def torusRsp (w d e : Nat) : Nat :=
  if d % w ≠ e % w then (if d % w < e % w then 0 else 1)
  else (if d / w < e / w then 2 else 3)

/-- Bits set for a list of port numbers. -/
def portMask (ps : List Nat) : BitVec 12 := ps.foldl (fun m p => m ||| (1 <<< p)) 0

/-- The link groups of module `d` (R425). `present` lists its present ports in ascending order. -/
def buildGroups (t : Topology) (variant d : Nat) (present : List Nat) : SMap LinkGroup :=
  match t with
  | .fullMesh m =>
    (List.range (min (m - 1) present.length)).map (fun g =>
      (g, ({ ports := portMask [present.getD g 0], dim := false, dateline := false, valid := true,
             peer := BitVec.ofNat 6 ((d + g + 1) % m) } : LinkGroup)))
  | t =>
    let w := ringLen t
    (List.range 4).map (fun g =>
      (g, ({ ports := portMask ((torusPorts variant g).filter present.contains),
             dim := decide (2 ≤ g), dateline := torusDateline w d g, valid := true,
             peer := BitVec.ofNat 6 (torusPeer w d g) } : LinkGroup)))

/-- The routing table of module `d` (R425). -/
def buildRoutes (t : Topology) (d : Nat) : SMap RtEntry :=
  match t with
  | .fullMesh m =>
    ((List.range m).filter (· ≠ d)).map (fun e =>
      let g := BitVec.ofNat 4 ((e + m - d) % m - 1)
      (e, ({ valid := true, reqGrp := g, rspGrp := g } : RtEntry)))
  | t =>
    let w := ringLen t
    ((List.range (w * w)).filter (· ≠ d)).map (fun e =>
      (e, ({ valid := true, reqGrp := BitVec.ofNat 4 (torusReq w d e),
             rspGrp := BitVec.ofNat 4 (torusRsp w d e) } : RtEntry)))

/-- The group of port `n`, if any. -/
def Fabric.groupOf (f : Fabric) (n : Nat) : Option Nat :=
  (List.range 12).find? (fun g => (f.group g).valid && (f.group g).ports.getLsbD n)

/-- The peer port that the topology joins to port `n` of group `g`, of a module of variant `own`, at a peer of
variant `peer`: the same place in the opposite group, or the rank that leads back in a full mesh (R425). -/
def expectedPeerPort (t : Topology) (present : List Nat) (g n own peer : Nat) : Option Nat :=
  match t with
  | .fullMesh m => present[m - 2 - g]?
  | _ => (torusPorts peer (if g % 2 = 0 then g + 1 else g - 1))[(torusPorts own g).findIdx (· = n)]?

/-- `POD_MEMBER` is set once every group the record names has a `LIVE` port (R432). -/
def Fabric.refreshMember (f : Fabric) : Fabric :=
  if f.podRec.isSome && !f.lgrp.isEmpty &&
      f.lgrp.all (fun e => !e.2.valid || !(f.live e.1).isEmpty) then
    { f with podMember := true }
  else f

/-! ## Management packets (R429) -/

/-- Management header fields (R429), of the first eight payload bytes. -/
def mgHeader (p : Packet) : Nat := ofBytes (p.payload.take 8)
def mgKind (p : Packet) : Nat := bitsOf (mgHeader p) 0 8
def mgDirected (p : Packet) : Bool := bitOf (mgHeader p) 8
def mgHops (p : Packet) : Nat := bitsOf (mgHeader p) 9 4
def mgPathLen (p : Packet) : Nat := bitsOf (mgHeader p) 13 4
def mgSeq (p : Packet) : BitVec 32 := BitVec.ofNat 32 (bitsOf (mgHeader p) 24 32)

/-- Hop `i` of a directed packet's path. -/
def mgHop (p : Packet) (i : Nat) : Nat := bitsOf (ofBytes ((p.payload.drop 8).take 4)) (4 * i) 4

/-- The bytes of a management header, with the path of a directed packet. -/
def mgBytes (kind : Nat) (directed : Bool) (hops pathLen : Nat) (mseq : BitVec 32) : Bytes :=
  toBytes 8 (kind + 256 * boolNat directed + 512 * hops + 8192 * pathLen + 16777216 * mseq.toNat)

/-- A `MGMT` packet of this module. -/
def mkMgmt (dst src : BitVec 6) (payload : Bytes) : Queued :=
  { pk := { hdr := mkHeader 6 2 false false payload.length dst src 0 0 0 0 0 0 0, payload := payload }, age := 0 }

end Sys2Proof.Machine
end

