-- ==== Sys2Proof/Machine/StateTumbler.lean ====
section
/-! DEFINITION. State of the Tumbler's mailboxes (16_tumbler_interface.md) and of the error bank and
log (19_reset_and_ras.md R536-R540), with the REFCLK count both stamp their records with. -/

namespace Sys2Proof.Machine

/-- `TMB_STAT.STATE` (R460). -/
inductive MbState where
  | idle | check | running | done
  deriving DecidableEq, Repr

/-- The answer of a command that has done its work and waits for COMMAND_COMPLETE (R468): status,
result words `RES0`-`RES6`, the data put into the output buffer, and whether the buffers are
returned with undefined content (R464). -/
structure MbResult where
  status : BitVec 16
  res : List U64
  out : Option Bytes
  spoiled : Bool
  deriving DecidableEq, Repr

/-- What `MB_ASSIGN` gave a class G mailbox (R473). -/
structure GuestLists where
  queues : List Nat
  spaces : List Nat
  counters : List Nat
  deriving DecidableEq, Repr

/-- One mailbox (R457-R460, R474): slots, state, window, inline buffer and event queue, and the
command it runs (copied slot, doorbell tag, the moment of the doorbell, its answer once the work is
done). -/
structure Mailbox where
  st : MbState
  dbBusy : Bool
  winErr : Bool
  opened : Bool
  cmd : BitVec 512
  rsp : BitVec 512
  wbase : BitVec 44
  nbufs : BitVec 13
  log2sz : BitVec 4
  wen : Bool
  inl : SMap Byte
  evq : SMap (BitVec 512)
  prod : BitVec 16
  cons : BitVec 16
  lost : BitVec 16
  mask : BitVec 16
  irq : Bool
  copied : BitVec 512
  dbTag : BitVec 16
  since : Nat
  /-- The command's row has begun work that goes on. -/
  begun : Bool
  result : Option MbResult
  guest : GuestLists
  deriving DecidableEq, Repr

/-- A mailbox right after reset but for `MASK` and `OPEN` (R460, R474). -/
def Mailbox.reset : Mailbox :=
  { st := .idle, dbBusy := false, winErr := false, opened := false, cmd := 0, rsp := 0, wbase := 0,
    nbufs := 0, log2sz := 0, wen := false, inl := [], evq := [], prod := 0, cons := 0, lost := 0,
    mask := 0, irq := false, copied := 0, dbTag := 0, since := 0, begun := false, result := none,
    guest := { queues := [], spaces := [], counters := [] } }

/-- The Tumbler's management state: REFCLK count, mailboxes, event sequence, error bank and log. -/
structure Mgmt where
  /-- REFCLK cycles counted so far: `TIME` of R475 and `time` of R436. -/
  now : Nat
  boxes : SMap Mailbox
  evseq : BitVec 16
  /-- Records held and not cleared, oldest first (R539). -/
  bank : List (BitVec 512)
  /-- `ERR_STAT.NEXT`. -/
  errNext : BitVec 32
  errOverflow : Bool
  /-- The Tumbler log in NOR, oldest first (R538). -/
  log : List (BitVec 512)
  /-- When a severity 0 record of a (`CLASS`, `STRUCT`) pair was last logged (R538). -/
  logged : List ((Nat × Nat) × Nat)
  /-- HBM rows awaiting repair, each by an address in it, kept in the Tumbler log (R541). -/
  repairs : List Nat
  /-- Corrected errors counted against HBM rows: address and time (R541). -/
  rowErrors : List (Nat × Nat)
  deriving DecidableEq, Repr

end Sys2Proof.Machine
end

