-- ==== Sys2Proof/Machine/Mgmt.lean ====
section
/-! DEFINITION. Event records and queues (16_tumbler_interface.md R474, R475) and error records
(19_reset_and_ras.md R536-R540): the shared operations by which every family reports. -/

namespace Sys2Proof.Machine

/-- Mailbox `n` of the Tumbler. -/
def Mgmt.box (m : Mgmt) (n : Nat) : Mailbox := tblGet Mailbox.reset m.boxes n

/-- The Tumbler's state with mailbox `n` changed. -/
def Mgmt.updBox (m : Mgmt) (n : Nat) (f : Mailbox → Mailbox) : Mgmt :=
  { m with boxes := tblMod Mailbox.reset m.boxes n f }

/-- An event record (R475): kind, sequence, severity, unit, time and detail. -/
def eventRecord (kind evseq : BitVec 16) (sev unit : Nat) (now : Nat) (detail : BitVec 384) :
    BitVec 512 :=
  detail ++ BitVec.ofNat 64 now ++ (0 : BitVec 16) ++ BitVec.ofNat 8 unit ++ BitVec.ofNat 8 sev ++
    evseq ++ kind

/-- Detail words of an event record, 64 bits each, in the order the table of R475 lists them
(notes/assumptions/18.md). -/
def eventDetail : List Nat → BitVec 384
  | [] => 0
  | x :: r => (eventDetail r <<< 64) ||| BitVec.ofNat 384 (x % 2 ^ 64)

/-- Mask bit of an event kind: bit b selects kinds 0x0b00 to 0x0bFF (R475). -/
def eventGroup (kind : BitVec 16) : Nat := bitsOf kind.toNat 8 4

/-- Records in a mailbox's event queue. -/
def Mailbox.held (b : Mailbox) : Nat := (b.prod - b.cons).toNat

/-- One record written into a mailbox's event queue, or counted in `LOST` when 32 are held (R474). -/
def Mailbox.push (b : Mailbox) (r : BitVec 512) : Mailbox :=
  if 32 ≤ b.held then { b with lost := satAdd b.lost 1 }
  else { b with evq := tblPut 0 b.evq (b.prod.toNat % 32) r, prod := b.prod + 1 }

/-- An event posted to every mailbox whose mask selects its group (R475). -/
def Mgmt.post (m : Mgmt) (kind : BitVec 16) (sev unit : Nat) (detail : List Nat) : Mgmt :=
  let r := eventRecord kind m.evseq sev unit m.now (eventDetail detail)
  let m1 := (List.range 16).foldl (fun m n =>
    if (m.box n).mask.getLsbD (eventGroup kind) then m.updBox n (·.push r) else m) m
  { m1 with evseq := m.evseq + 1 }

/-- Once space frees, one `EVENT_LOST` event carries the count of dropped events (R474). -/
def Mgmt.reportLost (m : Mgmt) (n : Nat) : Mgmt :=
  let b := m.box n
  if b.lost ≠ 0 ∧ b.held < 32 then
    let r := eventRecord 0x0002 m.evseq 1 7 m.now (eventDetail [b.lost.toNat])
    { m.updBox n (fun b => { b.push r with lost := 0 }) with evseq := m.evseq + 1 }
  else m

/-- An error report with every field empty: agent, cluster, hart 0xFF (R536). -/
def ErrInfo.none : ErrInfo :=
  { level := 0, cls := 0, quad := 7, cluster := 0xFF, agent := 0xFF, struct := 0, status := 0,
    paddr := 0, vaddr := 0, space := 0, hart := 0xFF, syndrome := 0, detail := 0 }

/-- An error record of 64 bytes (R536). -/
def errRecord (index : BitVec 32) (sev : Nat) (e : ErrInfo) (count : BitVec 32) (now : Nat) :
    BitVec 512 :=
  (0 : BitVec 64) ++ e.detail ++ e.syndrome ++ e.hart ++ e.status ++ e.space ++ e.vaddr ++
    e.paddr ++ count ++ e.struct ++ e.agent ++ e.cluster ++ e.quad ++ BitVec.ofNat 64 now ++
    e.cls ++ e.level ++ BitVec.ofNat 8 sev ++ index

/-- `SEVERITY` of a record. -/
def recSeverity (r : BitVec 512) : Nat := (r.extractLsb' 32 8).toNat

/-- `INDEX` of a record. -/
def recIndex (r : BitVec 512) : Nat := (r.extractLsb' 0 32).toNat

/-- The bank without its oldest record of `SEVERITY` 0. -/
def dropCorrected : List (BitVec 512) → List (BitVec 512)
  | [] => []
  | r :: rs => if recSeverity r = 0 then rs else r :: dropCorrected rs

/-- The bank with one more record, and whether the record was dropped instead (R539). -/
def bankAdd (bank : List (BitVec 512)) (r : BitVec 512) : List (BitVec 512) × Bool :=
  if bank.length < 1024 then (bank ++ [r], false)
  else if bank.any (fun x => recSeverity x = 0) then (dropCorrected bank ++ [r], false)
  else (bank, true)

/-- One second of REFCLK (100 MHz, R436). -/
def refclkSecond : Nat := 100000000

/-- Whether a record of `SEVERITY` 0 goes to the log: once in each hour for each pair (R538). -/
def logsNow (m : Mgmt) (sev : Nat) (e : ErrInfo) : Bool :=
  sev ≠ 0 || m.logged.all (fun p => p.1 ≠ (e.cls.toNat, e.struct.toNat) ||
    decide (p.2 + 3600 * refclkSecond ≤ m.now))

/-- An error record written to the bank, the log and an `ERROR_RECORD` event (R538). -/
def Mgmt.record (m : Mgmt) (sev : Nat) (e : ErrInfo) (count : Nat) : Mgmt :=
  let r := errRecord m.errNext sev e (BitVec.ofNat 32 count) m.now
  let (bank, lost) := bankAdd m.bank r
  let logIt := logsNow m sev e
  let m1 : Mgmt := { m with
    bank := bank
    errNext := m.errNext + 1
    errOverflow := m.errOverflow || lost
    log := if logIt then m.log ++ [r] else m.log
    logged := if logIt && sev = 0 then
        ((e.cls.toNat, e.struct.toNat), m.now) ::
          m.logged.filter (fun p => p.1 ≠ (e.cls.toNat, e.struct.toNat))
      else m.logged }
  m1.post 0x0501 (min sev 2) e.quad.toNat [m.log.length]

/-- Whether a corrected error merges into record `r` (R540). -/
def mergesInto (now : Nat) (e : ErrInfo) (r : BitVec 512) : Bool :=
  recSeverity r = 0 && r.extractLsb' 48 16 = e.cls && r.extractLsb' 152 8 = e.struct &&
    r.extractLsb' 192 64 = e.paddr && decide (now < (r.extractLsb' 64 64).toNat + refclkSecond)

/-- A record with `COUNT` one higher. -/
def bumpCount (r : BitVec 512) : BitVec 512 :=
  (r &&& ~~~((0xFFFFFFFF : BitVec 512) <<< 160)) |||
    ((satAdd (r.extractLsb' 160 32) 1).setWidth 512 <<< 160)

/-- A corrected error: merged into the record of the same class, structure and address of the last
second, or a record of its own (R540). -/
def Mgmt.corrected (m : Mgmt) (e : ErrInfo) : Mgmt :=
  if m.bank.any (mergesInto m.now e) then
    { m with bank := m.bank.map (fun r => if mergesInto m.now e r then bumpCount r else r) }
  else m.record 0 e 1

end Sys2Proof.Machine
end

