-- ==== Sys2Proof/Machine/StateBoot.lean ====
section
/-! DEFINITION. State of boot, identity and attestation (18_boot_and_security.md): the SPI-NOR, the
measurement registers and the Tumbler's security state. -/

namespace Sys2Proof.Machine

/-- The key a signed image or record names (R504, R506): a Caerlis key, an owner key by its key
identifier, or another. -/
inductive Signer where
  | root | provisioning | debug
  | owner (id : U64)
  | other (id : U64)
  deriving DecidableEq, Repr

/-- A signed image in a slot (R504): header fields, header bytes 0-127, and whether everything R505
asks of the image alone holds (constants, reserved bytes, digest, length and signature). -/
structure FwImage where
  svn : Nat
  version : U64
  load : U64
  entry : U64
  signer : Signer
  good : Bool
  header : Bytes
  payload : Bytes
  deriving DecidableEq, Repr

/-- A firmware slot (R508). -/
structure Slot where
  image : Option FwImage
  confirmed : Bool
  trials : Nat
  deriving DecidableEq, Repr

/-- The slots of one firmware kind: A, B, the preferred one (true is B), the running one, and the SVN
floor (R503). -/
structure FwKind where
  a : Slot
  b : Slot
  preferred : Bool
  running : Option Bool
  floor : Nat
  /-- Selection fell back, to be reported by `FW_EVENT` action 4 (R508). -/
  fell : Bool
  deriving DecidableEq, Repr

/-- An enrolment record in force or pending (R518): flags and the owner's key identifier. -/
structure Enrolment where
  ownerFw : Bool
  ownerDebug : Bool
  remove : Bool
  key : U64
  bytes : Bytes
  deriving DecidableEq, Repr

/-- The module record (R510): serial, variant, masks and whether R505 and the identity check hold. -/
structure ModRecord where
  serial : U64
  variant : BitVec 7
  quadMask : BitVec 4
  hbmMask : BitVec 8
  fabMask : BitVec 12
  flash : Bool
  hartMask : U64
  good : Bool
  header : Bytes
  deriving DecidableEq, Repr

/-- Causes of recovery (R509). -/
inductive Recovery where
  | noTumbler | identity | record | noHartFw
  deriving DecidableEq, Repr

/-- Where the module stands. -/
inductive Phase where
  | off
  | discovery
  | running
  | recovery (why : Recovery)
  deriving DecidableEq, Repr

/-- A measurement-log entry (R514). -/
structure LogEntry where
  reg : Nat
  kind : Nat
  svn : Nat
  version : U64
  digest : BitVec 512
  deriving DecidableEq, Repr

/-- Boot and security state. -/
structure Boot where
  phase : Phase
  -- SPI-NOR
  tumbler : FwKind
  hart : FwKind
  counter : Nat
  record : ModRecord
  identityOk : Bool
  owner : Option Enrolment
  pendingOwner : Option Enrolment
  bootImage : Option Nat
  bootCount : U64
  -- volatile
  m : SMap (BitVec 512)
  mlog : List LogEntry
  debugLevel : BitVec 3
  unlocked : Bool
  challenge : Option (BitVec 256 × Nat)
  watchdog : Bool
  /-- When the harts were released, while the hart slot is unconfirmed (R508). -/
  releasedAt : Option Nat
  /-- `FW_STAGE` and `FW_ACTIVATE` under way: mailbox and kind (R516). -/
  staging : List (Nat × Nat)
  session : Bool
  /-- Answers of the remote session (R520): response slot and inline output. -/
  replies : List (BitVec 512 × Bytes)
  /-- The seats that discovery gave when it last closed (R55). -/
  seatsOk : List Nat
  deriving DecidableEq, Repr

/-- Slot contents at the first power-on: one valid confirmed image signed by the Caerlis root key
(notes/assumptions/5.md). -/
def bootImage0 : FwImage :=
  { svn := 0, version := 0, load := 0, entry := 0, signer := .root, good := true, header := [],
    payload := [] }

def FwKind.reset : FwKind :=
  { a := { image := some bootImage0, confirmed := true, trials := 0 },
    b := { image := none, confirmed := false, trials := 0 }, preferred := false, running := none,
    floor := 0, fell := false }

/-- The module record of a TV872 (R1, R510; notes/assumptions/5.md). -/
def ModRecord.reset : ModRecord :=
  { serial := 0, variant := 1, quadMask := 0xF, hbmMask := 0xFF, fabMask := 0xFFF, flash := true,
    hartMask := 0xFFFFFFFFFFFFFFFF, good := true, header := [] }

/-- Before the first power-on sequence (notes/assumptions/5.md). -/
def Boot.reset : Boot :=
  { phase := .off, tumbler := FwKind.reset, hart := FwKind.reset, counter := 0,
    record := ModRecord.reset, identityOk := true, owner := none, pendingOwner := none,
    bootImage := none, bootCount := 0, m := [], mlog := [], debugLevel := 0,
    unlocked := false, challenge := none, watchdog := false, releasedAt := none, staging := [],
    session := false, replies := [], seatsOk := [] }

end Sys2Proof.Machine
end

