-- ==== Sys2Proof/Machine/StateFlash.lean ====
section
/-! DEFINITION. State of the flash tier (13_tiers_and_flash.md R398-R411). -/

namespace Sys2Proof.Machine

/-- Image states (R400). -/
inductive ImgState where
  | writing | sealed | erasing
  deriving DecidableEq, Repr

/-- An image record (R399). -/
structure Image where
  id : Nat
  st : ImgState
  offset : Nat
  length : Nat
  digest : BitVec 512
  damaged : Bool
  deriving DecidableEq, Repr

/-- A NAND block: page reads since it was programmed, erase count, due for relocation (R407, R410). -/
structure FBlock where
  reads : Nat
  erases : Nat
  due : Bool
  deriving DecidableEq, Repr

def FBlock.reset : FBlock := { reads := 0, erases := 0, due := false }

/-- A flash read of a mover command in flight (R265, R563): window offset, bytes, block it reads, and
the command piece it serves. -/
structure FlashReq where
  id : Nat
  off : Nat
  len : Nat
  cluster : Nat
  mover : Nat
  cmd : Nat
  piece : Nat
  deriving DecidableEq, Repr

/-- The flash tier. Data bytes are kept by window offset. -/
structure Flash where
  ready : Bool
  reloc : Bool
  cntLost : Bool
  images : List Image
  data : SMap Byte
  blocks : SMap FBlock
  /-- Due blocks, the one that became due first at the head (R407). -/
  dueOrder : List Nat
  reqs : List FlashReq
  nextReq : Nat
  /-- Images that each counted mover command holds (R403): image and command. -/
  readers : List (Nat × (Nat × (Nat × Nat)))
  rdbytes : U64
  retried : BitVec 16
  rebuilt : BitVec 16
  uncorr : BitVec 16
  timeout : BitVec 16
  wearPct : BitVec 8
  sparePct : BitVec 8
  /-- A deferral in force: its start and end in REFCLK cycles (R408). -/
  defer : Option (Nat × Nat)
  /-- Until then no new deferral may start (R408). -/
  deferNot : Nat
  /-- Counters as last written to NAND (R407). -/
  saved : SMap FBlock
  lowPosted : Bool
  deriving DecidableEq, Repr

/-- The flash tier before its first power-on: no image, and 3 of the 16 TiB spare (R398;
notes/assumptions/70.md). -/
def Flash.reset : Flash :=
  { ready := false, reloc := false, cntLost := false, images := [], data := [], blocks := [],
    dueOrder := [], reqs := [], nextReq := 0, readers := [], rdbytes := 0, retried := 0, rebuilt := 0, uncorr := 0,
    timeout := 0, wearPct := 0, sparePct := 18, defer := none, deferNot := 0, saved := [],
    lowPosted := false }

end Sys2Proof.Machine
end

