-- ==== Sys2Proof/Machine/StateCoh.lean ====
section
/-! DEFINITION. State of the coherence protocol (11_coherence.md): cache lines, messages, directories
and home transactions, and of range translation (12_range_translation.md).

A line is named by its local line number, PA[49:7]. Ends of a message are numbered: 0-159 the
caching agents (R338), 160-163 the quadrant homes, 164 the host-die home, 200 and above agents that
never cache. -/

namespace Sys2Proof.Machine

/-- States of a line in a caching agent (R339, R351). -/
inductive CState where
  | i | s | f | e | m | isD | imD | smD | fmD | miA | eiA | fiA | siA | iiA
  deriving DecidableEq, Repr

/-- Messages (R341). -/
inductive CohKind where
  | getS | getM | putS | putF | putE | putM | readOnce | writeFull | atomic
  | fwdGetS | fwdGetM | inv | backInv | invAck | wbAck | data | dataE | dataF
  deriving DecidableEq, Repr

/-- Network classes (01_package_and_hinges.md R26). -/
inductive MsgClass where
  | request | snoop | response | data
  deriving DecidableEq, Repr

/-- The `CLASS` code of R26. -/
def MsgClass.code : MsgClass → Nat
  | .request => 0
  | .snoop => 1
  | .response => 2
  | .data => 3

/-- The class that carries a message on a hinge and on the base mesh (R341). -/
def CohKind.cls : CohKind → MsgClass
  | .fwdGetS | .fwdGetM | .inv | .backInv => .snoop
  | .invAck | .wbAck => .response
  | .data | .dataE | .dataF => .data
  | .getS | .getM | .putS | .putF | .putE | .putM | .readOnce | .writeFull | .atomic => .request

/-- A coherence message: kind, ends, line, the line it carries with its poison bit, the requester
named in a snoop and its `ONCE` bit. -/
structure CohMsg where
  kind : CohKind
  src : Nat
  dst : Nat
  line : Nat
  data : LineData
  poison : Bool
  req : Nat
  once : Bool
  keep : Bool
  deriving DecidableEq, Repr

/-- One line of a cache: state, data, the snoop held in IS_D or IM_D (R352), whether a `PutM` with
`KEEP` returns it to E (R362), and lock and use stamp of a line-cache way (R358, R360). -/
structure CLine where
  st : CState
  line : Nat
  data : LineData
  poison : Bool
  snoop : Option CohMsg
  keep : Bool
  locked : Bool
  stamp : Nat
  deriving DecidableEq, Repr

/-- An invalid line. -/
def CLine.none : CLine :=
  { st := .i, line := 0, data := 0, poison := false, snoop := Option.none, keep := false,
    locked := false, stamp := 0 }

/-- A request at a home (R347). -/
inductive HReq where
  | getS (a : Nat)
  | getM (a : Nat)
  | putS (a : Nat)
  | putF (a : Nat)
  | putE (a : Nat)
  | putM (a : Nat) (keep : Bool) (data : LineData) (poison : Bool)
  | readOnce (r : Nat)
  | writeFull (r : Nat) (mask : BitVec 128) (data : LineData) (poison : Bool)
  | atomic (r : Nat) (addr : Nat) (op : AmoOp) (operand compare : U64)
  deriving DecidableEq, Repr

/-- Busy states (R348). -/
inductive BusyKind where
  | bFS | bFM | bOnce | bInv | bBI
  deriving DecidableEq, Repr

/-- A transaction in progress: its line, state, request (none for a back-invalidation) and the
agents whose answers it waits for. -/
structure Busy where
  line : Nat
  kind : BusyKind
  req : Option HReq
  waits : List Nat
  deriving DecidableEq, Repr

/-- A directory entry (R344) but its tag, which is its key; `age` orders allocations (R350). -/
structure DirEnt where
  sharers : BitVec 160
  fidx : BitVec 8
  dstate : BitVec 2
  age : Nat
  deriving DecidableEq, Repr

def DirEnt.free : DirEnt := { sharers := 0, fidx := 0xFF, dstate := 0, age := 0 }

/-- A home (R343, R346): directory by line, transactions, requests that wait, oldest first, and the ways kept
for waiting requests (R350): the line that waits, and its victim while that is in `B_BI`. -/
structure Home where
  dir : SMap DirEnt
  busy : List Busy
  waiting : List (Nat × HReq)
  kept : List (Nat × Option Nat)
  deriving DecidableEq, Repr

def Home.reset : Home := { dir := [], busy := [], waiting := [], kept := [] }

/-- A line in a memory-side cache: its place in the SRAM, and whether it differs from the memory behind it. Its
data is what `Chip.mem` gives (notes/assumptions/107.md). -/
structure HeldLine where
  line : Nat
  slot : Nat
  dirty : Bool
  deriving DecidableEq, Repr

/-- The lines of a memory-side cache: the L3 (15_host_die.md R441), or a system cache (13_tiers_and_flash.md
R395). -/
abbrev MemCache := List HeldLine

/-! ## Translation -/

/-- A space record (R364). -/
structure SpaceRec where
  en : Bool
  domain : BitVec 8
  count : BitVec 17
  tbase : BitVec 44
  deriving DecidableEq, Repr

def SpaceRec.reset : SpaceRec := { en := false, domain := 0, count := 0, tbase := 0 }

/-- A range as a table entry gives it (R367), and as range caches hold it. -/
structure RangeEnt where
  vstart : BitVec 41
  pstart : BitVec 40
  len : BitVec 34
  v : Bool
  r : Bool
  w : Bool
  tier : BitVec 3
  coh : Bool
  sealed : Bool
  side : Bool
  reserved : Bool
  deriving DecidableEq, Repr

/-- A cached range with its space tag (R375). -/
structure CachedRange where
  space : Nat
  ent : RangeEnt
  deriving DecidableEq, Repr

/-- A walk in progress in a quadrant (R371, R376): bounds of the binary search, and the clusters that
asked, each with its address. `hi` is one past the last candidate. -/
structure Walk where
  space : Nat
  va : U64
  lo : Nat
  hi : Nat
  who : List (Nat × U64)
  deriving DecidableEq, Repr

/-- Outcome of a walk. -/
inductive WalkEnd where
  | found (e : RangeEnt)
  | none
  | failed (code : Nat)
  deriving DecidableEq, Repr

/-- A transfer an invalidation waits for (R379). -/
inductive Transfer where
  | mover (c m id : Nat)
  | access (c id : Nat)
  | store (c id : Nat)
  | fetch (c : Nat)
  | desc (c : Nat)
  deriving DecidableEq, Repr

/-- A failed walk that its requester has not yet taken up: cluster, space, address, outcome. -/
structure WalkFail where
  cluster : Nat
  space : Nat
  va : U64
  how : WalkEnd
  deriving DecidableEq, Repr

/-- Who asked for an invalidation (R377, R382). -/
inductive InvOrigin where
  | register (q : Nat) (hen : Bool) (hasp : BitVec 14)
  | command (mb : Nat)
  deriving DecidableEq, Repr

/-- An invalidation between its start and completion points (R378, R379). -/
structure Invalidation where
  id : Nat
  space : Nat
  origin : InvOrigin
  waits : List Transfer
  deriving DecidableEq, Repr

end Sys2Proof.Machine
end

