-- ==== Sys2Proof/Machine/StateHost.lean ====
section
/-! DEFINITION. State of the host die: harts, their L2 caches and store buffers, interrupts, PCIe and
Ethernet ports (15_host_die.md). -/

namespace Sys2Proof.Machine

/-- What an outstanding hart access waits for: a line of the L2, another module, a PCIe function, or
a device register of an uncached range. -/
inductive HartTarget where
  | line | remote | pcie
  deriving DecidableEq, Repr

/-- Kinds of hart access. -/
inductive HartKind where
  | load (signed fetch : Bool)
  | amo (op : HartAmoOp) (operand : U64)
  deriving DecidableEq, Repr

/-- An outstanding hart load, fetch, AMO, LR or SC. -/
structure HartAcc where
  id : Nat
  rd : SReg
  va : U64
  pa : Nat
  bytes : Nat
  kind : HartKind
  target : HartTarget
  deriving DecidableEq, Repr

/-- A store in a hart's store buffer (R314, R317). -/
structure HartStore where
  id : Nat
  pa : Nat
  data : Bytes
  sent : Bool
  deriving DecidableEq, Repr

/-- A trap of a hart: RISC-V cause code and `mtval` (R437, R446, R534). -/
structure HartTrap where
  cause : Nat
  tval : U64
  deriving DecidableEq, Repr

/-- One hart (R435-R446). -/
structure Hart where
  running : Bool
  /-- Stopped by an uncorrectable tag (R535). -/
  stopped : Bool
  pc : U64
  x : SMap U64
  trap : Option HartTrap
  mip24 : Bool
  resv : Option (Nat × Nat)
  l2 : SMap CLine
  /-- Lines of the L1 instruction cache, oldest first, and of the L1 data cache with their dirty bits; their data
  is the L2's, which holds every one of them (11_coherence.md R336; notes/assumptions/108.md). -/
  l1i : List Nat
  l1d : List (Nat × Bool)
  stores : List HartStore
  accs : List HartAcc
  nextId : Nat
  /-- An incomplete `FENCE` or `FENCE.POD`: pod, predecessor and successor sets (R320). -/
  fence : Option (Bool × (BitVec 4 × BitVec 4))
  deriving DecidableEq, Repr

/-- A hart not yet released (R507; notes/assumptions/13.md). -/
def Hart.reset : Hart :=
  { running := false, stopped := false, pc := 0, x := [], trap := none, mip24 := false,
    resv := none, l2 := [], l1i := [], l1d := [], stores := [], accs := [], nextId := 0, fence := none }

/-- An RDMA write of an `ETH` mover command, one per destination segment, that is not acknowledged (R267): its
connection, remote virtual address and data. -/
structure RdmaOut where
  id : Nat
  cluster : Nat
  mover : Nat
  cmd : Nat
  seg : Nat
  endpoint : BitVec 16
  addr : U64
  data : Bytes
  deriving DecidableEq, Repr

/-- How an Ethernet port runs (R450). -/
inductive EthMode where
  | one800 | two400 | four200
  deriving DecidableEq, Repr

/-- The links of a port in a mode (R450). -/
def EthMode.links : EthMode → Nat
  | .one800 => 1
  | .two400 => 2
  | .four200 => 4

/-- An Ethernet port (R450-R452): its mode, whether its link is up, the priorities that 802.1Qbb has paused, and
the connection-table base. -/
structure EthPort where
  mode : EthMode
  up : Bool
  paused : BitVec 8
  base : Nat
  deriving DecidableEq, Repr

/-- A port right after reset (notes/assumptions/14.md). -/
def EthPort.reset : EthPort := { mode := .one800, up := false, paused := 0, base := 0 }

/-- PCIe, Ethernet and interrupt delivery. -/
structure HostIo where
  /-- Width settings per port (R447): stored, and in force. -/
  widthStored : SMap Nat
  width : SMap Nat
  /-- INTx levels by `4 p + i` (R445). -/
  intx : SMap Bool
  /-- MSIs delivered to the interrupt files: address and data, oldest first (R444, R449). -/
  msis : List (Nat × U64)
  /-- Edges of APLIC sources 12 and 13 not yet delivered (R445). -/
  edges : List Nat
  /-- Answers returned to PCIe requesters: the completion status and its data (R449). -/
  completions : List (BitVec 16 × (Nat × Bytes))
  /-- Answers returned on Ethernet: port, connection, and data or a NAK (R452). -/
  rdmaAnswers : List (Nat × (Nat × Option Bytes))
  /-- Posted writes that harts sent into the PCIe memory windows: address and data, oldest first (R447). -/
  posted : List (Nat × Bytes)
  /-- Writes of harts taken by the blocks of R443 whose registers the spec does not give: address and data,
  oldest first (notes/assumptions/109.md). -/
  blockWrites : List (Nat × Bytes)
  eth : SMap EthPort
  rdma : List RdmaOut
  nextRdma : Nat
  deriving DecidableEq, Repr

/-- Host I/O right after a cold reset (notes/assumptions/14.md). -/
def HostIo.reset : HostIo :=
  { widthStored := [], width := [], intx := [], msis := [], edges := [], completions := [],
    rdmaAnswers := [], posted := [], blockWrites := [], eth := [], rdma := [], nextRdma := 0 }

end Sys2Proof.Machine
end

