-- ==== Sys2Proof/Machine/StatePower.lean ====
section
/-! DEFINITION. State of clocks, power and thermal control (17_power_clocks_thermal.md) and of the
pins (20_electrical_mechanical.md).

Sensors are numbered 0-11 the regions, 12-19 the HBM stacks, 20 the host die, 21 the coolant inlet
and 22 the coolant outlet. -/

namespace Sys2Proof.Machine

/-- A sensor register (R501). -/
structure Sensor where
  temp : BitVec 12
  valid : Bool
  throt : Bool
  maxT : BitVec 12
  deriving DecidableEq, Repr

def Sensor.reset : Sensor := { temp := 0, valid := false, throt := false, maxT := 0 }

/-- A region: activity, ceiling and droop stretch (R491-R493), and its ramp table. -/
structure Region where
  activity : BitVec 8
  ceiling : BitVec 8
  droop : Bool
  table : BitVec 2
  deriving DecidableEq, Repr

def Region.reset : Region := { activity := 0, ceiling := 255, droop := false, table := 0 }

/-- Clocks, limiters, counters and sensors. Frequencies are in MHz. -/
structure Power where
  root : Nat
  target : Nat
  /-- A slew has begun and has not ended (R477). -/
  slewing : Bool
  fixed : Bool
  boost : Bool
  /-- The boost setting from before fixed-frequency mode (R489). -/
  savedBoost : Bool
  requested : Nat
  capLim : Nat
  throtLim : Nat
  ocLim : Nat
  estLim : Option Nat
  limiter : BitVec 3
  dstate : BitVec 2
  /-- A `SET_DSTATE` transition is under way (R499). -/
  moving : Bool
  /-- The cap in force in this window, none when no cap is set, and the one of `SET_POWER_CAP`, in force from the next
  window (R487). -/
  cap : Option Nat
  capSet : Option Nat
  inputW : BitVec 16
  /-- Windows since the cap limiter last fell (R487). -/
  calm : Nat
  hostEnergy : U64
  modEnergy : U64
  qEnergy : SMap U64
  hbmEnergy : SMap U64
  wqEnergy : SMap U64
  intervals : BitVec 32
  lastLoop : BitVec 4
  /-- Start and end of the last 64 intervention intervals (R499). -/
  history : List (Nat × Nat)
  /-- Loops that acted in the current window (R490). -/
  acted : List Nat
  sensors : SMap Sensor
  regions : SMap Region
  /-- Stacks that refresh at twice the rate (R393). -/
  doubled : List Nat
  /-- Stacks whose sensor has delivered no reading since they trained (R393). -/
  unread : List Nat
  /-- Sensors whose throttle has started and has not ended (R493). -/
  throttled : List Nat
  /-- Quadrants capped at activity 128 by their rail (R495). -/
  railCap : List Nat
  deriving DecidableEq, Repr

/-- Right after reset (R479, R499-R501; notes/assumptions/9.md). -/
def Power.reset : Power :=
  { root := 0, target := 0, slewing := false, fixed := false, boost := false, savedBoost := false,
    requested := 0, capLim := 0, throtLim := 0, ocLim := 0, estLim := none, limiter := 0,
    dstate := 0, moving := false, cap := none, capSet := none, inputW := 0, calm := 100, hostEnergy := 0,
    modEnergy := 0, qEnergy := [], hbmEnergy := [], wqEnergy := [], intervals := 0, lastLoop := 0,
    history := [], acted := [], sensors := [], regions := [], doubled := [], unread := [], throttled := [],
    railCap := [] }

/-- Why the module sequencer took the rails down at once (R494, R550). -/
inductive TripCause where
  | sensor (n : Nat)
  | peak
  | overvoltage
  | rail (n : Nat)
  | refclk
  deriving DecidableEq, Repr

/-- Pins and the module sequencer (R547-R552). -/
structure Pins where
  pwrEn : Bool
  modRstN : Bool
  vinOk : Bool
  vsbOk : Bool
  refclk : Bool
  pgood : Bool
  faultN : Bool
  thermN : Bool
  /-- Rail groups in regulation, in the order they rose (R549). -/
  rails : List Nat
  /-- The cause of the last trip until the next boot records it (R550). -/
  cause : Option TripCause
  /-- The module waits for a rising edge of `PWR_EN` (R547). -/
  needEdge : Bool
  /-- The straps `SMB_ADDR1` and `SMB_ADDR0` (R548). -/
  smbAddr : BitVec 2
  /-- The SMBus pointer: `MB13` selected, and the offset, which may stand past the last byte (R554). -/
  smbSel : Bool
  smbOff : BitVec 13
  /-- Bytes of the last SMBus answer, and whether the last transaction was NACKed (R553, R554). -/
  smbData : Bytes
  smbNack : Bool
  deriving DecidableEq, Repr

/-- Unpowered but for `V_IN`, `VSB` and `REFCLK`; released open-drain outputs are high, `PGOOD` is
low (notes/assumptions/11.md). -/
def Pins.reset : Pins :=
  { pwrEn := false, modRstN := false, vinOk := true, vsbOk := true, refclk := true, pgood := false,
    faultN := true, thermN := true, rails := [], cause := none, needEdge := false, smbAddr := 3, smbSel := false,
    smbOff := 0, smbData := [], smbNack := false }

end Sys2Proof.Machine
end

