-- ==== Sys2Proof/Machine/Flags.lean ====
section
/-! DEFINITION. Exact binary numbers, the floating-point formats and their roundings
(05_matrix_units.md R171-R176, R187, R188; 06_vector_units.md R202, R203), and the status flags an
operation raises (R195, R223). -/

namespace Sys2Proof.Machine

/-- An exact value: NaN, a signed infinity, or `± m × 2 ^ e`. -/
inductive FNum where
  | nan
  | inf (neg : Bool)
  | fin (neg : Bool) (m : Nat) (e : Int)
  deriving DecidableEq, Repr

/-- Which codes of a format are not finite (R171): IEEE infinities and NaNs, the one NaN of E4M3 and
of U4M4, or none. -/
inductive FKind where
  | ieee | oneNan | finite
  deriving DecidableEq, Repr

/-- A floating-point format: exponent and fraction widths and exponent bias (R171). -/
structure FFmt where
  ew : Nat
  mw : Nat
  bias : Nat
  kind : FKind
  deriving DecidableEq, Repr

def fmtXF40 : FFmt := { ew := 8, mw := 31, bias := 127, kind := .ieee }
def fmtFP32 : FFmt := { ew := 8, mw := 23, bias := 127, kind := .ieee }
def fmtBF16 : FFmt := { ew := 8, mw := 7, bias := 127, kind := .ieee }
def fmtFP16 : FFmt := { ew := 5, mw := 10, bias := 15, kind := .ieee }
def fmtE4M3 : FFmt := { ew := 4, mw := 3, bias := 7, kind := .oneNan }
def fmtE5M2 : FFmt := { ew := 5, mw := 2, bias := 15, kind := .ieee }
def fmtE3M2 : FFmt := { ew := 3, mw := 2, bias := 3, kind := .finite }
def fmtE2M3 : FFmt := { ew := 2, mw := 3, bias := 1, kind := .finite }
def fmtE2M1 : FFmt := { ew := 2, mw := 1, bias := 1, kind := .finite }
def fmtU4M4 : FFmt := { ew := 4, mw := 4, bias := 7, kind := .oneNan }

/-- Width of a format with its sign bit. -/
def FFmt.width (f : FFmt) : Nat := f.ew + f.mw + 1

/-- The value a code denotes (R171, R174). -/
def fpDecode (f : FFmt) (x : Nat) : FNum :=
  let neg := bitOf x (f.ew + f.mw)
  let e := bitsOf x f.mw f.ew
  let m := bitsOf x 0 f.mw
  let top := e = 2 ^ f.ew - 1
  if f.kind = .ieee ∧ top then (if m = 0 then .inf neg else .nan)
  else if f.kind = .oneNan ∧ top ∧ m = 2 ^ f.mw - 1 then .nan
  else if e = 0 then .fin neg m (1 - (f.bias : Int) - f.mw)
  else .fin neg (2 ^ f.mw + m) ((e : Int) - f.bias - f.mw)

/-- The value of an E8M0 block scale (R171). -/
def e8m0 (v : Nat) : FNum := if v = 255 then .nan else .fin false 1 ((v : Int) - 127)

/-- A two's complement integer as an exact number; zero is +0. -/
def fnOfInt (i : Int) : FNum := .fin (decide (i < 0)) i.natAbs 0

/-- Whether a value is a zero. -/
def fnIsZero : FNum → Bool
  | .fin _ m _ => m = 0
  | _ => false

def fnIsNan : FNum → Bool
  | .nan => true
  | _ => false

def fnIsFinite : FNum → Bool
  | .fin _ _ _ => true
  | _ => false

/-- Sign of a value (false for NaN). -/
def fnNeg : FNum → Bool
  | .nan => false
  | .inf n => n
  | .fin n _ _ => n

/-- The value with its sign flipped; NaN stays. -/
def fnFlip : FNum → FNum
  | .nan => .nan
  | .inf n => .inf !n
  | .fin n m e => .fin (!n) m e

/-- Exact product (R172, R173). -/
def fnMul : FNum → FNum → FNum
  | .nan, _ => .nan
  | _, .nan => .nan
  | .inf a, .inf b => .inf (a ^^ b)
  | .inf a, .fin b m _ => if m = 0 then .nan else .inf (a ^^ b)
  | .fin a m _, .inf b => if m = 0 then .nan else .inf (a ^^ b)
  | .fin a m e, .fin b n f => .fin (a ^^ b) (m * n) (e + f)

/-- A finite magnitude as an integer multiple of `2 ^ q`, for `q ≤ e`. -/
def scaleTo (m : Nat) (e q : Int) : Nat := m * 2 ^ (e - q).toNat

/-- Exact sum: IEEE 754 special values; an exact zero sum is -0 only if both terms are -0 (R176). -/
def fnAdd : FNum → FNum → FNum
  | .nan, _ => .nan
  | _, .nan => .nan
  | .inf a, .inf b => if a = b then .inf a else .nan
  | .inf a, .fin _ _ _ => .inf a
  | .fin _ _ _, .inf b => .inf b
  | .fin a m e, .fin b n f =>
    let q := min e f
    let x := scaleTo m e q
    let y := scaleTo n f q
    if a = b then .fin a (x + y) q
    else if x = y then .fin false 0 q
    else if y < x then .fin a (x - y) q
    else .fin b (y - x) q

/-- Exact sum of a list; the empty sum is -0, the neutral value of R176. -/
def fnSum (xs : List FNum) : FNum := xs.foldl fnAdd (.fin true 0 0)

/-- Comparison of finite or infinite values: whether `a < b`; false when either is NaN. -/
def fnLt : FNum → FNum → Bool
  | .nan, _ => false
  | _, .nan => false
  | .inf a, .inf b => a && !b
  | .inf a, .fin _ _ _ => a
  | .fin _ _ _, .inf b => !b
  | .fin a m e, .fin b n f =>
    let q := min e f
    let x : Int := if a then -(scaleTo m e q : Int) else scaleTo m e q
    let y : Int := if b then -(scaleTo n f q : Int) else scaleTo n f q
    decide (x < y)

/-- Whether two values are equal as numbers; NaN equals nothing. -/
def fnEq (a b : FNum) : Bool :=
  !fnIsNan a && !fnIsNan b && !fnLt a b && !fnLt b a

/-- Rounding directions (R149, R153). -/
inductive RMode where
  | nearest | zero | down | up
  deriving DecidableEq, Repr

/-- `m / 2 ^ k` rounded to an integer; `neg` is the sign of the value. -/
def shiftRound (r : RMode) (neg : Bool) (m k : Nat) : Nat :=
  let q := m / 2 ^ k
  let rem := m % 2 ^ k
  let up := match r with
    | .nearest => decide (2 ^ k < 2 * rem) || (decide (2 * rem = 2 ^ k) && decide (q % 2 = 1))
    | .zero => false
    | .down => neg && decide (rem ≠ 0)
    | .up => !neg && decide (rem ≠ 0)
  if up then q + 1 else q

/-- The code of a finite magnitude rounded to a format as if its exponents had no upper bound: codes
rise with magnitude, and a code above `maxFinite` overflows. Gradual underflow (R187). -/
def roundMag (f : FFmt) (r : RMode) (neg : Bool) (m : Nat) (e : Int) : Nat :=
  if m = 0 then 0
  else
    let top : Int := (Nat.log2 m : Int) + e
    let qmin : Int := 1 - (f.bias : Int) - f.mw
    let q := max (top - f.mw) qmin
    let n := if q ≤ e then scaleTo m e q else shiftRound r neg m (q - e).toNat
    (q - qmin).toNat * 2 ^ f.mw + n

/-- The code of the largest finite magnitude of a format (R171). -/
def maxFinite (f : FFmt) : Nat :=
  match f.kind with
  | .ieee => (2 ^ f.ew - 1) * 2 ^ f.mw - 1
  | .oneNan => 2 ^ (f.ew + f.mw) - 2
  | .finite => 2 ^ (f.ew + f.mw) - 1

/-- A code with its sign bit. -/
def withSign (f : FFmt) (neg : Bool) (code : Nat) : Nat := code + boolNat neg * 2 ^ (f.ew + f.mw)

/-- The canonical NaN of a format (R176, R187): quiet, positive; all ones for E4M3. -/
def canonNan (f : FFmt) : Nat :=
  match f.kind with
  | .ieee => (2 ^ f.ew - 1) * 2 ^ f.mw + 2 ^ (f.mw - 1)
  | _ => 2 ^ (f.ew + f.mw) - 1

/-- The code of an infinity; a format without one gives its NaN code or largest finite magnitude. -/
def infCode (f : FFmt) (neg : Bool) : Nat :=
  match f.kind with
  | .ieee => withSign f neg ((2 ^ f.ew - 1) * 2 ^ f.mw)
  | .oneNan => canonNan f
  | .finite => withSign f neg (maxFinite f)

/-- Whether a value overflows a format under a rounding (finite values only). -/
def fpOverflows (f : FFmt) (r : RMode) : FNum → Bool
  | .fin n m e => decide (maxFinite f < roundMag f r n m e)
  | _ => false

/-- Whether an overflow in this direction gives the largest finite magnitude (IEEE 754). -/
def overflowStays (r : RMode) (neg : Bool) : Bool :=
  match r with
  | .nearest => false
  | .zero => true
  | .down => !neg
  | .up => neg

/-- A value rounded once to an IEEE-like format, with IEEE overflow: an infinity, or the largest
finite magnitude where the direction keeps it. -/
def fpRound (f : FFmt) (r : RMode) : FNum → Nat
  | .nan => canonNan f
  | .inf n => infCode f n
  | .fin n m e =>
    let c := roundMag f r n m e
    if c ≤ maxFinite f then withSign f n c
    else if overflowStays r n then withSign f n (maxFinite f)
    else infCode f n

/-- A value rounded to a format and read back. -/
def fpRequant (f : FFmt) (r : RMode) (x : FNum) : FNum := fpDecode f (fpRound f r x)

/-- `⌊log2 |x|⌋` of a non-zero finite value. -/
def fnLog2 : FNum → Int
  | .fin _ m e => (Nat.log2 m : Int) + e
  | _ => 0

/-- Magnitude of a value. -/
def fnAbs : FNum → FNum
  | .nan => .nan
  | .inf _ => .inf false
  | .fin _ m e => .fin false m e

/-- A value times `2 ^ k`. -/
def fnScale (k : Int) : FNum → FNum
  | .fin n m e => .fin n m (e + k)
  | x => x

/-- Flags a matrix operation raises (R195). -/
structure MFlags where
  ovf : Bool
  invalid : Bool
  nanin : Bool
  dovf : Bool
  bump : Bool
  deriving DecidableEq, Repr

def MFlags.none : MFlags :=
  { ovf := false, invalid := false, nanin := false, dovf := false, bump := false }

def MFlags.or (a b : MFlags) : MFlags :=
  { ovf := a.ovf || b.ovf, invalid := a.invalid || b.invalid, nanin := a.nanin || b.nanin,
    dovf := a.dovf || b.dovf, bump := a.bump || b.bump }

/-- Flags a vector or SFU operation raises (R223). -/
structure VFlags where
  invalid : Bool
  ovf : Bool
  nanin : Bool
  irange : Bool
  bump : Bool
  deriving DecidableEq, Repr

def VFlags.none : VFlags :=
  { invalid := false, ovf := false, nanin := false, irange := false, bump := false }

def VFlags.or (a b : VFlags) : VFlags :=
  { invalid := a.invalid || b.invalid, ovf := a.ovf || b.ovf, nanin := a.nanin || b.nanin,
    irange := a.irange || b.irange, bump := a.bump || b.bump }

end Sys2Proof.Machine
end

