-- ==== Sys2Proof/Machine/SfuExact.lean ====
section
/-! DEFINITION. The exact values of the functions of 07_special_functions.md R228, from which R229 measures the error of
a result: power series in fixed point with 320 fraction bits, which errs by less than 2^-200
(notes/assumptions/22.md). -/

namespace Sys2Proof.Machine

/-- The fixed-point unit, and its square. -/
def fixOne : Int := 2 ^ 320

/-- Product and quotient of fixed-point numbers. -/
def fixMul (a b : Int) : Int := a * b / fixOne
def fixDiv (a b : Int) : Int := a * fixOne / b

/-- A finite value in fixed point, and back. -/
def fixOf : FNum → Int
  | .fin n m e =>
    let x : Int := if 0 ≤ e + 320 then m * 2 ^ (e + 320).toNat else m / 2 ^ (-(e + 320)).toNat
    if n then -x else x
  | _ => 0

def ofFix (x : Int) : FNum := .fin (decide (x < 0)) x.natAbs (-320)

/-- The first `n` terms of a series: term `i` has the weight `out i`, and `step i` leads to the next. -/
def fixSum (step out : Nat → Int → Int) : Nat → Nat → Int → Int → Int
  | 0, _, _, acc => acc
  | n + 1, i, t, acc => fixSum step out n (i + 1) (step i t) (acc + out i t)

/-- Terms of an odd series: each is divided by its power. -/
def oddTerm (i : Nat) (t : Int) : Int := t / (2 * i + 1)

/-- e^r for 0 ≤ r < 1. -/
def fixExpFrac (r : Int) : Int := fixSum (fun i t => fixMul t r / (i + 1)) (fun _ t => t) 80 0 fixOne 0

/-- The inverse hyperbolic tangent for |z| ≤ 1/3. -/
def fixAtanh (z : Int) : Int := fixSum (fun _ t => fixMul t (fixMul z z)) oddTerm 110 0 z 0

/-- ln 2 = 2 artanh (1/3). -/
def fixLn2 : Int := 2 * fixAtanh (fixOne / 3)

/-- arctan (1/q) for a whole q ≥ 5, and π = 16 arctan (1/5) - 4 arctan (1/239). -/
def fixAtanInv (q : Int) : Int := fixSum (fun _ t => -t / (q * q)) oddTerm 80 0 (fixOne / q) 0
def fixPi : Int := 16 * fixAtanInv 5 - 4 * fixAtanInv 239

/-- 2^f for 0 ≤ f < 1. -/
def fixExp2 (f : Int) : Int := fixExpFrac (fixMul f fixLn2)

/-- e^x. -/
def fixExp (x : Int) : Int :=
  let k := x / fixLn2
  let y := fixExpFrac (x - k * fixLn2)
  if 0 ≤ k then y * 2 ^ k.toNat else y / 2 ^ (-k).toNat

/-- log2 m for 1 ≤ m < 2. -/
def fixLog2 (m : Int) : Int := fixDiv (2 * fixAtanh (fixDiv (m - fixOne) (m + fixOne))) fixLn2

/-- tanh a for a > 0. -/
def fixTanh (a : Int) : Int :=
  let y := fixExp (2 * a)
  fixDiv (y - fixOne) (y + fixOne)

/-- 1 / (1 + e^-x). -/
def fixSig (x : Int) : Int := fixDiv (fixExp x) (fixOne + fixExp x)

/-- 2 / √π times 2^128, rounded down. -/
def twoOverSqrtPi : Nat := 383967533763538142977158567454335403656

/-- erf a for 0 ≤ a < 4. -/
def fixErf (a : Int) : Int :=
  fixSum (fun i t => -(fixMul t (fixMul a a)) / (i + 1)) oddTerm 240 0 a 0 * twoOverSqrtPi / 2 ^ 128

/-- sin and cos of an angle below π in turns. -/
def fixSin (u : Int) : Int :=
  let x := fixMul (2 * fixPi) u
  fixSum (fun i t => -(fixMul t (fixMul x x)) / ((2 * i + 2) * (2 * i + 3))) (fun _ t => t) 70 0 x 0

def fixCos (u : Int) : Int :=
  let x := fixMul (2 * fixPi) u
  fixSum (fun i t => -(fixMul t (fixMul x x)) / ((2 * i + 1) * (2 * i + 2))) (fun _ t => t) 70 0 fixOne 0

end Sys2Proof.Machine
end

