-- ==== Sys2Proof/Machine/MatrixNum.lean ====
section
/-! DEFINITION. Matrix arithmetic as functions of the operand bytes and the tile
(05_matrix_units.md R164-R193). A tile is a table of XF40 codes: cell (i, j) of the real part under
128 i + j, of the imaginary part under 16384 + 128 i + j. -/

namespace Sys2Proof.Machine

/-- Element width in bits of a matrix format code (R166). -/
def mxWidth (fmt : Nat) : Nat :=
  match fmt with
  | 0 | 1 => 16
  | 6 | 7 => 6
  | 8 | 9 => 4
  | 11 => 32
  | _ => 8

/-- Exact-group size of a format code (R145). -/
def mxGroup (fmt : Nat) : Nat := if fmt = 0 ∨ fmt = 1 then 2 else 32

/-- Whether a format carries a block-scale array (R169). -/
def mxScaled (fmt : Nat) : Bool := decide (4 ≤ fmt ∧ fmt ≤ 9)

/-- The value of an element code (R171). -/
def mxElem (fmt x : Nat) : FNum :=
  match fmt with
  | 0 => fpDecode fmtBF16 x
  | 1 => fpDecode fmtFP16 x
  | 2 | 4 => fpDecode fmtE4M3 x
  | 3 | 5 => fpDecode fmtE5M2 x
  | 6 => fpDecode fmtE3M2 x
  | 7 => fpDecode fmtE2M3 x
  | 8 | 9 => fpDecode fmtE2M1 x
  | 10 => fnOfInt (if x < 128 then (x : Int) else (x : Int) - 256)
  | _ => fpDecode fmtFP32 x

/-- The value of a block-scale byte: E8M0, or U4M4 for T4 (R171). -/
def mxScale (fmt x : Nat) : FNum := if fmt = 9 then fpDecode fmtU4M4 x else e8m0 x

/-- The code of element `k` of a packed row at byte `base` (R166, R167). -/
def elemAt (rd : Nat → Byte) (w base k : Nat) : Nat :=
  match w with
  | 4 => bitsOf (rd (base + k / 2)).toNat (4 * (k % 2)) 4
  | 6 => bitsOf (ofBytes [rd (base + 3 * (k / 4)), rd (base + 3 * (k / 4) + 1),
           rd (base + 3 * (k / 4) + 2)]) (6 * (k % 4)) 6
  | _ => ofBytes ((List.range (w / 8)).map (fun b => rd (base + k * (w / 8) + b)))

/-- The bytes of a row of `n` element codes of width `w` (R167, R190). -/
def packRow (w : Nat) : List Nat → Bytes
  | [] => []
  | xs => toBytes ((xs.length * w + 7) / 8)
      (xs.foldr (fun x acc => x % 2 ^ w + acc * 2 ^ w) 0)

/-- Operands of an `MMA` or `MMAC` as values: formats, offsets, strides, K, scale bases and tensor
scales. -/
structure MmaArgs where
  complex : Bool
  acc : Bool
  fmtA : Nat
  fmtB : Nat
  offA : Nat
  strA : Nat
  offB : Nat
  strB : Nat
  k : Nat
  scA : Nat
  scB : Nat
  tA : FNum
  tB : FNum
  deriving DecidableEq, Repr

/-- Whether the tensor scales take part in a product (R172). -/
def usesTensor (fmt : Nat) : Bool := fmt = 2 || fmt = 3 || fmt = 9

/-- Component `part` (0 real, 1 imaginary) of element `k` of row `i` of A. -/
def aElem (rd : Nat → Byte) (g : MmaArgs) (i k part : Nat) : FNum :=
  let w := mxWidth g.fmtA
  mxElem g.fmtA (elemAt rd w (g.offA + i * g.strA) (if g.complex then 2 * k + part else k))

/-- Component `part` of element `j` of row `k` of B. -/
def bElem (rd : Nat → Byte) (g : MmaArgs) (k j part : Nat) : FNum :=
  let w := mxWidth g.fmtB
  mxElem g.fmtB (elemAt rd w (g.offB + k * g.strB) (if g.complex then 2 * j + part else j))

/-- The scale factors of a product (R172). -/
def scaleFactors (rd : Nat → Byte) (g : MmaArgs) (i j k : Nat) : List FNum :=
  (if mxScaled g.fmtA then
    [mxScale g.fmtA (rd (g.scA + 128 * (k / 32) + i)).toNat,
     mxScale g.fmtB (rd (g.scB + 128 * (k / 32) + j)).toNat] else []) ++
  (if usesTensor g.fmtA then [g.tA, g.tB] else [])

/-- An exact product of factors, and its flags: a NaN factor, or NaN from 0 × ∞ (R173, R195). The
order of the factors does not matter: a zero and an infinity among them give NaN. -/
def product (fs : List FNum) : FNum × MFlags :=
  let anyNan := fs.any fnIsNan
  let anyInf := fs.any (fun f => !fnIsFinite f && !fnIsNan f)
  let neg := fs.foldl (fun s f => s ^^ fnNeg f) false
  if anyNan then (.nan, { MFlags.none with nanin := true })
  else if anyInf then
    if fs.any fnIsZero then (.nan, { MFlags.none with invalid := true }) else (.inf neg, MFlags.none)
  else (fs.foldl fnMul (.fin false 1 0), MFlags.none)

/-- The products of cell (i, j), part `part`, for one value of k: one for a real step (R164), two
for each part of a complex one (R184). -/
def stepProducts (rd : Nat → Byte) (g : MmaArgs) (i j part k : Nat) : List (FNum × MFlags) :=
  let sc := scaleFactors rd g i j k
  if g.complex then
    let ar := aElem rd g i k 0
    let ai := aElem rd g i k 1
    let br := bElem rd g k j 0
    let bi := bElem rd g k j 1
    if part = 0 then
      let (p, f) := product (ai :: bi :: sc)
      [product (ar :: br :: sc), (fnFlip p, f)]
    else [product (ar :: bi :: sc), product (ai :: br :: sc)]
  else [product (aElem rd g i k 0 :: bElem rd g k j 0 :: sc)]

/-- A sum of terms with its flags: NaN from terms that are not NaN is INVALID (R176, R195). -/
def sumFlags (ts : List FNum) : FNum × MFlags :=
  let s := fnSum ts
  (s, { MFlags.none with invalid := fnIsNan s && !ts.any fnIsNan })

/-- One group-add (R175): the exact group sum added to the previous value, if any, and rounded once
to XF40. -/
def groupAdd (t : Option FNum) (ps : List (FNum × MFlags)) : FNum × MFlags :=
  let (s, fs) := sumFlags (ps.map (·.1))
  let fp := ps.foldl (fun f p => f.or p.2) MFlags.none
  let (x, fx) := match t with
    | none => (s, MFlags.none)
    | some t => sumFlags [t, s]
  let y := fpRequant fmtXF40 .nearest x
  (y, ((fp.or fs).or fx).or { MFlags.none with ovf := fnIsFinite x && !fnIsFinite y })

/-- The accumulation of one cell and part over the groups of one operation (R165, R175). -/
def cellRun (rd : Nat → Byte) (g : MmaArgs) (t0 : FNum) (i j part : Nat) : FNum × MFlags :=
  let G := mxGroup g.fmtA
  let r := (List.range (g.k / G)).foldl (fun (st : Option FNum × MFlags) gi =>
    let ps := (span (gi * G) G).flatMap (stepProducts rd g i j part)
    let (y, f) := groupAdd st.1 ps
    (some y, st.2.or f)) ((if g.acc then some t0 else none), MFlags.none)
  (r.1.getD t0, r.2)

/-- A table of XF40 codes for the keys 0 to n - 1 (zero codes are not listed). -/
def mkTile (n : Nat) (f : Nat → Nat) : SMap XF40 :=
  (List.range n).filterMap (fun k => let v := BitVec.ofNat 40 (f k); if v = 0 then none else some (k, v))

/-- Cells of a tile by mode: 16,384, or twice as many in complex mode (R163). -/
def tileKeys (complex : Bool) : Nat := if complex then 32768 else 16384

/-- The value of a tile's cell. -/
def tileVal (t : SMap XF40) (key : Nat) : FNum := fpDecode fmtXF40 (tblGet 0 t key).toNat

/-- The tile after an `MMA` or `MMAC`, and the flags it raises (R175, R184). -/
def mmaRun (rd : Nat → Byte) (g : MmaArgs) (t : SMap XF40) : SMap XF40 × MFlags :=
  let run (key : Nat) := cellRun rd g (tileVal t key) (key % 16384 / 128) (key % 128) (key / 16384)
  (mkTile (tileKeys g.complex) (fun key => fpRound fmtXF40 .nearest (run key).1),
   (List.range (tileKeys g.complex)).foldl (fun f key => f.or (run key).2) MFlags.none)

/-- Group-adds of one operation on one part (R181). -/
def groupsOf (g : MmaArgs) : Nat := g.k / mxGroup g.fmtA

/-! ## Draining -/

/-- Element format of an output code (R149, R186). -/
def drainFmt (d : Nat) : FFmt :=
  match d with
  | 0 => fmtBF16
  | 1 => fmtFP16
  | 2 | 4 => fmtE4M3
  | 3 | 5 => fmtE5M2
  | 6 => fmtE3M2
  | 7 => fmtE2M3
  | 8 => fmtE2M1
  | _ => fmtFP32

/-- Whether an output code is an MX format. -/
def drainMx (d : Nat) : Bool := decide (4 ≤ d ∧ d ≤ 8)

/-- One value converted to an output format without block scales (R187, R188): its code and
whether `DOVF` is raised. -/
def drainOne (d : Nat) (r : RMode) (sat : Bool) (x : FNum) : Nat × Bool :=
  let f := drainFmt d
  match x with
  | .nan => (canonNan f, false)
  | .inf n =>
    ((if sat then withSign f n (maxFinite f) else infCode f n), true)
  | x =>
    let n := fnNeg x
    if fpOverflows f r x then
      ((if sat || overflowStays r n then withSign f n (maxFinite f) else infCode f n), true)
    else (fpRound f r x, false)

/-- Exponent of the largest finite normal value of an MX element format (R189). -/
def eMax (f : FFmt) : Int := (maxFinite f / 2 ^ f.mw : Nat) - (f.bias : Int)

/-- The elements of a block for scale exponent `X`: codes, and whether any exceeds the format's
largest finite magnitude (R189 steps 3 and 4). -/
def blockElems (f : FFmt) (r : RMode) (X : Int) (xs : List FNum) : List Nat × Bool :=
  (xs.map (fun x =>
     let y := fnScale (-X) x
     if fpOverflows f r y then withSign f (fnNeg x) (maxFinite f) else fpRound f r y),
   xs.any (fun x => fpOverflows f r (fnScale (-X) x)))

/-- The starting scale exponent of a block: ⌊log2 M⌋ - e_max clamped to -127..127, or -127 for an
all-zero block (R189 step 2). -/
def blockExp (f : FFmt) (xs : List FNum) : Int :=
  let nz := xs.filter (fun x => !fnIsZero x)
  match nz with
  | [] => -127
  | y :: ys =>
    let top := ys.foldl (fun m x => max m (fnLog2 x)) (fnLog2 y)
    max (-127) (min 127 (top - eMax f))

/-- One block of an MX output (R189): element codes, scale byte, `DOVF` and `BUMP`. `clip` is
saturation: `SAT` = 1, or `DFMT` 0x8. -/
def mxBlock (f : FFmt) (r : RMode) (clip : Bool) (xs : List FNum) : List Nat × Nat × Bool × Bool :=
  if xs.any (fun x => !fnIsFinite x) then (xs.map (fun _ => 0), 255, true, false)
  else
    let bx := blockExp f xs
    let (es, ovf) := blockElems f r bx xs
    if !ovf then (es, (bx + 127).toNat, false, false)
    else if clip || bx = 127 then (es, (bx + 127).toNat, true, false)
    else ((blockElems f r (bx + 1) xs).1, (bx + 128).toNat, false, true)

/-- The blocks of a list of values, 32 to a block. -/
def mxBlocks (f : FFmt) (r : RMode) (clip : Bool) : Nat → List FNum →
    List (List Nat × Nat × Bool × Bool)
  | 0, _ => []
  | n + 1, xs => mxBlock f r clip (xs.take 32) :: mxBlocks f r clip n (xs.drop 32)

/-- Parameters of a `ZDRAIN` as values. -/
structure DrainArgs where
  dfmt : Nat
  rm : RMode
  sat : Bool
  off : Nat
  str : Nat
  sc : Nat
  mult : FNum
  deriving DecidableEq, Repr

/-- The values of row `i` of a tile in drain order: 128 real values, or 128 complex values with the
real part first (R190). -/
def tileRow (t : SMap XF40) (complex : Bool) (i : Nat) : List FNum :=
  if complex then
    (List.range 128).flatMap (fun j => [tileVal t (128 * i + j), tileVal t (16384 + 128 * i + j)])
  else (List.range 128).map (fun j => tileVal t (128 * i + j))

/-- What a drain writes for row `i`: the row's bytes, its scale bytes, and its flags
(R187-R190). -/
def drainRow (t : SMap XF40) (complex : Bool) (g : DrainArgs) (i : Nat) :
    Bytes × List Nat × MFlags :=
  let xs := tileRow t complex i
  if drainMx g.dfmt then
    let bs := mxBlocks (drainFmt g.dfmt) g.rm (g.sat || g.dfmt = 8) 4 xs
    (packRow (mxWidth g.dfmt) (bs.flatMap (·.1)), bs.map (·.2.1),
     { MFlags.none with dovf := bs.any (·.2.2.1), bump := bs.any (·.2.2.2) })
  else
    let out (x : FNum) : FNum := if g.dfmt = 2 || g.dfmt = 3 then fnMul x g.mult else x
    let ys := xs.map (fun x => drainOne g.dfmt g.rm g.sat (out x))
    (packRow (mxWidth g.dfmt) (ys.map (·.1)), [],
     { MFlags.none with
       dovf := ys.any (·.2)
       invalid := xs.any (fun x => fnIsNan (out x) && !fnIsNan x && (!fnIsNan g.mult)) })

/-- Row length in bytes of a drain (R190). -/
def drainRowLen (dfmt : Nat) (complex : Bool) : Nat := 16 * mxWidth dfmt * (if complex then 2 else 1)

/-- The writes of a drain, in order: rows in increasing order, then the scale bytes (R190, R191). -/
def drainWrites (t : SMap XF40) (complex : Bool) (g : DrainArgs) : List (Nat × Bytes) :=
  (List.range 128).map (fun i => (g.off + i * g.str, (drainRow t complex g i).1)) ++
  (if drainMx g.dfmt then
    (List.range 128).flatMap (fun i =>
      (drainRow t complex g i).2.1.mapIdx (fun b v => (g.sc + 128 * b + i, [BitVec.ofNat 8 v])))
   else [])

/-- The flags of a drain. -/
def drainFlags (t : SMap XF40) (complex : Bool) (g : DrainArgs) : MFlags :=
  (List.range 128).foldl (fun f i => f.or (drainRow t complex g i).2.2) MFlags.none

/-! ## Loading -/

/-- A tile loaded from the store (R193): every value converts exactly, a NaN becomes the canonical
one and raises `NANIN`. -/
def zloadRun (rd : Nat → Byte) (sfmt off str : Nat) : SMap XF40 × MFlags :=
  let val (key : Nat) := mxElem sfmt (elemAt rd (mxWidth sfmt) (off + key / 128 * str) (key % 128))
  (mkTile 16384 (fun key => fpRound fmtXF40 .nearest (val key)),
   { MFlags.none with nanin := (List.range 16384).any (fun key => fnIsNan (val key)) })

end Sys2Proof.Machine
end

