-- ==== Sys2Proof/Machine/VectorNum.lean ====
section
/-! DEFINITION. Vector arithmetic as functions of a unit's registers and masks
(06_vector_units.md R198-R221). Row r of register n is listed under 16 n + r, row r of mask m under
16 m + r. -/

namespace Sys2Proof.Machine

/-- Container width of an element type (R199). -/
def vtWidth (t : Nat) : Nat :=
  match t with
  | 0 | 8 => 32
  | 1 | 2 | 9 => 16
  | 7 | 11 => 4
  | _ => 8

/-- Elements of a type in one row (R199). -/
def vtCount (t : Nat) : Nat := 2048 / vtWidth t

/-- Whether a type is an integer type (R152). -/
def vtInt (t : Nat) : Bool := decide (8 ≤ t)

/-- Format of a floating-point type (R152). -/
def vtFmt (t : Nat) : FFmt :=
  match t with
  | 0 => fmtFP32
  | 1 => fmtBF16
  | 2 => fmtFP16
  | 3 => fmtE4M3
  | 4 => fmtE5M2
  | 5 => fmtE3M2
  | 6 => fmtE2M3
  | _ => fmtE2M1

/-- A two's complement value of `c` bits. -/
def sextNat (c x : Nat) : Int := if 2 * (x % 2 ^ c) < 2 ^ c then (x % 2 ^ c : Nat) else ((x % 2 ^ c : Nat) : Int) - 2 ^ c

/-- The low `c` bits of an integer. -/
def wrapInt (c : Nat) (i : Int) : Nat := (i % (2 ^ c : Int)).toNat

/-- The value of an element code; bits beyond the element are ignored (R199). -/
def vtValue (t x : Nat) : FNum :=
  if vtInt t then fnOfInt (sextNat (vtWidth t) x)
  else fpDecode (vtFmt t) (x % 2 ^ (vtFmt t).width)

abbrev VRegs := SMap (BitVec 2048)
abbrev VMasks := SMap (BitVec 256)

/-- Row `r` of register `n`. -/
def vRow (v : VRegs) (n r : Nat) : BitVec 2048 := tblGet 0 v (16 * (n % 32) + r)

/-- Element `e` of a row for container width `c`. -/
def rowElem (c : Nat) (row : BitVec 2048) (e : Nat) : Nat := bitsOf row.toNat (c * e) c

/-- A row built from element codes. -/
def mkRow (c : Nat) (xs : List Nat) : BitVec 2048 :=
  BitVec.ofNat 2048 (xs.foldr (fun x acc => x % 2 ^ c + acc * 2 ^ c) 0)

/-- Element `e` of row `r` of the group that starts at register `b`, `n` elements to a register
(R209). -/
def groupElem (v : VRegs) (c n b r e : Nat) : Nat := rowElem c (vRow v (b + e / n) r) (e % n)

/-- Whether element `e` (container `c`) of row `r` is active (R200, R202). -/
def vActive (m : VMasks) (f : VecF) (c r e : Nat) : Bool :=
  !f.men || (tblGet 0 m (16 * f.msk.toNat + r)).getLsbD (c * e / 8)

/-- A result code with the flags of one element. -/
abbrev Elem := Nat × VFlags

/-- An element-wise row (R202): inactive elements keep the old value or become zero. -/
def ewRow (c n : Nat) (act : Nat → Bool) (mz : Bool) (old op : Nat → Elem) :
    BitVec 2048 × VFlags :=
  let es := (List.range n).map (fun e =>
    if act e then op e else if mz then (0, VFlags.none) else ((old e).1, VFlags.none))
  (mkRow c (es.map (·.1)), es.foldl (fun g e => g.or e.2) VFlags.none)

/-- An exact result rounded to `T` with its flags: NaN from non-NaN inputs is INVALID, overflow of a
finite result OVF, a NaN input NANIN (R203, R223). -/
def fpResult (t : Nat) (ins : List FNum) (x : FNum) : Elem :=
  let f := vtFmt t
  (fpRound f .nearest x,
   { VFlags.none with
     nanin := ins.any fnIsNan
     invalid := fnIsNan x && !ins.any fnIsNan
     ovf := fpOverflows f .nearest x })

/-- Minimum or maximum of floating-point values: NaN if either is NaN, -0 below +0 (R204). -/
def fnPick (hi : Bool) (a b : FNum) : FNum :=
  if fnIsNan a || fnIsNan b then .nan
  else
    let aLess := fnLt a b || (fnEq a b && fnNeg a && !fnNeg b)
    if aLess = hi then b else a

/-- A shift of a `c`-bit element (R206). -/
def vShift (op : VOp) (c x s : Nat) : Nat :=
  match op with
  | .vsll => if s < c then x * 2 ^ s % 2 ^ c else 0
  | .vsrl => if s < c then x / 2 ^ s else 0
  | _ => wrapInt c (sextNat c x / (2 ^ min s c : Int))

/-- Arithmetic of one element on two's complement integers (R205). -/
def intElem (op : VOp) (c : Nat) (a b : Nat) : Nat :=
  let x := sextNat c a
  let y := sextNat c b
  match op with
  | .vadd | .vadds => wrapInt c (x + y)
  | .vsub => wrapInt c (x - y)
  | .vmul | .vmuls => wrapInt c (x * y)
  | .vmin => wrapInt c (min x y)
  | .vmax => wrapInt c (max x y)
  | .vabs => wrapInt c x.natAbs
  | _ => wrapInt c (-x)

/-- Arithmetic of one floating-point element (R203, R204). -/
def fpElem (op : VOp) (t a b d : Nat) : Elem :=
  let f := vtFmt t
  let x := vtValue t a
  let y := vtValue t b
  let z := vtValue t d
  match op with
  | .vadd | .vadds => fpResult t [x, y] (fnAdd x y)
  | .vsub => fpResult t [x, y] (fnAdd x (fnFlip y))
  | .vmul | .vmuls => fpResult t [x, y] (fnMul x y)
  | .vfma | .vfmas => fpResult t [x, y, z] (fnAdd (fnMul x y) z)
  | .vfnma => fpResult t [x, y, z] (fnAdd z (fnFlip (fnMul x y)))
  | .vmin => fpResult t [x, y] (fnPick false x y)
  | .vmax => fpResult t [x, y] (fnPick true x y)
  | .vabs => (a % 2 ^ (f.ew + f.mw), VFlags.none)
  | _ => (a ^^^ 2 ^ (f.ew + f.mw), VFlags.none)

/-- One element of an element-wise operation from its operand codes (R203-R208): first, second and
third operand. -/
def vElem (op : VOp) (t fn a b d : Nat) : Elem :=
  let c := vtWidth t
  match op with
  | .vand => (a &&& b, VFlags.none)
  | .vor => (a ||| b, VFlags.none)
  | .vxor => (a ^^^ b, VFlags.none)
  | .vnot => (2 ^ c - 1 - a, VFlags.none)
  | .vsll | .vsrl | .vsra =>
    (vShift op c a (if bitOf fn 6 then bitsOf fn 0 6 else bitsOf b 0 6), VFlags.none)
  | .vmov | .vbcast => (a % 2 ^ (if t = 5 ∨ t = 6 then 6 else c), VFlags.none)
  | op => if vtInt t then (intElem op c a b, VFlags.none) else fpElem op t a b d

/-- The operand codes of an element-wise operation, by its operand fields (R153, R201): scalar
operands are `RS`[c - 1:0] (R207). -/
def ewOperands (v : VRegs) (op : VOp) (f : VecF) (rs : U64) (r e : Nat) : Nat × Nat × Nat :=
  let c := vtWidth f.t.toNat
  let s := rs.toNat % 2 ^ c
  let x1 := rowElem c (vRow v f.vs1.toNat r) e
  let x2 := rowElem c (vRow v f.vs2.toNat r) e
  match op with
  | .vadds | .vmuls => (x1, s, 0)
  | .vfmas => (x1, s, x2)
  | .vbcast => (s, 0, 0)
  | _ => (x1, x2, rowElem c (vRow v f.vs3.toNat r) e)

/-- What a vector or SFU operation writes: register rows, mask rows and flags. -/
structure VOut where
  regs : List (Nat × BitVec 2048)
  masks : List (Nat × BitVec 256)
  flags : VFlags

/-- Rows of one destination register. -/
def outRows (n : Nat) (row : Nat → BitVec 2048 × VFlags) : VOut :=
  { regs := (List.range 16).map (fun r => (16 * (n % 32) + r, (row r).1)), masks := [],
    flags := (List.range 16).foldl (fun g r => g.or (row r).2) VFlags.none }

/-- Two results joined. -/
def VOut.join (a b : VOut) : VOut :=
  { regs := a.regs ++ b.regs, masks := a.masks ++ b.masks, flags := a.flags.or b.flags }

/-- An element-wise operation (R202-R207). -/
def ewRun (v : VRegs) (m : VMasks) (op : VOp) (f : VecF) (rs : U64) : VOut :=
  let c := vtWidth f.t.toNat
  outRows f.vd.toNat (fun r =>
    ewRow c (vtCount f.t.toNat) (vActive m f c r) f.mz
      (fun e => (rowElem c (vRow v f.vd.toNat r) e, VFlags.none))
      (fun e =>
        let (a, b, d) := ewOperands v op f rs r e
        vElem op f.t.toNat f.fn.toNat a b d))

/-- The condition of a `VCMP` (R153, R208): on integers, or under IEEE 754. -/
def cmpElem (t fn a b : Nat) : Bool × VFlags :=
  let x := vtValue t a
  let y := vtValue t b
  let res := match fn % 8 with
    | 0 => fnEq x y
    | 1 => !fnEq x y
    | 2 => fnLt x y
    | 3 => fnLt x y || fnEq x y
    | 4 => fnLt y x
    | _ => fnLt y x || fnEq x y
  (res, { VFlags.none with nanin := fnIsNan x || fnIsNan y })

/-- `VCMP` (R200, R202, R208): each element's result in every bit of its bytes. -/
def cmpRun (v : VRegs) (m : VMasks) (f : VecF) : VOut :=
  let t := f.t.toNat
  let c := vtWidth t
  let md := f.vd.toNat % 8
  let el (r e : Nat) := cmpElem t f.fn.toNat (rowElem c (vRow v f.vs1.toNat r) e)
    (rowElem c (vRow v f.vs2.toNat r) e)
  let bit (r j : Nat) : Bool :=
    let e := 8 * j / c
    if vActive m f c r e then (el r e).1
    else !f.mz && (tblGet 0 m (16 * md + r)).getLsbD j
  { regs := []
    masks := (List.range 16).map (fun r => (16 * md + r,
      BitVec.ofNat 256 ((List.range 256).foldr (fun j acc => boolNat (bit r j) + 2 * acc) 0)))
    flags := (List.range 16).foldl (fun g r => (List.range (vtCount t)).foldl (fun g e =>
      if vActive m f c r e then g.or (el r e).2 else g) g) VFlags.none }

/-- Mask logic (R208): all 4,096 bits. -/
def maskRun (m : VMasks) (op : VOp) (f : VecF) : VOut :=
  let row (n r : Nat) : BitVec 256 := tblGet 0 m (16 * (n % 8) + r)
  let res (r : Nat) : BitVec 256 :=
    let a := row f.vs1.toNat r
    let b := row f.vs2.toNat r
    match op with
    | .mand => a &&& b
    | .mor => a ||| b
    | .mxor => a ^^^ b
    | _ => ~~~a
  { regs := [], masks := (List.range 16).map (fun r => (16 * (f.vd.toNat % 8) + r, res r)),
    flags := VFlags.none }

/-! ## Conversions -/

/-- Rounding direction of `FN`[1:0] (R211). -/
def fnMode (fn : Nat) : RMode :=
  match fn % 4 with
  | 0 => .nearest
  | 1 => .zero
  | 2 => .down
  | _ => .up

/-- A finite value rounded to an integer in a direction (R211). -/
def roundInt (r : RMode) : FNum → Int
  | .fin n m e =>
    let k := if 0 ≤ e then m * 2 ^ e.toNat else shiftRound r n m (-e).toNat
    if n then -(k : Int) else k
  | _ => 0

/-- Conversion to an integer type (R211, R212). -/
def cvtToInt (t2 : Nat) (r : RMode) (sat : Bool) (x : FNum) : Elem :=
  let c := vtWidth t2
  let lo : Int := -(2 ^ (c - 1) : Int)
  let hi : Int := 2 ^ (c - 1) - 1
  match x with
  | .nan => (0, { VFlags.none with invalid := true, nanin := true })
  | .inf n => ((if sat then wrapInt c (if n then lo else hi) else 0),
      { VFlags.none with invalid := true })
  | x =>
    let i := roundInt r x
    if lo ≤ i ∧ i ≤ hi then (wrapInt c i, VFlags.none)
    else (wrapInt c (if sat then max lo (min hi i) else i), { VFlags.none with irange := true })

/-- Conversion to a floating-point type (R211, R212). An overflow to the NaN of E4M3 is NaN from a
finite value, and an overflow (notes/assumptions/21.md). -/
def cvtToFp (t2 : Nat) (r : RMode) (sat : Bool) (x : FNum) : Elem :=
  let f := vtFmt t2
  match x with
  | .nan =>
    if f.kind = .finite then (0, { VFlags.none with invalid := true, nanin := true })
    else (canonNan f, { VFlags.none with nanin := true })
  | .inf n =>
    if sat || f.kind = .finite then
      (withSign f n (maxFinite f), { VFlags.none with invalid := true })
    else (infCode f n, { VFlags.none with invalid := f.kind ≠ .ieee })
  | x =>
    let n := fnNeg x
    if fpOverflows f r x then
      if sat || f.kind = .finite || overflowStays r n then
        (withSign f n (maxFinite f), { VFlags.none with ovf := true })
      else (infCode f n, { VFlags.none with ovf := true, invalid := f.kind = .oneNan })
    else (fpRound f r x, VFlags.none)

/-- One element converted from `T` to `T2` (R211, R212). -/
def cvtElem (t t2 : Nat) (r : RMode) (sat : Bool) (x : Nat) : Elem :=
  let v := vtValue t x
  if t = t2 then
    if fnIsNan v then (canonNan (vtFmt t), { VFlags.none with nanin := true })
    else (if vtInt t then x else x % 2 ^ (vtFmt t).width, VFlags.none)
  else if vtInt t2 then cvtToInt t2 r sat v
  else cvtToFp t2 r sat v

/-- `CVT` between register groups (R209, R211). Row r of group register k holds elements
k N .. k N + N - 1 of the wider side. -/
def cvtRun (v : VRegs) (m : VMasks) (f : VecF) : VOut :=
  let t := f.t.toNat
  let t2 := f.t2.toNat
  let c := vtWidth t
  let c2 := vtWidth t2
  let n := vtCount t
  let n2 := vtCount t2
  let cn := min c c2
  let src (r e : Nat) := groupElem v c n f.vs1.toNat r e
  let regOut (k : Nat) := outRows (f.vd.toNat + k) (fun r =>
    ewRow c2 n2 (fun e => vActive m f cn r (k * n2 + e)) f.mz
      (fun e => (rowElem c2 (vRow v (f.vd.toNat + k) r) e, VFlags.none))
      (fun e => cvtElem t t2 (fnMode f.fn.toNat) (bitOf f.fn.toNat 2) (src r (k * n2 + e))))
  (List.range (max 1 (n / n2))).foldl (fun o k => o.join (regOut k))
    { regs := [], masks := [], flags := VFlags.none }

/-- Flags of one packed block (R213, R223): an infinity gives a NaN block, an element saturates, a
scale is raised, a NaN is consumed. -/
def packFlags (xs : List FNum) (b : List Nat × Nat × Bool × Bool) : VFlags :=
  let anyInf := xs.any (fun x => !fnIsFinite x && !fnIsNan x)
  let anyNan := xs.any fnIsNan
  { invalid := anyInf, ovf := b.2.2.1 && !anyInf && !anyNan, nanin := anyNan, irange := false,
    bump := b.2.2.2 }

/-- `MXPACK` (R213). -/
def packRun (v : VRegs) (f : VecF) : VOut :=
  let t := f.t.toNat
  let t2 := f.t2.toNat
  let c2 := vtWidth t2
  let n2 := vtCount t2
  let vals (r : Nat) := (List.range n2).map (fun e =>
    vtValue t (groupElem v (vtWidth t) (vtCount t) f.vs1.toNat r e))
  let blocks (r : Nat) := mxBlocks (vtFmt t2) (fnMode f.fn.toNat) (t2 = 7) (n2 / 32) (vals r)
  let row (r : Nat) := mkRow c2 ((blocks r).flatMap (·.1))
  let scales (r : Nat) := mkRow 8 ((blocks r).map (·.2.1))
  let fl (r : Nat) := ((blocks r).mapIdx (fun b x =>
    packFlags (((vals r).drop (32 * b)).take 32) x)).foldl VFlags.or VFlags.none
  (outRows f.vd.toNat (fun r => (row r, fl r))).join
    (outRows (f.vd.toNat + 1) (fun r => (scales r, VFlags.none)))

/-- `MXUNPK` of one element (R214): element × 2^(scale - 127), rounded to nearest even in `T`. -/
def unpackElem (t t2 x scale : Nat) : Elem :=
  if scale = 255 then
    (canonNan (vtFmt t), { VFlags.none with
      nanin := true, invalid := !fnIsFinite (vtValue t2 x) && !fnIsNan (vtValue t2 x) })
  else
    let v := vtValue t2 x
    let y := fnMul v (e8m0 scale)
    (fpRound (vtFmt t) .nearest y,
     { VFlags.none with nanin := fnIsNan v, ovf := fpOverflows (vtFmt t) .nearest y })

/-- `MXUNPK` (R214). -/
def unpackRun (v : VRegs) (f : VecF) : VOut :=
  let t := f.t.toNat
  let t2 := f.t2.toNat
  let c2 := vtWidth t2
  let n := vtCount t
  let el (r e : Nat) := unpackElem t t2 (rowElem c2 (vRow v f.vs1.toNat r) e)
    (rowElem 8 (vRow v (f.vs1.toNat + 1) r) (e / 32))
  (List.range (vtWidth t / c2)).foldl (fun o k =>
    o.join (outRows (f.vd.toNat + k) (fun r =>
      ewRow (vtWidth t) n (fun _ => true) false (fun _ => (0, VFlags.none))
        (fun e => el r (k * n + e)))))
    { regs := [], masks := [], flags := VFlags.none }

/-! ## Reductions -/

/-- Combination of two values of a reduction, as FP32 or INT32 codes (R203-R205, R215). `NANIN` comes from the elements
alone: a NaN that an earlier sum made from none is no NaN element (R223). -/
def redComb (op : VOp) (int : Bool) (a b : Elem) : Elem :=
  let t := if int then 8 else 0
  let base : VOp := match op with
    | .redsum => .vadd
    | .redmax => .vmax
    | _ => .vmin
  let r := vElem base t 0 a.1 b.1 0
  (r.1, (a.2.or b.2).or { r.2 with nanin := false })

/-- Identity of a reduction (R217). -/
def redIdentity (op : VOp) (int : Bool) : Nat :=
  match op, int with
  | .redsum, _ => 0
  | .redmax, false => 0xFF800000
  | .redmax, true => 0x80000000
  | _, false => 0x7F800000
  | _, true => 0x7FFFFFFF

/-- Adjacent pairs combined: one stage of the tree (R215). -/
def pairUp (comb : Elem → Elem → Elem) : List Elem → List Elem
  | a :: b :: r => comb a b :: pairUp comb r
  | r => r

/-- A number of stages. -/
def pairStages (comb : Elem → Elem → Elem) : Nat → List Elem → List Elem
  | 0, xs => xs
  | k + 1, xs => pairStages comb k (pairUp comb xs)

/-- The tree stages needed for one row: the lane stage of 0, 1 or 2 pairings and the six stages over
64 lanes (R215). -/
def redStages (t : Nat) : Nat :=
  match vtWidth t with
  | 32 => 6
  | 16 => 7
  | _ => 8

/-- A reduction (R215-R217). -/
def redRun (v : VRegs) (m : VMasks) (op : VOp) (f : VecF) : VOut :=
  let t := f.t.toNat
  let c := vtWidth t
  let int := vtInt t
  let leaf (r e : Nat) : Elem :=
    if vActive m f c r e then
      let x := vtValue t (rowElem c (vRow v f.vs1.toNat r) e)
      if int then (wrapInt 32 (sextNat c (rowElem c (vRow v f.vs1.toNat r) e)), VFlags.none)
      else (fpRound fmtFP32 .nearest x, { VFlags.none with nanin := fnIsNan x })
    else (redIdentity op int, VFlags.none)
  outRows f.vd.toNat (fun r =>
    let res := (pairStages (redComb op int) (redStages t)
      ((List.range (vtCount t)).map (leaf r))).headD (0, VFlags.none)
    (mkRow 32 (List.replicate 64 res.1), res.2))

/-! ## Transposes (R221) -/

/-- `VTRN`: four 16 × 16 blocks. -/
def trnRun (v : VRegs) (f : VecF) : VOut :=
  outRows f.vd.toNat (fun r =>
    (mkRow 32 ((List.range 64).map (fun l =>
      rowElem 32 (vRow v f.vs1.toNat (l % 16)) (16 * (l / 16) + r))), VFlags.none))

/-- `VTRNQ`: one 64 × 64 matrix over four registers. -/
def trnqRun (v : VRegs) (f : VecF) : VOut :=
  (List.range 4).foldl (fun o q =>
    o.join (outRows (f.vd.toNat + q) (fun r =>
      (mkRow 32 ((List.range 64).map (fun cc =>
        rowElem 32 (vRow v (f.vs1.toNat + cc / 16) (cc % 16)) (16 * q + r))), VFlags.none))))
    { regs := [], masks := [], flags := VFlags.none }

/-! ## Loads and stores (R218, R219) -/

/-- Length of a memory row of a type. -/
def vmRowLen (t : Nat) : Nat := if t = 5 ∨ t = 6 then 192 else 256

/-- Element width in memory: 6 bits for FP6, the container otherwise. -/
def vmWidth (t : Nat) : Nat := if t = 5 ∨ t = 6 then 6 else vtWidth t

/-- `VLD`: each active element from its memory row; inactive elements are kept or zeroed. -/
def vldRun (rd : Nat → Byte) (v : VRegs) (m : VMasks) (f : VecF) (off str : Nat) : VOut :=
  let t := f.t.toNat
  let c := vtWidth t
  outRows f.vd.toNat (fun r =>
    ewRow c (vtCount t) (vActive m f c r) f.mz
      (fun e => (rowElem c (vRow v f.vd.toNat r) e, VFlags.none))
      (fun e => (elemAt rd (vmWidth t) (off + r * str) e, VFlags.none)))

/-- One memory row of a `VST` over the bytes it finds: an element's bits are its value, zero, or
untouched (R202, R219). -/
def vstRow (old : Nat → Byte) (v : VRegs) (m : VMasks) (f : VecF) (base r : Nat) : List (Nat × Byte) :=
  let t := f.t.toNat
  let c := vtWidth t
  let w := vmWidth t
  let pick (e : Nat) : Nat :=
    if vActive m f c r e then rowElem c (vRow v f.vs1.toNat r) e % 2 ^ w
    else if f.mz then 0
    else elemAt old w base e
  let touched (j : Nat) : Bool :=
    f.mz || (List.range 8).any (fun b => vActive m f c r ((8 * j + b) / w))
  let bytes := packRow w ((List.range (vtCount t)).map pick)
  (bytes.mapIdx (fun j b => (j, b))).filterMap (fun p =>
    if touched p.1 then some (base + p.1, p.2) else none)

end Sys2Proof.Machine
end

