-- ==== Sys2Proof/Machine/SfuNum.lean ====
section
/-! DEFINITION. SFU functions, lookup tables and the statistics operations
(07_special_functions.md R225-R249). -/

namespace Sys2Proof.Machine

/-- Code of an SFU function (R158). -/
def sfuCode : SfuOp → Nat
  | .exp2 => 1 | .log2 => 2 | .rcp => 3 | .rsq => 4 | .tanh => 5 | .sig => 6 | .erf => 7
  | .sin => 8 | .cos => 9 | .lut => 10

/-- An FP32 code as a value, and a value as an FP32 code. -/
def f32 (x : Nat) : FNum := fpDecode fmtFP32 x
def toF32 (x : FNum) : Nat := fpRound fmtFP32 .nearest x

/-- The exact integer power of two. -/
def pow2 (k : Int) : FNum := .fin false 1 k

/-- The canonical FP32 NaN. -/
def nan32 : Nat := 0x7FC00000

/-- ⌊x⌋ of a finite value. -/
def fnFloor (x : FNum) : Int := roundInt .down x

/-- Whether a finite value is an integer. -/
def fnIsInt (x : FNum) : Bool := fnIsZero x || fnEq (fnOfInt (fnFloor x)) x

/-- Whether a finite value is a power of two. -/
def fnIsPow2 (x : FNum) : Bool := fnEq (pow2 (fnLog2 x)) (fnAbs x)

/-- A quotient of finite values, exact but for a sticky bit far below any rounding position. -/
def fnDiv : FNum → FNum → FNum
  | .nan, _ => .nan
  | _, .nan => .nan
  | .inf _, .inf _ => .nan
  | .inf a, .fin b _ _ => .inf (a ^^ b)
  | .fin a _ _, .inf b => .fin (a ^^ b) 0 0
  | .fin a m e, .fin b n f =>
    if n = 0 then (if m = 0 then .nan else .inf (a ^^ b))
    else if m = 0 then .fin (a ^^ b) 0 0
    else
      let k := 160 + Nat.log2 n
      let q := m * 2 ^ k / n
      let s := boolNat (decide (m * 2 ^ k % n ≠ 0))
      .fin (a ^^ b) (2 * q + s) (e - f - k - 1)

/-- 1 / √x of a positive finite value, exact but for a sticky bit. -/
def fnRsq : FNum → FNum
  | .fin _ m e =>
    -- 1 / √(m 2^e) = √(2^(2k - e) / m) / 2^k with 2k - e large
    let k : Int := 200 + (e.natAbs : Int) + Nat.log2 m
    let r := Nat.sqrt (2 ^ (2 * k - e).toNat / m)
    .fin false (2 * r + 1) (-k - 1)
  | x => x

/-- Unit of the error bounds: 2^(max(⌊log2 |y|⌋, -126) - bits) (R229). -/
def ulpOf (y : FNum) (prec : Bool) : FNum :=
  pow2 (max (if fnIsZero y then -126 else fnLog2 y) (-126) - (if prec then 23 else 7))

/-- `n` units of an exact value (R229). -/
def ulps (n : Nat) (y : FNum) (prec : Bool) : FNum := fnMul (fnOfInt n) (ulpOf y prec)

def fnMax (a b : FNum) : FNum := if fnLt a b then b else a
def fnMin (a b : FNum) : FNum := if fnLt b a then b else a

/-- The bound of R229 with its two grades: units at BF16 grade and at FP32 accuracy. -/
def bound (y : FNum) (prec : Bool) (fast slow : Nat) : FNum := ulps (if prec then slow else fast) y prec

/-- The largest code from `lo + 1` to `lo + n` that meets a test, or `lo`. -/
def topCode (ok : Nat → Bool) (lo : Nat) : Nat → Nat
  | 0 => lo
  | n + 1 => if ok (lo + n + 1) then lo + n + 1 else topCode ok lo n

/-- The result of function `f` at reduced argument `t` (R228): its codes have values from `lo` to `hi`, and every code
has one argument from which, or up to which, the function reaches it, so that the function rises, or falls (R234). -/
def sfuStep (f : Nat) (prec rising : Bool) (t lo hi : FNum) : Nat :=
  let a := fpRound fmtFP32 .up lo
  let edge (c : Nat) : FNum :=
    let i := Config.sfuEdge f prec c
    .fin (decide (i.1 < 0)) i.1.natAbs (-(i.2 : Int))
  topCode (fun c => if rising then !fnLt t (edge c) else !fnLt (edge c) t) a (fpRound fmtFP32 .down hi - a)

/-- A result code with the sign applied after evaluation on |x| (R228, R231). -/
def signAfter (neg : Bool) (x : Nat) : Nat := if neg then x ^^^ 0x80000000 else x

def elemOk (x : Nat) : Elem := (x, VFlags.none)
def elemInvalid : Elem := (nan32, { VFlags.none with invalid := true })
def elemNanin : Elem := (nan32, { VFlags.none with nanin := true })

/-- `EXP2` of a fraction, before rescaling (R228): from 1 to the bound 2 of its wrap seam (R233). -/
def exp2Frac (prec : Bool) (f : FNum) : FNum :=
  let y := ofFix (fixExp2 (fixOf f))
  let d := bound y prec 1 2
  f32 (sfuStep 1 prec true f (fnMax (pow2 0) (fnAdd y (fnFlip d))) (fnMin (pow2 1) (fnAdd y d)))

/-- `EXP2` (R228-R234): the fraction's result rescaled, exact at integers. -/
def sfuExp2 (prec : Bool) (x : Nat) : Elem :=
  let v := f32 x
  match v with
  | .nan => elemNanin
  | .inf n => elemOk (if n then 0 else 0x7F800000)
  | v =>
    if fnIsZero v then elemOk 0x3F800000
    else if !fnLt v (fnOfInt 128) then (0x7F800000, { VFlags.none with ovf := true })
    else if !fnLt (fnOfInt (-150)) v then elemOk 0
    else
      let k := fnFloor v
      if fnIsInt v then elemOk (toF32 (pow2 k))
      else
        let y := toF32 (fnScale k (exp2Frac prec (fnAdd v (fnOfInt (-k)))))
        (y, { VFlags.none with ovf := y = 0x7F800000 })

/-- The mantissa m of a positive finite value, with 1 ≤ m < 2. -/
def mantissa (x : FNum) : FNum := fnScale (-(fnLog2 x)) x

/-- `LOG2` of a mantissa above 1 (R228): up to the bound 1 of its wrap seam (R233). -/
def log2Mant (prec : Bool) (m : FNum) : FNum :=
  let y := ofFix (fixLog2 (fixOf m))
  let d := bound y prec 1 3
  f32 (sfuStep 2 prec true m (fnMax (pow2 (-149)) (fnAdd y (fnFlip d))) (fnMin (pow2 0) (fnAdd y d)))

/-- `LOG2` of a value from 1/2 to 1 by its mantissa, without its sign: the bound is relative to this result, which
the mantissa's own would miss near 1 (R229; notes/assumptions/22.md). -/
def log2Below (prec : Bool) (m : FNum) : FNum :=
  let y := ofFix (fixOne - fixLog2 (fixOf m))
  let d := bound y prec 1 3
  f32 (sfuStep 12 prec false m (fnMax (pow2 (-149)) (fnAdd y (fnFlip d))) (fnMin (pow2 0) (fnAdd y d)))

/-- `LOG2` (R228-R234): exponent and the mantissa's result added, exact at powers of two. -/
def sfuLog2 (prec : Bool) (x : Nat) : Elem :=
  let v := f32 x
  match v with
  | .nan => elemNanin
  | .inf n => if n then elemInvalid else elemOk 0x7F800000
  | v =>
    if fnIsZero v then elemOk 0xFF800000
    else if fnNeg v then elemInvalid
    else
      let k := fnLog2 v
      if fnIsPow2 v then elemOk (toF32 (fnOfInt k))
      else if k = -1 then elemOk (toF32 (fnFlip (log2Below prec (mantissa v))))
      else elemOk (toF32 (fnAdd (fnOfInt k) (log2Mant prec (mantissa v))))

/-- `RCP` of a mantissa above 1 (R228): from the bound 1/2 of its wrap seam (R233). -/
def rcpMant (prec : Bool) (m : FNum) : FNum :=
  let y := fnDiv (pow2 0) m
  let d := bound y prec 1 1
  f32 (sfuStep 3 prec false m (fnMax (pow2 (-1)) (fnAdd y (fnFlip d))) (fnMin (pow2 0) (fnAdd y d)))

/-- `RCP` (R228-R234): the mantissa's result rescaled, exact at powers of two, odd. -/
def sfuRcp (prec : Bool) (x : Nat) : Elem :=
  let v := f32 x
  let n := fnNeg v
  match v with
  | .nan => elemNanin
  | .inf _ => elemOk (signAfter n 0)
  | v =>
    let a := fnAbs v
    if fnIsZero v then elemOk (signAfter n 0x7F800000)
    else if !fnLt (pow2 (-128)) a then
      (signAfter n 0x7F800000, { VFlags.none with ovf := true })
    else if fnIsPow2 a then elemOk (signAfter n (toF32 (pow2 (-(fnLog2 a)))))
    else elemOk (signAfter n (toF32 (fnScale (-(fnLog2 a)) (rcpMant prec (mantissa a)))))

/-- `RSQ` of a reduced argument above 1 and below 4 (R228): from the bound 1/2 of its wrap seam (R233). -/
def rsqMant (prec : Bool) (m : FNum) : FNum :=
  let y := fnRsq m
  let d := bound y prec 1 2
  f32 (sfuStep 4 prec false m (fnMax (pow2 (-1)) (fnAdd y (fnFlip d))) (fnMin (pow2 0) (fnAdd y d)))

/-- `RSQ` (R228-R234): the reduced argument's result rescaled, exact at powers of four. -/
def sfuRsq (prec : Bool) (x : Nat) : Elem :=
  let v := f32 x
  match v with
  | .nan => elemNanin
  | .inf n => if n then elemInvalid else elemOk 0
  | v =>
    if fnIsZero v then elemOk (if fnNeg v then 0xFF800000 else 0x7F800000)
    else if fnNeg v then elemInvalid
    else
      let k := fnLog2 v
      let e := k / 2
      if fnIsPow2 v && k % 2 = 0 then elemOk (toF32 (pow2 (-e)))
      else elemOk (toF32 (fnScale (-e) (rsqMant prec (fnScale (-2 * e) v))))

/-- The largest FP32 value below 2^-12, where the first segment of `TANH` and of `ERF` ends. -/
def firstEnd : FNum := .fin false (2 ^ 24 - 1) (-36)

/-- `TANH` (R228-R234): x below 2^-12, ±1 from 9.5, odd, within the range of the true function. -/
def sfuTanh (prec : Bool) (x : Nat) : Elem :=
  let v := f32 x
  let a := fnAbs v
  if fnIsNan v then elemNanin
  else if !fnLt a (.fin false 19 (-1)) then elemOk (signAfter (fnNeg v) 0x3F800000)
  else if fnLt a (pow2 (-12)) then elemOk x
  else
    let y := ofFix (fixTanh (fixOf a))
    let d := bound y prec 1 3
    elemOk (signAfter (fnNeg v)
      (sfuStep 5 prec true a (fnMax firstEnd (fnAdd y (fnFlip d))) (fnMin (pow2 0) (fnAdd y d))))

/-- The first segment of `ERF`: x × 2 / √π rounded once (R228). -/
def erfFirst (v : FNum) : Nat := toF32 (fnMul v (.fin false twoOverSqrtPi (-128)))

/-- `ERF` (R228-R234): ±1 from 4, odd, within the range of the true function. -/
def sfuErf (prec : Bool) (x : Nat) : Elem :=
  let v := f32 x
  let a := fnAbs v
  if fnIsNan v then elemNanin
  else if !fnLt a (fnOfInt 4) then elemOk (signAfter (fnNeg v) 0x3F800000)
  else if fnLt a (pow2 (-12)) then elemOk (erfFirst v)
  else
    let y := ofFix (fixErf (fixOf a))
    let d := bound y prec 1 3
    elemOk (signAfter (fnNeg v)
      (sfuStep 7 prec true a (fnMax (f32 (erfFirst firstEnd)) (fnAdd y (fnFlip d))) (fnMin (pow2 0) (fnAdd y d))))

/-- `SIG` (R228-R234): +0 below -104, 1 from 18, 0.5 at zero, on its side of 0.5 elsewhere. -/
def sfuSig (prec : Bool) (x : Nat) : Elem :=
  let v := f32 x
  if fnIsNan v then elemNanin
  else if fnLt v (fnOfInt (-104)) then elemOk 0
  else if !fnLt v (fnOfInt 18) then elemOk 0x3F800000
  else if fnIsZero v then elemOk 0x3F000000
  else
    let y := ofFix (fixSig (fixOf v))
    let d := bound y prec 1 3
    let least : FNum := if fnNeg v then .fin false 0 0 else pow2 (-1)
    let most : FNum := if fnNeg v then pow2 (-1) else pow2 0
    elemOk (sfuStep 6 prec true v (fnMax least (fnAdd y (fnFlip d))) (fnMin most (fnAdd y d)))

/-- Quarter turns of a value that is a multiple of 1/4, modulo 4. -/
def quarter (a : FNum) : Nat := (fnFloor (fnScale 2 a) % 4).toNat

/-- The argument reduced to a turn (R228): u = x - round(x), exact. -/
def turnOf (v : FNum) : FNum := fnAdd v (fnOfInt (-(roundInt .nearest v)))

/-- The free bits of `SIN` or `COS`, by the reduced argument. -/
def sfuFree (op : SfuOp) (prec : Bool) (u : FNum) : Nat := (Config.sfuBits (sfuCode op) prec (toF32 u)).toNat

/-- A code in [-1, 1] within the bound of R229 of the exact value `y`, or `y` rounded. -/
def turnResult (prec : Bool) (y : FNum) (cand : Nat) : Nat :=
  let v := f32 cand
  let d := if prec then fnMax (ulps 4 y true) (pow2 (-25)) else pow2 (-9)
  if fnIsFinite v && !fnLt v (fnAdd y (fnFlip d)) && !fnLt (fnAdd y d) v && !fnLt (pow2 0) (fnAbs v) then cand
  else toF32 y

/-- A zero whose sign the spec does not fix, at a multiple of a quarter turn (R231). -/
def quarterZero (op : SfuOp) (prec : Bool) (u : FNum) : Nat := sfuFree op prec u / 2 ^ 31 % 2 * 2 ^ 31

/-- `SIN` of turns (R230-R234): odd, exact at quarter turns, in [-1, 1]. -/
def sfuSin (prec : Bool) (x : Nat) : Elem :=
  let v := f32 x
  let a := fnAbs v
  match v with
  | .nan => elemNanin
  | .inf _ => elemInvalid
  | v =>
    if fnIsInt v then elemOk (signAfter (fnNeg v) 0)
    else if fnIsInt (fnScale 2 v) then
      elemOk (signAfter (fnNeg v)
        (match quarter a with
         | 1 => 0x3F800000
         | 3 => 0xBF800000
         | _ => quarterZero .sin prec (turnOf a)))
    else
      let u := turnOf a
      let y := ofFix (fixSin (fixOf (fnAbs u)))
      elemOk (signAfter (fnNeg v) (turnResult prec (if fnNeg u then fnFlip y else y) (sfuFree .sin prec u)))

/-- `COS` of turns (R230-R234): even, exact at quarter turns, in [-1, 1]. -/
def sfuCos (prec : Bool) (x : Nat) : Elem :=
  let v := f32 x
  let a := fnAbs v
  match v with
  | .nan => elemNanin
  | .inf _ => elemInvalid
  | v =>
    if fnIsInt v then elemOk 0x3F800000
    else if fnIsInt (fnScale 2 v) then
      elemOk (if quarter a = 2 then 0xBF800000 else quarterZero .cos prec (turnOf a))
    else
      let u := turnOf a
      elemOk (turnResult prec (ofFix (fixCos (fixOf (fnAbs u)))) (sfuFree .cos prec u))

/-! ## Lookup tables -/

/-- One table bank (R236, R238): the words of its image, and whether they are a valid image. -/
structure LutBank where
  words : SMap (BitVec 32)
  valid : Bool
  deriving DecidableEq, Repr

/-- Word `i` of the image: 0 `X0`, 1 `INVSTEP`, 2 and 3 the rest of the header, 16 + i entry i. -/
def LutBank.word (b : LutBank) (i : Nat) : Nat := (tblGet 0 b.words i).toNat

def LutBank.n (b : LutBank) : Nat := bitsOf (b.word 2) 0 11

/-- Whether an image is valid (R238). -/
def lutValid (b : LutBank) : Bool :=
  decide (2 ≤ b.n ∧ b.n ≤ 1024) &&
    -- reserved header bits [79:75], [511:82]
    bitsOf (b.word 2) 11 5 = 0 && bitsOf (b.word 2) 18 14 = 0 &&
    (span 3 13).all (fun i => b.word i = 0) &&
    fnIsFinite (f32 (b.word 0)) && fnIsFinite (f32 (b.word 1)) &&
    fnLt (.fin false 0 0) (f32 (b.word 1))

/-- The image that `LUT.LD` reads: 1,040 words (R236, R237). -/
def lutImage (rd : Nat → Byte) (off : Nat) : LutBank :=
  let ws := (List.range 1040).filterMap (fun i =>
    let w := BitVec.ofNat 32 (ofBytes ((span (off + 4 * i) 4).map rd))
    if w = 0 then none else some (i, w))
  let b : LutBank := { words := ws, valid := false }
  { b with valid := lutValid b }

/-- A lookup (R239). -/
def lutEval (b : LutBank) (x : Nat) : Elem :=
  let v := f32 x
  if fnIsNan v then elemNanin
  else if !b.valid then elemInvalid
  else
    let r (y : FNum) := fpRequant fmtFP32 .nearest y
    let t := r (fnMul (r (fnAdd v (fnFlip (f32 (b.word 0))))) (f32 (b.word 1)))
    let top := fnOfInt ((b.n : Int) - 1)
    let oor := bitOf (b.word 2) 17
    let e (i : Nat) := b.word (16 + i)
    let below := fnLt t (.fin false 0 0)
    let above := fnLt top t
    if (below || above) && oor then elemInvalid
    else if below then elemOk (e 0)
    else if !fnLt t top then elemOk (e (b.n - 1))
    else
      let i := (fnFloor t).toNat
      let fr := fnAdd t (fnOfInt (-(i : Int)))
      if bitOf (b.word 2) 16 then elemOk (e i)
      else
        let d := r (fnAdd (f32 (e (i + 1))) (fnFlip (f32 (e i))))
        elemOk (toF32 (fnAdd (f32 (e i)) (fnMul fr d)))

/-- One element of an SFU operation (R225, R227). -/
def sfuElem (op : SfuOp) (prec : Bool) (bank : LutBank) (x : Nat) : Elem :=
  match op with
  | .exp2 => sfuExp2 prec x
  | .log2 => sfuLog2 prec x
  | .rcp => sfuRcp prec x
  | .rsq => sfuRsq prec x
  | .tanh => sfuTanh prec x
  | .sig => sfuSig prec x
  | .erf => sfuErf prec x
  | .sin => sfuSin prec x
  | .cos => sfuCos prec x
  | .lut => lutEval bank x

/-- An SFU operation over a register (R225): the element-wise class of R202. -/
def sfuRun (v : VRegs) (m : VMasks) (op : SfuOp) (f : SfuF) (bank : LutBank) : VOut :=
  let vf : VecF :=
    { unit := f.unit, msk := f.msk, men := f.men, mz := f.mz, vd := f.vd, vs1 := f.vs
      vs2 := 0, vs3 := 0, t := 0, t2 := 0, rs := 0, rs2 := 0, fn := 0 }
  outRows f.vd.toNat (fun r =>
    ewRow 32 64 (vActive m vf 32 r) f.mz
      (fun e => (rowElem 32 (vRow v f.vd.toNat r) e, VFlags.none))
      (fun e => sfuElem op f.prec bank (rowElem 32 (vRow v f.vs.toNat r) e)))

/-! ## Softmax correction -/

/-- One element of `SMAXC` (R245, R246): the correction, and the new maximum. -/
def smaxcElem (old blk : Nat) : Elem × Nat :=
  let a := f32 old
  let b := f32 blk
  if fnIsNan a || fnIsNan b then (elemNanin, nan32)
  else
    let m := toF32 (fnPick true a b)
    if a = .inf true ∧ b = .inf true then (elemOk 0x3F800000, m)
    else if a = .inf false ∧ f32 m = .inf false then (elemInvalid, m)
    else
      let d := fpResult 0 [a, f32 m] (fnAdd a (fnFlip (f32 m)))
      let c := sfuExp2 true d.1
      ((c.1, c.2.or d.2), m)

/-- `SMAXC` (R245): the correction to `VD`, the new maximum to `VD` + 1. -/
def smaxcRun (v : VRegs) (m : VMasks) (f : VecF) : VOut :=
  let el (r e : Nat) := smaxcElem (rowElem 32 (vRow v f.vs1.toNat r) e)
    (rowElem 32 (vRow v f.vs2.toNat r) e)
  let out (k : Nat) (sel : Elem × Nat → Elem) := outRows (f.vd.toNat + k) (fun r =>
    ewRow 32 64 (vActive m f 32 r) f.mz
      (fun e => (rowElem 32 (vRow v (f.vd.toNat + k) r) e, VFlags.none)) (fun e => sel (el r e)))
  (out 0 (·.1)).join (out 1 (fun p => (p.2, VFlags.none)))

/-! ## Statistics (R247, R248) -/

/-- A statistics state: count, mean and sum of squared deviations, as FP32 codes. -/
structure Stat where
  n : Nat
  mu : Nat
  m2 : Nat
  deriving DecidableEq, Repr

/-- One rounded operation, its flags joined to those of its inputs: a NaN that an earlier step made from none is no
NaN element consumed (R223). -/
def stepFp (ins : List Elem) (x : FNum) : Elem :=
  let r := fpResult 0 (ins.map (fun i => f32 i.1)) x
  (r.1, ins.foldl (fun g i => g.or i.2)
    { r.2 with nanin := ins.any (fun i => fnIsNan (f32 i.1) && !i.2.invalid) })

/-- The merge of two states (R247). -/
def mergeStat (a b : Stat) : Stat × VFlags :=
  if fnIsZero (f32 b.n) then (a, VFlags.none)
  else if fnIsZero (f32 a.n) then (b, VFlags.none)
  else
    let i (x : Nat) : Elem := (x, VFlags.none)
    let na := f32 a.n
    let n := stepFp [i a.n, i b.n] (fnAdd na (f32 b.n))
    let d := stepFp [i b.mu, i a.mu] (fnAdd (f32 b.mu) (fnFlip (f32 a.mu)))
    let w := stepFp [i b.n, n] (fnDiv (f32 b.n) (f32 n.1))
    let mu := stepFp [i a.mu, d, w] (fnAdd (f32 a.mu) (fnMul (f32 d.1) (f32 w.1)))
    let t := stepFp [i a.n, w] (fnMul na (f32 w.1))
    let s := stepFp [i a.m2, i b.m2] (fnAdd (f32 a.m2) (f32 b.m2))
    let dd := stepFp [d, d] (fnMul (f32 d.1) (f32 d.1))
    let m2 := stepFp [s, dd, t] (fnAdd (f32 s.1) (fnMul (f32 dd.1) (f32 t.1)))
    ({ n := n.1, mu := mu.1, m2 := m2.1 }, (n.2.or mu.2).or m2.2)

/-- The state in lane `l` of row `r` of the group at register `b`. -/
def statAt (v : VRegs) (b r l : Nat) : Stat :=
  { n := rowElem 32 (vRow v b r) l, mu := rowElem 32 (vRow v (b + 1) r) l,
    m2 := rowElem 32 (vRow v (b + 2) r) l }

/-- Three registers written with the parts of a state. -/
def statOut (b : Nat) (act : Nat → Nat → Bool) (mz : Bool) (v : VRegs)
    (res : Nat → Nat → Stat × VFlags) : VOut :=
  let part (k : Nat) (sel : Stat → Nat) := outRows (b + k) (fun r =>
    ewRow 32 64 (act r) mz (fun e => (rowElem 32 (vRow v (b + k) r) e, VFlags.none))
      (fun e => (sel (res r e).1, (res r e).2)))
  ((part 0 (·.n)).join (part 1 (·.mu))).join (part 2 (·.m2))

/-- `WMERGE` (R247). -/
def wmergeRun (v : VRegs) (m : VMasks) (f : VecF) : VOut :=
  statOut f.vd.toNat (fun r e => vActive m f 32 r e) f.mz v (fun r e =>
    mergeStat (statAt v f.vs1.toNat r e) (statAt v f.vs2.toNat r e))

/-- The batch of a row (R248 steps 1 to 4): count, mean and sum of squared deviations. -/
def welfBatch (v : VRegs) (m : VMasks) (f : VecF) (r : Nat) : Nat × Stat × VFlags :=
  let act := vActive m f 32 r
  let incl (e : Nat) : Bool := act e || f.mz
  let x (e : Nat) : Nat := if act e then rowElem 32 (vRow v f.vs1.toNat r) e else 0
  let k := ((List.range 64).filter incl).length
  let leaf (c : Nat) : Elem := (c, { VFlags.none with nanin := fnIsNan (f32 c) })
  let tree (xs : List Elem) := (pairStages (redComb .redsum false) 6 xs).headD (0, VFlags.none)
  let a := tree ((List.range 64).map (fun e => if incl e then leaf (x e) else elemOk 0))
  let mb := stepFp [a] (fnDiv (f32 a.1) (fnOfInt k))
  let q (e : Nat) : Elem :=
    if incl e then
      let d := stepFp [leaf (x e), mb] (fnAdd (f32 (x e)) (fnFlip (f32 mb.1)))
      stepFp [d, d] (fnMul (f32 d.1) (f32 d.1))
    else elemOk 0
  let m2 := tree ((List.range 64).map q)
  (k, { n := toF32 (fnOfInt k), mu := mb.1, m2 := m2.1 }, (a.2.or mb.2).or m2.2)

/-- `WELF` (R248). -/
def welfRun (v : VRegs) (m : VMasks) (f : VecF) : VOut :=
  statOut f.vd.toNat (fun _ _ => true) false v (fun r e =>
    let (k, b, fl) := welfBatch v m f r
    let s := statAt v f.vd.toNat r e
    if k = 0 then (s, VFlags.none)
    else
      let (t, g) := mergeStat s b
      (t, g.or fl))

/-- A vector operation that works on registers and masks alone. -/
def vecRun (v : VRegs) (m : VMasks) (op : VOp) (f : VecF) (rs : U64) : VOut :=
  match op with
  | .vcmp => cmpRun v m f
  | .mand | .mor | .mxor | .mnot => maskRun m op f
  | .cvt => cvtRun v m f
  | .mxpack => packRun v f
  | .mxunpk => unpackRun v f
  | .redsum | .redmax | .redmin => redRun v m op f
  | .smaxc => smaxcRun v m f
  | .welf => welfRun v m f
  | .wmerge => wmergeRun v m f
  | .vtrn => trnRun v f
  | .vtrnq => trnqRun v f
  | op => ewRun v m op f rs

/-- Registers and masks after an operation's writes. -/
def applyRegs (v : VRegs) (o : VOut) : VRegs := o.regs.foldl (fun v p => tblPut 0 v p.1 p.2) v
def applyMasks (m : VMasks) (o : VOut) : VMasks := o.masks.foldl (fun m p => tblPut 0 m p.1 p.2) m

end Sys2Proof.Machine
end

