-- ==== Sys2Proof/Machine/StateCluster.lean ====
section
/-! DEFINITION. State of a cluster (03_cluster_execution.md to 11_coherence.md): sequencer, engine
queues, claims, vector registers, tiles, lookup tables, movers, landing zones, line cache and range
cache.

Engines are numbered 0-3 the matrix units, 4-5 the vector units, 6 the SFU, 7-8 the movers. Every
bundle takes an issue number, which orders its operations with those of other bundles. -/

namespace Sys2Proof.Machine

/-- `DSP_CLST.STATE` (R99). -/
inductive ClState where
  | off | idle | gated | running | stopping | reset
  deriving DecidableEq, Repr

/-- An entry of the loop stack (R138). -/
structure LoopEnt where
  start : U64
  stop : U64
  trip : Nat
  index : Nat
  deriving DecidableEq, Repr

/-- What an outstanding scalar access does when it is performed. -/
inductive AccKind where
  | load (signed : Bool)
  | amo (op : AmoOp) (operand compare : U64)
  deriving DecidableEq, Repr

/-- An outstanding scalar load or atomic (R81, R94): its destination, its bundle, its physical
address, width, and the space it was translated in. `cached` waits for a line of the line cache;
`answer` is a remote or device answer that has arrived: data or a fault code. -/
structure ScAcc where
  id : Nat
  no : Nat
  rd : SReg
  pc : U64
  va : U64
  pa : Nat
  size : Nat
  kind : AccKind
  cached : Bool
  space : Nat
  /-- Offset checked against claims, for the cluster's own store (R91). -/
  claim : Option Nat
  answer : Option (Nat × U64)
  deriving DecidableEq, Repr

/-- A store in the store buffer (R314, R317): `cached` goes through the line cache; `sent` marks a
store that has entered the outbound port, for one of another module as a packet. -/
structure StoreEnt where
  id : Nat
  no : Nat
  pa : Nat
  data : Bytes
  cached : Bool
  sent : Bool
  space : Nat
  /-- Offset checked against claims, for the cluster's own store (R91). -/
  claim : Option Nat
  deriving DecidableEq, Repr

/-- An operation of a matrix unit, a vector unit or the SFU with the operands read at issue (R83). -/
inductive EngOp where
  | mma (complex acc : Bool) (fmtA fmtB offA strA offB strB k scA scB : Nat)
  | zdrain (dfmt : Nat) (rm : RMode) (sat : Bool) (off str sc : Nat)
  | zload (sfmt off str : Nat)
  | mcfg (item : Nat) (val : BitVec 32)
  | vec (op : VOp) (f : VecF) (rs rs2 : U64)
  | sfu (op : SfuOp) (f : SfuF)
  | lutLd (off : Nat)
  | lutCommit
  deriving DecidableEq, Repr

/-- A queued engine operation: issue number and operation (R85). -/
structure EngEnt where
  no : Nat
  op : EngOp
  deriving DecidableEq, Repr

/-- A claim (R88): the operation that took it, its extent widened to lines, read or write. `eng` is
the engine of the operation. -/
structure Claim where
  no : Nat
  eng : Nat
  lo : Nat
  hi : Nat
  write : Bool
  deriving DecidableEq, Repr

/-- A registered wait (R293): a gate, or the wait that holds issue; its timeout code. -/
structure HWait where
  id : Nat
  no : Nat
  gate : Bool
  hasp : BitVec 14
  v : BitVec 48
  scope : Scope
  tmo : BitVec 4
  deriving DecidableEq, Repr

/-- Kinds of hasp operation (R287). -/
inductive HaspAct where
  | add | set | reset
  deriving DecidableEq, Repr

/-- An operation in the hasp-operation buffer (R291). `err` is set when a store it waited for failed
(R333). -/
structure HaspOp where
  no : Nat
  act : HaspAct
  remote : Option (BitVec 6)
  hasp : BitVec 14
  v : BitVec 48
  scope : Scope
  err : Bool
  deriving DecidableEq, Repr

/-- Descriptor fields (R252). -/
structure Desc where
  src : U64
  dst : U64
  sspace : BitVec 12
  dspace : BitVec 12
  skind : BitVec 2
  dkind : BitVec 2
  esize : BitVec 3
  cntd : Bool
  side : Bool
  nospec : Bool
  remote : Bool
  eth : Bool
  d0 : BitVec 32
  d1 : BitVec 16
  d2 : BitVec 16
  d3 : BitVec 16
  sstr1 : BitVec 32
  sstr2 : BitVec 32
  sstr3 : BitVec 32
  dstr1 : BitVec 32
  dstr2 : BitVec 32
  dstr3 : BitVec 32
  dhasp : BitVec 14
  dhaspEn : Bool
  endpoint : BitVec 16
  reserved : Bool
  deriving DecidableEq, Repr

/-- Where a mover command stands: queued; in its data phase with the pieces still to land; landed; or
discarded with requests in flight (R281). -/
inductive MovPhase where
  | queued
  | data
  | done
  | drain
  deriving DecidableEq, Repr

/-- Where a run of destination bytes stands: still to be written, its write outstanding, written at its home,
or ended without a known write (R262). -/
inductive PartState where
  | waiting | sent | done | failed
  deriving DecidableEq, Repr

/-- Destination bytes that one write of a mover covers (R261): physical address, offset within the piece and
length. -/
structure DPart where
  dst : Nat
  off : Nat
  len : Nat
  st : PartState
  deriving DecidableEq, Repr

/-- A piece of a command's data phase (R261), which one data request reads: segment, physical source, length,
virtual addresses or offsets of source and destination, and the writes its data goes out in. `asked` marks a
piece whose flash read or remote read is outstanding, `read` one whose source read has ended; `data` holds
bytes that wait for the RDMA write of their segment (R267). -/
structure Piece where
  id : Nat
  seg : Nat
  src : Nat
  len : Nat
  srcVa : U64
  dstVa : U64
  parts : List DPart
  asked : Bool
  read : Bool
  data : Bytes
  deriving DecidableEq, Repr

/-- A mover command (R250-R263). `early` is the status of a command that ends before its data phase, `unread`
says that its descriptor could not be read. Its claims are held in the cluster's list under `no`. -/
structure MovCmd where
  id : Nat
  no : Nat
  desc : Desc
  rdesc : U64
  dloc : Bool
  hasp : BitVec 14
  cnt : Bool
  space : Nat
  early : Option Nat
  unread : Bool
  phase : MovPhase
  pieces : List Piece
  status : Nat
  failSeg : Option (Bool × (Nat × U64))
  /-- Device number of a remote destination, once translated. -/
  ddev : Option (BitVec 6)
  /-- Landing zone of a pre-issued command, while it is pre-issued or confirmed (R278, R279). -/
  zone : Option Nat
  confirmed : Bool
  /-- The destination addition of R266 has been sent. -/
  dsent : Bool
  /-- Its source lines are read once each and in walk order (R264). -/
  inOrder : Bool
  /-- Error records of failures found before confirmation, kept until completion (R279). -/
  kept : List ErrInfo
  deriving DecidableEq, Repr

/-- A prepared `MOV` bundle (R277): bundle address, `RDESC` value, descriptor, the descriptor's physical
address, and the pieces of the translation pass run on the copy, none where that pass failed. -/
structure Prepared where
  pc : U64
  rdesc : U64
  desc : Desc
  pa : Nat
  pieces : Option (List Piece)
  deriving DecidableEq, Repr

/-- A mover (R268, R269). -/
structure Mover where
  cmds : List MovCmd
  err : Bool
  overrun : Bool
  lastStatus : BitVec 8
  errCount : BitVec 32
  errinfo : U64
  errdesc : U64
  erraddr : U64
  doneCnt : U64
  bytes : U64
  preissued : BitVec 16
  confirmed : BitVec 16
  discarded : BitVec 16
  deriving DecidableEq, Repr

def Mover.reset : Mover :=
  { cmds := [], err := false, overrun := false, lastStatus := 0, errCount := 0, errinfo := 0,
    errdesc := 0, erraddr := 0, doneCnt := 0, bytes := 0, preissued := 0, confirmed := 0,
    discarded := 0 }

/-- States of a landing zone (R270, R281). -/
inductive ZState where
  | idle | filling | ready | draining
  deriving DecidableEq, Repr

/-- A landing zone (R270). -/
structure Zone where
  en : Bool
  arch : Bool
  st : ZState
  base : BitVec 10
  hsize : BitVec 9
  deriving DecidableEq, Repr

def Zone.reset : Zone := { en := false, arch := false, st := .idle, base := 0, hsize := 0 }

/-- A captured drain that is not yet written (R87): its issue number and operands, and the tile, mode and
output multiplier captured. -/
structure DrainBuf where
  no : Nat
  dfmt : Nat
  rm : RMode
  sat : Bool
  off : Nat
  str : Nat
  sc : Nat
  tile : SMap XF40
  complex : Bool
  mult : BitVec 32
  deriving DecidableEq, Repr

/-- Accumulator tile and configuration of one matrix unit (R163, R179, R194, R195). -/
structure MUnit where
  tile : SMap XF40
  complex : Bool
  /-- The sequencer's copy of the mode (R179). -/
  seqComplex : Bool
  gcount : BitVec 17
  limit : Bool
  flags : MFlags
  item0 : BitVec 32
  item1 : BitVec 32
  item2 : BitVec 32
  drain : Option DrainBuf
  deriving DecidableEq, Repr

/-- FP32 1.0, the reset value of every `MCFG` item (R194). -/
def one32 : BitVec 32 := 0x3F800000

def MUnit.reset : MUnit :=
  { tile := [], complex := false, seqComplex := false, gcount := 0, limit := false,
    flags := MFlags.none, item0 := one32, item1 := one32, item2 := one32, drain := Option.none }

/-- Registers, masks and status of one vector unit (R198, R200, R223). -/
structure VUnit where
  v : SMap (BitVec 2048)
  m : SMap (BitVec 256)
  flags : VFlags
  deriving DecidableEq, Repr

def VUnit.reset : VUnit := { v := [], m := [], flags := VFlags.none }

/-- Lookup tables (R235, R242). -/
structure Lut where
  bank0 : LutBank
  bank1 : LutBank
  active : Bool
  loaded : Bool
  badimg : Bool
  gen : BitVec 8
  deriving DecidableEq, Repr

def Lut.reset : Lut :=
  { bank0 := { words := [], valid := false }, bank1 := { words := [], valid := false },
    active := false, loaded := false, badimg := false, gen := 0 }

/-- The streaming detector (R359): complete lines counted, the address the next store must have, the
bytes of the current line already written in sequence, and the line of the open `WriteFull`, whose
bytes are the last entry of the store buffer. -/
structure Stream where
  lines : Nat
  next : Option Nat
  inLine : Nat
  on : Bool
  pendLine : Option Nat
  deriving DecidableEq, Repr

def Stream.reset : Stream :=
  { lines := 0, next := Option.none, inLine := 0, on := false, pendLine := Option.none }

/-- An entry of the loop predictor (R276): bundle address and value, an exit index or trip count. -/
structure Pred where
  pc : U64
  value : Option Nat
  deriving DecidableEq, Repr

/-- The read of a bundle from a line that the line cache has asked for (R352): the bundle's address, its physical
address, and its bytes and their poison once the line has arrived. -/
structure FetchRead where
  pc : U64
  pa : Nat
  got : Option (Bytes × Bool)
  deriving DecidableEq, Repr

/-- The read of a `MOV` descriptor that waits for a line (R352) or for another module (R250): its physical address,
and the status and bytes once they have arrived. -/
structure DescRead where
  pa : Nat
  answer : Option (Nat × Bytes)
  deriving DecidableEq, Repr

/-- A line-cache group instruction that holds issue (R362): the line whose `WbAck` it waits for. -/
structure LcHold where
  line : Nat
  rd : SReg
  deriving DecidableEq, Repr

/-- One cluster. -/
structure Cluster where
  st : ClState
  queue : BitVec 10
  seq : BitVec 16
  -- sequencer
  regs : SMap U64
  pc : U64
  space : Nat
  loops : List LoopEnt
  stopIssued : Bool
  faulted : Option (Nat × U64)
  /-- An uncorrectable error is contained at this cluster and not yet reported (19_reset_and_ras.md
  R535). -/
  errored : Bool
  nextNo : Nat
  nextId : Nat
  loads : List ScAcc
  stores : List StoreEnt
  fence : Option Scope
  lcHold : Option LcHold
  fetchRead : Option FetchRead
  descRead : Option DescRead
  /-- The line an `LC.LOCK` has asked for, and whether it has arrived and been locked (R352, R360). -/
  lockRead : Option (Nat × Bool)
  -- engines
  queues : SMap (List EngEnt)
  claims : List Claim
  vunits : SMap VUnit
  munits : SMap MUnit
  lut : Lut
  -- hasps
  waits : List HWait
  /-- The wait of the bundle that stands at issue has ended (R124, R293). -/
  whEnded : Bool
  haspBuf : List HaspOp
  hwTmo : Bool
  hwLost : Bool
  raddFail : Bool
  lastHasp : BitVec 14
  -- store errors
  stFailed : Bool
  stOverrun : Bool
  stCause : BitVec 8
  stCount : BitVec 16
  stAddr : BitVec 56
  -- line cache
  lcache : SMap CLine
  lcStamp : Nat
  noStream : Bool
  backInv : BitVec 16
  lockInv : BitVec 16
  stream : Stream
  -- movers and run-ahead
  movers : SMap Mover
  zones : SMap Zone
  /-- What the cluster reads, by local address, where another agent has written an enabled zone of its store
  and the cluster has not written since (R273). -/
  dim : SMap (Option Byte)
  /-- A held write of the cluster's own sequencer to `CLU_LANDZ` (R271): issue number, zone, data. -/
  zoneHeld : Option (Nat × (Nat × RegW))
  prepared : List Prepared
  feAt : Option U64
  preds : List Pred
  -- translation
  ranges : List CachedRange
  deriving DecidableEq, Repr

/-- A cluster of an unpowered quadrant (R99, R118; notes/assumptions/8.md). -/
def Cluster.reset : Cluster :=
  { st := .off, queue := 0, seq := 0, regs := [], pc := 0, space := 0, loops := [],
    stopIssued := false, faulted := Option.none, errored := false, nextNo := 0,
    nextId := 0, loads := [], stores := [], fence := Option.none,
    lcHold := Option.none, fetchRead := Option.none, descRead := Option.none, lockRead := Option.none, queues := [], claims := [], vunits := [], munits := [],
    lut := Lut.reset, waits := [], whEnded := false, haspBuf := [], hwTmo := false, hwLost := false,
    raddFail := false, lastHasp := 0, stFailed := false, stOverrun := false, stCause := 0,
    stCount := 0, stAddr := 0, lcache := [], lcStamp := 0, noStream := false, backInv := 0,
    lockInv := 0, stream := Stream.reset, movers := [], zones := [], dim := [], zoneHeld := Option.none,
    prepared := [], feAt := Option.none, preds := [], ranges := [] }

end Sys2Proof.Machine
end

