-- ==== Sys2Proof/Machine/StateQuad.lean ====
section
/-! DEFINITION. State of a quadrant: dispatcher (03_cluster_execution.md), hasp bank (09_hasps.md),
translation block (12_range_translation.md), shelf and counters. -/

namespace Sys2Proof.Machine

/-- A launch record as copied (R104), with its place in its ring. `reserved` says that a reserved bit
is set. -/
structure LaunchRec where
  addr : Nat
  seq : BitVec 16
  priority : BitVec 3
  abortable : Bool
  maskMode : Bool
  space : BitVec 12
  queue : BitVec 10
  entry : U64
  arg : U64
  clusters : BitVec 24
  compHasp : BitVec 14
  compInc : BitVec 48
  reserved : Bool
  deriving DecidableEq, Repr

/-- A launch (R106-R117): its queue, record, local clusters that still run and all it was given, and
its outcome once fixed: status, faulting cluster, fault code and address. `noAdd` marks a record
rejected because of its completion hasp (R105), `late` one that was read before its queue was enabled again
(R101): the queue's indices no longer count it. -/
structure Launch where
  id : Nat
  queue : Nat
  rec' : LaunchRec
  all : List Nat
  running : List Nat
  outcome : Option (Nat × (Nat × (Nat × U64)))
  noAdd : Bool
  late : Bool
  startAt : Nat
  stopAt : Nat
  deriving DecidableEq, Repr

/-- A work queue (R100-R103, R115). `next` is the record read at `HEAD - 1` that waits to start,
`stopped` that reading stopped until the next accepted doorbell, `aborts` the records at or above
`HEAD` to be aborted, `done` the completed records above `RETIRED`. `nextLate` says that `next` was read
before the queue was enabled again. -/
structure WQueue where
  base : BitVec 49
  enable : Bool
  log2 : BitVec 4
  stale : Bool
  overrun : Bool
  ringErr : Bool
  head : BitVec 16
  tail : BitVec 16
  retired : BitVec 16
  stopped : Bool
  next : Option LaunchRec
  nextLate : Bool
  aborts : List (BitVec 16)
  done : List (BitVec 16)
  deriving DecidableEq, Repr

def WQueue.reset : WQueue :=
  { base := 0, enable := false, log2 := 0, stale := false, overrun := false, ringErr := false,
    head := 0, tail := 0, retired := 0, stopped := false, next := none, nextLate := false, aborts := [], done := [] }

/-- A completion held while the quadrant is orphaned (R530): address of the area, its bytes, and the
completion addition. -/
structure HeldComp where
  addr : Nat
  area : Bytes
  hasp : BitVec 14
  inc : BitVec 48
  err : Bool
  noAdd : Bool
  late : Bool
  queue : Nat
  seq : BitVec 16
  deriving DecidableEq, Repr

/-- A hasp (R283). -/
structure Hasp where
  count : BitVec 48
  err : Bool
  sat : Bool
  deriving DecidableEq, Repr

def Hasp.reset : Hasp := { count := 0, err := false, sat := false }

/-- An operation that has reached the bank and is not yet applied (R287, R288): the quadrant it came from, none for the
host die. `src` is the cluster whose hasp-operation buffer sent it, and the issue number of its bundle. -/
structure BankOp where
  quad : Option Nat
  src : Option (Nat × Nat)
  act : HaspAct
  index : Nat
  v : BitVec 48
  err : Bool
  deriving DecidableEq, Repr

/-- A notifier (R308). -/
structure Notifier where
  index : BitVec 12
  en : Bool
  onErr : Bool
  fired : Bool
  thresh : BitVec 48
  deriving DecidableEq, Repr

def Notifier.reset : Notifier := { index := 0, en := false, onErr := false, fired := false, thresh := 0 }

/-- System-cache policies (R396). -/
inductive ScPolicy where
  | auto | all | none
  deriving DecidableEq, Repr

/-- One quadrant. -/
structure Quad where
  /-- The quadrant runs: powered, reset and trained. -/
  up : Bool
  unusable : Bool
  underReset : Bool
  orphaned : Bool
  /-- The host was lost to a host-complex reset, not to a hinge (R529). -/
  byReset : Bool
  /-- The device state keeps its clocks stopped or its rails down (17_power_clocks_thermal.md R483). -/
  asleep : Bool
  -- dispatcher
  enable : Bool
  pgate : Bool
  abtBusy : Bool
  abtResult : BitVec 3
  queues : SMap WQueue
  launches : List Launch
  nextLaunch : Nat
  gathering : Option Nat
  gathered : List Nat
  rr : Nat
  held : List HeldComp
  -- hasp bank
  hasps : SMap Hasp
  inbox : List BankOp
  notifiers : SMap Notifier
  satev : Bool
  ropErr : Bool
  -- translation block
  invBusy : Bool
  invDropped : Bool
  spsel : BitVec 12
  malformed : Bool
  walkErr : Bool
  malSpace : BitVec 12
  malAddr : BitVec 57
  l2hit : BitVec 32
  walks : BitVec 32
  l2 : SMap (List CachedRange)
  walking : List Walk
  ended : List WalkFail
  -- shelf and system cache
  shelfK : BitVec 4
  policy : ScPolicy
  /-- The system cache (R395). -/
  sc : MemCache
  /-- The mailbox whose `SET_SHELF_SPLIT` has not ended (R397). -/
  splitBy : Option Nat
  /-- ACLK cycles since the quadrant last left reset, in units of 1/600 cycle. -/
  aclk : Nat
  /-- Clusters that have run a launch since the energy counters were last updated, each with the work-queue
  counter its record names (R109; 17_power_clocks_thermal.md R498). -/
  charged : List (Nat × Nat)
  -- ERR_QCE
  hbmCe : BitVec 16
  sramCe : BitVec 16
  ue : BitVec 16
  pprPend : BitVec 16
  deriving DecidableEq, Repr

/-- A quadrant right after reset (R98-R100, R283, R305, R308, R382, R394, R396, R539). -/
def Quad.reset : Quad :=
  { up := false, unusable := false, underReset := false, orphaned := false, byReset := false,
    asleep := false, enable := false,
    pgate := false, abtBusy := false, abtResult := 0, queues := [], launches := [],
    nextLaunch := 0, gathering := Option.none, gathered := [], rr := 0, held := [], hasps := [],
    inbox := [], notifiers := [], satev := false, ropErr := false, invBusy := false,
    invDropped := false, spsel := 0, malformed := false, walkErr := false, malSpace := 0,
    malAddr := 0, l2hit := 0, walks := 0, l2 := [], walking := [], ended := [], shelfK := 8,
    policy := .auto, sc := [], splitBy := Option.none, aclk := 0, charged := [], hbmCe := 0, sramCe := 0, ue := 0,
    pprPend := 0 }

end Sys2Proof.Machine
end

