-- ==== Sys2Proof/Machine/State.lean ====
section
/-! DEFINITION. The state of the block: everything the spec gives the module, and the queue of waiting
commands. -/

namespace Sys2Proof.Machine

/-- Why the block can stop on a command: for no reason. Every command has an effect, so the type has no
constructor. -/
inductive Fault
  deriving DecidableEq, Repr

/-- Why a command has no meaning. -/
inductive Refusal where
  /-- The command's meaning is not written. Safe. -/
  | notModelled (mnemonic : String)
  deriving DecidableEq, Repr

/-- A `RELOCATE` in progress (13_tiers_and_flash.md R389-R391): mailbox, space, entry index, the
rewritten entry fields, the old span's physical start, its length in units of 64 KiB, whether it lies in
LPDDR, the invalidation it began, and the units copied so far. -/
structure Relocation where
  mb : Nat
  space : Nat
  index : Nat
  pstart : Nat
  tier : Nat
  coh : Bool
  oldStart : Nat
  len : Nat
  oldLpddr : Bool
  inval : Nat
  copied : Nat
  deriving DecidableEq, Repr

/-- The descriptor of a prepared `MOV` bundle under watch (08_movers_and_run_ahead.md R277): cluster, bundle
address, `RDESC` value, the descriptor's local address, and whether any agent has written a byte of it since it
was read. -/
structure DescWatch where
  cluster : Nat
  pc : U64
  rdesc : U64
  la : Nat
  hit : Bool
  deriving DecidableEq, Repr

/-- Everything on the dies but the hinges: clusters, quadrants, memory, homes, harts, fabric, flash
tier, host I/O and the Tumbler's mailboxes. -/
structure Chip where
  clusters : SMap Cluster
  quads : SMap Quad
  /-- Bytes by local physical address; an unlisted byte is zero (13_tiers_and_flash.md R386). -/
  mem : SMap Byte
  /-- Poisoned lines by local line number (11_coherence.md R357). -/
  poison : SMap Bool
  /-- The L3 behind the host-die home (15_host_die.md R441). -/
  l3 : MemCache
  homes : SMap Home
  net : List CohMsg
  /-- Answers to non-caching requesters: requester, line, data, poison. -/
  answers : List CohMsg
  hostOpen : Bool
  harts : SMap Hart
  spaces : SMap SpaceRec
  invals : List Invalidation
  nextInv : Nat
  relocating : Option Relocation
  partitions : List (Nat × Nat)
  flash : Flash
  fabric : Fabric
  io : HostIo
  mgmt : Mgmt
  capUnits : U64
  capHarts : U64
  hbmPkg : Bool
  pkgAllowed : Bool
  storedPkg : Bool
  /-- Prepared descriptors (R277). -/
  watch : List DescWatch
  free : Nat
  deriving DecidableEq, Repr

/-- The dies without power (00_scope.md R7-R9, 13_tiers_and_flash.md R386). -/
def Chip.reset : Chip :=
  { clusters := [], quads := [], mem := [], poison := [], l3 := [], homes := [], net := [], answers := [],
    hostOpen := false, harts := [], spaces := [], invals := [], nextInv := 0, relocating := none,
    partitions := [], flash := Flash.reset, fabric := Fabric.reset, io := HostIo.reset,
    mgmt := { now := 0, boxes := [], evseq := 0, bank := [], errNext := 0, errOverflow := false,
              log := [], logged := [], repairs := [], rowErrors := [] },
    capUnits := 0, capHarts := 0, hbmPkg := false, pkgAllowed := false, storedPkg := false,
    watch := [], free := 0 }

/-- The state of the block. -/
structure State where
  /-- Commands that wait, first in first out. -/
  pending : List Instr
  chip : Chip
  links : Links
  power : Power
  boot : Boot
  pins : Pins
  deriving DecidableEq, Repr

/-- The module before its first power-on sequence: unpowered, with its non-volatile contents. -/
def State.reset : State :=
  { pending := [], chip := Chip.reset, links := Links.reset, power := Power.reset,
    boot := Boot.reset, pins := Pins.reset }

end Sys2Proof.Machine
end

