-- ==== Sys2Proof/Machine/Ops.lean ====
section
/-! DEFINITION. Shared operations: units by number, the address map (02_address_map.md), memory bytes
and poison, free values, and the reports every family makes. -/

namespace Sys2Proof.Machine

/-! ## Units by number -/

def Chip.cluster (k : Chip) (c : Nat) : Cluster := tblGet Cluster.reset k.clusters c

def Chip.updCluster (k : Chip) (c : Nat) (f : Cluster → Cluster) : Chip :=
  { k with clusters := tblMod Cluster.reset k.clusters c f }

def Chip.quad (k : Chip) (q : Nat) : Quad := tblGet Quad.reset k.quads q

def Chip.updQuad (k : Chip) (q : Nat) (f : Quad → Quad) : Chip :=
  { k with quads := tblMod Quad.reset k.quads q f }

def Chip.home (k : Chip) (h : Nat) : Home := tblGet Home.reset k.homes h

def Chip.updHome (k : Chip) (h : Nat) (f : Home → Home) : Chip :=
  { k with homes := tblMod Home.reset k.homes h f }

def Chip.hart (k : Chip) (h : Nat) : Hart := tblGet Hart.reset k.harts h

def Chip.updHart (k : Chip) (h : Nat) (f : Hart → Hart) : Chip :=
  { k with harts := tblMod Hart.reset k.harts h f }

def Chip.space (k : Chip) (t : Nat) : SpaceRec := tblGet SpaceRec.reset k.spaces t

def Chip.onMgmt (k : Chip) (f : Mgmt → Mgmt) : Chip := { k with mgmt := f k.mgmt }

def Chip.onFabric (k : Chip) (f : Fabric → Fabric) : Chip := { k with fabric := f k.fabric }

def State.onChip (s : State) (f : Chip → Chip) : State := { s with chip := f s.chip }

/-- Work queue `n` of a quadrant. -/
def Quad.queue (q : Quad) (n : Nat) : WQueue := tblGet WQueue.reset q.queues n

def Quad.updQueue (q : Quad) (n : Nat) (f : WQueue → WQueue) : Quad :=
  { q with queues := tblMod WQueue.reset q.queues n f }

def Quad.hasp (q : Quad) (i : Nat) : Hasp := tblGet Hasp.reset q.hasps i

def Cluster.mover (c : Cluster) (m : Nat) : Mover := tblGet Mover.reset c.movers m

def Cluster.updMover (c : Cluster) (m : Nat) (f : Mover → Mover) : Cluster :=
  { c with movers := tblMod Mover.reset c.movers m f }

def Cluster.zone (c : Cluster) (z : Nat) : Zone := tblGet Zone.reset c.zones z

def Cluster.updZone (c : Cluster) (z : Nat) (f : Zone → Zone) : Cluster :=
  { c with zones := tblMod Zone.reset c.zones z f }

/-- Scalar register `r`: `s0` reads as zero (04_iluchezia_bundles.md). -/
def Cluster.reg (c : Cluster) (r : SReg) : U64 := if r = 0 then 0 else tblGet 0 c.regs r.toNat

/-- A write to a scalar register; `s0` ignores it. -/
def Cluster.setReg (c : Cluster) (r : SReg) (v : U64) : Cluster :=
  if r = 0 then c else { c with regs := tblPut 0 c.regs r.toNat v }

/-- Hart register `x`: `x0` reads as zero (PRESUMED RISC-V, notes/assumptions/13.md). -/
def Hart.reg (h : Hart) (r : SReg) : U64 := if r = 0 then 0 else tblGet 0 h.x r.toNat

def Hart.setReg (h : Hart) (r : SReg) (v : U64) : Hart :=
  if r = 0 then h else { h with x := tblPut 0 h.x r.toNat v }

/-! ## Free values -/

/-- A fresh free value (notes/assumptions/3.md). -/
def Chip.fresh (k : Chip) : U64 × Chip := (Config.freeBits k.free, { k with free := k.free + 1 })

/-- `n` fresh free bytes. -/
def Chip.freshBytes (k : Chip) (n : Nat) : Bytes × Chip :=
  ((List.range n).map (fun i => (Config.freeBits (k.free + i)).setWidth 8),
   { k with free := k.free + n })

/-! ## Units present (00_scope.md R7, R8) -/

def Chip.quadPresent (k : Chip) (q : Nat) : Bool := q < 4 && k.capUnits.getLsbD q
def Chip.fabPresent (k : Chip) (n : Nat) : Bool := n < 12 && k.capUnits.getLsbD (4 + n)
def Chip.stackPresent (k : Chip) (n : Nat) : Bool := n < 8 && k.capUnits.getLsbD (24 + n)
def Chip.flashPresent (k : Chip) : Bool := k.capUnits.getLsbD 16
def Chip.clusterPresent (k : Chip) (c : Nat) : Bool := c < 96 && k.quadPresent (c / 24)

/-! ## Address map (02_address_map.md) -/

/-- Device number of a physical address (R59). -/
def paDev (pa : Nat) : Nat := bitsOf pa 50 6

/-- Local address (R59). -/
def paLocal (pa : Nat) : Nat := bitsOf pa 0 50

/-- Ranges of R60. -/
inductive Area where
  | lpddr | hbm | shelf | stores | regs | io | flash | none
  deriving DecidableEq, Repr

/-- The range of R60 that holds a local address. -/
def areaOf (la : Nat) : Area :=
  if la < 0x8000000000 then .lpddr
  else if la < 0x10000000000 then .none
  else if la < 0x20000000000 then .hbm
  else if la < 0x20040000000 then .shelf
  else if la < 0x20100000000 then .none
  else if la < 0x20118000000 then .stores
  else if la < 0x30000000000 then .none
  else if la < 0x30010600000 then .regs
  else if la < 0x40000000000 then .none
  else if la < 0x50000000000 then .io
  else if la < 0x100000000000 then .none
  else if la < 0x200000000000 then .flash
  else .none

/-- Stack and stack address of a local address of the HBM window, none in a hole (R63, R64). -/
def hbmSpot (pkg : Bool) (la : Nat) : Option (Nat × Nat) :=
  let w := la - 0x10000000000
  if pkg then
    if w < 0x9000000000 then
      some (bitsOf w 12 3 ^^^ bitsOf w 24 3, bitsOf w 15 25 * 4096 + bitsOf w 0 12)
    else none
  else
    let q := w / 0x4000000000
    let o := w % 0x4000000000
    if o < 0x2400000000 then
      some (2 * q + (bitsOf o 12 1 ^^^ bitsOf o 24 1), bitsOf o 13 25 * 4096 + bitsOf o 0 12)
    else none

/-- Shelf size of a quadrant in bytes (R67, 13_tiers_and_flash.md R394). -/
def Quad.shelfSize (q : Quad) : Nat := q.shelfK.toNat * 0x800000

/-- Cluster of a local address of the cluster stores, and the offset within its store (R61). -/
def storeSpot (la : Nat) : Nat × Nat :=
  ((la - 0x20100000000) / 0x400000, (la - 0x20100000000) % 0x400000)

/-- Local address of byte `o` of cluster `c`'s store (R61). -/
def storeAddr (c o : Nat) : Nat := 0x20100000000 + c * 0x400000 + o

/-- The bank, and the line within it, of an offset of a cluster's store: 32 banks of 1,024 lines (R61). -/
def storeBank (o : Nat) : Nat × Nat := (bitsOf o 7 5, o / 4096)

/-- The bank, the line within it and the byte within the line of an offset of a shelf slot (R67). -/
def shelfBank (o : Nat) : Nat × (Nat × Nat) := (bitsOf o 7 5 ^^^ bitsOf o 12 5, (bitsOf o 12 15, bitsOf o 0 7))

/-- The pseudo-channel of an address within a stack, and the address within the pseudo-channel
(13_tiers_and_flash.md R392). -/
def pseudoChannel (sa : Nat) : Nat × Nat := (bitsOf sa 8 5 ^^^ bitsOf sa 13 5, sa / 8192 * 256 + sa % 256)

/-- The LPDDR channel of a local address, and the address within it (15_host_die.md R442). -/
def lpddrChannel (la : Nat) : Nat × Nat := pseudoChannel la

/-- The quadrant that owns a local address of HBM, shelf, cluster stores or register space; none for
what lies on the host die or holds nothing. -/
def Chip.ownerQuad (k : Chip) (la : Nat) : Option Nat :=
  match areaOf la with
  | .hbm => (hbmSpot k.hbmPkg la).map (·.1 / 2)
  | .shelf => some ((la - 0x20000000000) / 0x10000000)
  | .stores => some ((storeSpot la).1 / 24)
  | .regs =>
    if 0x30010000000 ≤ la then some ((la - 0x30010000000) / 0x10000 / 24)
    else if 0x30001000000 ≤ la && la < 0x30001400000 then some ((la - 0x30001000000) / 0x100000)
    else none
  | _ => none

/-- Whether a local address of a memory range is populated by a present unit (R60-R67). -/
def Chip.populated (k : Chip) (la : Nat) : Bool :=
  match areaOf la with
  | .lpddr => true
  | .hbm => match hbmSpot k.hbmPkg la with
    | some (st, _) => k.stackPresent st
    | none => false
  | .shelf =>
    let q := (la - 0x20000000000) / 0x10000000
    k.quadPresent q && decide ((la - 0x20000000000) % 0x10000000 < (k.quad q).shelfSize)
  | .stores => k.clusterPresent (storeSpot la).1
  | _ => false

/-- Whether two quadrants are partitioned (01_package_and_hinges.md R50). -/
def Chip.parted (k : Chip) (a b : Nat) : Bool :=
  k.partitions.contains (min a b, max a b)

/-- The units of quadrant `q` cannot be reached by an agent of quadrant `src`, or of the host side
when `src` is none: unusable, in reset, asleep, orphaned or partitioned (R72, R50;
19_reset_and_ras.md R526, R530; 17_power_clocks_thermal.md R483). -/
def Chip.shut (k : Chip) (src : Option Nat) (q : Nat) : Bool :=
  let d := k.quad q
  d.unusable || d.underReset || d.asleep || !d.up ||
    match src with
    | none => d.orphaned
    | some p => k.parted p q

/-- Mover status codes (08_movers_and_run_ahead.md R251) that an address can give. -/
def stOk : Nat := 0
def stPermission : Nat := 2
def stTierError : Nat := 3
def stPoison : Nat := 4
def stTimeout : Nat := 5
def stLinkLost : Nat := 6
def stHostReset : Nat := 7
def stAborted : Nat := 8
def stNotPresent : Nat := 9

/-- Why an agent cannot reach LPDDR: the home is closed, or the agent's quadrant is orphaned
(19_reset_and_ras.md R529, R530; 15_host_die.md R453). -/
def Chip.hostShut (k : Chip) (src : Option Nat) : Nat :=
  match src with
  | none => if k.hostOpen then stOk else stHostReset
  | some p =>
    if (k.quad p).orphaned then (if (k.quad p).byReset then stHostReset else stLinkLost)
    else if !k.hostOpen then stHostReset
    else stOk

/-- Outcome of reaching a local address of LPDDR, HBM, shelf or a cluster store: `OK`, `NOT_PRESENT`
where it holds nothing, `LINK_LOST` or `HOST_RESET` (R71, R72). -/
def Chip.reachMem (k : Chip) (src : Option Nat) (la : Nat) : Nat :=
  if !k.populated la then stNotPresent
  else
    match k.ownerQuad la with
    | some q => if k.shut src q then stLinkLost else stOk
    | none => k.hostShut src

/-- Whether a local address is cached by agents of its own module (R62). -/
def cacheable (la : Nat) : Bool := areaOf la = .lpddr || areaOf la = .hbm

/-- Local line number of a local address. -/
def lineOf (la : Nat) : Nat := la / 128

/-- Home of a line (11_coherence.md R337): 160-163 a quadrant, 164 the host die. -/
def Chip.homeOf (k : Chip) (line : Nat) : Nat :=
  match k.ownerQuad (line * 128) with
  | some q => 160 + q
  | none => 164

/-- Quadrant of an end of the coherence network: none for harts and the host die. -/
def endQuad (e : Nat) : Option Nat :=
  if e < 64 then none
  else if e < 160 then some ((e - 64) / 24)
  else if e < 164 then some (e - 160)
  else none

/-! ## Memory bytes and poison -/

def Chip.byte (k : Chip) (la : Nat) : Byte := tblGet 0 k.mem la

def Chip.bytes (k : Chip) (la n : Nat) : Bytes := (List.range n).map (fun i => k.byte (la + i))

def Chip.poisoned (k : Chip) (line : Nat) : Bool := tblGet false k.poison line

def Chip.setPoison (k : Chip) (line : Nat) (p : Bool) : Chip :=
  { k with poison := tblPut false k.poison line p }

/-- Bytes stored from a local address on. -/
def putBytes : SMap Byte → Nat → Bytes → SMap Byte
  | m, _, [] => m
  | m, a, b :: bs => putBytes (tblPut 0 m a b) (a + 1) bs

/-- A prepared descriptor after a write of `n` bytes at a local address (08_movers_and_run_ahead.md R277). -/
def DescWatch.note (w : DescWatch) (la n : Nat) : DescWatch :=
  { w with hit := w.hit || (decide (la < w.la + 64) && decide (w.la < la + n)) }

/-- The prepared descriptors after a write of `n` bytes at a local address, wherever the write is held. -/
def Chip.noteWrite (k : Chip) (la n : Nat) : Chip := { k with watch := k.watch.map (·.note la n) }

/-- Bytes of memory changed, poison untouched. -/
def Chip.poke (k : Chip) (la : Nat) (bs : Bytes) : Chip :=
  { k with mem := putBytes k.mem la bs, watch := k.watch.map (·.note la bs.length) }

/-- The lines that a run of bytes touches. -/
def linesOf (la n : Nat) : List Nat :=
  if n = 0 then [] else span (la / 128) ((la + n - 1) / 128 - la / 128 + 1)

/-- Whether a run of bytes covers all of a line. -/
def coversLine (la n line : Nat) : Bool := decide (la ≤ line * 128) && decide (line * 128 + 128 ≤ la + n)

/-- A byte of its own store as a cluster finds it: its own where another agent has written an enabled landing
zone (08_movers_and_run_ahead.md R273). -/
def Chip.ownByte (k : Chip) (c la : Nat) : Byte :=
  match tblGet none (k.cluster c).dim la with
  | some b => b
  | none => k.byte la

def Chip.ownBytes (k : Chip) (c la n : Nat) : Bytes := (List.range n).map (fun i => k.ownByte c (la + i))

/-- A cluster has written bytes of its own store and finds what it wrote (R273). -/
def Chip.ownWritten (k : Chip) (c la n : Nat) : Chip :=
  if (k.cluster c).dim = [] then k
  else k.updCluster c (fun x => { x with
    dim := x.dim.filter (fun e => !(decide (la ≤ e.1) && decide (e.1 < la + n))) })

/-- Bytes written by any agent to memory that no cache holds: a line written whole takes the poison
of the data, a line written in part keeps its own or takes the data's (11_coherence.md R357). -/
def Chip.writeMem (k : Chip) (la : Nat) (bs : Bytes) (p : Bool) : Chip :=
  (linesOf la bs.length).foldl (fun k l =>
    k.setPoison l (p || (k.poisoned l && !coversLine la bs.length l))) (k.poke la bs)

/-- A line of memory as one value. -/
def Chip.lineData (k : Chip) (line : Nat) : LineData :=
  BitVec.ofNat 1024 (ofBytes (k.bytes (line * 128) 128))

/-- Byte `i` of a line. -/
def lineByte (d : LineData) (i : Nat) : Byte := d.extractLsb' (8 * i) 8

/-- Bytes `o` to `o + n - 1` of a line. -/
def lineBytes (d : LineData) (o n : Nat) : Bytes := (List.range n).map (fun i => lineByte d (o + i))

/-- A line with bytes replaced from offset `o` on. -/
def linePut (d : LineData) (o : Nat) : Bytes → LineData
  | [] => d
  | b :: bs =>
    linePut ((d &&& ~~~((0xFF : LineData) <<< (8 * o))) ||| (b.setWidth 1024 <<< (8 * o))) (o + 1) bs

/-- A whole line written to memory with its poison bit (11_coherence.md R348, R349). -/
def Chip.writeLine (k : Chip) (line : Nat) (d : LineData) (p : Bool) : Chip :=
  (k.poke (line * 128) (lineBytes d 0 128)).setPoison line p

/-- The masked bytes of a line merged into memory (R347, R357). -/
def Chip.mergeLine (k : Chip) (line : Nat) (mask : BitVec 128) (d : LineData) (p : Bool) : Chip :=
  let k1 := (List.range 128).foldl (fun k i =>
    if mask.getLsbD i then k.poke (line * 128 + i) [lineByte d i] else k) k
  k1.setPoison line (p || (k.poisoned line && mask ≠ BitVec.allOnes 128))

/-! ## Ethernet ports (15_host_die.md R450) -/

/-- An Ethernet port, and a change of one. -/
def Chip.ethPort (k : Chip) (e : Nat) : EthPort := tblGet EthPort.reset k.io.eth e
def Chip.updEth (k : Chip) (e : Nat) (f : EthPort → EthPort) : Chip :=
  { k with io := { k.io with eth := tblMod EthPort.reset k.io.eth e f } }

/-! ## Memory-side caches (15_host_die.md R440, R441; 13_tiers_and_flash.md R394-R396) -/

/-- A line read or written in a memory-side cache: a hit, or a miss that takes a place and evicts what was there
(notes/assumptions/107.md). -/
def useLine (m : MemCache) (line slot : Nat) (write alloc : Bool) : MemCache :=
  if m.any (fun h => h.line = line) then
    m.map (fun h => if h.line = line then { h with dirty := h.dirty || write } else h)
  else if alloc then m.filter (fun h => h.slot ≠ slot) ++ [{ line := line, slot := slot, dirty := write }]
  else m

/-- The slice of the L3 that holds a line (R441). -/
def l3Slice (line : Nat) : Nat := bitsOf line 0 4 ^^^ bitsOf line 4 4

/-- The first of the 16 places that a line can take in the L3: 2,048 sets of a slice. -/
def l3Base (line : Nat) : Nat := l3Slice line * 32768 + Config.l3Set line % 2048 * 16

/-- The place a line takes in the L3: a free way of its set, or a free value's choice. -/
def Chip.l3Slot (k : Chip) (line : Nat) : Nat :=
  match (List.range 16).find? (fun w => !k.l3.any (fun h => h.slot = l3Base line + w)) with
  | some w => l3Base line + w
  | none => l3Base line + (Config.freeBits k.free).toNat % 16

/-- The first SRAM line of a base die that is the system cache's, and how many there are (R67, R394). -/
def Quad.scLow (d : Quad) : Nat := d.shelfSize / 128
def Quad.scLines (d : Quad) : Nat := 786432 - d.scLow

/-- A miss of a system cache allocates (R396); `big` says that it comes from a mover command of 1 MiB or more. -/
def ScPolicy.allocates (p : ScPolicy) (big : Bool) : Bool :=
  match p with
  | .auto => !big
  | .all => true
  | .none => false

/-- A line of memory is read or written at its home, through the memory-side cache there. -/
def Chip.cacheUse (k : Chip) (line : Nat) (write big : Bool) : Chip :=
  let k1 : Chip := { k with free := k.free + 1 }
  match k.ownerQuad (line * 128) with
  | some q => k1.updQuad q (fun d => { d with
      sc := useLine d.sc line (d.scLow + (Config.freeBits k.free).toNat % max d.scLines 1) write
        (d.policy.allocates big && d.scLines ≠ 0) })
  | none => { k1 with l3 := useLine k.l3 line (k.l3Slot line) write true }

/-- The lines of a run of bytes. -/
def Chip.cacheUseAll (k : Chip) (la n : Nat) (write big : Bool) : Chip :=
  (linesOf la n).foldl (fun k l => k.cacheUse l write big) k

/-! ## Reports -/

/-- An error record and its counters (19_reset_and_ras.md R536-R540). -/
def Chip.report (k : Chip) (sev : Nat) (e : ErrInfo) (count : Nat) : Chip :=
  k.onMgmt (fun m => m.record sev e count)

def Chip.post (k : Chip) (kind : BitVec 16) (sev unit : Nat) (detail : List Nat) : Chip :=
  k.onMgmt (fun m => m.post kind sev unit detail)

/-- `QUAD` of a record about an agent: its quadrant, or 7 (R536). -/
def quadField (q : Option Nat) : BitVec 8 := BitVec.ofNat 8 (q.getD 7)

/-- A record about a cluster's agent. -/
def clusterErr (c agent : Nat) (cls : BitVec 16) (level : BitVec 8) : ErrInfo :=
  { ErrInfo.none with
    cls := cls, level := level, quad := BitVec.ofNat 8 (c / 24), cluster := BitVec.ofNat 8 c,
    agent := BitVec.ofNat 8 agent }

/-- A record about a hart. -/
def hartErr (h : Nat) (cls : BitVec 16) (level : BitVec 8) : ErrInfo :=
  { ErrInfo.none with cls := cls, level := level, agent := 13, hart := BitVec.ofNat 8 h }

/-- Space left out of a list: its first element that meets a test. -/
def dropFirst {α : Type} (p : α → Bool) : List α → List α
  | [] => []
  | x :: r => if p x then r else x :: dropFirst p r

end Sys2Proof.Machine
end

