-- ==== Sys2Proof/Machine/CohBase.lean ====
section
/-! DEFINITION. Lines of the caching agents (11_coherence.md R338, R358; 15_host_die.md R440):
finding, allocating and evicting them, and the requests they send. -/

namespace Sys2Proof.Machine

/-- No message passes between two ends: a quadrant of theirs is unusable, they are partitioned, or one is on
the host side and the other in an orphaned quadrant (01_package_and_hinges.md R48, R50, R562;
19_reset_and_ras.md R529). -/
def Chip.severed (k : Chip) (a b : Nat) : Bool :=
  match endQuad a, endQuad b with
  | none, none => false
  | some p, none => (k.quad p).unusable || (k.quad p).orphaned
  | none, some q => (k.quad q).unusable || (k.quad q).orphaned
  | some p, some q => p ≠ q && ((k.quad p).unusable || (k.quad q).unusable || k.parted p q)

/-- A message put on the coherence network (R342); one between severed ends is lost
(01_package_and_hinges.md R47). -/
def Chip.send (k : Chip) (m : CohMsg) : Chip :=
  if k.severed m.src m.dst then k else { k with net := k.net ++ [m] }

/-- A message with the fields it does not use empty. -/
def mkMsg (kind : CohKind) (src dst line : Nat) : CohMsg :=
  { kind := kind, src := src, dst := dst, line := line, data := 0, poison := false, req := 0,
    once := false, keep := false }

/-- A message that carries a line (R341). -/
def mkDataMsg (kind : CohKind) (src dst line : Nat) (d : LineData) (p : Bool) : CohMsg :=
  { mkMsg kind src dst line with data := d, poison := p }

/-- States in which an agent may read the line (R351). -/
def CState.readable : CState → Bool
  | .s | .f | .e | .m | .smD | .fmD => true
  | _ => false

/-- States in which an agent may write the line. -/
def CState.writable : CState → Bool
  | .e | .m => true
  | _ => false

/-- Transient states (R351). -/
def CState.transient : CState → Bool
  | .i | .s | .f | .e | .m => false
  | _ => true

/-- Keys of the 48 ways of a line cache (R358). -/
def lcWays : List Nat := List.range 48

/-- The way of a line cache that holds or is reserved for a line. -/
def Cluster.wayOf (c : Cluster) (line : Nat) : Option Nat :=
  lcWays.find? (fun w => let e := tblGet CLine.none c.lcache w
    e.line = line && (e.st ≠ .i || e.locked))

/-- The entry of caching agent `a` for a line; an invalid line where it holds none. -/
def Chip.cline (k : Chip) (a line : Nat) : CLine :=
  if a < 64 then tblGet CLine.none (k.hart a).l2 line
  else match (k.cluster (a - 64)).wayOf line with
    | some w => tblGet CLine.none (k.cluster (a - 64)).lcache w
    | none => CLine.none

/-- An entry in canonical form: an unlocked invalid line is no entry. -/
def normLine (e : CLine) : CLine := if e.st = .i && !e.locked then CLine.none else e

/-- The L1 copies of a line after its L2 entry became `e` (R336; 15_host_die.md R440): none where the L2 holds it
no longer, and a clean one where the L2 may not write it. -/
def Hart.l1After (h : Hart) (line : Nat) (e : CLine) : Hart :=
  if e.st.readable then
    if e.st.writable then h
    else { h with l1d := h.l1d.map (fun p => if p.1 = line then (line, false) else p) }
  else { h with l1i := h.l1i.filter (· ≠ line), l1d := h.l1d.filter (fun p => p.1 ≠ line) }

/-- The entry of caching agent `a` for a line it holds, changed: in a hart, its L1 copies first (R336). -/
def Chip.updLine (k : Chip) (a line : Nat) (f : CLine → CLine) : Chip :=
  if a < 64 then
    k.updHart a (fun h =>
      let e := normLine (f (tblGet CLine.none h.l2 line))
      { h.l1After line e with l2 := tblPut CLine.none h.l2 line e })
  else match (k.cluster (a - 64)).wayOf line with
    | some w => k.updCluster (a - 64) (fun c =>
        { c with lcache := tblMod CLine.none c.lcache w (fun e => normLine (f e)) })
    | none => k

/-- Set of a line in an L2 (15_host_die.md R440). -/
def l2Set (line : Nat) : Nat := bitsOf line 0 9 ^^^ bitsOf line 9 9

/-- The put that evicts a line from a stable state, and the state that follows (R351). -/
def evictRow : CState → Option (CohKind × CState)
  | .s => some (.putS, .siA)
  | .f => some (.putF, .fiA)
  | .e => some (.putE, .eiA)
  | .m => some (.putM, .miA)
  | _ => none

/-- Eviction of a line of agent `a`. -/
def Chip.evict (k : Chip) (a line : Nat) : Chip :=
  let e := k.cline a line
  match evictRow e.st with
  | none => k
  | some (kind, st) =>
    let k1 := k.updLine a line (fun e => { e with st := st, keep := false })
    k1.send (if kind = .putM then mkDataMsg kind a (k.homeOf line) line e.data e.poison
             else mkMsg kind a (k.homeOf line) line)

/-- Lines of an L2 that lie in the set of a line. -/
def Hart.setLines (h : Hart) (line : Nat) : List Nat :=
  (h.l2.map (·.1)).filter (fun l => l2Set l = l2Set line)

/-- The least recently used evictable way of a line cache (R358). -/
def Cluster.victim (c : Cluster) : Option Nat :=
  let ok := lcWays.filter (fun w =>
    let e := tblGet CLine.none c.lcache w
    !e.locked && !e.st.transient && e.st ≠ .i)
  ok.foldl (fun best w =>
    match best with
    | none => some w
    | some b => if (tblGet CLine.none c.lcache w).stamp < (tblGet CLine.none c.lcache b).stamp
        then some w else some b) none

/-- Outstanding transactions of a line cache (R358, R363). -/
def Cluster.lcPending (c : Cluster) : Nat := (c.lcache.filter (fun e => e.2.st.transient)).length

/-- A line on its way out, which leaves its way free (R351). -/
def CLine.leaving (e : CLine) : Bool :=
  !e.locked && !e.keep && (e.st = .miA || e.st = .eiA || e.st = .fiA || e.st = .siA || e.st = .iiA)

/-- Room made for a line in agent `a`: a free way found, or a victim evicted and none yet, unless a way is being
freed already. An L2 chooses its victim by a free value, since the spec names no replacement there
(notes/assumptions/24.md). -/
def Chip.allocate (k : Chip) (a line : Nat) : Chip × Bool :=
  if a < 64 then
    let ls := (k.hart a).setLines line
    if ls.length < 16 then (k, true)
    else if ls.any (fun l => (k.cline a l).leaving) then (k, false)
    else
      let ok := ls.filter (fun l => !(k.cline a l).st.transient)
      let (v, k1) := k.fresh
      match ok[v.toNat % max ok.length 1]? with
      | some l => (k1.evict a l, false)
      | none => (k, false)
  else
    let c := k.cluster (a - 64)
    if (c.wayOf line).isSome then (k, true)
    else match lcWays.find? (fun w => tblGet CLine.none c.lcache w = CLine.none) with
      | some w => (k.updCluster (a - 64) (fun c => { c with
          lcache := tblPut CLine.none c.lcache w
            { CLine.none with st := .isD, line := line, stamp := c.lcStamp + 1 }
          lcStamp := c.lcStamp + 1 }), true)
      | none =>
        if c.lcache.any (fun e => e.2.leaving) then (k, false)
        else match c.victim with
          | some w => (k.evict a (tblGet CLine.none c.lcache w).line, false)
          | none => (k, false)

/-- A read or write request of caching agent `a` for a line (R351, R354): sent when the line is in a
state that sends one and there is room for it; a line cache has 16 transactions at most (R358). -/
def Chip.requestLine (k : Chip) (a line : Nat) (write : Bool) : Chip :=
  let home := k.homeOf line
  if 64 ≤ a && 16 ≤ (k.cluster (a - 64)).lcPending then k
  else match (k.cline a line).st, write with
  | .i, _ =>
    match k.allocate a line with
    | (k1, true) =>
      let fresh : CLine := { (k1.cline a line) with
        st := if write then .imD else .isD, line := line, snoop := Option.none, keep := false }
      let k2 := if a < 64 then
          k1.updHart a (fun h => { h with l2 := tblPut CLine.none h.l2 line fresh })
        else k1.updLine a line (fun _ => fresh)
      k2.send (mkMsg (if write then .getM else .getS) a home line)
    | (k1, false) => k1
  | .s, true => (k.updLine a line (fun e => { e with st := .smD })).send (mkMsg .getM a home line)
  | .f, true => (k.updLine a line (fun e => { e with st := .fmD })).send (mkMsg .getM a home line)
  | _, _ => k

/-- The line used now (R358). -/
def Chip.touch (k : Chip) (a line : Nat) : Chip :=
  if a < 64 then k
  else (k.updCluster (a - 64) (fun c => { c with lcStamp := c.lcStamp + 1 })).updLine a line
    (fun e => { e with stamp := (k.cluster (a - 64)).lcStamp + 1 })

end Sys2Proof.Machine
end

