-- ==== Sys2Proof/Machine/ClusterOps.lean ====
section
/-! DEFINITION. What every family does with a cluster: sequencer faults, run-ahead discard, claims and
the scalar loads and stores that stand in the sequencer (03_cluster_execution.md R88-R96,
10_memory_ordering.md R314-R318). -/

namespace Sys2Proof.Machine

/-! ## Run-ahead (08_movers_and_run_ahead.md R279-R281) -/

/-- A pre-issued command that is not confirmed (R278, R279). -/
def MovCmd.speculative (m : MovCmd) : Bool := m.zone.isSome && !m.confirmed && m.phase ≠ .drain

/-- A write of a piece that has ended, well or not. -/
def PartState.over : PartState → Bool
  | .done | .failed => true
  | _ => false

/-- A piece of which nothing is left to do: its source read has ended, and so have its writes. -/
def Piece.landed (p : Piece) : Bool := p.read && p.parts.all (·.st.over)

/-- A piece with a request outstanding. -/
def Piece.busy (p : Piece) : Bool := p.asked || p.parts.any (fun q => q.st = .sent)

/-- A piece whose data request has still to be answered, its target being at hand. -/
def Piece.open' (p : Piece) : Bool := !p.read && !p.asked

/-- A discarded pre-issued command: gone, or draining while its requests are in flight (R280, R281). -/
def MovCmd.discard (m : MovCmd) : Option MovCmd :=
  if m.phase = .data && !m.pieces.all (·.landed) then some { m with phase := .drain } else none

/-- The zone of a discarded command (R281). -/
def Cluster.discardZone (c : Cluster) (m : MovCmd) : Cluster :=
  match m.zone with
  | none => c
  | some z => c.updZone z (fun z => { z with st := if m.discard.isSome then .draining else .idle })

/-- The pre-issued commands of mover `n` that meet a test are discarded (R280). -/
def Cluster.discardOf (c : Cluster) (n : Nat) (p : MovCmd → Bool) : Cluster :=
  let gone := (c.mover n).cmds.filter (fun m => m.speculative && p m)
  (gone.foldl (fun c m => c.discardZone m) c).updMover n (fun v => { v with
    cmds := v.cmds.filterMap (fun m => if m.speculative && p m then m.discard else some m)
    discarded := satAdd v.discarded gone.length })

/-- Pre-issued commands of both movers discarded (R280). -/
def Cluster.discardIf (c : Cluster) (p : MovCmd → Bool) : Cluster := (c.discardOf 0 p).discardOf 1 p

/-- All run-ahead state discarded: prepared bundles, fetched bundles and pre-issued commands. -/
def Cluster.discardRunAhead (c : Cluster) : Cluster :=
  { c.discardIf (fun _ => true) with prepared := [], feAt := none }

/-- An open `WriteFull` of the streaming detector is closed, so that it can be sent (R359). -/
def Cluster.closeStream (c : Cluster) : Cluster :=
  { c with stream := { c.stream with pendLine := Option.none } }

/-- Streaming ends (R359). -/
def Cluster.endStream (c : Cluster) : Cluster := { c with stream := Stream.reset }

/-! ## Faults (R94, R95) -/

/-- A sequencer fault: the first to be found is kept, run-ahead state is discarded and registered
waits are withdrawn, and an open `WriteFull` is sent (R94; 09_hasps.md R296; 11_coherence.md R359). -/
def Cluster.takeFault (c : Cluster) (code : Nat) (addr : U64) : Cluster :=
  if c.faulted.isSome then c
  else { c.discardRunAhead.closeStream with
    faulted := some (code, addr), waits := [], fetchRead := none, descRead := none, lockRead := none }

/-- The fault code of a status that an address or answer gave (R95, R374). -/
def faultOf (st : Nat) : Nat :=
  if st = stPermission then 3
  else if st = stPoison then 6
  else if st = stTimeout then 7
  else if st = stLinkLost then 7
  else if st = stHostReset then 8
  else if st = stNotPresent then 1
  else 2

/-! ## Landing zones and claims (R88-R91; 08_movers_and_run_ahead.md R270-R272) -/

/-- Bytes of a half of a zone, and the start of its window. -/
def Zone.half (z : Zone) : Nat := z.hsize.toNat * 4096
def Zone.window (z : Zone) : Nat := z.base.toNat * 4096

/-- An offset as the cluster's own agents reach it (R272). -/
def Cluster.redirect (c : Cluster) (o : Nat) : Nat :=
  match (List.range 8).find? (fun n => (c.zone n).en && decide ((c.zone n).window ≤ o) &&
      decide (o < (c.zone n).window + (c.zone n).half)) with
  | some n => if (c.zone n).arch then o + (c.zone n).half else o
  | none => o

/-- Place of an engine's slot in a bundle (R82): matrix, vector, mover, SFU. -/
def slotRank (e : Nat) : Nat := if e = 6 then 9 else e

/-- Whether a claim overlaps a run of bytes of the store. -/
def Claim.overlaps (x : Claim) (o n : Nat) : Bool := decide (x.lo < o + n) && decide (o < x.hi)

/-- Whether a scalar access of bundle `no` must wait for claims (R91). -/
def Cluster.claimWait (c : Cluster) (no : Nat) (claim : Option Nat) (n : Nat) (write : Bool) : Bool :=
  match claim with
  | none => false
  | some o => c.claims.any (fun x => x.no < no && x.overlaps o n && (write || x.write))

/-! ## Scalar loads and stores -/

/-- Whether a physical address belongs to this module. -/
def Chip.isOwn (k : Chip) (pa : Nat) : Bool := paDev pa = k.fabric.devnum.toNat

/-- The ordered locations of a sequencer (10_memory_ordering.md R314). -/
def Chip.ordered (k : Chip) (c pa : Nat) : Bool :=
  k.isOwn pa && (cacheable (paLocal pa) ||
    (areaOf (paLocal pa) = .stores && (storeSpot (paLocal pa)).1 = c))

/-- Whether a physical address lies in the cluster's own store. -/
def Chip.inOwnStore (k : Chip) (c pa : Nat) : Bool :=
  k.isOwn pa && areaOf (paLocal pa) = .stores && (storeSpot (paLocal pa)).1 = c

/-- Bytes with those of buffered stores laid over them, oldest first (R311, forwarding). -/
def overlay (pa : Nat) (bs : Bytes) : List (Nat × Bytes) → Bytes
  | [] => bs
  | (a, d) :: r =>
    overlay pa (bs.mapIdx (fun i b =>
      if a ≤ pa + i && pa + i < a + d.length then d.getD (pa + i - a) 0 else b)) r

/-- Where an access of cluster `c` is made: an offset form (space 0) is redirected by the zones as they
stand then (08_movers_and_run_ahead.md R272). -/
def Chip.placeOf (k : Chip) (c space : Nat) (claim : Option Nat) (pa : Nat) : Nat :=
  match claim with
  | some o =>
    if space = 0 then k.fabric.devnum.toNat * 2 ^ 50 + storeAddr c ((k.cluster c).redirect o) else pa
  | none => pa

/-- The stores of a cluster that an access with identifier `id` follows. -/
def Chip.olderStores (k : Chip) (c id : Nat) : List (Nat × Bytes) :=
  ((k.cluster c).stores.filter (fun s => s.id < id)).map (fun s =>
    (k.placeOf c s.space s.claim s.pa, s.data))

/-- A loaded value: `n` bytes, sign- or zero-extended to 64 bits. -/
def extend (n : Nat) (signed : Bool) (bs : Bytes) : U64 :=
  let x := ofBytes bs
  if signed && bitOf x (8 * n - 1) then BitVec.ofNat 64 (x + 2 ^ 64 - 2 ^ (8 * n)) else BitVec.ofNat 64 x

/-- A scalar load performed on the bytes its target gave (R94, R534): its register is written, or the
fault `POISON` is taken. Older stores to an ordered location are forwarded (R311, R314); elsewhere none to the
line is outstanding (R315). -/
def Chip.finishLoad (k : Chip) (c : Nat) (a : ScAcc) (bs : Bytes) (poison : Bool) : Chip :=
  let k1 := k.updCluster c (fun x => { x with loads := x.loads.filter (·.id ≠ a.id) })
  if poison then
    (k1.updCluster c (·.takeFault 6 a.pc)).report 1
      { clusterErr c 0 3 1 with paddr := BitVec.ofNat 64 a.pa, vaddr := a.va,
                                space := BitVec.ofNat 16 a.space, status := 6 } 1
  else
    let v := match a.kind with
      | .load signed => extend a.size signed (if k.ordered c a.pa then overlay a.pa bs (k.olderStores c a.id) else bs)
      | .amo _ _ _ => BitVec.ofNat 64 (ofBytes bs)
    k1.updCluster c (·.setReg a.rd v)

/-- A scalar load or atomic that ends in a late fault (R94). -/
def Chip.faultLoad (k : Chip) (c : Nat) (a : ScAcc) (st : Nat) : Chip :=
  (k.updCluster c (fun x => { x with loads := x.loads.filter (·.id ≠ a.id) }.takeFault (faultOf st) a.pc)).report
    1 { clusterErr c 0 (if st = stPoison then 3 else 10) 1 with
          paddr := BitVec.ofNat 64 a.pa, vaddr := a.va, space := BitVec.ofNat 16 a.space,
          status := BitVec.ofNat 8 (faultOf st) } 1

/-- Earlier ordered loads hold a later ordered access (R314). -/
def Chip.loadsBefore (k : Chip) (c id : Nat) : Bool :=
  (k.cluster c).loads.any (fun a => a.id < id && k.ordered c a.pa)

/-- One load that stands at the head of the ordered loads is performed when its target is at hand: a
line held by the line cache, or the cluster's own store. -/
def Chip.tryLoad (k : Chip) (c : Nat) (a : ScAcc) : Chip :=
  match a.kind with
  | .amo _ _ _ => k
  | .load _ =>
    if k.inOwnStore c a.pa then
      if (k.cluster c).claimWait a.no a.claim a.size false then k
      else
        let pa := k.placeOf c a.space a.claim a.pa
        k.finishLoad c { a with pa := pa } (k.ownBytes c (paLocal pa) a.size) (k.poisoned (lineOf (paLocal pa)))
    else if a.cached then
      let line := lineOf (paLocal a.pa)
      let e := k.cline (64 + c) line
      if e.st.readable then
        (k.touch (64 + c) line).finishLoad c a
          (lineBytes e.data (paLocal a.pa % 128) a.size) e.poison
      else k.requestLine (64 + c) line false
    else k

/-- The store at the head of the ordered stores leaves the buffer when its target is at hand, or
enters the outbound port (R314, R317, R358, R359). -/
def Chip.tryStore (k : Chip) (c : Nat) (s : StoreEnt) : Chip :=
  let done (k : Chip) := k.updCluster c (fun x => { x with stores := x.stores.filter (·.id ≠ s.id) })
  if k.loadsBefore c s.id then k
  else if k.inOwnStore c s.pa then
    if (k.cluster c).claimWait s.no s.claim s.data.length true then k
    else
      let la := paLocal (k.placeOf c s.space s.claim s.pa)
      done ((k.writeMem la s.data false).ownWritten c la s.data.length)
  else if s.cached then
    let line := lineOf (paLocal s.pa)
    let e := k.cline (64 + c) line
    if e.st.writable then
      done (((k.touch (64 + c) line).updLine (64 + c) line (fun e =>
        { e with st := .m, data := linePut e.data (paLocal s.pa % 128) s.data })).noteWrite (paLocal s.pa) s.data.length)
    else k.requestLine (64 + c) line true
  else if (k.cluster c).stream.pendLine = some (lineOf (paLocal s.pa)) then k
  else k.updCluster c (fun x => { x with
    stores := x.stores.map (fun t => if t.id = s.id then { t with sent := true } else t) })

/-- The access is to register space of this module. -/
def Chip.isReg (k : Chip) (pa : Nat) : Bool := k.isOwn pa && areaOf (paLocal pa) = .regs

/-- An earlier access of the sequencer that is outstanding goes to the same line (10_memory_ordering.md R315),
or both go to register space (02_address_map.md R78). -/
def Chip.behind (k : Chip) (c id pa : Nat) : Bool :=
  let hit (p : Nat) : Bool := p / 128 = pa / 128 || (k.isReg p && k.isReg pa)
  (k.cluster c).loads.any (fun a => a.id < id && hit a.pa) || (k.cluster c).stores.any (fun s => s.id < id && hit s.pa)

/-- Whether port `n` can be reached from a quadrant, or from the host die. -/
def Chip.portReach (k : Chip) (src : Option Nat) (n : Nat) : Bool := !k.shut src (n / 3)

/-- Whether two runs of bytes share a line. -/
def linesMeet (a n b m : Nat) : Bool := decide (a / 128 * 128 < b + m) && decide (b / 128 * 128 < a + n)

/-- A request to another module may leave the outbound port: no earlier access to its line is outstanding there
(10_memory_ordering.md R315, R316). -/
def Chip.mayLeave (k : Chip) (c id pa n : Nat) : Bool :=
  !k.behind c id pa && k.fabric.reqs.all (fun r => !(r.owner.ofPort c && linesMeet (paLocal pa) n r.addr r.len))

/-- The packet of a scalar load or atomic of another module (R134; 11_coherence.md R356). -/
def Chip.sendAccess (k : Chip) (c : Nat) (a : ScAcc) : Chip :=
  let dev : BitVec 6 := BitVec.ofNat 6 (paDev a.pa)
  let reach := k.portReach (some (c / 24))
  match a.kind with
  | .load _ => k.onFabric (fun f => f.request 2 false false a.size (paLocal a.pa) dev 0 0 0 []
      (.seqAccess c a.id) reach)
  | .amo op v w => k.onFabric (fun f => f.request 5 false false 16 (paLocal a.pa) dev 0 0
      (amoCode op) (toBytes 8 v.toNat ++ toBytes 8 w.toNat) (.seqAccess c a.id) reach)

/-- The packet of a scalar store to another module. -/
def Chip.sendStore (k : Chip) (c : Nat) (s : StoreEnt) : Chip :=
  (k.updCluster c (fun x => { x with
    stores := x.stores.map (fun t => if t.id = s.id then { t with sent := true } else t) })).onFabric (fun f =>
      f.request 1 false false s.data.length (paLocal s.pa) (BitVec.ofNat 6 (paDev s.pa)) 0 0 0 s.data
        (.seqStore c s.id) (k.portReach (some (c / 24))))

/-- An access of another module whose packet has not been sent. -/
def Chip.unsent (k : Chip) (c : Nat) (a : ScAcc) : Bool :=
  !k.isOwn a.pa && a.answer.isNone && k.fabric.reqs.all (fun r => r.owner ≠ .seqAccess c a.id)

/-- The packets of a sequencer's accesses to other modules leave, each after those before it to its line (R315,
R316). -/
def Chip.sendRemote (k : Chip) (c : Nat) : Chip :=
  let k1 := (k.cluster c).loads.foldl (fun k a =>
    if k.unsent c a && k.mayLeave c a.id a.pa a.size then k.sendAccess c a else k) k
  (k1.cluster c).stores.foldl (fun k s =>
    if !k.isOwn s.pa && !s.sent && k.mayLeave c s.id s.pa s.data.length then k.sendStore c s else k) k1

/-- The sequencer performs what it can: ordered loads in order, then ordered stores in order (R314), and the
packets to other modules that may leave. -/
def Chip.drain (k : Chip) (c : Nat) : Nat → Chip
  | 0 => k
  | n + 1 =>
    let k1 := match (k.cluster c).loads.find? (fun a => k.ordered c a.pa) with
      | some a => k.tryLoad c a
      | none => k
    let k2 := match (k1.cluster c).stores.find? (fun s => k1.ordered c s.pa) with
      | some s => if s.sent then k1 else k1.tryStore c s
      | none => k1
    let k3 := k2.sendRemote c
    if k3.cluster c = k.cluster c then k3 else k3.drain c n

/-- The sequencer performs everything it can now. -/
def Chip.drainAll (k : Chip) (c : Nat) : Chip :=
  k.drain c ((k.cluster c).loads.length + (k.cluster c).stores.length + 1)

/-- A scalar store that failed (R333, R334): recorded in `CLU_STERR`, in an error record, and in the
hasp operations that waited for it. -/
def Chip.storeFailed (k : Chip) (c : Nat) (s : StoreEnt) (st : Nat) : Chip :=
  (k.updCluster c (fun x =>
    let x1 : Cluster := { x with
      stores := x.stores.filter (·.id ≠ s.id)
      stCount := satAdd x.stCount 1
      haspBuf := x.haspBuf.map (fun o =>
        if s.no ≤ o.no && (o.scope = .system || (o.scope = .package && k.isOwn s.pa) ||
            (o.scope = .cluster && k.isOwn s.pa && !s.sent)) then { o with err := true } else o) }
    if x.stFailed then { x1 with stOverrun := true }
    else { x1 with stFailed := true, stCause := BitVec.ofNat 8 st, stAddr := BitVec.ofNat 56 s.pa })).report
    1 { clusterErr c 0 4 0 with paddr := BitVec.ofNat 64 s.pa, status := BitVec.ofNat 8 st,
                                space := BitVec.ofNat 16 s.space } 1

end Sys2Proof.Machine
end

