-- ==== Sys2Proof/Machine/HartOps.lean ====
section
/-! DEFINITION. Loads, stores and atomics of the harts after paging (15_host_die.md R437;
10_memory_ordering.md R314, R320; 11_coherence.md R354). Cause codes and AMO operations are PRESUMED
RISC-V (notes/assumptions/13.md). -/

namespace Sys2Proof.Machine

/-- Precise access faults: instruction, load, store or AMO. -/
def causeFetch : Nat := 1
def causeLoad : Nat := 5
def causeStore : Nat := 7

/-- A precise exception of a hart (R437, 19_reset_and_ras.md R534). -/
def Chip.hartTrap (k : Chip) (h cause : Nat) (va : U64) : Chip :=
  k.updHart h (fun x => { x with trap := some { cause := cause, tval := va } })

/-- The hart's imprecise store-error interrupt (R446). -/
def Chip.hartStoreError (k : Chip) (h : Nat) : Chip := k.updHart h (fun x => { x with mip24 := true })

/-- Sign extension of a 32-bit result. -/
def sext32 (x : Nat) : U64 := (BitVec.ofNat 32 x).signExtend 64

/-- The value an AMO leaves, on `n` bytes (PRESUMED RISC-V). -/
def hartAmoResult (op : HartAmoOp) (n : Nat) (old operand : Nat) : Nat :=
  let a := sextNat (8 * n) old
  let b := sextNat (8 * n) operand
  let o := operand % 2 ^ (8 * n)
  match op with
  | .swap => o
  | .add => (old + o) % 2 ^ (8 * n)
  | .xor => old ^^^ o
  | .and => old &&& o
  | .or => old ||| o
  | .min => if a ≤ b then old else o
  | .max => if b ≤ a then old else o
  | .minu => min old o
  | .maxu => max old o
  | .lr => old
  | .sc => o

/-- The ordered locations of a hart (10_memory_ordering.md R314). -/
def Chip.hartOrdered (k : Chip) (pa : Nat) : Bool := k.isOwn pa && cacheable (paLocal pa)

/-- Bytes of the L2 from a local address on; both lines of a crossing access are held. -/
def Chip.l2Bytes (k : Chip) (h la n : Nat) : Bytes :=
  (List.range n).map (fun i => lineByte (k.cline h (lineOf (la + i))).data ((la + i) % 128))

/-- Poison of the lines of an access in the L2. -/
def Chip.l2Poison (k : Chip) (h la n : Nat) : Bool :=
  (linesOf la n).any (fun l => (k.cline h l).poison)

/-- A precise exception of access `id`: nothing after it in program order has been executed (R437). -/
def Hart.squash (x : Hart) (id : Nat) : Hart :=
  { x with accs := x.accs.filter (fun a => a.id < id), stores := x.stores.filter (fun s => s.id < id) }

/-- A hart load or fetch performed on the bytes its target gave: its register is written, or the
access fault of a poisoned line is taken (19_reset_and_ras.md R534). Older stores of the store buffer to an ordered
location are forwarded (R311, R314); elsewhere none to the line is outstanding (R315). -/
def Chip.finishHart (k : Chip) (h : Nat) (a : HartAcc) (bs : Bytes) (poison : Bool) : Chip :=
  let k1 := k.updHart h (fun x => { x with accs := x.accs.filter (·.id ≠ a.id) })
  let fetch := match a.kind with
    | .load _ f => f
    | .amo _ _ => false
  let cause := match a.kind with
    | .load _ f => if f then causeFetch else causeLoad
    | .amo op _ => if op = .lr then causeLoad else causeStore
  if poison then
    ((k1.updHart h (·.squash a.id)).hartTrap h cause a.va).report 1
      { hartErr h 3 1 with paddr := BitVec.ofNat 64 a.pa, vaddr := a.va } 1
  else
    let older := ((k.hart h).stores.filter (fun s => s.id < a.id)).map (fun s => (s.pa, s.data))
    let v : U64 := match a.kind with
      | .load signed _ => extend a.bytes signed (if k.hartOrdered a.pa then overlay a.pa bs older else bs)
      | .amo _ _ => if a.bytes = 4 then sext32 (ofBytes bs) else BitVec.ofNat 64 (ofBytes bs)
    if fetch then k1 else k1.updHart h (·.setReg a.rd v)

/-- A hart access whose target gave an error: precise access fault and error record (R72, R333). -/
def Chip.failHart (k : Chip) (h : Nat) (a : HartAcc) : Chip :=
  let cause := match a.kind with
    | .load _ f => if f then causeFetch else causeLoad
    | .amo _ _ => causeStore
  ((k.updHart h (·.squash a.id)).hartTrap h cause a.va).report 1
    { hartErr h 0x0A 1 with paddr := BitVec.ofNat 64 a.pa, vaddr := a.va } 1

/-- A line brought into the L1 instruction cache, of 128 sets of 4 ways, or into the L1 data cache, of 64 sets of 8
(R440): where a set is full, a free value chooses the line that leaves (notes/assumptions/108.md). -/
def Chip.fillL1i (k : Chip) (h line : Nat) : Chip :=
  let set := (k.hart h).l1i.filter (fun l => l % 128 = line % 128)
  if set.contains line then k
  else if set.length < 4 then k.updHart h (fun x => { x with l1i := x.l1i ++ [line] })
  else
    let (v, k1) := k.fresh
    k1.updHart h (fun x => { x with l1i := x.l1i.filter (· ≠ set.getD (v.toNat % 4) 0) ++ [line] })

def Chip.fillL1d (k : Chip) (h line : Nat) (dirty : Bool) : Chip :=
  let set := (k.hart h).l1d.filter (fun p => p.1 % 64 = line % 64)
  if set.any (fun p => p.1 = line) then
    k.updHart h (fun x => { x with l1d := x.l1d.map (fun p => if p.1 = line then (line, p.2 || dirty) else p) })
  else if set.length < 8 then k.updHart h (fun x => { x with l1d := x.l1d ++ [(line, dirty)] })
  else
    let (v, k1) := k.fresh
    k1.updHart h (fun x => { x with
      l1d := x.l1d.filter (fun p => p.1 ≠ (set.getD (v.toNat % 8) (0, false)).1) ++ [(line, dirty)] })

/-- The L1 copies that an access of lines of the L2 leaves: a fetch fills the one, a load the other (R336). -/
def Chip.fillL1 (k : Chip) (h : Nat) (fetch : Bool) (ls : List Nat) : Chip :=
  ls.foldl (fun k l => if fetch then k.fillL1i h l else k.fillL1d h l false) k

/-- An AMO or SC performed in the L2 with its line in M, or an LR with its line readable (R354, R437); poison leaves
memory unchanged (19_reset_and_ras.md R534). -/
def Chip.amoInL2 (k : Chip) (h : Nat) (a : HartAcc) (op : HartAmoOp) (operand : U64) : Chip :=
  let la := paLocal a.pa
  let line := lineOf la
  let old := ofBytes (k.l2Bytes h la a.bytes)
  if (k.cline h line).poison then k.finishHart h a [] true
  else
    let put (k : Chip) := (k.updLine h line (fun e => { e with
      st := .m
      data := linePut e.data (la % 128)
        (toBytes a.bytes (hartAmoResult op a.bytes old operand.toNat)) })).noteWrite la a.bytes
    match op with
    | .lr => (k.finishHart h a (k.l2Bytes h la a.bytes) false).updHart h (fun x =>
        { x with resv := some (a.pa, a.bytes) })
    | .sc =>
      let k1 := if (k.hart h).resv = some (a.pa, a.bytes) then
          (put k).finishHart h a (toBytes a.bytes 0) false
        else k.finishHart h a (toBytes a.bytes 1) false
      k1.updHart h (fun x => { x with resv := none })
    | _ => (put k).finishHart h a (k.l2Bytes h la a.bytes) false

/-- The head of the hart's accesses to ordered locations is performed when its lines are held. -/
def Chip.tryHart (k : Chip) (h : Nat) (a : HartAcc) : Chip :=
  let la := paLocal a.pa
  let ls := linesOf la a.bytes
  match a.kind with
  | .load _ fetch =>
    if ls.all (fun l => (k.cline h l).st.readable) then
      (k.finishHart h a (k.l2Bytes h la a.bytes) (k.l2Poison h la a.bytes)).fillL1 h fetch ls
    else ls.foldl (fun k l => k.requestLine h l false) k
  | .amo op operand =>
    if (k.hart h).stores.any (fun s => s.id < a.id && k.hartOrdered s.pa) then k
    else if ls.all (fun l =>
        if op = .lr then (k.cline h l).st.readable else (k.cline h l).st.writable) then k.amoInL2 h a op operand
    else ls.foldl (fun k l => k.requestLine h l (op ≠ .lr)) k

/-- The head of the hart's store buffer is performed when its line is held in E or M. -/
def Chip.tryHartStore (k : Chip) (h : Nat) (s : HartStore) : Chip :=
  let line := lineOf (paLocal s.pa)
  if (k.hart h).accs.any (fun a => a.id < s.id && k.hartOrdered a.pa) then k
  else if (k.cline h line).st.writable then
    ((((k.updHart h (fun x => { x with stores := x.stores.filter (·.id ≠ s.id) })).updLine h line (fun e =>
      { e with st := .m, data := linePut e.data (paLocal s.pa % 128) s.data })).fillL1d h line true).noteWrite
        (paLocal s.pa) s.data.length)
  else k.requestLine h line true

/-- A hart performs what it can: accesses to ordered locations in order, then stores in order. -/
def Chip.drainHart (k : Chip) (h : Nat) : Nat → Chip
  | 0 => k
  | n + 1 =>
    let k1 := match (k.hart h).accs.find? (fun a => a.target = .line) with
      | some a => k.tryHart h a
      | none => k
    let k2 := match (k1.hart h).stores.find? (fun s => k1.hartOrdered s.pa) with
      | some s => k1.tryHartStore h s
      | none => k1
    if k2.hart h = k.hart h then k2 else k2.drainHart h n

/-- A hart performs everything it can now. -/
def Chip.drainHartAll (k : Chip) (h : Nat) : Chip :=
  k.drainHart h ((k.hart h).accs.length + (k.hart h).stores.length + 1)

/-- A caching agent performs what it can now. -/
def Chip.drainAgent (k : Chip) (a : Nat) : Chip :=
  if a < 64 then k.drainHartAll a else k.drainAll (a - 64)

end Sys2Proof.Machine
end

