-- ==== Sys2Proof/Machine/HomeOps.lean ====
section
/-! DEFINITION. Homes and directories (11_coherence.md R343-R350). -/

namespace Sys2Proof.Machine

/-- Set index of a line in a home's directory (R343). -/
def dirSet (home line : Nat) : Nat :=
  if home = 164 then bitsOf line 0 14 ^^^ bitsOf line 14 14
  else bitsOf line 0 15 ^^^ bitsOf line 15 15

/-- Busy lines a home holds at most (R346). -/
def homeCap (home : Nat) : Nat := if home = 164 then 512 else 1024

/-- Directory states (R344). -/
def dsFree : BitVec 2 := 0
def dsS : BitVec 2 := 1
def dsF : BitVec 2 := 2
def dsX : BitVec 2 := 3

def Home.entry (h : Home) (line : Nat) : DirEnt := tblGet DirEnt.free h.dir line

def Home.isBusy (h : Home) (line : Nat) : Bool := h.busy.any (fun b => b.line = line)

/-- The agents recorded in an entry, in ascending order. -/
def DirEnt.holders (e : DirEnt) : List Nat := (List.range 160).filter (fun a => e.sharers.getLsbD a)

/-- A bit of `SHARERS`. -/
def agentBit (a : Nat) : BitVec 160 := 1 <<< a

/-- A home's entry for a line replaced; a free entry is no entry (R343). -/
def Chip.setDir (k : Chip) (home line : Nat) (e : DirEnt) : Chip :=
  k.updHome home (fun h => { h with dir := tblPut DirEnt.free h.dir line e })

/-- The entry of an owner (R345); `age` keeps the order of allocation (R350). -/
def ownerEnt (a age : Nat) : DirEnt := { sharers := agentBit a, fidx := 0xFF, dstate := dsX, age := age }

/-- An age younger than every entry of a home. -/
def Home.nextAge (h : Home) : Nat := (h.dir.map (·.2.age)).foldl max 0 + 1

/-- The line of memory sent as a grant or answer (R347). -/
def Chip.sendLine (k : Chip) (kind : CohKind) (home dst line : Nat) : Chip :=
  k.send (mkDataMsg kind home dst line (k.lineData line) (k.poisoned line))

/-- A snoop sent to each of a list of agents. -/
def Chip.snoopAll (k : Chip) (kind : CohKind) (home line : Nat) (as : List Nat) : Chip :=
  as.foldl (fun k a => k.send (mkMsg kind home a line)) k

/-- A transaction begun (R346). -/
def Chip.setBusy (k : Chip) (home line : Nat) (kind : BusyKind) (req : Option HReq)
    (waits : List Nat) : Chip :=
  k.updHome home (fun h => { h with
    busy := h.busy ++ [{ line := line, kind := kind, req := req, waits := waits }] })

/-- Lines of a home's directory in the set of a line. -/
def Home.setLines (h : Home) (home line : Nat) : List Nat :=
  (h.dir.map (·.1)).filter (fun l => dirSet home l = dirSet home line && l ≠ line)

/-- The line allocated longest ago among those of a list. -/
def Home.oldest (h : Home) : List Nat → Option Nat
  | [] => none
  | l :: ls => match h.oldest ls with
    | none => some l
    | some m => if (h.entry m).age < (h.entry l).age then some m else some l

/-- The ways of a line's set that it cannot take: those of other lines, and those kept for other requests. -/
def Home.taken (h : Home) (home line : Nat) : Nat :=
  (h.setLines home line).length +
    (h.kept.filter (fun p => p.1 ≠ line && p.2.isNone && dirSet home p.1 = dirSet home line)).length

/-- A free way for a line in `DI`, or a victim back-invalidated and none yet (R350). The victim's way is kept for
the request that chose it. -/
def Chip.roomAt (k : Chip) (home line : Nat) : Chip × Bool :=
  let h := k.home home
  match h.kept.find? (fun p => p.1 = line) with
  | some (_, some _) => (k, false)
  | some (_, none) => (k.updHome home (fun h => { h with kept := h.kept.filter (fun p => p.1 ≠ line) }), true)
  | none =>
    if h.taken home line < 16 then (k, true)
    else match h.oldest ((h.setLines home line).filter (fun l => !h.isBusy l)) with
      | none => (k, false)
      | some v =>
        let as := (h.entry v).holders
        (((k.snoopAll .backInv home v as).setBusy home v .bBI none as).updHome home (fun h =>
          { h with kept := h.kept ++ [(line, some v)] }), false)

/-- The word an atomic leaves (04_iluchezia_bundles.md R134). -/
def amoResult (op : AmoOp) (old operand compare : U64) : U64 :=
  match op with
  | .add => old + operand
  | .swap => operand
  | .cas => if old = compare then operand else old

/-- An atomic performed in memory and its answer (R347, R348); a poisoned word is not changed
(19_reset_and_ras.md R534). -/
def Chip.homeAtomic (k : Chip) (home line req addr : Nat) (op : AmoOp) (operand compare : U64) : Chip :=
  let old : U64 := BitVec.ofNat 64 (ofBytes (k.bytes addr 8))
  let p := k.poisoned line
  let k1 := if p then k else k.poke addr (toBytes 8 (amoResult op old operand compare).toNat)
  k1.send (mkDataMsg .data home req line (old.setWidth 1024) p)

/-- A `GetS` or `GetM` for a line in `DI` (R347). -/
def Chip.grantFresh (k : Chip) (home line a : Nat) : Chip × Bool :=
  match k.roomAt home line with
  | (k1, true) =>
    (((k1.sendLine .dataE home a line).setDir home line (ownerEnt a (k1.home home).nextAge)), true)
  | (k1, false) => (k1, false)

/-- An invalidation of every holder but one (R347). -/
def Chip.invalidateAll (k : Chip) (home line : Nat) (req : HReq) (as : List Nat) : Chip × Bool :=
  ((k.snoopAll .inv home line as).setBusy home line .bInv (some req) as, true)

/-- A put of agent `p`, with the line it carries (R349). -/
def Chip.homePut (k : Chip) (home line p : Nat) (clean : Bool) (put : Option (Bool × (LineData × Bool))) :
    Chip :=
  let e := (k.home home).entry line
  let k1 :=
    if e.dstate = dsX && e.sharers = agentBit p && (clean || put.isSome) then
      match put with
      | some (keep, (d, po)) =>
        let k1 := k.writeLine line d po
        if keep then k1 else k1.setDir home line DirEnt.free
      | none => k.setDir home line DirEnt.free
    else if e.sharers.getLsbD p then
      let sh := e.sharers &&& ~~~agentBit p
      let f : BitVec 8 := if e.fidx = BitVec.ofNat 8 p then 0xFF else e.fidx
      if sh = 0 then k.setDir home line DirEnt.free
      else k.setDir home line { e with sharers := sh, fidx := f, dstate := if f = 0xFF then dsS else dsF }
    else k
  k1.send (mkMsg .wbAck home p line)

/-- A request writes the memory behind the home. -/
def HReq.writes : HReq → Bool
  | .putM _ _ _ _ | .writeFull _ _ _ _ | .atomic _ _ _ _ _ => true
  | _ => false

/-- A request that finds its line not busy starts its transaction (R347, R349); whether it could. -/
def Chip.homeStart (k : Chip) (home line : Nat) (req : HReq) : Chip × Bool :=
  let e := (k.home home).entry line
  let owner := e.holders.headD 0xFF
  match req with
  | .getS a =>
    if e.dstate = dsFree then k.grantFresh home line a
    else if e.dstate = dsS then
      ((k.sendLine .dataF home a line).setDir home line
        { e with sharers := e.sharers ||| agentBit a, fidx := BitVec.ofNat 8 a, dstate := dsF }, true)
    else
      let t := if e.dstate = dsF then e.fidx.toNat else owner
      ((k.send { mkMsg .fwdGetS home t line with req := a }).setBusy home line .bFS (some req) [t], true)
  | .getM a =>
    if e.dstate = dsFree then k.grantFresh home line a
    else if e.dstate = dsX then
      ((k.send { mkMsg .fwdGetM home owner line with req := a }).setBusy home line .bFM (some req) [owner],
        true)
    else
      let as := e.holders.filter (· ≠ a)
      if as.isEmpty then
        ((k.sendLine .dataE home a line).setDir home line (ownerEnt a e.age), true)
      else k.invalidateAll home line req as
  | .readOnce r =>
    if e.dstate = dsX then
      ((k.send { mkMsg .fwdGetS home owner line with req := r, once := true }).setBusy home line .bOnce
        (some req) [owner], true)
    else (k.sendLine .data home r line, true)
  | .writeFull r mask d p =>
    if e.dstate = dsFree then ((k.mergeLine line mask d p).send (mkMsg .wbAck home r line), true)
    else k.invalidateAll home line req e.holders
  | .atomic r addr op operand compare =>
    if e.dstate = dsFree then (k.homeAtomic home line r addr op operand compare, true)
    else k.invalidateAll home line req e.holders
  | .putS p => (k.homePut home line p false none, true)
  | .putF p => (k.homePut home line p false none, true)
  | .putE p => (k.homePut home line p true none, true)
  | .putM p keep d po => (k.homePut home line p false (some (keep, (d, po))), true)

/-- A request arrives at a home (R346, R347): it waits behind its busy line, behind earlier requests
for it or while the home is full, and starts otherwise. -/
def Chip.homeRequest (k : Chip) (home line : Nat) (req : HReq) : Chip :=
  let h := k.home home
  let wait (k : Chip) := k.updHome home (fun h => { h with waiting := h.waiting ++ [(line, req)] })
  if h.isBusy line || h.waiting.any (fun w => w.1 = line) || homeCap home ≤ h.busy.length then wait k
  else match k.homeStart home line req with
    | (k1, true) => k1.cacheUse line req.writes false
    | (k1, false) => wait k1

/-- The oldest waiting request for a line starts, when it can (R346, R350). -/
def Chip.homeResume (k : Chip) (home line : Nat) : Chip :=
  let h := k.home home
  match h.waiting.find? (fun w => w.1 = line) with
  | none => k
  | some (_, req) =>
    if h.isBusy line || homeCap home ≤ h.busy.length then k
    else match k.homeStart home line req with
      | (k1, true) => (k1.updHome home (fun h => { h with
          waiting := dropFirst (fun w => w.1 = line) h.waiting })).cacheUse line req.writes false
      | (k1, false) => k1

/-- The end of a busy line's transaction (R348). -/
def Chip.homeFinish (k : Chip) (home : Nat) (b : Busy) : Chip :=
  let k := k.updHome home (fun h => { h with
    busy := h.busy.erase b
    kept := h.kept.map (fun p => if p.2 = some b.line then (p.1, none) else p) })
  let e := (k.home home).entry b.line
  match b.kind, b.req with
  | .bFS, some (.getS a) =>
    k.setDir home b.line { e with
      sharers := e.sharers ||| agentBit a, fidx := BitVec.ofNat 8 a, dstate := dsF }
  | .bFM, some (.getM a) => k.setDir home b.line (ownerEnt a e.age)
  | .bInv, some (.getM a) =>
    (k.sendLine .dataE home a b.line).setDir home b.line (ownerEnt a e.age)
  | .bInv, some (.writeFull r mask d p) =>
    ((k.mergeLine b.line mask d p).setDir home b.line DirEnt.free).send (mkMsg .wbAck home r b.line)
  | .bInv, some (.atomic r addr op operand compare) =>
    (k.setDir home b.line DirEnt.free).homeAtomic home b.line r addr op operand compare
  | .bBI, _ => k.setDir home b.line DirEnt.free
  | _, _ => k

/-- An agent's bit leaves a directory entry (R345). -/
def Chip.dropHolder (k : Chip) (line a : Nat) : Chip :=
  let home := k.homeOf line
  let e := (k.home home).entry line
  if !e.sharers.getLsbD a then k
  else
    let sh := e.sharers &&& ~~~agentBit a
    let f : BitVec 8 := if e.fidx = BitVec.ofNat 8 a then 0xFF else e.fidx
    if sh = 0 then k.setDir home line DirEnt.free
    else k.setDir home line { e with sharers := sh, fidx := f, dstate := if f = 0xFF then dsS else dsF }

/-- A home forgets holders of a line that are severed from it; a line that one of them held in `DX` is
poisoned (01_package_and_hinges.md R562). -/
def Chip.forgetDead (k : Chip) (home line : Nat) : Chip :=
  let e := (k.home home).entry line
  let dead := e.holders.filter (k.severed home)
  if dead.isEmpty then k
  else
    let k1 := if e.dstate = dsX then k.setPoison line true else k
    dead.foldl (fun k a => k.dropHolder line a) k1

/-- An `InvAck`, or a `Data` with its line, arrives at a home (R348). An answer that no transaction
waits for changes nothing. -/
def Chip.homeAnswer (k : Chip) (home line agent : Nat) (d : Option (LineData × Bool)) : Chip :=
  match (k.home home).busy.find? (fun b => b.line = line && b.waits.contains agent) with
  | none => k
  | some b =>
    let k1 := match d with
      | some (x, p) => (k.writeLine line x p).cacheUse line true false
      | none => k
    let b' : Busy := { b with waits := b.waits.erase agent }
    if b'.waits.isEmpty then
      ((k1.updHome home (fun h => { h with busy := h.busy.map (fun x => if x = b then b' else x) })).homeFinish
        home b').forgetDead home line
    else k1.updHome home (fun h => { h with busy := h.busy.map (fun x => if x = b then b' else x) })

end Sys2Proof.Machine
end

