-- ==== Sys2Proof/Machine/CohOps.lean ====
section
/-! DEFINITION. Snoops, grants and acknowledgements at a caching agent (11_coherence.md R351-R353),
and the coherent accesses of agents that never cache (R355). -/

namespace Sys2Proof.Machine

/-- Snoops (R351). -/
inductive SnoopKind where
  | getS | once | getM | inv
  deriving DecidableEq, Repr

/-- The snoop rows of R351: next state, what goes to the requester, what goes to the home (`InvAck`
or `Data`); none for a cell marked ×. `BackInv` has the cells of `Inv`. -/
def snoopRow (st : CState) (s : SnoopKind) : Option (CState × (Option CohKind × CohKind)) :=
  match st, s with
  | .s, .inv => some (.i, (none, .invAck))
  | .f, .getS => some (.s, (some .dataF, .invAck))
  | .f, .inv => some (.i, (none, .invAck))
  | .e, .getS => some (.s, (some .dataF, .invAck))
  | .e, .once => some (.e, (some .data, .invAck))
  | .e, .getM => some (.i, (some .dataE, .invAck))
  | .e, .inv => some (.i, (none, .invAck))
  | .m, .getS => some (.s, (some .dataF, .data))
  | .m, .once => some (.m, (some .data, .invAck))
  | .m, .getM => some (.i, (some .dataE, .invAck))
  | .m, .inv => some (.i, (none, .data))
  | .smD, .inv => some (.imD, (none, .invAck))
  | .fmD, .getS => some (.smD, (some .dataF, .invAck))
  | .fmD, .inv => some (.imD, (none, .invAck))
  | .miA, .getS => some (.siA, (some .dataF, .data))
  | .miA, .once => some (.miA, (some .data, .invAck))
  | .miA, .getM => some (.iiA, (some .dataE, .invAck))
  | .miA, .inv => some (.iiA, (none, .data))
  | .eiA, .getS => some (.siA, (some .dataF, .invAck))
  | .eiA, .once => some (.eiA, (some .data, .invAck))
  | .eiA, .getM => some (.iiA, (some .dataE, .invAck))
  | .eiA, .inv => some (.iiA, (none, .invAck))
  | .fiA, .getS => some (.siA, (some .dataF, .invAck))
  | .fiA, .inv => some (.iiA, (none, .invAck))
  | .siA, .inv => some (.iiA, (none, .invAck))
  | _, _ => none

/-- Snoops a line that waits for its data holds (R351, R352). -/
def defers (st : CState) (s : SnoopKind) : Bool :=
  match st, s with
  | .isD, .getS => true
  | .isD, .inv => true
  | .imD, _ => true
  | _, _ => false

/-- Message code of an error record of class 0x07: its place in the table of R341, from 0. The type lists the
messages in that order. -/
def CohKind.code (m : CohKind) : Nat := m.ctorIdx

/-- The record of an unexpected message at an agent (R353, 19_reset_and_ras.md R537). -/
def Chip.protocolError (k : Chip) (a line : Nat) (kind : CohKind) : Chip :=
  k.report 1 { (if a < 64 then hartErr a 7 0 else clusterErr (a - 64) 0 7 0) with
    paddr := BitVec.ofNat 64 (line * 128), detail := BitVec.ofNat 64 kind.code } 1

/-- The snoop a message asks for. -/
def CohMsg.snoop (m : CohMsg) : SnoopKind :=
  match m.kind with
  | .fwdGetS => if m.once then .once else .getS
  | .fwdGetM => .getM
  | _ => .inv

/-- A `BackInv` received by a line cache is counted (R363). -/
def Chip.countBack (k : Chip) (a : Nat) (m : CohMsg) : Chip :=
  if a < 64 || m.kind ≠ .backInv then k
  else k.updCluster (a - 64) (fun c => { c with backInv := satAdd c.backInv 1 })

/-- A locked entry of a line cache that an `Inv` or `BackInv` invalidates is counted (R360, R363). -/
def Chip.countInv (k : Chip) (a : Nat) (kind : CohKind) (locked : Bool) : Chip :=
  if a < 64 || !locked || !(kind = .inv || kind = .backInv) then k
  else k.updCluster (a - 64) (fun c => { c with lockInv := satAdd c.lockInv 1 })

/-- A hart that loses a line loses its reservation in it. -/
def Chip.dropReservation (k : Chip) (a line : Nat) : Chip :=
  if a < 64 then k.updHart a (fun h => match h.resv with
    | some (pa, _) => if lineOf (paLocal pa) = line then { h with resv := none } else h
    | none => h)
  else k

/-- A snoop answered by the cell of R351 for the line's state. -/
def Chip.answerSnoop (k : Chip) (a : Nat) (m : CohMsg) : Chip :=
  let e := k.cline a m.line
  match snoopRow e.st m.snoop with
  | none =>
    (k.send (mkMsg .invAck a (k.homeOf m.line) m.line)).protocolError a m.line m.kind
  | some (st, (toReq, toHome)) =>
    let k1 := (k.updLine a m.line (fun e => { e with st := st })).countInv a m.kind e.locked
    let k2 := if st = .i || st = .imD || st = .iiA then k1.dropReservation a m.line else k1
    let k3 := match toReq with
      | some kind => k2.send (mkDataMsg kind a m.req m.line e.data e.poison)
      | none => k2
    k3.send (if toHome = .data then mkDataMsg .data a (k.homeOf m.line) m.line e.data e.poison
             else mkMsg .invAck a (k.homeOf m.line) m.line)

/-- A snoop received by a caching agent (R351-R353, R363). -/
def Chip.takeSnoop (k0 : Chip) (a : Nat) (m : CohMsg) : Chip :=
  let k := k0.countBack a m
  let e := k.cline a m.line
  if defers e.st m.snoop then k.updLine a m.line (fun e => { e with snoop := some m })
  else k.answerSnoop a m

/-- The snoop a line held while it waited for its data, handled in the state it entered (R352). -/
def Chip.heldSnoop (k : Chip) (a line : Nat) : Chip :=
  match (k.cline a line).snoop with
  | none => k
  | some m => (k.updLine a line (fun e => { e with snoop := none })).answerSnoop a m

/-- The reads of issue that asked for a line are performed as it arrives, exactly once (R352): a fetch, the read of
a descriptor, and an `LC.LOCK`, which locks the entry (R360). -/
def Chip.catchLine (k : Chip) (a line : Nat) (d : LineData) (p : Bool) : Chip :=
  if a < 64 then k
  else
    let mine (pa : Nat) : Bool := k.isOwn pa && lineOf (paLocal pa) = line
    let x := k.cluster (a - 64)
    let k1 := k.updCluster (a - 64) (fun x => { x with
      fetchRead := x.fetchRead.map (fun r =>
        if r.got.isNone && mine r.pa then { r with got := some (lineBytes d (r.pa % 128) 32, p) } else r)
      descRead := x.descRead.map (fun r =>
        if r.answer.isNone && mine r.pa then
          { r with answer := some (if p then stPoison else stOk, lineBytes d (r.pa % 128) 64) }
        else r)
      lockRead := if x.lockRead = some (line, false) then some (line, true) else x.lockRead })
    if x.lockRead = some (line, false) then k1.updLine a line (fun e => { e with locked := true }) else k1

/-- A grant received (R351, R352): the line is taken, the accesses that wait for it are performed, and
then a held snoop is handled. -/
def Chip.takeGrant (k : Chip) (a line : Nat) (kind : CohKind) (d : LineData) (p : Bool) : Chip :=
  let st : Option CState := match (k.cline a line).st, kind with
    | .isD, .dataE => some .e
    | .isD, .dataF => some .f
    | .imD, .dataE => some .m
    | .smD, .dataE => some .m
    | .fmD, .dataE => some .m
    | _, _ => none
  match st with
  | none => k.protocolError a line kind
  | some st =>
    let k1 := k.updLine a line (fun e => { e with st := st, data := d, poison := p })
    ((((k1.catchLine a line d p).drainAgent a).heldSnoop a line)).drainAgent a

/-- A line-cache group instruction whose put is acknowledged holds issue no longer (R362). -/
def Chip.endLcHold (k : Chip) (a line : Nat) : Chip :=
  if a < 64 then k
  else k.updCluster (a - 64) (fun x => { x with lcHold := x.lcHold.filter (fun h => h.line ≠ line) })

/-- A `WbAck` received (R351, R362). -/
def Chip.takeWbAck (k0 : Chip) (a line : Nat) : Chip :=
  let k := k0.endLcHold a line
  let e := k.cline a line
  match e.st with
  | .miA =>
    (k.updLine a line (fun e => { e with st := if e.keep then .e else .i, keep := false })).drainAgent a
  | .eiA => (k.updLine a line (fun e => { e with st := .i, keep := false })).drainAgent a
  | .fiA => (k.updLine a line (fun e => { e with st := .i, keep := false })).drainAgent a
  | .siA => (k.updLine a line (fun e => { e with st := .i, keep := false })).drainAgent a
  | .iiA => (k.updLine a line (fun e => { e with st := .i, keep := false })).drainAgent a
  | _ => k.protocolError a line .wbAck

/-- A message arrives where it was sent. -/
def Chip.deliver (k : Chip) (m : CohMsg) : Chip :=
  match m.kind with
  | .getS => k.homeRequest m.dst m.line (.getS m.src)
  | .getM => k.homeRequest m.dst m.line (.getM m.src)
  | .putS => k.homeRequest m.dst m.line (.putS m.src)
  | .putF => k.homeRequest m.dst m.line (.putF m.src)
  | .putE => k.homeRequest m.dst m.line (.putE m.src)
  | .putM => k.homeRequest m.dst m.line (.putM m.src m.keep m.data m.poison)
  | .invAck => k.homeAnswer m.dst m.line m.src none
  | .data =>
    if 160 ≤ m.dst && m.dst < 165 then k.homeAnswer m.dst m.line m.src (some (m.data, m.poison))
    else { k with answers := k.answers ++ [m] }
  | .fwdGetS => k.takeSnoop m.dst m
  | .fwdGetM => k.takeSnoop m.dst m
  | .inv => k.takeSnoop m.dst m
  | .backInv => k.takeSnoop m.dst m
  | .dataE => k.takeGrant m.dst m.line .dataE m.data m.poison
  | .dataF => k.takeGrant m.dst m.line .dataF m.data m.poison
  | .wbAck =>
    if m.dst < 160 then k.takeWbAck m.dst m.line else { k with answers := k.answers ++ [m] }
  | .readOnce => k
  | .writeFull => k
  | .atomic => k

/-- The message with these ends leaves the network, if it is there: only the oldest between the same
ends for the same line can (R342). -/
def Chip.takeMsg (k : Chip) (kind : CohKind) (src dst line : Nat) : Chip × Option CohMsg :=
  match k.net.find? (fun m => m.src = src && m.dst = dst && m.line = line) with
  | some m =>
    if m.kind = kind then
      ({ k with net := dropFirst (fun m => m.src = src && m.dst = dst && m.line = line) k.net }, some m)
    else (k, none)
  | none => (k, none)

/-! ## Agents that never cache -/

/-- The messages of one line arrive in the order they were sent, and waiting requests for it start,
until none is left (`n` bounds the count). -/
def Chip.settle (k : Chip) (line : Nat) : Nat → Chip
  | 0 => k
  | n + 1 =>
    match k.net.find? (fun m => m.line = line) with
    | some m =>
      (({ k with net := dropFirst (fun m => m.line = line) k.net }).deliver m).settle line n
    | none =>
      let home := k.homeOf line
      if (k.home home).waiting.any (fun w => w.1 = line) && !(k.home home).isBusy line then
        (k.homeResume home line).settle line n
      else k

/-- Messages that one line can hold in flight, with those its transactions add. -/
def settleBound : Nat := 4096

/-- The agent whose copy of a line memory does not match: M, or M on its way out. -/
def Chip.dirtyAt (k : Chip) (line : Nat) : Option Nat :=
  ((k.home (k.homeOf line)).entry line).holders.find? (fun a =>
    let st := (k.cline a line).st
    st = .m || st = .miA)

/-- The current value and poison of a line, as a `ReadOnce` finds it (R347). -/
def Chip.lineNow (k : Chip) (line : Nat) : LineData × Bool :=
  match k.dirtyAt line with
  | some a => ((k.cline a line).data, (k.cline a line).poison)
  | none => (k.lineData line, k.poisoned line)

/-- Every cached copy of a line invalidated, dirty data merged into memory, and its entry freed. -/
def Chip.flushLine (k : Chip) (line : Nat) : Chip :=
  let home := k.homeOf line
  let as := ((k.home home).entry line).holders
  let k1 := match k.dirtyAt line with
    | some a => k.writeLine line (k.cline a line).data (k.cline a line).poison
    | none => k
  (as.foldl (fun k a =>
    ((k.countInv a .inv (k.cline a line).locked).updLine a line (fun e =>
      { e with st := .i, snoop := none, keep := false })).dropReservation a line)
    k1).setDir home line DirEnt.free

/-- A `ReadOnce` carried out at once: `n` bytes from a local address, with the poison of their lines
(R355). `big` says that a mover command of 1 MiB or more makes it (13_tiers_and_flash.md R396). -/
def Chip.cohReadBy (k : Chip) (big : Bool) (la n : Nat) : Chip × (Bytes × Bool) :=
  if cacheable la then
    let k1 := (linesOf la n).foldl (fun k l => k.settle l settleBound) k
    let bs := (List.range n).map (fun i =>
      lineByte (k1.lineNow (lineOf (la + i))).1 ((la + i) % 128))
    (k1.cacheUseAll la n false big, (bs, (linesOf la n).any (fun l => (k1.lineNow l).2)))
  else (k, (k.bytes la n, (linesOf la n).any k.poisoned))

/-- A `WriteFull` per line carried out at once (R355, R357). -/
def Chip.cohWriteBy (k : Chip) (big : Bool) (la : Nat) (bs : Bytes) (p : Bool) : Chip :=
  if cacheable la then
    let k1 := (linesOf la bs.length).foldl (fun k l => (k.settle l settleBound).flushLine l) k
    (k1.writeMem la bs p).cacheUseAll la bs.length true big
  else k.writeMem la bs p

/-- The same for an agent that is no mover, or a smaller command. -/
def Chip.cohRead (k : Chip) (la n : Nat) : Chip × (Bytes × Bool) := k.cohReadBy false la n
def Chip.cohWrite (k : Chip) (la : Nat) (bs : Bytes) (p : Bool) : Chip := k.cohWriteBy false la bs p

/-- An `Atomic` carried out at once: the old word and its poison (R347, R534). -/
def Chip.cohAtomic (k : Chip) (la : Nat) (op : AmoOp) (operand compare : U64) : Chip × (U64 × Bool) :=
  let line := lineOf la
  let k1 := ((k.settle line settleBound).flushLine line).cacheUse line true false
  let old : U64 := BitVec.ofNat 64 (ofBytes (k1.bytes la 8))
  if k1.poisoned line then (k1, (old, true))
  else (k1.poke la (toBytes 8 (amoResult op old operand compare).toNat), (old, false))

end Sys2Proof.Machine
end

