-- ==== Sys2Proof/Machine/HaspOps.lean ====
section
/-! DEFINITION. Hasp banks: operations, waits and notifiers (09_hasps.md). -/

namespace Sys2Proof.Machine

/-- Quadrant and index of a hasp ID (R283). -/
def haspQuad (h : BitVec 14) : Nat := h.toNat / 4096
def haspIndex (h : BitVec 14) : Nat := h.toNat % 4096

/-- A hasp after an addition, which saturates (R284), and whether it saturated. -/
def Hasp.add (h : Hasp) (v : BitVec 48) : Hasp × Bool :=
  if 2 ^ 48 ≤ h.count.toNat + v.toNat then ({ h with count := BitVec.allOnes 48, sat := true }, true)
  else ({ h with count := h.count + v }, false)

/-- A hasp after an operation (R287); `err` also sets the error flag, in the same operation. -/
def Hasp.apply (h : Hasp) (act : HaspAct) (v : BitVec 48) (err : Bool) : Hasp × Bool :=
  let r : Hasp × Bool := match act with
    | .add => h.add v
    | .set => ({ h with count := v }, false)
    | .reset => (Hasp.reset, false)
  ({ r.1 with err := r.1.err || err }, r.2)

/-- Whether a notifier's condition holds (R308). -/
def Quad.fires (q : Quad) (n : Notifier) : Bool :=
  let h := q.hasp n.index.toNat
  n.en && (decide (n.thresh.toNat ≤ h.count.toNat) || (n.onErr && h.err))

/-- Notifier `n` evaluated: it sets `FIRED` when its condition holds (R308). -/
def Quad.evalNotifier (q : Quad) (n : Nat) : Quad :=
  let x := tblGet Notifier.reset q.notifiers n
  if q.fires x then { q with notifiers := tblPut Notifier.reset q.notifiers n { x with fired := true } }
  else q

/-- Every notifier that names a hasp evaluated. -/
def Quad.evalHasp (q : Quad) (i : Nat) : Quad :=
  (List.range 64).foldl (fun q n =>
    if (tblGet Notifier.reset q.notifiers n).index.toNat = i then q.evalNotifier n else q) q

/-- The hasp that a store of 8 bytes to `HSP_OP` names (R304, R305). -/
def hspOpHasp (la : Nat) (data : Bytes) : Option (BitVec 14) :=
  let o := la - 0x30001000000
  if 0x30001000000 ≤ la && o < 0x400000 && o % 0x100000 = 0x18000 && data.length = 8 then
    some (BitVec.ofNat 14 (o / 0x100000 * 4096 + bitsOf (ofBytes data) 0 12))
  else none

/-- A store of cluster `c` to `HSP_OP` for a hasp, of a bundle up to `no`, that is not yet performed. -/
def Chip.hspStores (k : Chip) (c : Nat) (h : BitVec 14) (no : Nat) : Bool :=
  (k.cluster c).stores.any (fun s => s.no ≤ no && k.isOwn s.pa && hspOpHasp (paLocal s.pa) s.data = some h)

/-- An operation of cluster `c` on a hasp of this module, of a bundle before `no`, that its bank has not yet
applied. -/
def Chip.haspOps (k : Chip) (c : Nat) (h : BitVec 14) (no : Nat) : Bool :=
  (k.cluster c).haspBuf.any (fun o => o.remote.isNone && o.hasp = h && o.no < no) ||
    (k.quad (haspQuad h)).inbox.any (fun o => o.index = haspIndex h && match o.src with
      | some (d, n) => d = c && decide (n < no)
      | none => false)

/-- A wait is evaluated after the operations that its sequencer issued to the hasp before it (R288). -/
def Chip.haspBehind (k : Chip) (c : Nat) (h : BitVec 14) (no : Nat) : Bool := k.haspOps c h no || k.hspStores c h no

/-- The registered waits that a count satisfies end (R293, R298), each once the operations before it have been
applied (R288). -/
def Chip.wakeWaits (k : Chip) (hasp : BitVec 14) (count : BitVec 48) : Chip :=
  let met (c : Nat) (w : HWait) : Bool :=
    w.hasp = hasp && decide (w.v.toNat ≤ count.toNat) && !k.haspBehind c hasp w.no
  { k with clusters := k.clusters.map (fun e => (e.1, { e.2 with
      whEnded := e.2.whEnded || e.2.waits.any (fun w => met e.1 w && !w.gate)
      waits := e.2.waits.filter (fun w => !met e.1 w) })) }

/-- The bank applies an operation indivisibly (R287), ends the waits it satisfies and evaluates its
notifiers. -/
def Chip.bankApply (k : Chip) (q i : Nat) (act : HaspAct) (v : BitVec 48) (err : Bool) : Chip :=
  let (h, sat) := ((k.quad q).hasp i).apply act v err
  let k1 := k.updQuad q (fun d => { d with
    hasps := tblPut Hasp.reset d.hasps i h, satev := d.satev || sat }.evalHasp i)
  k1.wakeWaits (BitVec.ofNat 14 (q * 4096 + i)) h.count

/-- A quadrant's bank takes operations: it runs and is usable. -/
def Chip.bankUp (k : Chip) (q : Nat) : Bool :=
  k.quadPresent q && (k.quad q).up && !(k.quad q).unusable && !(k.quad q).underReset

/-- An operation on its way from a quadrant, or from the host die, to a bank of this module; one for an absent or
unusable quadrant, or for one partitioned from it, adds nothing and is recorded (16_tumbler_interface.md R468;
01_package_and_hinges.md R50). -/
def Chip.toBank (k : Chip) (quad : Option Nat) (src : Option (Nat × Nat)) (act : HaspAct) (hasp : BitVec 14)
    (v : BitVec 48) (err : Bool) : Chip :=
  if k.bankUp (haspQuad hasp) && !(quad.any (fun p => k.parted p (haspQuad hasp))) then
    k.updQuad (haspQuad hasp) (fun d => { d with
      inbox := d.inbox ++ [({
        quad := quad, src := src, act := act, index := haspIndex hasp, v := v, err := err } : BankOp)] })
  else k.report 1 { ErrInfo.none with
    cls := 4, agent := 12, quad := BitVec.ofNat 8 (haspQuad hasp), detail := hasp.setWidth 64 } 1

/-- A wait ends under R299 or by its timeout: `LAST_HASP` names its hasp. -/
def Cluster.endWait (c : Cluster) (w : HWait) (tmo : Bool) : Cluster :=
  { c with
    waits := c.waits.filter (·.id ≠ w.id)
    whEnded := c.whEnded || !w.gate
    hwTmo := c.hwTmo || tmo
    hwLost := c.hwLost || !tmo
    lastHasp := w.hasp }

/-- Every wait at a quadrant's bank ends when it is reset or unusable (R299). -/
def Chip.loseWaits (k : Chip) (q : Nat) : Chip :=
  { k with clusters := k.clusters.map (fun e =>
      (e.1, (e.2.waits.filter (fun w => haspQuad w.hasp = q)).foldl (fun c w => c.endWait w false) e.2)) }

/-- Between two partitioned seats, the waits of one at the other's bank end and the operations on their way are lost
(01_package_and_hinges.md R50). -/
def Chip.partHasps (k : Chip) (a b : Nat) : Chip :=
  let k1 : Chip := { k with clusters := k.clusters.map (fun e => if e.1 / 24 = a then
      (e.1, (e.2.waits.filter (fun w => haspQuad w.hasp = b)).foldl (fun c w => c.endWait w false) e.2)
    else e) }
  k1.updQuad b (fun d => { d with inbox := d.inbox.filter (fun o => o.quad ≠ some a) })

/-- A remote addition sent as one `HASP_ADD` packet (R292, R306). -/
def Chip.sendHaspAdd (k : Chip) (src : Option Nat) (dev : BitVec 6) (hasp : BitVec 14) (v : BitVec 48)
    (err : Bool) (owner : RemoteOwner) : Chip :=
  k.onFabric (fun f => f.request 4 false err 0 0 dev hasp v 0 [] owner (k.portReach src))

/-- A remote addition was lost (R292): `RADD_FAIL` and an error record. -/
def Chip.raddLost (k : Chip) (c : Nat) (hasp : BitVec 14) : Chip :=
  (k.updCluster c (fun x => { x with raddFail := true })).report 1
    { clusterErr c 0 4 0 with detail := hasp.setWidth 64 } 1

/-! ## The hasp-operation buffer (R291) -/

/-- Whether a buffered store is visible at a scope (10_memory_ordering.md R317). -/
def Chip.storeVisible (k : Chip) (c : Nat) (s : StoreEnt) (scope : Scope) : Bool :=
  match scope with
  | .agent => true
  | .cluster => !k.isOwn s.pa || (s.sent && !k.inOwnStore c s.pa && !s.cached)
  | .package => !k.isOwn s.pa
  | .system => false

/-- Every scalar store of bundles up to `no` is visible at a scope. -/
def Chip.storesVisible (k : Chip) (c no : Nat) (scope : Scope) : Bool :=
  (k.cluster c).stores.all (fun s => no < s.no || k.storeVisible c s scope)

/-- Every scalar load and atomic of bundles up to `no` has been performed. -/
def Cluster.loadsDone (x : Cluster) (no : Nat) : Bool := x.loads.all (fun a => no < a.no)

/-- Every matrix, vector and SFU operation of bundles before `no` has ended. -/
def Cluster.enginesEnded (x : Cluster) (no : Nat) : Bool :=
  (List.range 7).all (fun e => (tblGet [] x.queues e).all (fun o => no ≤ o.no)) &&
    (List.range 4).all (fun u => match (tblGet MUnit.reset x.munits u).drain with
      | some d => decide (no ≤ d.no)
      | none => true)

/-- Whether the operation at the head of the buffer may leave (R291): with a scope of `CLUSTER` or wider, once
the earlier scalar accesses and the engine operations of this and earlier bundles that it covers have ended
(10_memory_ordering.md R321, R324). A store to `HSP_OP` for the same hasp goes before it (R288). -/
def Chip.mayRelease (k : Chip) (c : Nat) (o : HaspOp) : Bool :=
  !(o.remote.isNone && k.hspStores c o.hasp o.no) && (o.scope = .agent ||
    (k.storesVisible c o.no o.scope && (k.cluster c).loadsDone o.no && (k.cluster c).enginesEnded (o.no + 1)))

/-- Operations leave the buffer in program order while they may; `n` bounds the count. -/
def Chip.releaseHasps (k : Chip) (c : Nat) : Nat → Chip
  | 0 => k
  | n + 1 =>
    match (k.cluster c).haspBuf with
    | [] => k
    | o :: rest =>
      if k.mayRelease c o then
        let k1 := k.updCluster c (fun x => { x with haspBuf := rest })
        (match o.remote with
        | none => k1.toBank (some (c / 24)) (some (c, o.no)) o.act o.hasp o.v o.err
        | some d => k1.sendHaspAdd (some (c / 24)) d o.hasp o.v o.err (.haspAdd c)).releaseHasps c n
      else k

/-- The operations a sequencer has sent that are not yet applied or acknowledged (R96, R319). -/
def Chip.haspsPending (k : Chip) (c : Nat) : Bool :=
  !(k.cluster c).haspBuf.isEmpty ||
    (List.range 4).any (fun q => (k.quad q).inbox.any (fun o => o.src.map (·.1) = some c)) ||
    k.fabric.reqs.any (fun r => r.owner = .haspAdd c)

end Sys2Proof.Machine
end

