-- ==== Sys2Proof/Machine/TranslateOps.lean ====
section
/-! DEFINITION. Range translation: table entries, the walk, the range caches and invalidation
(12_range_translation.md). -/

namespace Sys2Proof.Machine

/-! ## Entries -/

/-- A range-table entry (R367). -/
def decodeRange (x : Nat) : RangeEnt :=
  { vstart := BitVec.ofNat 41 (bitsOf x 0 41)
    pstart := BitVec.ofNat 40 (bitsOf x 48 40)
    len := BitVec.ofNat 34 (bitsOf x 96 34)
    v := bitOf x 160
    r := bitOf x 161
    w := bitOf x 162
    tier := BitVec.ofNat 3 (bitsOf x 163 3)
    coh := bitOf x 166
    sealed := bitOf x 167
    side := bitOf x 168
    reserved := bitsOf x 41 7 ≠ 0 || bitsOf x 88 8 ≠ 0 || bitsOf x 130 30 ≠ 0 || bitsOf x 169 87 ≠ 0 }

/-- The range of R60 that `TIER` names (R368). -/
def tierArea (t : BitVec 3) : Area :=
  match t.toNat with
  | 0 => .lpddr | 1 => .hbm | 2 => .shelf | 3 => .stores | 4 => .regs | 5 => .flash | _ => .none

/-- First and last byte of the physical span. -/
def RangeEnt.first (e : RangeEnt) : Nat := e.pstart.toNat * 65536
def RangeEnt.last (e : RangeEnt) : Nat := e.first + e.len.toNat * 65536 - 1

/-- Whether the physical span lies in one range of R60 on one device number. -/
def RangeEnt.inOneArea (e : RangeEnt) : Bool :=
  e.last < 2 ^ 56 && paDev e.first = paDev e.last && areaOf (paLocal e.first) ≠ .none &&
    areaOf (paLocal e.first) = areaOf (paLocal e.last)

/-- A malformed entry (R370). -/
def RangeEnt.malformed (e : RangeEnt) : Bool :=
  e.v && (e.len = 0 || 2 ^ 41 < e.vstart.toNat + e.len.toNat || !e.inOneArea ||
    tierArea e.tier = .none || tierArea e.tier ≠ areaOf (paLocal e.first) ||
    (e.coh && 2 ≤ e.tier.toNat) || (e.sealed && e.w) || (e.tier = 5 && !e.sealed) || e.reserved)

/-- Whether an entry's virtual span holds an address (R367). -/
def RangeEnt.covers (e : RangeEnt) (va : U64) : Bool :=
  decide (e.vstart.toNat * 65536 ≤ va.toNat) &&
    decide (va.toNat < (e.vstart.toNat + e.len.toNat) * 65536)

/-- The physical address of a covered address (R367). -/
def RangeEnt.phys (e : RangeEnt) (va : U64) : Nat := e.first + (va.toNat - e.vstart.toNat * 65536)

/-! ## Range caches (R375) -/

/-- Set of the second level. -/
def l2RangeSet (space : Nat) (va : U64) : Nat := bitsOf va.toNat 21 6 ^^^ bitsOf space 0 6

/-- The first entry of a list that covers an address. -/
def findRange (l : List CachedRange) (space : Nat) (va : U64) : Option CachedRange :=
  l.find? (fun x => x.space = space && x.ent.covers va)

/-- An entry used now, first in a list of at most `n`. -/
def useRange (n : Nat) (l : List CachedRange) (x : CachedRange) : List CachedRange :=
  (x :: l.filter (· ≠ x)).take n

/-- A range filled into a cluster's cache. -/
def Chip.fillCluster (k : Chip) (c : Nat) (x : CachedRange) : Chip :=
  k.updCluster c (fun d => { d with ranges := useRange 64 d.ranges x })

/-- A range filled into the second level, in the set of the address that missed. -/
def Chip.fillL2 (k : Chip) (q : Nat) (va : U64) (x : CachedRange) : Chip :=
  k.updQuad q (fun d => { d with
    l2 := tblMod [] d.l2 (l2RangeSet x.space va) (fun l => useRange 16 l x) })

/-! ## The walk (R371, R374) -/

/-- One entry read of a walk: the entry, or the status of the failed read. -/
def Chip.readEntry (k : Chip) (q space i : Nat) : Chip × (RangeEnt × Nat) :=
  let pa := (k.space space).tbase.toNat * 4096 + 32 * i
  let la := paLocal pa
  let st := if k.isOwn pa then k.reachMem (some q) la else stNotPresent
  if st ≠ stOk then (k, (decodeRange 0, if st = stNotPresent then stLinkLost else st))
  else
    let (k1, (bs, p)) := k.cohRead la 32
    (k1, (decodeRange (ofBytes bs), if p then stPoison else stOk))

/-- A failed table read: error record and `WALKERR` (R374). -/
def Chip.walkFailed (k : Chip) (q space : Nat) (va : U64) (st : Nat) : Chip :=
  (k.updQuad q (fun d => { d with walkErr := true })).report 1
    { ErrInfo.none with
      cls := if st = stPoison then 3 else 0x0A, quad := BitVec.ofNat 8 q, vaddr := va,
      space := BitVec.ofNat 16 space, status := BitVec.ofNat 8 st } 1

/-- A malformed entry met by a walk (R370, R382). -/
def Chip.noteMalformed (k : Chip) (q space : Nat) (va : U64) : Chip :=
  k.updQuad q (fun d =>
    if d.malformed then d
    else { d with malformed := true, malSpace := BitVec.ofNat 12 space, malAddr := va.setWidth 57 })

/-- One step of a walk: it goes on, or ends (R371). -/
def Chip.walkStep (k : Chip) (q : Nat) (w : Walk) : Chip × (Walk ⊕ WalkEnd) :=
  if w.hi ≤ w.lo then (k, .inr .none)
  else
    let mid := (w.lo + w.hi - 1) / 2
    let (k1, (e, st)) := k.readEntry q w.space mid
    if st ≠ stOk then (k1.walkFailed q w.space w.va st, .inr (.failed st))
    else if w.va.toNat < e.vstart.toNat * 65536 then (k1, .inl { w with hi := mid })
    else if !e.covers w.va then (k1, .inl { w with lo := mid + 1 })
    else if !e.v then (k1, .inr .none)
    else if e.malformed then (k1.noteMalformed q w.space w.va, .inr .none)
    else (k1, .inr (.found e))

/-- A walk run to its end; `n` bounds its reads (R371: at most 17). -/
def Chip.walkRun (k : Chip) (q : Nat) (w : Walk) : Nat → Chip × WalkEnd
  | 0 => (k, .none)
  | n + 1 =>
    match k.walkStep q w with
    | (k1, .inl w') => k1.walkRun q w' n
    | (k1, .inr e) => (k1, e)

/-! ## Translation -/

/-- Kinds of access a range permits (R374). -/
inductive XKind where
  | read | write | atomic
  deriving DecidableEq, Repr

/-- Whether a range permits an access (R374). -/
def RangeEnt.permits (e : RangeEnt) : XKind → Bool
  | .read => e.r
  | .write => e.w && !e.sealed
  | .atomic => e.r && e.w && !e.sealed

/-- Outcome of a translation: the range, a wait for a walk or an invalidation, or a status (R374). -/
inductive Xlt where
  | ok (e : RangeEnt)
  | wait
  | fail (st : Nat)
  deriving DecidableEq, Repr

/-- `TRANSLATION_FAULT` (08_movers_and_run_ahead.md R258). -/
def stTranslation : Nat := 1

/-- A space is being invalidated: its translations wait (R378). -/
def Chip.invalidating (k : Chip) (space : Nat) : Bool := k.invals.any (fun i => i.space = space)

/-- The lookup of both range caches (R371, R375). -/
def Chip.lookup (k : Chip) (c space : Nat) (va : U64) : Chip × Option RangeEnt :=
  match findRange (k.cluster c).ranges space va with
  | some x => (k.fillCluster c x, some x.ent)
  | none =>
    let q := c / 24
    match findRange (tblGet [] (k.quad q).l2 (l2RangeSet space va)) space va with
    | some x =>
      ((((k.fillL2 q va x).updQuad q (fun d => { d with l2hit := satAdd d.l2hit 1 }))).fillCluster c x,
        some x.ent)
    | none => (k, none)

/-- A walk under way serves an address too: it is for the same space, and for the same address or one of the same
range (R376). -/
def Chip.walkServes (k : Chip) (q space : Nat) (va : U64) (w : Walk) : Bool :=
  w.space = space && (w.va = va ||
    match (k.walkRun q w 18).2 with
    | .found e => e.covers va
    | _ => false)

/-- A miss of cluster `c` starts a walk, or joins one under way, while fewer than 8 run (R376). -/
def Chip.startWalk (k : Chip) (c space : Nat) (va : U64) : Chip :=
  let q := c / 24
  let d := k.quad q
  if d.walking.any (k.walkServes q space va) then
    k.updQuad q (fun d => { d with walking := d.walking.map (fun w =>
      if k.walkServes q space va w && !w.who.contains (c, va) then { w with who := w.who ++ [(c, va)] } else w) })
  else if 8 ≤ d.walking.length then k
  else k.updQuad q (fun d => { d with
    walks := satAdd d.walks 1
    walking := d.walking ++ [({ space := space, va := va, lo := 0, hi := (k.space space).count.toNat,
                                who := [(c, va)] } : Walk)] })

/-- A walk of quadrant `q` has ended: a range goes to the second level and to the caches of the clusters
that asked; a failure waits for each of them that asked for its address. -/
def Chip.endWalk (k : Chip) (q : Nat) (w : Walk) (r : WalkEnd) : Chip :=
  let k1 := k.updQuad q (fun d => { d with walking := d.walking.erase w })
  match r with
  | .found e =>
    let x : CachedRange := { space := w.space, ent := e }
    w.who.foldl (fun k p => k.fillCluster p.1 x) (k1.fillL2 q w.va x)
  | r => k1.updQuad q (fun d => { d with ended := d.ended ++ (w.who.filter (fun p => p.2 = w.va)).map (fun p =>
      ({ cluster := p.1, space := w.space, va := w.va, how := r } : WalkFail)) })

/-- An address or space that no walk covers (R371, R374). -/
def Chip.uncovered (k : Chip) (space : Nat) (va : U64) : Bool :=
  space = 0 || !(k.space space).en || decide (2 ^ 57 ≤ va.toNat)

/-- The failure of a walk that cluster `c` asked for and has not taken up. -/
def Chip.walkFailure (k : Chip) (c space : Nat) (va : U64) : Option (Chip × Nat) :=
  let mine (x : WalkFail) : Bool := x.cluster = c && x.space = space && x.va = va
  match (k.quad (c / 24)).ended.find? mine with
  | some x =>
    some (k.updQuad (c / 24) (fun d => { d with ended := dropFirst mine d.ended }),
      match x.how with
      | .failed st => st
      | _ => stTranslation)
  | none => none

/-- One translation of a sequencer (R371, R374, R378): a hit, a walk that has ended, or a wait. -/
def Chip.translate (k : Chip) (c space : Nat) (va : U64) (kind : XKind) : Chip × Xlt :=
  if k.invalidating space then (k, .wait)
  else if k.uncovered space va then (k, .fail stTranslation)
  else match k.lookup c space va with
    | (k1, some e) => (k1, if e.permits kind then .ok e else .fail stPermission)
    | (k1, none) =>
      match k1.walkFailure c space va with
      | some (k2, st) => (k2, .fail st)
      | none => (k1.startWalk c space va, .wait)

/-- One translation whose own walk runs to the end at once: movers, the front end and the Tumbler
(R259; notes/assumptions/26.md). It joins a walk under way for its range, and waits while 8 run (R376). -/
def Chip.translateNow (k : Chip) (c space : Nat) (va : U64) (kind : XKind) : Chip × Xlt :=
  if k.invalidating space then (k, .wait)
  else if k.uncovered space va then (k, .fail stTranslation)
  else match k.lookup c space va with
    | (k1, some e) => (k1, if e.permits kind then .ok e else .fail stPermission)
    | (k1, none) =>
      let q := c / 24
      let d := k1.quad q
      match k1.walkFailure c space va with
      | some (k2, st) => (k2, .fail st)
      | none =>
        if d.walking.any (k1.walkServes q space va) || 8 ≤ d.walking.length then (k1.startWalk c space va, .wait)
        else
          let k2 := k1.updQuad q (fun d => { d with walks := satAdd d.walks 1 })
          match k2.walkRun q { space := space, va := va, lo := 0, hi := (k2.space space).count.toNat,
                               who := [(c, va)] } 18 with
          | (k3, .found e) =>
            let x : CachedRange := { space := space, ent := e }
            ((k3.fillL2 q va x).fillCluster c x, if e.permits kind then .ok e else .fail stPermission)
          | (k3, .none) => (k3, .fail stTranslation)
          | (k3, .failed st) => (k3, .fail st)

/-- The spaces a launch of space `s` may name (R365). -/
def Chip.mayName (k : Chip) (s t : Nat) : Bool :=
  t = s || ((k.space s).en && (k.space t).en && (k.space s).domain ≠ 0 &&
    (k.space s).domain = (k.space t).domain)

/-! ## Invalidation (R377-R382) -/

/-- Whether a mover command has an endpoint in a space (R378). A virtual endpoint with space field 0
lies in the launch's space (R365). -/
def MovCmd.touches (m : MovCmd) (s : Nat) : Bool :=
  let at' (kind : BitVec 2) (f : BitVec 12) : Bool :=
    kind = 1 && (if f = 0 then m.space else f.toNat) = s
  at' m.desc.skind m.desc.sspace || (!m.desc.eth && at' m.desc.dkind m.desc.dspace)

/-- The transfers of a cluster translated in a space that are in flight (R379). -/
def Cluster.transfers (x : Cluster) (c s : Nat) : List Transfer :=
  [0, 1].flatMap (fun m => ((x.mover m).cmds.filter (fun d =>
      (d.phase = .data || d.phase = .drain) && d.touches s)).map (fun d => Transfer.mover c m d.id)) ++
    (x.loads.filter (fun a => a.space = s)).map (fun a => Transfer.access c a.id) ++
    (x.stores.filter (fun a => a.space = s)).map (fun a => Transfer.store c a.id) ++
    (if x.space = s && x.fetchRead.any (·.got.isNone) then [Transfer.fetch c] else []) ++
    (if x.space = s && x.descRead.any (·.answer.isNone) then [Transfer.desc c] else [])

/-- A cluster at the start point of an invalidation (R378, 08_movers_and_run_ahead.md R280). -/
def Cluster.atInval (x : Cluster) (s : Nat) : Cluster :=
  let x1 := x.discardIf (fun m => m.touches s || m.space = s)
  { x1 with
    ranges := x1.ranges.filter (fun r => r.space ≠ s)
    prepared := if x1.space = s then [] else x1.prepared.filter (fun p =>
      p.desc.sspace.toNat ≠ s && p.desc.dspace.toNat ≠ s)
    feAt := if x1.space = s then none else x1.feAt }

/-- The start point of an invalidation (R378): the transfers in flight are those it waits for. -/
def Chip.startInval (k : Chip) (s : Nat) (origin : InvOrigin) : Chip :=
  let ts := k.clusters.flatMap (fun e => e.2.transfers e.1 s)
  { k with
    clusters := k.clusters.map (fun e => (e.1, e.2.atInval s))
    quads := k.quads.map (fun e => (e.1, { e.2 with
      l2 := e.2.l2.filterMap (fun p =>
        let l := p.2.filter (fun r => r.space ≠ s)
        if l = [] then none else some (p.1, l))
      walking := e.2.walking.filter (fun w => w.space ≠ s)
      ended := e.2.ended.filter (fun w => w.space ≠ s) }))
    invals := k.invals ++ [({ id := k.nextInv, space := s, origin := origin, waits := ts } : Invalidation)]
    nextInv := k.nextInv + 1 }

/-- Whether a transfer that an invalidation waits for is still in flight (R379). -/
def Chip.inFlight (k : Chip) : Transfer → Bool
  | .mover c m id => ((k.cluster c).mover m).cmds.any (fun d => d.id = id)
  | .access c id => (k.cluster c).loads.any (fun a => a.id = id)
  | .store c id => (k.cluster c).stores.any (fun a => a.id = id)
  | .fetch c => (k.cluster c).fetchRead.any (·.got.isNone)
  | .desc c => (k.cluster c).descRead.any (·.answer.isNone)

end Sys2Proof.Machine
end

