-- ==== Sys2Proof/Machine/MoverOps.lean ====
section
/-! DEFINITION. Movers: descriptors, landing zones, the translation pass, the data phase and completion
(08_movers_and_run_ahead.md). -/

namespace Sys2Proof.Machine

/-! ## Landing zones (R270-R272) -/

/-- Whether an offset extent touches the upper half of an enabled zone or crosses its window's edge
(R272). -/
def Cluster.zoneRefuses (c : Cluster) (lo hi : Nat) : Bool :=
  (List.range 8).any (fun n =>
    let z := c.zone n
    let w := z.window
    let e := w + z.half
    z.en && ((decide (lo < e + z.half) && decide (e < hi)) ||
      (decide (lo < e) && decide (w < hi) && !(decide (w ≤ lo) && decide (hi ≤ e)))))

/-- Whether an offset lies in the two halves of an enabled zone. -/
def Cluster.inZone (c : Cluster) (o : Nat) : Bool :=
  (List.range 8).any (fun n => (c.zone n).en && decide ((c.zone n).window ≤ o) &&
    decide (o < (c.zone n).window + 2 * (c.zone n).half))

/-- Bytes written to a cluster store: a byte of an enabled zone that another agent has written is undefined for
the cluster until the cluster next writes it (R273). `own` is the cluster of the writer, if any. -/
def Chip.spoilZones (k : Chip) (own : Option Nat) (la n : Nat) : Chip :=
  if areaOf la ≠ .stores then k
  else (List.range n).foldl (fun k i =>
    let (c, o) := storeSpot (la + i)
    if own = some c then k.ownWritten c (la + i) 1
    else if (k.cluster c).inZone o then
      let (v, k1) := k.fresh
      k1.updCluster c (fun x => { x with dim := tblPut none x.dim (la + i) (some (v.setWidth 8)) })
    else k) k

/-! ## Descriptors (R252-R257) -/

/-- A descriptor (R252). -/
def decodeDesc (x : Nat) : Desc :=
  { src := BitVec.ofNat 64 (bitsOf x 0 64), dst := BitVec.ofNat 64 (bitsOf x 64 64)
    sspace := BitVec.ofNat 12 (bitsOf x 128 12), dspace := BitVec.ofNat 12 (bitsOf x 140 12)
    skind := BitVec.ofNat 2 (bitsOf x 152 2), dkind := BitVec.ofNat 2 (bitsOf x 154 2)
    esize := BitVec.ofNat 3 (bitsOf x 156 3), cntd := bitOf x 159, side := bitOf x 160
    nospec := bitOf x 161, remote := bitOf x 162, eth := bitOf x 163
    d0 := BitVec.ofNat 32 (bitsOf x 176 32), d1 := BitVec.ofNat 16 (bitsOf x 208 16)
    d2 := BitVec.ofNat 16 (bitsOf x 224 16), d3 := BitVec.ofNat 16 (bitsOf x 240 16)
    sstr1 := BitVec.ofNat 32 (bitsOf x 256 32), sstr2 := BitVec.ofNat 32 (bitsOf x 288 32)
    sstr3 := BitVec.ofNat 32 (bitsOf x 320 32), dstr1 := BitVec.ofNat 32 (bitsOf x 352 32)
    dstr2 := BitVec.ofNat 32 (bitsOf x 384 32), dstr3 := BitVec.ofNat 32 (bitsOf x 416 32)
    dhasp := BitVec.ofNat 14 (bitsOf x 448 14), dhaspEn := bitOf x 462
    endpoint := BitVec.ofNat 16 (bitsOf x 464 16)
    reserved := bitsOf x 164 12 ≠ 0 || bitOf x 463 || bitsOf x 480 32 ≠ 0 }

/-- The descriptor of a command whose descriptor could not be read. -/
def Desc.empty : Desc := decodeDesc 0

/-- Size of a command (R253). -/
def Desc.size (d : Desc) : Nat := d.d0.toNat * d.d1.toNat * d.d2.toNat * d.d3.toNat

/-- A command of 1 MiB or more, which allocates nothing in a system cache under `AUTO` (13_tiers_and_flash.md
R396). -/
def Desc.big (d : Desc) : Bool := 2 ^ 20 ≤ d.size

/-- Segments of a command. -/
def Desc.segments (d : Desc) : Nat := d.d1.toNat * d.d2.toNat * d.d3.toNat

/-- Start of segment `n` of one side (R255): arithmetic modulo `2 ^ 64`, strides signed. -/
def segStart (start : U64) (s1 s2 s3 : BitVec 32) (d : Desc) (n : Nat) : U64 :=
  let i1 := n % d.d1.toNat
  let i2 := n / d.d1.toNat % d.d2.toNat
  let i3 := n / d.d1.toNat / d.d2.toNat
  start + BitVec.ofNat 64 i1 * s1.signExtend 64 + BitVec.ofNat 64 i2 * s2.signExtend 64 +
    BitVec.ofNat 64 i3 * s3.signExtend 64

def Desc.srcSeg (d : Desc) (n : Nat) : U64 := segStart d.src d.sstr1 d.sstr2 d.sstr3 d n
def Desc.dstSeg (d : Desc) (n : Nat) : U64 := segStart d.dst d.dstr1 d.dstr2 d.dstr3 d n

/-- Whether a command is null (R253). -/
def Desc.isNull (d : Desc) : Bool := d.size = 0

/-- Whether a multiple of the element size. -/
def aligned (n esize : Nat) : Bool := n % 2 ^ esize = 0

/-- Whether the mover refuses a descriptor (R254); `mayName` says which space fields the launch may
use. -/
def Desc.refused (d : Desc) (mayName : Nat → Bool) : Bool :=
  let e := d.esize.toNat
  let offBad (a : U64) (s : BitVec 12) : Bool := decide (2 ^ 22 ≤ a.toNat) || s ≠ 0
  d.reserved || 2 ≤ d.skind.toNat || 2 ≤ d.dkind.toNat ||
    !([d.src.toNat, d.dst.toNat, d.d0.toNat, d.sstr1.toNat, d.sstr2.toNat, d.sstr3.toNat,
       d.dstr1.toNat, d.dstr2.toNat, d.dstr3.toNat].all (fun n => aligned n e)) ||
    (d.skind = 0 && offBad d.src d.sspace) || (d.dkind = 0 && offBad d.dst d.dspace) ||
    1048576 < d.segments || 2 ^ 40 < d.size ||
    (d.skind = 1 && d.sspace ≠ 0 && !mayName d.sspace.toNat) ||
    (d.dkind = 1 && !d.eth && d.dspace ≠ 0 && !mayName d.dspace.toNat) ||
    (d.dhaspEn && !d.remote) || (d.remote && d.eth) ||
    (d.eth && (d.dkind ≠ 1 || d.dspace ≠ 0))

/-- The extent of an offset endpoint, if it stays below 4 MiB (R257): lowest byte and one past the
highest. -/
def extentOf (start : Nat → U64) (segs len : Nat) : Option (Nat × Nat) :=
  let xs := (List.range segs).map (fun n => (start n).toNat)
  let lo := xs.foldl min (2 ^ 64)
  let hi := xs.foldl (fun m x => max m (x + len)) 0
  if segs ≠ 0 && hi ≤ 2 ^ 22 then some (lo, hi) else none

/-- A claim widened to lines (R88). -/
def mkClaim (no eng lo hi : Nat) (write : Bool) : Claim :=
  { no := no, eng := eng, lo := lo / 128 * 128, hi := (hi + 127) / 128 * 128, write := write }

/-- The claims of a command that is neither null nor refused (R88, R257). -/
def Desc.claims (d : Desc) (no eng : Nat) : List Claim :=
  (if d.skind = 0 then
    (match extentOf d.srcSeg d.segments d.d0.toNat with
     | some (lo, hi) => [mkClaim no eng lo hi false]
     | none => []) else []) ++
  (if d.dkind = 0 then
    (match extentOf d.dstSeg d.segments d.d0.toNat with
     | some (lo, hi) => [mkClaim no eng lo hi true]
     | none => []) else [])

/-! ## The translation pass (R258) -/

/-- Bytes of a flash block (notes/assumptions/71.md). -/
def blockBytes : Nat := 0x1000000

/-- User capacity an image holds, in units of 64 KiB (13_tiers_and_flash.md R399). -/
def Image.units (i : Image) : Nat := (i.length + 65535) / 65536

/-- Bytes of the window an image occupies, rounded up to 64 KiB. -/
def Image.span (i : Image) : Nat := i.units * 65536

/-- The sealed image whose span holds a window offset (13_tiers_and_flash.md R399, R403). -/
def Flash.imageAt (f : Flash) (off : Nat) : Option Image :=
  f.images.find? (fun i => i.st = .sealed && decide (i.offset ≤ off) &&
    decide (off < i.offset + i.span))

/-- Window offset of a local address. -/
def flashOff (la : Nat) : Nat := la - 0x100000000000

/-- The outcome of a physical byte as a mover's source or destination (R258, R62, R70-R72). The flash window and
the register space of another module, and a flash window that is absent, hold nothing (R4, R70). -/
def Chip.moverReach (k : Chip) (q pa : Nat) (write : Bool) : Nat :=
  let la := paLocal pa
  if k.isOwn pa then
    match areaOf la with
    | .regs => if write then stPermission else stNotPresent
    | .flash =>
      if !k.flashPresent then stNotPresent
      else if write then stPermission
      else if (k.flash.imageAt (flashOff la)).isSome then stOk else stNotPresent
    | .io => stNotPresent
    | .none => stNotPresent
    | _ => k.reachMem (some q) la
  else if (areaOf la = .lpddr || areaOf la = .hbm || areaOf la = .shelf || areaOf la = .stores) &&
      k.fabric.reach pa = .remote then stOk
  else stNotPresent

/-- The space a virtual endpoint is translated in (R252). -/
def MovCmd.spaceOf (m : MovCmd) (write : Bool) : Nat :=
  let sp := if write then m.desc.dspace else m.desc.sspace
  if sp = 0 then m.space else sp.toNat

/-- One byte of an endpoint resolved: its physical address or the status of its failure, or none while
its space is being invalidated. -/
def Chip.resolve (k : Chip) (c : Nat) (m : MovCmd) (write : Bool) (va : U64) :
    Chip × Option (Nat ⊕ Nat) :=
  if (if write then m.desc.dkind else m.desc.skind) = 0 then
    if 2 ^ 22 ≤ va.toNat then (k, some (.inr stNotPresent))
    else
      let pa := k.fabric.devnum.toNat * 2 ^ 50 + storeAddr c ((k.cluster c).redirect va.toNat)
      (k, some (.inl pa))
  else
    match k.translateNow c (m.spaceOf write) va (if write then .write else .read) with
    | (k1, .wait) => (k1, none)
    | (k1, .fail st) => (k1, some (.inr st))
    | (k1, .ok e) =>
      let st := k1.moverReach (c / 24) (e.phys va) write
      (k1, some (if st = stOk then .inl (e.phys va) else .inr st))

/-- The device number of the first destination byte of a command, where it translates (R258, R266). -/
def Chip.destDev (k : Chip) (c : Nat) (m : MovCmd) : Option Nat :=
  if m.desc.dkind = 0 || m.desc.eth then none
  else match (k.translateNow c (m.spaceOf true) m.desc.dst .write).2 with
    | .ok e => some (paDev (e.phys m.desc.dst))
    | _ => none

/-- Steps of `n` bytes at most that cover `len` bytes from an address and cross no multiple of `n`. -/
def cuts (n : Nat) : Nat → Nat → Nat → List (Nat × Nat)
  | 0, _, _ => []
  | fuel + 1, a, len =>
    if len = 0 then []
    else
      let step := min len (n - a % n)
      (a, step) :: cuts n fuel (a + step) (len - step)

/-- Whether a resolved byte breaks a rule of its side beyond those of R258's first rows: the destination of a
`REMOTE` command lies on one other module, `dev` (R258); the source of an `ETH` command is local (R267). -/
def Chip.sideRefuses (k : Chip) (m : MovCmd) (write : Bool) (dev : Option Nat) (pa : Nat) : Bool :=
  if write then m.desc.remote && (k.isOwn pa || dev ≠ some (paDev pa))
  else m.desc.eth && !k.isOwn pa

/-- One side of a segment checked in walk order: none while an invalidation is under way; the status of
its first failure. -/
def Chip.checkSide (k : Chip) (c : Nat) (m : MovCmd) (write : Bool) (dev : Option Nat) :
    List (Nat × Nat) → Chip × Option Nat
  | [] => (k, some stOk)
  | (a, _) :: r =>
    match k.resolve c m write (BitVec.ofNat 64 a) with
    | (k1, none) => (k1, none)
    | (k1, some (.inr st)) => (k1, some st)
    | (k1, some (.inl pa)) =>
      if k1.sideRefuses m write dev pa then (k1, some stPermission) else k1.checkSide c m write dev r

/-- Whether an offset endpoint breaks the landing-zone rule (R258, R272), for its whole extent. -/
def Cluster.zoneBad (x : Cluster) (m : MovCmd) (write : Bool) : Bool :=
  let kind := if write then m.desc.dkind else m.desc.skind
  let seg := if write then m.desc.dstSeg else m.desc.srcSeg
  kind = 0 && match extentOf seg m.desc.segments m.desc.d0.toNat with
    | some (lo, hi) => x.zoneRefuses lo hi
    | none => false

/-- One RDMA connection as a translation pass finds it (15_host_die.md R452). -/
def Chip.connOk (k : Chip) (space : Nat) (ep : BitVec 16) : Bool :=
  let base := (k.ethPort (bitsOf ep.toNat 15 1)).base
  let x := ofBytes (k.cohRead (paLocal (base + 256 * bitsOf ep.toNat 0 15)) 8).2.1
  bitsOf x 0 3 = 3 && bitOf x 3 && bitsOf x 4 12 = space

/-- One side of segment `n` (R258): the checks of a whole endpoint come with its first segment, in which the walk
first meets it. -/
def Chip.checkSeg (k : Chip) (c : Nat) (m : MovCmd) (dev : Option Nat) (n : Nat) (write : Bool) : Chip × Option Nat :=
  let a := if write then m.desc.dstSeg n else m.desc.srcSeg n
  if write && m.desc.eth then
    (k, some (if n = 0 && !k.connOk m.space m.desc.endpoint then stPermission else stOk))
  else if n = 0 && (k.cluster c).zoneBad m write then (k, some stNotPresent)
  else k.checkSide c m write dev (cuts 128 (m.desc.d0.toNat + 1) a.toNat m.desc.d0.toNat)

/-- A failure of the pass: on the destination side, segment, first byte of the segment (R269). -/
abbrev PassEnd := Option (Nat × (Bool × (Nat × U64)))

/-- The pass over segments in walk order, source before destination (R258): none while an invalidation
is under way; the first failure, or no failure. -/
def Chip.passSegs (k : Chip) (c : Nat) (m : MovCmd) (dev : Option Nat) : List Nat → Chip × Option PassEnd
  | [] => (k, some none)
  | n :: r =>
    match k.checkSeg c m dev n false with
    | (k1, none) => (k1, none)
    | (k1, some st) =>
      if st ≠ stOk then (k1, some (some (st, (false, (n, m.desc.srcSeg n)))))
      else match k1.checkSeg c m dev n true with
        | (k2, none) => (k2, none)
        | (k2, some st) =>
          if st ≠ stOk then (k2, some (some (st, (true, (n, m.desc.dstSeg n)))))
          else k2.passSegs c m dev r

/-- The physical address of a byte that the pass has checked. -/
def Chip.passed (k : Chip) (c : Nat) (m : MovCmd) (write : Bool) (va : U64) : Nat :=
  match (k.resolve c m write va).2 with
  | some (.inl pa) => pa
  | _ => 0

/-- The writes that carry `len` bytes to a destination (R261, R419): lines of this module, parts of 256 bytes
elsewhere, none across a multiple of its size; one for an RDMA write's share. -/
def Chip.partsOf (k : Chip) (c : Nat) (m : MovCmd) (d : U64) (len : Nat) : List DPart :=
  if m.desc.eth then [{ dst := 0, off := 0, len := len, st := .waiting }]
  else (cuts 256 (len + 1) d.toNat len).flatMap (fun x =>
    let pa := k.passed c m true (BitVec.ofNat 64 x.1)
    let part (b n : Nat) : DPart := { dst := pa + (b - x.1), off := b - d.toNat, len := n, st := .waiting }
    if k.isOwn pa then (cuts 128 (x.2 + 1) x.1 x.2).map (fun y => part y.1 y.2) else [part x.1 x.2])

/-- The pieces of one segment (R261, R264, R265): each reads bytes of one source line, or at most 16 KiB of the
flash window within one block of 16 KiB. -/
def Chip.segPieces (k : Chip) (c : Nat) (m : MovCmd) (n : Nat) : Nat → Nat → List Piece
  | 0, _ => []
  | fuel + 1, o =>
    let len := m.desc.d0.toNat
    if len ≤ o then []
    else
      let s := m.desc.srcSeg n + BitVec.ofNat 64 o
      let d := m.desc.dstSeg n + BitVec.ofNat 64 o
      let sp := k.passed c m false s
      let lim := if k.isOwn sp && areaOf (paLocal sp) = .flash then 16384 else 128
      let step := min (len - o) (lim - s.toNat % lim)
      { id := 0, seg := n, src := sp, len := step, srcVa := s, dstVa := d, parts := k.partsOf c m d step,
        asked := false, read := false, data := [] } :: k.segPieces c m n fuel (o + step)

/-- Every piece of a command, numbered in walk order. -/
def Chip.allPieces (k : Chip) (c : Nat) (m : MovCmd) : List Piece :=
  ((List.range m.desc.segments).flatMap (fun n => k.segPieces c m n (m.desc.d0.toNat + 1) 0)).mapIdx
    (fun i p => { p with id := i })

/-- The whole pass of a command (R258, R266, R267): none while it must wait; its failure; or its
pieces. -/
def Chip.pass (k : Chip) (c : Nat) (m : MovCmd) : Chip × Option (PassEnd × List Piece) :=
  match k.passSegs c m (k.destDev c m) (List.range m.desc.segments) with
  | (k1, none) => (k1, none)
  | (k1, some (some e)) => (k1, some (some e, []))
  | (k1, some none) => (k1, some (none, k1.allPieces c m))

/-- Whether a command reads its source lines once each and in walk order: `SIDE`, or a source byte in a range
marked side-effect (R264; 12_range_translation.md R373). -/
def Chip.sideSource (k : Chip) (c : Nat) (m : MovCmd) (ps : List Piece) : Bool :=
  m.desc.side || (m.desc.skind ≠ 0 && ps.any (fun p =>
    match (k.translateNow c (m.spaceOf false) p.srcVa .read).2 with
    | .ok e => e.side
    | _ => false))

/-! ## Commands in a mover -/

/-- Command `id` of mover `m`. -/
def Cluster.cmd (x : Cluster) (m id : Nat) : Option MovCmd := (x.mover m).cmds.find? (fun d => d.id = id)

/-- Command `id` of mover `m` of a cluster changed. -/
def Chip.updCmd (k : Chip) (c m id : Nat) (f : MovCmd → MovCmd) : Chip :=
  k.updCluster c (fun x => x.updMover m (fun v =>
    { v with cmds := v.cmds.map (fun d => if d.id = id then f d else d) }))

/-- A command as `MOV` or a pre-issue makes it. -/
def MovCmd.make (id no : Nat) (d : Desc) (rdesc : U64) (dloc : Bool) (hasp : BitVec 14) (cnt : Bool)
    (space : Nat) : MovCmd :=
  { id := id, no := no, desc := d, rdesc := rdesc, dloc := dloc, hasp := hasp, cnt := cnt,
    space := space, early := none, unread := false, phase := .queued, pieces := [], status := 0,
    failSeg := none, ddev := none, zone := none, confirmed := false, dsent := false,
    inOrder := false, kept := [] }

/-- The count of a command (R251, R254, R263). -/
def MovCmd.count (d : MovCmd) : Nat :=
  if d.cnt then 1 else if d.unread then 0 else min d.desc.size (2 ^ 48 - 1)

/-- Destination bytes that packets have counted at the destination (R266). -/
def MovCmd.countedBytes (d : MovCmd) : Nat :=
  ((d.pieces.flatMap (fun p => p.parts.filter (fun q => q.st = .done))).map (·.len)).foldl (· + ·) 0

/-- A failure of the data phase (R262): the first is kept, with its segment and address. -/
def MovCmd.failAt (d : MovCmd) (st : Nat) (dst : Bool) (p : Piece) : MovCmd :=
  if d.status ≠ 0 then d
  else { d with status := st, failSeg := some (dst, (p.seg, if dst then p.dstVa else p.srcVa)) }

/-- A piece of a command changed. -/
def MovCmd.updPiece (d : MovCmd) (id : Nat) (f : Piece → Piece) : MovCmd :=
  { d with pieces := d.pieces.map (fun p => if p.id = id then f p else p) }

/-- A piece of which nothing more is read or written; writes outstanding stay so. -/
def Piece.drop (p : Piece) : Piece :=
  { p with asked := false, read := true, data := [],
           parts := p.parts.map (fun q => if q.st = .waiting then { q with st := .failed } else q) }

/-- The part of a piece at an offset changed. -/
def Piece.setPart (p : Piece) (off : Nat) (st : PartState) : Piece :=
  { p with parts := p.parts.map (fun q => if q.off = off then { q with st := st } else q) }

/-- The parts of a piece whose write is outstanding, ended. -/
def Piece.endSent (p : Piece) (st : PartState) : Piece :=
  { p with parts := p.parts.map (fun q => if q.st = .sent then { q with st := st } else q) }

/-- A data-phase failure of a piece (R262), with its error record (R269), which a pre-issued command that is not
confirmed keeps (R279, R282). -/
def Chip.pieceFailed (k : Chip) (c m id : Nat) (p : Piece) (st : Nat) (dst : Bool) : Chip :=
  let e : ErrInfo := { clusterErr c (8 + m) (if st = stPoison then 3 else 0x0A) 0 with
    paddr := BitVec.ofNat 64 (if dst then (p.parts.map (·.dst)).headD 0 else p.src)
    vaddr := if dst then p.dstVa else p.srcVa
    status := BitVec.ofNat 8 st }
  let early := (((k.cluster c).cmd m id).map (fun d => d.zone.isSome && !d.confirmed)).getD false
  let k1 := k.updCmd c m id (fun d =>
    let d1 := (d.failAt st dst p).updPiece p.id Piece.drop
    if early && st ≠ stTierError then { d1 with kept := d1.kept ++ [e] } else d1)
  if early || st = stTierError then k1 else k1.report 1 e 1

/-- A zone whose pre-issued command has all its data is `READY` (R281). -/
def Chip.zoneReady (k : Chip) (c m id : Nat) : Chip :=
  match (k.cluster c).cmd m id with
  | some d =>
    match d.zone with
    | some z =>
      if d.pieces.all (·.landed) then
        if d.phase = .drain then
          k.updCluster c (fun x => (x.updZone z (fun z =>
            if z.st = .draining then { z with st := .idle } else z)).updMover m (fun v =>
            { v with cmds := v.cmds.filter (fun e => e.id ≠ id) }))
        else k.updCluster c (fun x => x.updZone z (fun z =>
          if z.st = .filling then { z with st := .ready } else z))
      else k
    | none => k
  | none => k

/-- The read claim of a command whose last source byte has been read is released (R90). -/
def Chip.sourceDone (k : Chip) (c m id : Nat) : Chip :=
  match (k.cluster c).cmd m id with
  | some d =>
    let mine (a : Claim) : Bool := a.no = d.no && a.eng = 7 + m && !a.write
    if d.pieces.all (·.read) && (k.cluster c).claims.any mine then
      (k.updCluster c (fun x => { x with claims := x.claims.filter (fun a => !mine a) })).drainAll c
    else k
  | none => k

/-! ## What holds a data request -/

/-- A request through a cluster's outbound port that has not ended goes before one to the same line
(10_memory_ordering.md R316, R318). -/
def Chip.portHeld (k : Chip) (c pa n : Nat) : Bool :=
  (k.cluster c).stores.any (fun s => s.sent && linesMeet pa n s.pa s.data.length) ||
    (!k.isOwn pa && k.fabric.reqs.any (fun r => r.owner.ofPort c && linesMeet (paLocal pa) n r.addr r.len))

/-- A part of a piece's destination lies beyond this module. -/
def Chip.leaves (k : Chip) (d : MovCmd) (p : Piece) : Bool := d.desc.eth || p.parts.any (fun q => !k.isOwn q.dst)

/-- Whether two pieces of a command write common bytes. -/
def MovCmd.sameBytes (d : MovCmd) (p q : Piece) : Bool :=
  if d.desc.eth then
    decide (p.dstVa.toNat < q.dstVa.toNat + q.len) && decide (q.dstVa.toNat < p.dstVa.toNat + p.len)
  else p.parts.any (fun a => q.parts.any (fun b => decide (a.dst < b.dst + b.len) && decide (b.dst < a.dst + a.len)))

/-- A piece whose data leaves this module waits for those of earlier segments that write the same bytes, so that
the later segment's data stays (R256). -/
def Chip.destWait (k : Chip) (d : MovCmd) (p : Piece) : Bool :=
  k.leaves d p && d.pieces.any (fun q => q.seg < p.seg && !q.landed && d.sameBytes p q)

/-- The source bytes that the request of a piece reads: its own, or its whole line where each line is read once
(R264). -/
def MovCmd.request (d : MovCmd) (p : Piece) : Nat × Nat :=
  if d.inOrder then (p.src / 128 * 128, 128) else (p.src, p.len)

/-- The pieces that a piece's request serves: with `inOrder`, every one of its line (R264). -/
def MovCmd.served (d : MovCmd) (p : Piece) : List Piece :=
  if d.inOrder then d.pieces.filter (fun r => !r.read && r.src / 128 = p.src / 128) else [p]

/-- Whether the data request of a piece must wait (R256, R264; 10_memory_ordering.md R316, R318). -/
def Chip.pieceHeld (k : Chip) (c : Nat) (d : MovCmd) (p : Piece) : Bool :=
  (d.inOrder && d.pieces.any (fun q => q.id < p.id && q.open')) || k.destWait d p ||
    k.portHeld c (d.request p).1 (d.request p).2 || p.parts.any (fun q => k.portHeld c q.dst q.len)

/-! ## Flash requests (R265) -/

/-- Flash requests a mover keeps outstanding. -/
def flashOutstanding : Nat := 32

/-- The flash requests of mover `m` that the tier has not answered. -/
def Chip.flashOut (k : Chip) (c m : Nat) : Nat :=
  (k.flash.reqs.filter (fun r => r.cluster = c && r.mover = m)).length

/-- The flash read of a piece put to the flash tier. -/
def Chip.askPiece (k : Chip) (c m : Nat) (d : MovCmd) (p : Piece) : Chip :=
  let off := flashOff (paLocal p.src)
  { k.updCmd c m d.id (·.updPiece p.id (fun p => { p with asked := true })) with
    flash := { k.flash with
      reqs := k.flash.reqs ++ [({ id := k.flash.nextReq, off := off, len := p.len, cluster := c, mover := m,
                                  cmd := d.id, piece := p.id } : FlashReq)]
      nextReq := k.flash.nextReq + 1
      readers := match k.flash.imageAt off with
        | some i => if k.flash.readers.contains (i.id, (c, (m, d.id))) then k.flash.readers
                    else k.flash.readers ++ [(i.id, (c, (m, d.id)))]
        | none => k.flash.readers } }

/-- Flash reads of a command in its data phase put to the flash tier, as far as the mover may (R265). -/
def Chip.askCmd (k : Chip) (c m : Nat) (d : MovCmd) : Chip :=
  if d.phase ≠ .data || d.status ≠ 0 then k
  else
    let todo := d.pieces.filter (fun p => p.open' && k.isOwn p.src && areaOf (paLocal p.src) = .flash &&
      !k.destWait d p)
    (todo.take (flashOutstanding - k.flashOut c m)).foldl (fun k p => k.askPiece c m d p) k

/-- Flash reads of a mover's commands put to the flash tier (R265). -/
def Chip.askFlash (k : Chip) (c m : Nat) : Chip :=
  (((k.cluster c).mover m).cmds).foldl (fun k d => k.askCmd c m d) k

/-- What follows when a piece has gone on (R90, R265, R281). -/
def Chip.afterPiece (k : Chip) (c m id : Nat) : Chip :=
  ((k.sourceDone c m id).zoneReady c m id).askFlash c m

/-! ## Data -/

/-- The data of a part written to its destination on this module (R256, R262). A byte that a segment
later in walk order has already written keeps that data. -/
def Chip.landLocal (k : Chip) (c : Nat) (d : MovCmd) (p : Piece) (t : DPart) (bs : Bytes) (poison : Bool) : Chip :=
  let st := k.moverReach (c / 24) t.dst true
  if st ≠ stOk && st ≠ stNotPresent then k
  else
    let la := paLocal t.dst
    let later := (d.pieces.filter (fun q => p.id < q.id)).flatMap (fun q =>
      q.parts.filter (fun u => u.st = .done && k.isOwn u.dst))
    let free (i : Nat) : Bool := later.all (fun q => !(q.dst ≤ t.dst + i && t.dst + i < q.dst + q.len))
    (if later.all (fun q => q.dst + q.len ≤ t.dst || t.dst + t.len ≤ q.dst) then k.cohWriteBy d.desc.big la bs poison
     else bs.zipIdx.foldl (fun k x =>
       if free x.2 then k.cohWriteBy d.desc.big (la + x.2) [x.1] poison else k) k).spoilZones (some c) la bs.length

/-- A part of a piece on its way to another module in a `WRITE` packet (R261, R266). -/
def Chip.sendPart (k : Chip) (c m : Nat) (d : MovCmd) (p : Piece) (t : DPart) (bs : Bytes) : Chip :=
  (k.updCmd c m d.id (·.updPiece p.id (·.setPart t.off .sent))).onFabric (fun f =>
    f.request 1 (d.desc.dhaspEn && !d.desc.cntd) false bs.length (paLocal t.dst) (BitVec.ofNat 6 (paDev t.dst))
      d.desc.dhasp 0 0 bs (.mover c m d.id p.id t.off) (k.portReach (some (c / 24))))

/-- A part of a piece whose data has been read: it lands here or goes on its way (R261, R262). -/
def Chip.landPart (k : Chip) (c m : Nat) (d : MovCmd) (p : Piece) (bs : Bytes) (t : DPart) : Chip :=
  let data := (bs.drop t.off).take t.len
  let st := k.moverReach (c / 24) t.dst true
  if !k.isOwn t.dst then k.sendPart c m d p t data
  else if st ≠ stOk && st ≠ stNotPresent then k.pieceFailed c m d.id p st true
  else (k.landLocal c d p t data false).updCmd c m d.id (·.updPiece p.id (·.setPart t.off .done))

/-- The pieces of a segment changed. -/
def MovCmd.updSeg (d : MovCmd) (seg : Nat) (f : Piece → Piece) : MovCmd :=
  { d with pieces := d.pieces.map (fun p => if p.seg = seg then f p else p) }

/-- A segment of an `ETH` command fails (R267). -/
def Chip.segFailed (k : Chip) (c m : Nat) (d : MovCmd) (seg st : Nat) : Chip :=
  match d.pieces.find? (fun p => p.seg = seg) with
  | some p => (k.updCmd c m d.id (·.updSeg seg (fun p => (p.endSent .failed).drop))).pieceFailed c m d.id p st true
  | none => k

/-- One RDMA write per destination segment (R267), posted once every byte of the segment has been read. -/
def Chip.postRdma (k : Chip) (c m id seg : Nat) : Chip :=
  match (k.cluster c).cmd m id with
  | none => k
  | some d =>
    let ps := d.pieces.filter (fun p => p.seg = seg)
    if d.status ≠ 0 || !ps.all (fun p => p.read && p.parts.all (fun q => q.st = .waiting)) then k
    else if !(k.ethPort (bitsOf d.desc.endpoint.toNat 15 1)).up then k.segFailed c m d seg stLinkLost
    else
      let k1 := k.updCmd c m id (·.updSeg seg (fun p =>
        { p with data := [], parts := p.parts.map (fun q => { q with st := .sent }) }))
      { k1 with io := { k1.io with
          rdma := k1.io.rdma ++ [({ id := k1.io.nextRdma, cluster := c, mover := m, cmd := id, seg := seg,
                                    endpoint := d.desc.endpoint, addr := d.desc.dstSeg seg,
                                    data := ps.flatMap (·.data) } : RdmaOut)]
          nextRdma := k1.io.nextRdma + 1 } }

/-- The source data of a piece has been read (R261, R262): it lands here or goes on its way; poison
fails the command, and goes to every destination on this module. -/
def Chip.pieceRead (k : Chip) (c m : Nat) (d : MovCmd) (p : Piece) (bs : Bytes) (poison : Bool) : Chip :=
  let k0 := k.updCmd c m d.id (·.updPiece p.id (fun p => { p with asked := false, read := true }))
  (if poison then
    (p.parts.foldl (fun k t =>
      if !d.desc.eth && k.isOwn t.dst then k.landLocal c d p t ((bs.drop t.off).take t.len) true else k)
      k0).pieceFailed c m d.id p stPoison false
  else if d.desc.eth then
    (k0.updCmd c m d.id (·.updPiece p.id (fun p => { p with data := bs }))).postRdma c m d.id p.seg
  else p.parts.foldl (fun k t => k.landPart c m d p bs t) k0).afterPiece c m d.id

/-- The answer to a request of a piece gives every piece it serves its bytes (R261, R264). -/
def Chip.sourceData (k : Chip) (c m : Nat) (d : MovCmd) (p : Piece) (bs : Bytes) (poison : Bool) : Chip :=
  (d.served p).foldl (fun k r =>
    match (k.cluster c).cmd m d.id with
    | some e => k.pieceRead c m e r ((bs.drop (r.src - (d.request p).1)).take r.len) poison
    | none => k) k

/-- A data request that failed (R262): the pieces it serves are read no more. -/
def Chip.sourceFailed (k : Chip) (c m : Nat) (d : MovCmd) (p : Piece) (st : Nat) : Chip :=
  (((d.served p).foldl (fun k r => k.updCmd c m d.id (·.updPiece r.id Piece.drop)) k).pieceFailed c m d.id p st
    false).afterPiece c m d.id

/-- A data request answered (R262): a local source is read at its home, a remote one is asked for. -/
def Chip.pieceRespond (k : Chip) (c m : Nat) (d : MovCmd) (p : Piece) : Chip :=
  let (lo, n) := d.request p
  let la := paLocal lo
  if !k.isOwn p.src then
    ((d.served p).foldl (fun k r => k.updCmd c m d.id (·.updPiece r.id (fun p => { p with asked := true })))
      k).onFabric (fun f =>
      f.request 2 false false n la (BitVec.ofNat 6 (paDev p.src)) 0 0 0 [] (.mover c m d.id p.id 0)
        (k.portReach (some (c / 24))))
  else if areaOf la = .flash then k
  else
    let st := k.reachMem (some (c / 24)) la
    if st ≠ stOk then k.sourceFailed c m d p st
    else
      let (k1, (bs, poison)) := k.cohReadBy d.desc.big la n
      k1.sourceData c m d p (if k1.inOwnStore c lo then k1.ownBytes c la n else bs) poison

/-- Whether an operation of bundle `no` waits for a gate opened before it (09_hasps.md R293). -/
def Cluster.gated (x : Cluster) (no : Nat) : Bool := x.waits.any (fun w => w.gate && w.no < no)

/-- Whether earlier conflicting claims hold the operation of bundle `no` on engine `eng` (R89). -/
def Cluster.claimBlocked (x : Cluster) (no eng : Nat) : Bool :=
  (x.claims.filter (fun a => a.no = no && a.eng = eng)).any (fun a =>
    x.claims.any (fun b => (b.no < no || (b.no = no && slotRank b.eng < slotRank eng)) && (a.write || b.write) &&
      decide (a.lo < b.hi) && decide (b.lo < a.hi)))

/-- Whether a scalar store of an earlier bundle to the operation's extent is still unwritten (R91). -/
def Chip.storeBlocked (k : Chip) (c no eng : Nat) : Bool :=
  let x := k.cluster c
  (x.claims.filter (fun a => a.no = no && a.eng = eng)).any (fun a =>
    x.stores.any (fun s => s.no ≤ no && match s.claim with
      | some o => a.overlaps o s.data.length
      | none => false))

/-- The claims of an operation released (R90). -/
def Cluster.release (x : Cluster) (no eng : Nat) : Cluster :=
  { x with claims := x.claims.filter (fun a => !(a.no = no && a.eng = eng)) }

/-- The next command of a mover starts (R85, R89, R253-R260, R318): it ends at once, fails its pass, or
begins its data phase. Commands that must wait stay queued. -/
def Chip.startCmd (k : Chip) (c m : Nat) (d : MovCmd) : Chip :=
  let x := k.cluster c
  let ended (st : Nat) (f : Option (Bool × (Nat × U64))) (k : Chip) : Chip :=
    k.updCmd c m d.id (fun d => { d with
      phase := .done, status := st, failSeg := f
      ddev := if st = stOk then none else (k.destDev c d).map (BitVec.ofNat 6) })
  if x.gated d.no then k
  else match d.early with
  | some st => ended st none k
  | none =>
    if d.desc.isNull then ended stOk none k
    else if x.claimBlocked d.no (7 + m) || k.storeBlocked c d.no (7 + m) ||
        !k.storesVisible c d.no .cluster then k
    else match k.pass c d with
      | (k1, none) => k1
      | (k1, some (some (st, f), _)) => ended st (some f) k1
      | (k1, some (none, ps)) =>
        (k1.updCmd c m d.id (fun d => { d with
          phase := .data, pieces := ps, inOrder := k1.sideSource c d ps
          ddev := if d.desc.remote then (k1.destDev c d).map (BitVec.ofNat 6) else none })).askFlash c m

/-! ## Completion (R263) -/

/-- Destination bytes of a failed command become free bytes, poison kept (R262). -/
def Chip.spoil (k : Chip) (d : MovCmd) : Chip :=
  (d.pieces.flatMap (·.parts)).foldl (fun k t =>
    if !d.desc.eth && k.isOwn t.dst then
      let (bs, k1) := k.freshBytes t.len
      k1.cohWrite (paLocal t.dst) bs (k.poisoned (lineOf (paLocal t.dst)))
    else k) k

/-- The `MOV_` registers after a command that did not end with `OK` (R268, R269). -/
def Mover.note (v : Mover) (d : MovCmd) : Mover :=
  let n := satAdd v.errCount 1
  if v.err then { v with overrun := true, errCount := n }
  else
    let (sd, (seg, a), valid) := match d.failSeg with
      | some (sd, (seg, a)) => (sd, (seg, a), true)
      | none => (false, (0, 0), false)
    { v with
      err := true
      lastStatus := BitVec.ofNat 8 d.status
      errCount := n
      errinfo := ((BitVec.ofNat 20 seg ++ (0 : BitVec 2) ++ boolBit valid ++ boolBit sd ++
        boolBit d.dloc ++ boolBit d.cnt ++ d.hasp) : BitVec 40).setWidth 64
      errdesc := d.rdesc
      erraddr := a }

/-- A command leaves its mover (R90, R263, R279): claims, registers, zone, and the completion
addition. -/
def Chip.completeCmd (k : Chip) (c m : Nat) (d : MovCmd) : Chip :=
  let k0 := d.kept.foldl (fun k e => k.report 1 e 1) (if d.failSeg.isSome then k.spoil d else k)
  let k1 := k0.updCluster c (fun x =>
    let x1 := x.updMover m (fun v =>
      let v1 : Mover := { v with
        cmds := v.cmds.filter (fun e => e.id ≠ d.id)
        doneCnt := v.doneCnt + 1
        bytes := if d.status = 0 then v.bytes + BitVec.ofNat 64 d.desc.size else v.bytes }
      if d.status = 0 then v1 else v1.note d)
    let x2 := match d.zone with
      | some z => x1.updZone z (fun z => { z with arch := !z.arch, st := .idle })
      | none => x1
    x2.release d.no (7 + m))
  let k2 := { k1 with flash := { k1.flash with
    readers := k1.flash.readers.filter (fun r => r.2 ≠ (c, (m, d.id))) } }
  (k2.toBank (some (c / 24)) none .add d.hasp (BitVec.ofNat 48 d.count) (d.status ≠ 0)).drainAll c

/-- The destination addition a command still owes before it completes (R266): its value and whether it
carries the error flag. A null command translates nothing and owes none. -/
def MovCmd.owes (d : MovCmd) : Option (Nat × Bool) :=
  if !d.desc.remote || !d.desc.dhaspEn || d.dsent || d.unread || d.desc.isNull then none
  else if d.status = 0 then (if d.desc.cntd then some (1, false) else none)
  else some (if d.desc.cntd then 1 else min (d.desc.size - d.countedBytes) (2 ^ 48 - 1), true)

/-- Whether nothing of a command is outstanding: all data has landed, or it failed and no request is in
flight. -/
def MovCmd.ended (d : MovCmd) : Bool :=
  d.phase = .done ||
    (d.phase = .data && (d.pieces.all (·.landed) || (d.status ≠ 0 && d.pieces.all (fun p => !p.busy))))

/-- A destination addition that cannot be delivered or is lost (R266). -/
def Chip.destLost (k : Chip) (c m : Nat) (d : MovCmd) : Chip :=
  k.report 1 { clusterErr c (8 + m) 4 0 with detail := d.desc.dhasp.setWidth 64 } 1

/-- The destination addition of a command ends with a status that is not `OK` (R266): a command whose writes all
succeeded takes `REMOTE_TIMEOUT` where the addition stayed unacknowledged, and its data stands. -/
def Chip.destEnd (k : Chip) (c m id st : Nat) : Chip :=
  match (k.cluster c).cmd m id with
  | some d =>
    (k.updCmd c m id (fun d => if d.status = 0 && st = stTimeout then { d with status := st } else d)).destLost c m d
  | none => k

/-- A command that has ended completes, once its destination addition has been acknowledged (R263,
R266) and, for a confirmed one, once earlier conflicting claims are released (R279). -/
def Chip.tryComplete (k : Chip) (c m : Nat) (d : MovCmd) : Chip :=
  if !d.ended || d.speculative || d.phase = .drain then k
  else if d.confirmed && (k.cluster c).claimBlocked d.no (7 + m) then k
  else if k.fabric.reqs.any (fun r => r.owner = .moverHasp c m d.id) then k
  else match d.owes, d.ddev with
    | some (v, err), some dev =>
      if dev = k.fabric.devnum then (k.destLost c m d).completeCmd c m d
      else (k.updCmd c m d.id (fun d => { d with dsent := true })).sendHaspAdd (some (c / 24)) dev d.desc.dhasp
        (BitVec.ofNat 48 v) err (.moverHasp c m d.id)
    | some _, none => (k.destLost c m d).completeCmd c m d
    | none, _ => k.completeCmd c m d

end Sys2Proof.Machine
end

