-- ==== Sys2Proof/Machine/Operands.lean ====
section
/-! DEFINITION. Operand forms of a bundle: the legality of its slots, its 256-bit encoding, the scalar
registers it reads and writes, and the operand values of its engine slots
(04_iluchezia_bundles.md R120-R162). -/

namespace Sys2Proof.Machine

/-! ## Codes -/

/-- The code of an operation in a table of codes. -/
def codeOf {α : Type} [DecidableEq α] (l : List (Nat × α)) (a : α) : Nat :=
  match l.find? (fun p => p.2 = a) with
  | some p => p.1
  | none => 0

/-- The operation of a code. -/
def ofCode {α : Type} (l : List (Nat × α)) (n : Nat) : Option α := (l.find? (fun p => p.1 = n)).map (·.2)

/-- `FN` of the ALU group (R130). -/
def aluCodes : List (Nat × AluOp) :=
  [(0, .add), (1, .sub), (2, .and), (3, .or), (4, .xor), (5, .sll), (6, .srl), (7, .sra), (8, .slt),
   (9, .sltu), (0xA, .mul), (0xB, .min), (0xC, .max), (0xD, .minu), (0xE, .maxu)]

/-- Immediate ALU opcodes (R129). -/
def aluICodes : List (Nat × AluIOp) :=
  [(2, .addi), (3, .andi), (4, .ori), (5, .xori), (6, .slti), (7, .sltiu)]

def shiftCodes : List (Nat × ShiftOp) := [(8, .slli), (9, .srli), (0xA, .srai)]

def branchCodes : List (Nat × BrOp) :=
  [(0x20, .beq), (0x21, .bne), (0x22, .blt), (0x23, .bge), (0x24, .bltu), (0x25, .bgeu)]

def amoCodes : List (Nat × AmoOp) := [(0, .add), (1, .swap), (2, .cas)]

/-- `FN` of the line-cache group (R129). -/
def lcCodes : List (Nat × LcOp) :=
  [(0, .clean), (1, .inval), (2, .flush), (4, .cleanw), (5, .invalw), (6, .flushw), (8, .lock),
   (9, .unlock)]

/-- Vector opcodes (R153). -/
def vecCodes : List (Nat × VOp) :=
  [(0x01, .vadd), (0x02, .vsub), (0x03, .vmul), (0x04, .vfma), (0x05, .vfnma), (0x06, .vmin),
   (0x07, .vmax), (0x08, .vabs), (0x09, .vneg), (0x0A, .vadds), (0x0B, .vmuls), (0x0C, .vfmas),
   (0x10, .vand), (0x11, .vor), (0x12, .vxor), (0x13, .vnot), (0x14, .vsll), (0x15, .vsrl),
   (0x16, .vsra), (0x18, .vcmp), (0x19, .mand), (0x1A, .mor), (0x1B, .mxor), (0x1C, .mnot)] ++
  [(0x20, .vmov), (0x21, .vbcast), (0x28, .cvt), (0x29, .mxpack), (0x2A, .mxunpk), (0x30, .redsum),
   (0x31, .redmax), (0x32, .redmin), (0x34, .smaxc), (0x35, .welf), (0x36, .wmerge), (0x38, .vld),
   (0x39, .vst), (0x3C, .vtrn), (0x3D, .vtrnq)]

/-- SFU opcodes (R158). -/
def sfuCodes : List (Nat × SfuOp) :=
  [(1, .exp2), (2, .log2), (3, .rcp), (4, .rsq), (5, .tanh), (6, .sig), (7, .erf), (8, .sin),
   (9, .cos), (0xA, .lut)]

def scopeCodes : List (Nat × Scope) := [(0, .agent), (1, .cluster), (2, .package), (3, .system)]

def scopeBits (s : Scope) : BitVec 2 := BitVec.ofNat 2 (codeOf scopeCodes s)
def scopeOf (b : BitVec 2) : Scope :=
  if b = 0 then .agent else if b = 1 then .cluster else if b = 2 then .package else .system

/-! ## Encoding (R120, R121, R128, R138, R143, R147, R149, R151, R154, R156, R157) -/

def encR (op : BitVec 6) (rd rs1 rs2 : SReg) (fn : BitVec 4) : BitVec 32 :=
  (0 : BitVec 7) ++ fn ++ rs2 ++ rs1 ++ rd ++ op
def encI (op : BitVec 6) (rd rs1 : SReg) (imm : BitVec 16) : BitVec 32 := imm ++ rs1 ++ rd ++ op
def encJ (op : BitVec 6) (rd : SReg) (off : BitVec 21) : BitVec 32 := off ++ rd ++ op

def encodeScalar (s : Scalar) : BitVec 32 :=
  match s with
  | .nop => 0
  | .alu op rd rs1 rs2 => encR 1 rd rs1 rs2 (BitVec.ofNat 4 (codeOf aluCodes op))
  | .alui op rd rs1 imm => encI (BitVec.ofNat 6 (codeOf aluICodes op)) rd rs1 imm
  | .shift op rd rs1 sh =>
    (0 : BitVec 10) ++ sh ++ rs1 ++ rd ++ BitVec.ofNat 6 (codeOf shiftCodes op)
  | .lui rd imm => encJ 0x0B rd imm
  | .load size signed rd rs1 imm =>
    encI (BitVec.ofNat 6 (0x10 + 2 * size.toNat + boolNat !signed)) rd rs1 imm
  | .store size rs2 rs1 imm => encI (BitVec.ofNat 6 (0x18 + size.toNat)) rs2 rs1 imm
  | .ldl rd rs1 imm => encI 0x1C rd rs1 imm
  | .stl rs2 rs1 imm => encI 0x1D rs2 rs1 imm
  | .branch op rs1 rs2 off => encI (BitVec.ofNat 6 (codeOf branchCodes op)) rs1 rs2 off
  | .jal rd off => encJ 0x26 rd off
  | .jalr rd rs1 imm => encI 0x27 rd rs1 imm
  | .loop rc body => encI 0x28 rc 0 body
  | .loopi t body => body ++ t ++ (0x29 : BitVec 6)
  | .brk rs sense level => (0 : BitVec 18) ++ level ++ boolBit sense ++ rs ++ (0x2A : BitVec 6)
  | .amo op rd rs1 rs2 => encR 0x30 rd rs1 rs2 (BitVec.ofNat 4 (codeOf amoCodes op))
  | .rdcyc rd => encR 0x34 rd 0 0 0
  | .lidx rd depth => encR 0x34 rd (depth.setWidth 5) 0 1
  | .rdspace rd => encR 0x34 rd 0 0 2
  | .lc op rd rs1 => encR 0x38 rd rs1 0 (BitVec.ofNat 4 (codeOf lcCodes op))

def encodeMatrix (m : Matrix) : BitVec 64 :=
  match m with
  | .mma complex f =>
    (0 : BitVec 18) ++ f.rsc ++ f.rk ++ f.rbs ++ f.rb ++ f.ras ++ f.ra ++ f.fmtB ++ f.fmtA ++
      (0 : BitVec 1) ++ boolBit f.acc ++ f.unit ++ (if complex then (2 : BitVec 4) else 1)
  | .zdrain f =>
    (0 : BitVec 33) ++ f.rsc ++ f.rds ++ f.rd ++ (0 : BitVec 3) ++ boolBit f.sat ++ f.dfmt ++ f.rm ++
      f.unit ++ (3 : BitVec 4)
  | .zload f =>
    (0 : BitVec 38) ++ f.rss ++ f.rs ++ (0 : BitVec 4) ++ f.sfmt ++ (0 : BitVec 2) ++ f.unit ++
      (4 : BitVec 4)
  | .mcfg f =>
    (0 : BitVec 43) ++ f.rv ++ (0 : BitVec 4) ++ f.item ++ (0 : BitVec 2) ++ f.unit ++ (5 : BitVec 4)

def encodeVector (op : VOp) (f : VecF) : BitVec 64 :=
  f.fn ++ f.rs2 ++ f.rs ++ f.t2 ++ f.t ++ f.vs3 ++ f.vs2 ++ f.vs1 ++ f.vd ++ boolBit f.mz ++
    boolBit f.men ++ f.msk ++ f.unit ++ BitVec.ofNat 8 (codeOf vecCodes op)

def encodeMover (f : MovF) : BitVec 48 :=
  (0 : BitVec 21) ++ boolBit f.spec ++ boolBit f.cnt ++ f.hasp ++ boolBit f.dloc ++ f.rdesc ++ f.mover ++
    (1 : BitVec 4)

/-- A sync word of R157. -/
def encSync (op : BitVec 6) (rh rv : SReg) (scope : Scope) : BitVec 32 :=
  (0 : BitVec 14) ++ scopeBits scope ++ rv ++ rh ++ op

def encodeSfu (s : Sfu) : BitVec 32 :=
  match s with
  | .fn op f =>
    (0 : BitVec 9) ++ boolBit f.mz ++ boolBit f.men ++ f.msk ++ boolBit f.prec ++ f.vs ++ f.vd ++ f.unit ++
      BitVec.ofNat 6 (codeOf sfuCodes op)
  | .lutLd vs => (0 : BitVec 15) ++ vs ++ (0 : BitVec 6) ++ (0x0B : BitVec 6)
  | .lutCommit => 0x0C
  | .sync (.add rh rv sc) => encSync 0x20 rh rv sc
  | .sync (.wait rh rv sc) => encSync 0x21 rh rv sc
  | .sync (.set rh rv sc) => encSync 0x22 rh rv sc
  | .sync (.reset rh sc) => encSync 0x23 rh 0 sc
  | .sync .fenceC => 0x28
  | .sync .fenceP => 0x29
  | .sync .fenceS => 0x2A

/-- The control field (R121). -/
def encodeControl (b : Bundle256) : BitVec 16 :=
  (0 : BitVec 6) ++ boolBit b.sbar ++ boolBit b.stop ++ boolBit b.wh ++ b.pred ++ boolBit b.sfu.isSome ++
    boolBit b.mover.isSome ++ boolBit b.vector.isSome ++ boolBit b.matrix.isSome

/-- A bundle as 256 bits (R120, R122): an empty slot is zero. -/
def encodeBundle (b : Bundle256) : BitVec 256 :=
  encodeControl b ++
    (match b.sfu with | some s => encodeSfu s | none => 0) ++
    (match b.mover with | some f => encodeMover f | none => 0) ++
    (match b.vector with | some (op, f) => encodeVector op f | none => 0) ++
    (match b.matrix with | some m => encodeMatrix m | none => 0) ++
    encodeScalar b.scalar

/-! ## Legality (R138, R145, R146, R153, R160, 06_vector_units.md R201) -/

end Sys2Proof.Machine

namespace Sys2Proof
open Sys2Proof.Machine

/-- A legal scalar slot: loop fields in range, no reserved load width. -/
def Scalar.legal : Scalar → Bool
  | .load size signed _ _ _ => size ≠ 3 || signed
  | .loop _ body => body ≠ 0
  | .loopi t body => t ≠ 0 && body ≠ 0
  | _ => true

end Sys2Proof

namespace Sys2Proof.Machine

/-- Formats of `MMA` and `MMAC` (R145, R146). -/
def fmtPairOk (complex : Bool) (a b : Nat) : Bool :=
  let one (f : Nat) : Bool := if complex then f = 0 || f = 2 || f = 3 else decide (f ≤ 10)
  one a && one b &&
    (a = b || (a = 2 && b = 3) || (a = 3 && b = 2) || (a = 4 && b = 5) || (a = 5 && b = 4) ||
      (a = 6 && b = 7) || (a = 7 && b = 6))

end Sys2Proof.Machine

namespace Sys2Proof
open Sys2Proof.Machine

/-- A legal matrix slot (R145-R150, 05_matrix_units.md R188). -/
def Matrix.legal : Matrix → Bool
  | .mma complex f =>
    fmtPairOk complex f.fmtA.toNat f.fmtB.toNat &&
      (mxScaled f.fmtA.toNat || f.rsc = 0)
  | .zdrain f =>
    decide (f.rm.toNat < 2) && (f.dfmt.toNat ≤ 8 || f.dfmt = 0xB) &&
      (!(f.dfmt = 0 || f.dfmt = 1 || f.dfmt = 8 || f.dfmt = 0xB) || !f.sat) &&
      (drainMx f.dfmt.toNat || f.rsc = 0)
  | .zload f => f.sfmt = 0 || f.sfmt = 0xB
  | .mcfg f => decide (f.item.toNat < 3)

end Sys2Proof

namespace Sys2Proof.Machine

/-- How an operation uses a register field: not at all, as a mask number, or as a register. -/
inductive FieldUse where
  | no | mask | reg
  deriving DecidableEq, Repr

/-- A field fits its use. -/
def FieldUse.ok (u : FieldUse) (x : SReg) : Bool :=
  match u with
  | .no => x = 0
  | .mask => decide (x.toNat < 8)
  | .reg => true

end Sys2Proof.Machine

namespace Sys2Proof
open Sys2Proof.Machine

def VOp.useVd : VOp → FieldUse
  | .vst => .no
  | .vcmp | .mand | .mor | .mxor | .mnot => .mask
  | _ => .reg

def VOp.useVs1 : VOp → FieldUse
  | .vbcast | .vld => .no
  | .mand | .mor | .mxor | .mnot => .mask
  | _ => .reg

def VOp.useVs2 (op : VOp) (fn : BitVec 12) : FieldUse :=
  match op with
  | .vadd | .vsub | .vmul | .vmin | .vmax | .vand | .vor | .vxor | .vfma | .vfnma | .vfmas | .vcmp
  | .smaxc | .wmerge => .reg
  | .vsll | .vsrl | .vsra => if fn.getLsbD 6 then .no else .reg
  | .mand | .mor | .mxor => .mask
  | _ => .no

def VOp.useVs3 : VOp → FieldUse
  | .vfma | .vfnma => .reg
  | _ => .no

/-- Types of `T` (R152, R153). -/
def VOp.typeOk (op : VOp) (t : Nat) : Bool :=
  let fl := decide (t < 3)
  let int := t = 8 || t = 9 || t = 10
  match op with
  | .vfma | .vfnma | .vfmas | .mxpack | .mxunpk => fl
  | .vand | .vor | .vxor | .vnot | .vsll | .vsrl | .vsra => int
  | .mand | .mor | .mxor | .mnot => t = 0
  | .vmov | .cvt | .vld | .vst => decide (t < 12)
  | .smaxc | .welf | .wmerge => t = 0
  | .vtrn | .vtrnq => t = 0 || t = 8
  | _ => fl || int

def VOp.type2Ok (op : VOp) (t2 : Nat) : Bool :=
  match op with
  | .cvt => decide (t2 < 12)
  | .mxpack | .mxunpk => decide (3 ≤ t2 ∧ t2 ≤ 7)
  | _ => t2 = 0

/-- `FN` use (R153). -/
def VOp.fnOk (op : VOp) (fn : BitVec 12) : Bool :=
  match op with
  | .vsll | .vsrl | .vsra => if fn.getLsbD 6 then decide (fn.toNat < 128) else fn = 0
  | .vcmp => decide (fn.toNat < 6)
  | .cvt => decide (fn.toNat < 8)
  | .mxpack => decide (fn.toNat < 4)
  | _ => fn = 0

/-- Mask fields (R151, R201): with `MEN` clear they are zero; some operations take no mask, and
reductions only select. -/
def VOp.maskOk (op : VOp) (f : VecF) : Bool :=
  (f.men || (f.msk = 0 && !f.mz)) &&
    match op with
    | .mand | .mor | .mxor | .mnot | .mxpack | .mxunpk | .vtrn | .vtrnq => !f.men
    | .redsum | .redmax | .redmin => !f.mz
    | _ => true

end Sys2Proof

namespace Sys2Proof.Machine

/-- A legal vector slot. -/
def vecLegal (op : VOp) (f : VecF) : Bool :=
  op.useVd.ok f.vd && op.useVs1.ok f.vs1 && (op.useVs2 f.fn).ok f.vs2 && op.useVs3.ok f.vs3 &&
    op.typeOk f.t.toNat && op.type2Ok f.t2.toNat && op.fnOk f.fn && op.maskOk f &&
    (match op with
     | .vadds | .vmuls | .vfmas | .vbcast => f.rs2 = 0
     | .vld | .vst => true
     | _ => f.rs = 0 && f.rs2 = 0) &&
    (op ≠ .vtrnq || (f.vd.toNat % 4 = 0 && f.vs1.toNat % 4 = 0))

end Sys2Proof.Machine

namespace Sys2Proof
open Sys2Proof.Machine

/-- A legal SFU/sync slot (R156-R158). -/
def Sfu.legal : Sfu → Bool
  | .fn op f => (f.men || (f.msk = 0 && !f.mz)) && (op ≠ .lut || !f.prec)
  | _ => true

/-- A legal bundle (R160): no encoding fault. -/
def Bundle256.legal (b : Bundle256) : Bool :=
  b.scalar.legal &&
    (match b.matrix with | some m => m.legal | none => true) &&
    (match b.vector with | some (op, f) => vecLegal op f | none => true) &&
    (match b.sfu with | some s => s.legal | none => true) &&
    (!b.wh || match b.sfu with | some (.sync (.wait _ _ _)) => true | _ => false)

end Sys2Proof

namespace Sys2Proof.Machine

/-! ## Decoding -/

/-- The fields of a scalar word; none for a reserved opcode. -/
def scalarFields (w : BitVec 32) : Option Scalar :=
  let op := (w.extractLsb' 0 6).toNat
  let a : SReg := w.extractLsb' 6 5
  let b : SReg := w.extractLsb' 11 5
  let c : SReg := w.extractLsb' 16 5
  let fn := (w.extractLsb' 21 4).toNat
  let imm : BitVec 16 := w.extractLsb' 16 16
  let imm21 : BitVec 21 := w.extractLsb' 11 21
  if op = 0 then some .nop
  else if op = 1 then (ofCode aluCodes fn).map (fun o => .alu o a b c)
  else if op < 8 then (ofCode aluICodes op).map (fun o => .alui o a b imm)
  else if op < 0xB then (ofCode shiftCodes op).map (fun o => .shift o a b (w.extractLsb' 16 6))
  else if op = 0xB then some (.lui a imm21)
  else if 0x10 ≤ op && op < 0x17 then
    some (.load (BitVec.ofNat 2 ((op - 0x10) / 2)) (op % 2 = 0) a b imm)
  else if 0x18 ≤ op && op < 0x1C then some (.store (BitVec.ofNat 2 (op - 0x18)) a b imm)
  else if op = 0x1C then some (.ldl a b imm)
  else if op = 0x1D then some (.stl a b imm)
  else if 0x20 ≤ op && op < 0x26 then (ofCode branchCodes op).map (fun o => .branch o a b imm)
  else if op = 0x26 then some (.jal a imm21)
  else if op = 0x27 then some (.jalr a b imm)
  else if op = 0x28 then some (.loop a imm)
  else if op = 0x29 then some (.loopi (w.extractLsb' 6 10) imm)
  else if op = 0x2A then some (.brk a (w.getLsbD 11) (w.extractLsb' 12 2))
  else if op = 0x30 then (ofCode amoCodes fn).map (fun o => .amo o a b c)
  else if op = 0x34 then
    (if fn = 0 then some (.rdcyc a) else if fn = 1 then some (.lidx a (w.extractLsb' 11 2))
     else if fn = 2 then some (.rdspace a) else none)
  else if op = 0x38 then (ofCode lcCodes fn).map (fun o => .lc o a b)
  else none

/-- The fields of a matrix word. -/
def matrixFields (w : BitVec 64) : Option Matrix :=
  let op := (w.extractLsb' 0 4).toNat
  let unit : BitVec 2 := w.extractLsb' 4 2
  if op = 1 || op = 2 then
    some (.mma (op = 2)
      { unit := unit, acc := w.getLsbD 6, fmtA := w.extractLsb' 8 4, fmtB := w.extractLsb' 12 4,
        ra := w.extractLsb' 16 5, ras := w.extractLsb' 21 5, rb := w.extractLsb' 26 5,
        rbs := w.extractLsb' 31 5, rk := w.extractLsb' 36 5, rsc := w.extractLsb' 41 5 })
  else if op = 3 then
    some (.zdrain { unit := unit, rm := w.extractLsb' 6 2, dfmt := w.extractLsb' 8 4,
                    sat := w.getLsbD 12, rd := w.extractLsb' 16 5, rds := w.extractLsb' 21 5,
                    rsc := w.extractLsb' 26 5 })
  else if op = 4 then
    some (.zload { unit := unit, sfmt := w.extractLsb' 8 4, rs := w.extractLsb' 16 5,
                   rss := w.extractLsb' 21 5 })
  else if op = 5 then
    some (.mcfg { unit := unit, item := w.extractLsb' 8 4, rv := w.extractLsb' 16 5 })
  else none

/-- The fields of a vector word. -/
def vectorFields (w : BitVec 64) : Option (VOp × VecF) :=
  (ofCode vecCodes (w.extractLsb' 0 8).toNat).map (fun op => (op,
    { unit := w.extractLsb' 8 1, msk := w.extractLsb' 9 3, men := w.getLsbD 12, mz := w.getLsbD 13,
      vd := w.extractLsb' 14 5, vs1 := w.extractLsb' 19 5, vs2 := w.extractLsb' 24 5,
      vs3 := w.extractLsb' 29 5, t := w.extractLsb' 34 4, t2 := w.extractLsb' 38 4,
      rs := w.extractLsb' 42 5, rs2 := w.extractLsb' 47 5, fn := w.extractLsb' 52 12 }))

/-- The fields of a mover word. -/
def moverFields (w : BitVec 48) : Option MovF :=
  if w.extractLsb' 0 4 = 1 then
    some { mover := w.extractLsb' 4 1, rdesc := w.extractLsb' 5 5, dloc := w.getLsbD 10,
           hasp := w.extractLsb' 11 14, cnt := w.getLsbD 25, spec := w.getLsbD 26 }
  else none

/-- The fields of an SFU/sync word. -/
def sfuFields (w : BitVec 32) : Option Sfu :=
  let op := (w.extractLsb' 0 6).toNat
  let rh : SReg := w.extractLsb' 6 5
  let rv : SReg := w.extractLsb' 11 5
  let sc := scopeOf (w.extractLsb' 16 2)
  if op = 0x0B then some (.lutLd (w.extractLsb' 12 5))
  else if op = 0x0C then some .lutCommit
  else if op = 0x20 then some (.sync (.add rh rv sc))
  else if op = 0x21 then some (.sync (.wait rh rv sc))
  else if op = 0x22 then some (.sync (.set rh rv sc))
  else if op = 0x23 then some (.sync (.reset rh sc))
  else if op = 0x28 then some (.sync .fenceC)
  else if op = 0x29 then some (.sync .fenceP)
  else if op = 0x2A then some (.sync .fenceS)
  else (ofCode sfuCodes op).map (fun o => .fn o
    { unit := w.extractLsb' 6 1, vd := w.extractLsb' 7 5, vs := w.extractLsb' 12 5,
      prec := w.getLsbD 17, msk := w.extractLsb' 18 3, men := w.getLsbD 21, mz := w.getLsbD 22 })

/-- An optional slot: empty where its valid bit is clear; none where it is valid and its opcode is
reserved. -/
def slotOf {α : Type} (valid : Bool) (f : Option α) : Option (Option α) :=
  if valid then f.map some else some none

/-- A bundle decoded (R120-R126, R160): none for an encoding fault. The fields are legal and spell the
same 256 bits, so that no reserved or unused bit is set. -/
def decodeBundle (w : BitVec 256) : Option Bundle256 :=
  match scalarFields (w.extractLsb' 0 32),
    slotOf (w.getLsbD 240) (matrixFields (w.extractLsb' 32 64)),
    slotOf (w.getLsbD 241) (vectorFields (w.extractLsb' 96 64)),
    slotOf (w.getLsbD 242) (moverFields (w.extractLsb' 160 48)),
    slotOf (w.getLsbD 243) (sfuFields (w.extractLsb' 208 32)) with
  | some s, some m, some v, some mv, some sf =>
    let b : Bundle256 :=
      { scalar := s, matrix := m, vector := v, mover := mv, sfu := sf, pred := w.extractLsb' 244 3,
        wh := w.getLsbD 247, stop := w.getLsbD 248, sbar := w.getLsbD 249 }
    if b.legal && encodeBundle b = w then some b else none
  | _, _, _, _, _ => none

/-! ## Scalar registers read and written (R81, R127) -/

end Sys2Proof.Machine

namespace Sys2Proof
open Sys2Proof.Machine

def Scalar.reads : Scalar → List SReg
  | .alu _ _ rs1 rs2 => [rs1, rs2]
  | .alui _ _ rs1 _ => [rs1]
  | .shift _ _ rs1 _ => [rs1]
  | .load _ _ _ rs1 _ => [rs1]
  | .store _ rs2 rs1 _ => [rs1, rs2]
  | .ldl _ rs1 _ => [rs1]
  | .stl rs2 rs1 _ => [rs1, rs2]
  | .branch _ rs1 rs2 _ => [rs1, rs2]
  | .jalr _ rs1 _ => [rs1]
  | .loop rc _ => [rc]
  | .brk rs _ _ => [rs]
  | .amo op rd rs1 rs2 => if op = .cas then [rs1, rs2, rd] else [rs1, rs2]
  | .lc _ _ rs1 => [rs1]
  | _ => []

/-- The scalar register a scalar slot writes. -/
def Scalar.rd : Scalar → Option SReg
  | .alu _ rd _ _ => some rd
  | .alui _ rd _ _ => some rd
  | .shift _ rd _ _ => some rd
  | .lui rd _ => some rd
  | .load _ _ rd _ _ => some rd
  | .ldl rd _ _ => some rd
  | .jal rd _ => some rd
  | .jalr rd _ _ => some rd
  | .amo _ rd _ _ => some rd
  | .rdcyc rd => some rd
  | .lidx rd _ => some rd
  | .rdspace rd => some rd
  | .lc _ rd _ => some rd
  | _ => none

/-- Whether a scalar slot accesses memory (R84). -/
def Scalar.isMem : Scalar → Bool
  | .load _ _ _ _ _ => true
  | .store _ _ _ _ => true
  | .ldl _ _ _ => true
  | .stl _ _ _ => true
  | .amo _ _ _ _ => true
  | _ => false

def Matrix.reads : Matrix → List SReg
  | .mma _ f => [f.ra, f.ras, f.rb, f.rbs, f.rk, f.rsc]
  | .zdrain f => [f.rd, f.rds, f.rsc]
  | .zload f => [f.rs, f.rss]
  | .mcfg f => [f.rv]

def SyncOp.reads : SyncOp → List SReg
  | .add rh rv _ => [rh, rv]
  | .wait rh rv _ => [rh, rv]
  | .set rh rv _ => [rh, rv]
  | .reset rh _ => [rh]
  | _ => []

def Sfu.reads : Sfu → List SReg
  | .lutLd vs => [vs]
  | .sync op => op.reads
  | _ => []

end Sys2Proof

namespace Sys2Proof.Machine

/-- The predicate register of a bundle (R123). -/
def predReg (p : BitVec 3) : SReg := BitVec.ofNat 5 (24 + p.toNat)

end Sys2Proof.Machine

namespace Sys2Proof
open Sys2Proof.Machine

/-- The scalar registers a bundle reads in stage I; `on` says that its predicate holds. -/
def Bundle256.reads (b : Bundle256) (on : Bool) : List SReg :=
  b.scalar.reads ++ (if b.pred = 0 then [] else [predReg b.pred]) ++
    (if on then
      (match b.matrix with | some m => m.reads | none => []) ++
      (match b.vector with | some (_, f) => [f.rs, f.rs2] | none => []) ++
      (match b.mover with | some f => [f.rdesc] | none => []) ++
      (match b.sfu with | some s => s.reads | none => [])
     else [])

end Sys2Proof

namespace Sys2Proof.Machine

/-! ## Scalar results (R129-R131, R135, R137) -/

/-- An ALU-group result (R130). -/
def aluResult (op : AluOp) (a b : U64) : U64 :=
  let flag (p : Bool) : U64 := if p then 1 else 0
  match op with
  | .add => a + b
  | .sub => a - b
  | .and => a &&& b
  | .or => a ||| b
  | .xor => a ^^^ b
  | .sll => a <<< (b.extractLsb' 0 6)
  | .srl => a >>> (b.extractLsb' 0 6)
  | .sra => a.sshiftRight' (b.extractLsb' 0 6)
  | .slt => flag (a.slt b)
  | .sltu => flag (a.ult b)
  | .mul => a * b
  | .min => if a.slt b then a else b
  | .max => if a.slt b then b else a
  | .minu => if a.ult b then a else b
  | .maxu => if a.ult b then b else a

/-- An immediate ALU result (R129): `ORI` and `XORI` zero-extend, the others sign-extend. -/
def aluIResult (op : AluIOp) (a : U64) (imm : BitVec 16) : U64 :=
  match op with
  | .addi => aluResult .add a (imm.signExtend 64)
  | .andi => aluResult .and a (imm.signExtend 64)
  | .ori => aluResult .or a (imm.setWidth 64)
  | .xori => aluResult .xor a (imm.setWidth 64)
  | .slti => aluResult .slt a (imm.signExtend 64)
  | .sltiu => aluResult .sltu a (imm.signExtend 64)

/-- An immediate shift (R129). -/
def shiftResult (op : ShiftOp) (a : U64) (sh : BitVec 6) : U64 :=
  match op with
  | .slli => aluResult .sll a (sh.setWidth 64)
  | .srli => aluResult .srl a (sh.setWidth 64)
  | .srai => aluResult .sra a (sh.setWidth 64)

/-- `LUI` (R129): the immediate, sign-extended, shifted left by 16. -/
def luiResult (imm : BitVec 21) : U64 := imm.signExtend 64 <<< 16

/-- A branch condition (R137). -/
def branchTaken (op : BrOp) (a b : U64) : Bool :=
  match op with
  | .beq => a = b
  | .bne => a ≠ b
  | .blt => a.slt b
  | .bge => !a.slt b
  | .bltu => a.ult b
  | .bgeu => !a.ult b

/-! ## Engine operand values (R148, R162, 05_matrix_units.md R168-R170, R180) -/

/-- Fault codes (03_cluster_execution.md R95). -/
def ftNothing : Nat := 1
def ftTranslation : Nat := 2
def ftPermission : Nat := 3
def ftMisaligned : Nat := 4
def ftIllegal : Nat := 5
def ftPoison : Nat := 6
def ftLinkLost : Nat := 7
def ftHostReset : Nat := 8

/-- An extent of an operand: lowest byte, one past the highest, written or read. -/
structure Extent where
  lo : Nat
  hi : Nat
  write : Bool
  deriving DecidableEq, Repr

/-- An engine operation made ready at issue: engine, operation and extents. -/
structure Prep where
  eng : Nat
  op : EngOp
  exts : List Extent
  deriving DecidableEq, Repr

/-- The extent of `n` rows of `len` bytes. -/
def rowsExtent (off str n len : Nat) (write : Bool) : Extent :=
  { lo := off, hi := off + (n - 1) * str + len, write := write }

/-- The first two rules of R148 and the landing-zone rule (08_movers_and_run_ahead.md R272): offsets
without other bits, extents below 4 MiB. -/
def Cluster.placed (x : Cluster) (offs : List Nat) (exts : List Extent) : Bool :=
  offs.all (fun o => decide (o < 2 ^ 22)) &&
    exts.all (fun e => decide (e.hi ≤ 2 ^ 22) && !x.zoneRefuses e.lo e.hi)

/-- The alignment rule of R148. -/
def aligned64 (l : List Nat) : Bool := l.all (fun n => n % 64 = 0)

/-- `RSC` split (R147): A offset, B offset, and whether every other bit is zero. -/
def splitRsc (v : U64) : Nat × (Nat × Bool) :=
  let a := bitsOf v.toNat 0 22
  let b := bitsOf v.toNat 32 22
  (a, (b, v.toNat = a + b * 2 ^ 32))

/-- The extents of an `MMA` or `MMAC` (R147, R148): A rows, B rows, and the two scale arrays of a scaled format. -/
def Cluster.mmaExts (x : Cluster) (complex : Bool) (f : MmaF) : List Extent :=
  let v (r : SReg) : Nat := (x.reg r).toNat
  let w := mxWidth f.fmtA.toNat * (if complex then 2 else 1)
  let (sa, (sb, _)) := splitRsc (x.reg f.rsc)
  [rowsExtent (v f.ra) (v f.ras) 128 (v f.rk * w / 8) false, rowsExtent (v f.rb) (v f.rbs) (v f.rk) (16 * w) false] ++
    (if mxScaled f.fmtA.toNat then
      [{ lo := sa, hi := sa + 128 * (v f.rk / 32), write := false },
       { lo := sb, hi := sb + 128 * (v f.rk / 32), write := false }] else [])

/-- A matrix slot made ready, if its operands pass. -/
def Cluster.matrixPrep (x : Cluster) (m : Matrix) : Prep :=
  let v (r : SReg) : Nat := (x.reg r).toNat
  match m with
  | .mma complex f =>
    let (sa, (sb, _)) := splitRsc (x.reg f.rsc)
    { eng := f.unit.toNat, exts := x.mmaExts complex f
      op := .mma complex f.acc f.fmtA.toNat f.fmtB.toNat (v f.ra) (v f.ras) (v f.rb) (v f.rbs) (v f.rk) sa sb }
  | .zdrain f =>
    { eng := f.unit.toNat
      exts := rowsExtent (v f.rd) (v f.rds) 128
          (drainRowLen f.dfmt.toNat (tblGet MUnit.reset x.munits f.unit.toNat).seqComplex) true ::
        (if drainMx f.dfmt.toNat then [{ lo := v f.rsc, hi := v f.rsc + 512, write := true }] else [])
      op := .zdrain f.dfmt.toNat (if f.rm = 0 then .nearest else .zero) f.sat (v f.rd) (v f.rds) (v f.rsc) }
  | .zload f =>
    { eng := f.unit.toNat, exts := [rowsExtent (v f.rs) (v f.rss) 128 (if f.sfmt = 0 then 256 else 512) false]
      op := .zload f.sfmt.toNat (v f.rs) (v f.rss) }
  | .mcfg f =>
    { eng := f.unit.toNat, exts := [], op := .mcfg f.item.toNat ((x.reg f.rv).extractLsb' 0 32) }

/-- A matrix slot at issue (R148): an `MMA` or `MMAC` also has a length of whole groups (R169) and the kind of tile it
adds to (R180), and a tile of complex numbers drains to no scaled format. -/
def Cluster.prepMatrix (x : Cluster) (m : Matrix) : Except Nat Prep :=
  let v (r : SReg) : Nat := (x.reg r).toNat
  let p := x.matrixPrep m
  let u := tblGet MUnit.reset x.munits p.eng
  match m with
  | .mma complex f =>
    let (sa, (sb, clean)) := splitRsc (x.reg f.rsc)
    let scaled := mxScaled f.fmtA.toNat
    let k := v f.rk
    if !x.placed [v f.ra, v f.rb] p.exts || (scaled && !clean) then .error ftNothing
    else if !aligned64 ([v f.ra, v f.ras, v f.rb, v f.rbs] ++ (if scaled then [sa, sb] else [])) then
      .error ftMisaligned
    else if k = 0 || 65536 < k || k % mxGroup f.fmtA.toNat ≠ 0 then .error ftIllegal
    else if f.acc && u.seqComplex ≠ complex then .error ftIllegal
    else .ok p
  | .zdrain f =>
    let mx := drainMx f.dfmt.toNat
    if !x.placed ([v f.rd] ++ (if mx then [v f.rsc] else [])) p.exts then .error ftNothing
    else if !aligned64 ([v f.rd, v f.rds] ++ (if mx then [v f.rsc] else [])) then .error ftMisaligned
    else if mx && u.seqComplex then .error ftIllegal
    else .ok p
  | .zload f =>
    if !x.placed [v f.rs] p.exts then .error ftNothing
    else if !aligned64 [v f.rs, v f.rss] then .error ftMisaligned
    else .ok p
  | .mcfg _ => .ok p

/-- Whether a vector operation accesses the store. -/
def memOp (op : VOp) : Bool := op = .vld || op = .vst

/-- A vector slot made ready, if its operands pass. -/
def Cluster.vectorPrep (x : Cluster) (op : VOp) (f : VecF) : Prep :=
  { eng := 4 + f.unit.toNat, op := .vec op f (x.reg f.rs) (x.reg f.rs2)
    exts := if memOp op then
      [rowsExtent (x.reg f.rs).toNat (x.reg f.rs2).toNat 16 (vmRowLen f.t.toNat) (op = .vst)] else [] }

/-- A vector slot at issue (R148; 06_vector_units.md R218). -/
def Cluster.prepVector (x : Cluster) (op : VOp) (f : VecF) : Except Nat Prep :=
  let v (r : SReg) : Nat := (x.reg r).toNat
  if memOp op && !x.placed [v f.rs] (x.vectorPrep op f).exts then .error ftNothing
  else if memOp op && !aligned64 [v f.rs, v f.rs2] then .error ftMisaligned
  else .ok (x.vectorPrep op f)

/-- A `LUT.LD` made ready, if its operand passes. -/
def Cluster.lutPrep (x : Cluster) (vs : SReg) : Prep :=
  let o := (x.reg vs).toNat
  { eng := 6, op := .lutLd o, exts := [{ lo := o, hi := o + 4160, write := false }] }

/-- An SFU slot at issue; none for a sync operation (07_special_functions.md R237). -/
def Cluster.prepSfu (x : Cluster) (s : Sfu) : Option (Except Nat Prep) :=
  match s with
  | .fn op f => some (.ok { eng := 6, op := .sfu op f, exts := [] })
  | .lutLd vs =>
    let o := (x.reg vs).toNat
    some (if !x.placed [o] (x.lutPrep vs).exts then .error ftNothing
          else if !aligned64 [o] then .error ftMisaligned
          else .ok (x.lutPrep vs))
  | .lutCommit => some (.ok { eng := 6, op := .lutCommit, exts := [] })
  | .sync _ => none

/-- The claims of an operation made ready (R88). -/
def Prep.claims (p : Prep) (no : Nat) : List Claim :=
  p.exts.map (fun e => mkClaim no p.eng e.lo e.hi e.write)

end Sys2Proof.Machine
end

