-- ==== Sys2Proof/Machine/EngineOps.lean ====
section
/-! DEFINITION. Engine operations: their register dependencies, when they may start, and what they do to
tiles, registers, tables and the cluster store (03_cluster_execution.md R85-R91; 05_matrix_units.md;
06_vector_units.md; 07_special_functions.md). -/

namespace Sys2Proof.Machine

/-! ## Cluster-store access by offset (08_movers_and_run_ahead.md R272) -/

/-- Byte `o` of cluster `c`'s store as its engines read it (08_movers_and_run_ahead.md R273). -/
def Chip.storeByte (k : Chip) (c o : Nat) : Byte :=
  k.ownByte c (storeAddr c ((k.cluster c).redirect o))

/-- Whether a byte of the store, as engines reach it, lies in a poisoned line. -/
def Chip.storePoison (k : Chip) (c o : Nat) : Bool :=
  k.poisoned (lineOf (storeAddr c ((k.cluster c).redirect o)))

/-- Whether a run of bytes touches a poisoned line, as engines reach it. -/
def Chip.runPoison (k : Chip) (c o n : Nat) : Bool :=
  (linesOf o n).any (fun l => k.storePoison c (max o (l * 128)))

/-- Whether a byte is among those of a list of writes. -/
def coveredBy (ws : List (Nat × Bytes)) (a : Nat) : Bool :=
  ws.any (fun w => decide (w.1 ≤ a) && decide (a < w.1 + w.2.length))

/-- The writes of an engine operation, in order; a line they cover wholly loses its poison
(11_coherence.md R357). -/
def Chip.storeWrites (k : Chip) (c : Nat) (ws : List (Nat × Bytes)) : Chip :=
  let x := k.cluster c
  let phys := ws.map (fun w => (storeAddr c (x.redirect w.1), w.2))
  let k1 := phys.foldl (fun k w => (k.poke w.1 w.2).ownWritten c w.1 w.2.length) k
  let ls := (phys.flatMap (fun w => linesOf w.1 w.2.length)).eraseDups
  ls.foldl (fun k l =>
    if (List.range 128).all (fun i => coveredBy phys (l * 128 + i)) then k.setPoison l false else k) k1

/-! ## Register dependencies (R86) -/

/-- `n` registers from `b` on, modulo 32. -/
def regGroup (b : SReg) (n : Nat) : List Nat := (List.range n).map (fun i => (b.toNat + i) % 32)

/-- Registers and masks that an operation reads and writes: reads, writes, masks read, masks written. -/
structure RegUse where
  reads : List Nat
  writes : List Nat
  mreads : List Nat
  mwrites : List Nat
  deriving DecidableEq, Repr

/-- Source registers of an operation whose result is one register (06_vector_units.md R201). -/
def vecReads (op : VOp) (f : VecF) : List Nat :=
  match op with
  | .vbcast => []
  | .vfma | .vfnma => [f.vs1.toNat, f.vs2.toNat, f.vs3.toNat]
  | .vadd | .vsub | .vmul | .vmin | .vmax | .vand | .vor | .vxor | .vfmas => [f.vs1.toNat, f.vs2.toNat]
  | .vsll | .vsrl | .vsra => f.vs1.toNat :: (if f.fn.getLsbD 6 then [] else [f.vs2.toNat])
  | _ => [f.vs1.toNat]

/-- Registers of a vector operation (R86; 06_vector_units.md R201, R209, R210). -/
def vecUse (op : VOp) (f : VecF) : RegUse :=
  let c := vtWidth f.t.toNat
  let c2 := vtWidth f.t2.toNat
  let msk := if f.men then [f.msk.toNat] else []
  match op with
  | .vcmp => { reads := [f.vs1.toNat, f.vs2.toNat], writes := [], mreads := msk, mwrites := [f.vd.toNat] }
  | .mand | .mor | .mxor =>
    { reads := [], writes := [], mreads := [f.vs1.toNat, f.vs2.toNat], mwrites := [f.vd.toNat] }
  | .mnot => { reads := [], writes := [], mreads := [f.vs1.toNat], mwrites := [f.vd.toNat] }
  | .cvt => { reads := regGroup f.vs1 (max 1 (c / c2)), writes := regGroup f.vd (max 1 (c2 / c)),
              mreads := msk, mwrites := [] }
  | .mxpack => { reads := regGroup f.vs1 (max 1 (c / c2)), writes := regGroup f.vd 2, mreads := [],
                 mwrites := [] }
  | .mxunpk => { reads := regGroup f.vs1 2, writes := regGroup f.vd (max 1 (c / c2)), mreads := [],
                 mwrites := [] }
  | .smaxc => { reads := [f.vs1.toNat, f.vs2.toNat], writes := regGroup f.vd 2, mreads := msk,
                mwrites := [] }
  | .welf => { reads := f.vs1.toNat :: regGroup f.vd 3, writes := regGroup f.vd 3, mreads := msk,
               mwrites := [] }
  | .wmerge => { reads := regGroup f.vs1 3 ++ regGroup f.vs2 3, writes := regGroup f.vd 3, mreads := msk,
                 mwrites := [] }
  | .vtrnq => { reads := regGroup f.vs1 4, writes := regGroup f.vd 4, mreads := [], mwrites := [] }
  | .vst => { reads := [f.vs1.toNat], writes := [], mreads := msk, mwrites := [] }
  | .vld => { reads := [], writes := [f.vd.toNat], mreads := msk, mwrites := [] }
  | _ => { reads := vecReads op f, writes := [f.vd.toNat], mreads := msk, mwrites := [] }

/-- The vector unit whose registers an operation uses, and how; none for the others. -/
def EngOp.use : EngOp → Option (Nat × RegUse)
  | .vec op f _ _ => some (f.unit.toNat, vecUse op f)
  | .sfu _ f => some (f.unit.toNat,
      { reads := [f.vs.toNat], writes := [f.vd.toNat], mreads := if f.men then [f.msk.toNat] else [],
        mwrites := [] })
  | _ => none

def meets (a b : List Nat) : Bool := a.any b.contains

/-- Read-after-write, write-after-read or write-after-write between two operations (R86). -/
def RegUse.conflicts (a b : RegUse) : Bool :=
  meets a.writes b.reads || meets a.writes b.writes || meets a.reads b.writes ||
    meets a.mwrites b.mreads || meets a.mwrites b.mwrites || meets a.mreads b.mwrites

/-- Whether `a` precedes `b` in program order: earlier bundle, or an earlier slot of the same one
(R82). The vector slot precedes the SFU slot. -/
def precedes (ea : Nat) (a : EngEnt) (eb : Nat) (b : EngEnt) : Bool :=
  decide (a.no < b.no) || (a.no = b.no && decide (slotRank ea < slotRank eb))

/-- Whether an earlier operation of another engine on the same vector unit holds an operation (R86). -/
def Cluster.regBlocked (x : Cluster) (e : Nat) (o : EngEnt) : Bool :=
  match o.op.use with
  | none => false
  | some (u, use) =>
    [4 + u, 6].any (fun e' => e' ≠ e && (tblGet [] x.queues e').any (fun p =>
      precedes e' p e o && match p.op.use with
        | some (u', use') => u' = u && use'.conflicts use
        | none => false))

/-- Whether the operation at the head of engine `e` may start (R85-R91, 09_hasps.md R293). -/
def Chip.mayStart (k : Chip) (c e : Nat) (o : EngEnt) : Bool :=
  let x := k.cluster c
  !x.gated o.no && !x.claimBlocked o.no e && !k.storeBlocked c o.no e && !x.regBlocked e o &&
    (match o.op with
     | .zdrain _ _ _ _ _ _ => (tblGet MUnit.reset x.munits e).drain.isNone
     | _ => true)

/-! ## Effects -/

def Cluster.updMUnit (x : Cluster) (u : Nat) (f : MUnit → MUnit) : Cluster :=
  { x with munits := tblMod MUnit.reset x.munits u f }

def Cluster.updVUnit (x : Cluster) (u : Nat) (f : VUnit → VUnit) : Cluster :=
  { x with vunits := tblMod VUnit.reset x.vunits u f }

def Cluster.munit (x : Cluster) (u : Nat) : MUnit := tblGet MUnit.reset x.munits u
def Cluster.vunit (x : Cluster) (u : Nat) : VUnit := tblGet VUnit.reset x.vunits u

/-- The value of a configuration item. -/
def cfgVal (x : BitVec 32) : FNum := fpDecode fmtFP32 x.toNat

/-- The arguments of an `MMA` or `MMAC` that starts on a unit (R150, R194). -/
def mmaArgs (u : MUnit) : EngOp → MmaArgs
  | .mma complex acc fa fb oa sa ob sb k ca cb =>
    { complex := complex, acc := acc, fmtA := fa, fmtB := fb, offA := oa, strA := sa, offB := ob,
      strB := sb, k := k, scA := ca, scB := cb, tA := cfgVal u.item0, tB := cfgVal u.item1 }
  | _ => { complex := false, acc := false, fmtA := 0, fmtB := 0, offA := 0, strA := 0, offB := 0,
           strB := 0, k := 0, scA := 0, scB := 0, tA := .nan, tB := .nan }

/-- A unit after an `MMA` or `MMAC` (R175, R179, R181, R195). -/
def MUnit.afterMma (u : MUnit) (rd : Nat → Byte) (g : MmaArgs) : MUnit :=
  let (t, fl) := mmaRun rd g u.tile
  let n := (if g.acc then u.gcount.toNat else 0) + groupsOf g
  { u with
    tile := t
    complex := if g.acc then u.complex else g.complex
    gcount := if n < 2 ^ 17 then BitVec.ofNat 17 n else BitVec.allOnes 17
    limit := u.limit || decide (65536 < n)
    flags := u.flags.or fl }

/-- A unit after a `ZLOAD` (R193). -/
def MUnit.afterZload (u : MUnit) (rd : Nat → Byte) (sfmt off str : Nat) : MUnit :=
  let (t, fl) := zloadRun rd sfmt off str
  { u with tile := t, complex := false, gcount := 0, flags := u.flags.or fl }

/-- A unit after an `MCFG` (R150). -/
def MUnit.afterMcfg (u : MUnit) (item : Nat) (v : BitVec 32) : MUnit :=
  match item with
  | 0 => { u with item0 := v }
  | 1 => { u with item1 := v }
  | _ => { u with item2 := v }

/-- Whether an operation consumes a poisoned line (R534; 06_vector_units.md R202). -/
def Chip.consumesPoison (k : Chip) (c : Nat) (op : EngOp) : Bool :=
  match op with
  | .mma complex _ fa fb oa sa ob sb n ca cb =>
    let w (f : Nat) : Nat := mxWidth f * (if complex then 2 else 1)
    (List.range 128).any (fun i => k.runPoison c (oa + i * sa) (n * w fa / 8)) ||
      (List.range n).any (fun i => k.runPoison c (ob + i * sb) (16 * w fb)) ||
      (mxScaled fa && (k.runPoison c ca (128 * (n / 32)) || k.runPoison c cb (128 * (n / 32))))
  | .zload sfmt off str =>
    (List.range 128).any (fun i => k.runPoison c (off + i * str) (if sfmt = 0 then 256 else 512))
  | .vec .vld f off str =>
    let t := f.t.toNat
    let v := (k.cluster c).vunit f.unit.toNat
    (List.range 16).any (fun r => (List.range (vtCount t)).any (fun e =>
      vActive v.m f (vtWidth t) r e &&
        let w := vmWidth t
        k.runPoison c (off.toNat + r * str.toNat + e * w / 8) ((e * w + w - 1) / 8 - e * w / 8 + 1)))
  | .lutLd off => k.runPoison c off 4160
  | _ => false

/-- The bytes that a drain's element rows and scale array share (R191). -/
def drainShared (d : DrainBuf) : List Nat :=
  if drainMx d.dfmt then
    (span d.sc 512).filter (fun a => (List.range 128).any (fun i =>
      decide (d.off + i * d.str ≤ a) && decide (a < d.off + i * d.str + drainRowLen d.dfmt d.complex)))
  else []

/-- A captured drain is written (R187-R191): the bytes that rows and scales share become free bytes. -/
def Chip.writeDrain (k : Chip) (c u : Nat) (d : DrainBuf) : Chip :=
  let g : DrainArgs := { dfmt := d.dfmt, rm := d.rm, sat := d.sat, off := d.off, str := d.str,
                         sc := d.sc, mult := cfgVal d.mult }
  let k1 := k.storeWrites c (drainWrites d.tile d.complex g)
  let k2 := (drainShared d).foldl (fun k a =>
    let (b, k1) := k.freshBytes 1
    k1.storeWrites c [(a, b)]) k1
  k2.updCluster c (fun x => (x.updMUnit u (fun m => { m with
    drain := none, flags := m.flags.or (drainFlags d.tile d.complex g) })).release d.no u)

/-- The memory bytes of a `VST`, row by row (06_vector_units.md R219). -/
def Chip.vstWrites (k : Chip) (c : Nat) (f : VecF) (off str : Nat) : List (Nat × Bytes) :=
  let v := (k.cluster c).vunit f.unit.toNat
  (List.range 16).flatMap (fun r =>
    (vstRow (fun a => k.storeByte c a) v.v v.m f (off + r * str) r).map (fun p => (p.1, [p.2])))

/-- A `VST`, one row after another, so that a later row finds what an earlier one wrote. -/
def Chip.runVst (k : Chip) (c : Nat) (f : VecF) (off str : Nat) : Chip :=
  let v := (k.cluster c).vunit f.unit.toNat
  let ws := k.vstWrites c f off str
  let k1 := (List.range 16).foldl (fun k r =>
    (vstRow (fun a => k.storeByte c a) v.v v.m f (off + r * str) r).foldl (fun k p =>
      (k.poke (storeAddr c ((k.cluster c).redirect p.1)) [p.2]).ownWritten c
        (storeAddr c ((k.cluster c).redirect p.1)) 1) k) k
  let phys := ws.map (fun w => (storeAddr c ((k.cluster c).redirect w.1), w.2))
  let ls := (phys.map (fun w => lineOf w.1)).eraseDups
  ls.foldl (fun k l =>
    if (List.range 128).all (fun i => coveredBy phys (l * 128 + i)) then k.setPoison l false else k) k1

/-- A vector unit after an operation on its registers. -/
def VUnit.after (u : VUnit) (o : VOut) : VUnit :=
  { v := applyRegs u.v o, m := applyMasks u.m o, flags := u.flags.or o.flags }

/-- The bank that serves lookups (07_special_functions.md R235). -/
def Lut.activeBank (l : Lut) : LutBank := if l.active then l.bank1 else l.bank0

/-- The tables after a `LUT.LD` (R237, R242): the image goes to the inactive bank. -/
def Lut.load (l : Lut) (b : LutBank) : Lut :=
  let l1 := if l.active then { l with bank0 := b } else { l with bank1 := b }
  { l1 with loaded := b.valid, badimg := l.badimg || !b.valid }

/-- The tables after a `LUT.COMMIT` (R241). -/
def Lut.commit (l : Lut) : Lut :=
  if l.loaded then { l with active := !l.active, loaded := false, gen := l.gen + 1 } else l

/-- The effect of an operation that runs to its end. A `ZDRAIN` is captured and stays in the drain buffer
(R87, R186). -/
def Chip.runOp (k : Chip) (c e : Nat) (o : EngEnt) : Chip :=
  let rd (a : Nat) : Byte := k.storeByte c a
  let x := k.cluster c
  match o.op with
  | .mma _ _ _ _ _ _ _ _ _ _ _ =>
    k.updCluster c (fun x => x.updMUnit e (fun u => u.afterMma rd (mmaArgs u o.op)))
  | .zdrain dfmt rm sat off str sc =>
    k.updCluster c (fun x => x.updMUnit e (fun u => { u with
      drain := some ({ no := o.no, dfmt := dfmt, rm := rm, sat := sat, off := off, str := str, sc := sc,
                       tile := u.tile, complex := u.complex, mult := u.item2 } : DrainBuf) }))
  | .zload sfmt off str => k.updCluster c (fun x => x.updMUnit e (·.afterZload rd sfmt off str))
  | .mcfg item v => k.updCluster c (fun x => x.updMUnit e (·.afterMcfg item v))
  | .vec .vld f off str =>
    k.updCluster c (fun x => x.updVUnit f.unit.toNat (fun u =>
      u.after (vldRun rd u.v u.m f off.toNat str.toNat)))
  | .vec .vst f off str => k.runVst c f off.toNat str.toNat
  | .vec op f rs _ =>
    k.updCluster c (fun x => x.updVUnit f.unit.toNat (fun u => u.after (vecRun u.v u.m op f rs)))
  | .sfu op f =>
    k.updCluster c (fun y => y.updVUnit f.unit.toNat (fun u =>
      u.after (sfuRun u.v u.m op f x.lut.activeBank)))
  | .lutLd off => k.updCluster c (fun x => { x with lut := x.lut.load (lutImage rd off) })
  | .lutCommit => k.updCluster c (fun x => { x with lut := x.lut.commit })

/-- An uncorrectable error contained at a cluster (19_reset_and_ras.md R535): recorded, and to be
reported to the dispatcher. -/
def Chip.clusterError (k : Chip) (c eng : Nat) (cls : BitVec 16) : Chip :=
  (k.updCluster c (fun x => { x with errored := true })).report 1 (clusterErr c eng cls 2) 1

/-- `AGENT` of an error record for an engine (19_reset_and_ras.md R536): 1-4 the matrix units, 5 and 6 the
vector units, 7 the SFU, 8 and 9 the movers. -/
def engAgent (e : Nat) : Nat := e + 1

/-- The operation at the head of engine `e` runs to its end, if it may start (R85). A poisoned operand
leaves it where it is, and the error is contained at the cluster. Its claims are released, but for those
of a captured drain. -/
def Chip.endOp (k : Chip) (c e : Nat) : Chip :=
  match tblGet [] (k.cluster c).queues e with
  | [] => k
  | o :: _ =>
    if (k.cluster c).errored || !k.mayStart c e o then k
    else if k.consumesPoison c o.op then k.clusterError c (engAgent e) 3
    else
      (k.runOp c e o).updCluster c (fun x =>
        let x1 := { x with queues := tblMod [] x.queues e (fun q => q.drop 1) }
        match o.op with
        | .zdrain _ _ _ _ _ _ => x1
        | _ => x1.release o.no e)

/-- The captured drain of unit `u` is written to its end. -/
def Chip.endDrain (k : Chip) (c u : Nat) : Chip :=
  match ((k.cluster c).munit u).drain with
  | some d => if (k.cluster c).errored then k else k.writeDrain c u d
  | none => k

/-- ENGINE_OPERATION_END for engine `e`: 0-8 the head of an engine's queue, 9-12 the captured drain of
matrix units 0-3. Movers end their commands under R263. -/
def Chip.endEngine (k : Chip) (c e : Nat) : Chip :=
  if e < 7 then k.endOp c e else if 9 ≤ e && e < 13 then k.endDrain c (e - 9) else k

end Sys2Proof.Machine
end

