-- ==== Sys2Proof/Machine/Mover.lean ====
section
/-! DEFINITION. The commands of the movers and landing zones (08_movers_and_run_ahead.md); the front end
is in FrontEnd.lean. -/

namespace Sys2Proof.Machine

/-- Commands a mover keeps in flight (R261). -/
def moverInFlight : Nat := 64

/-- A mover starts the command at the head of its queue (R85, R89, R258, R261). -/
def execMoverCommandStart (c m : Nat) (s : State) : Host.Outcome State Fault Refusal :=
  .next (s.onChip (fun k =>
    let cmds := ((k.cluster c).mover m).cmds
    match cmds.find? (fun d => d.phase = .queued) with
    | some d =>
      if moverInFlight ≤ (cmds.filter (fun d => d.phase = .data && !d.speculative)).length then k
      else k.startCmd c m d
    | none => k))

/-- A data request of a command is answered (R261, R262, R264). A request of a discarded command ends
without a trace (R280, R281). -/
def Chip.dataResponse (k : Chip) (c m id piece : Nat) : Chip :=
  match (k.cluster c).cmd m id with
  | none => k
  | some d =>
    match d.pieces.find? (fun p => p.id = piece && p.open') with
    | none => k
    | some p =>
      match d.phase with
      | .drain => (k.updCmd c m id (·.updPiece piece Piece.drop)).zoneReady c m id
      | .data => if k.pieceHeld c d p then k else k.pieceRespond c m d p
      | _ => k

/-- A data request of a mover command is answered (R262). -/
def execMoverDataResponse (c m id piece : Nat) (s : State) : Host.Outcome State Fault Refusal :=
  .next (s.onChip (fun k => k.dataResponse c m id piece))

/-- A mover command completes (R263). -/
def execMoverCommandComplete (c m id : Nat) (s : State) : Host.Outcome State Fault Refusal :=
  .next (s.onChip (fun k =>
    match (k.cluster c).cmd m id with
    | some d => k.tryComplete c m d
    | none => k))

/-! ## Landing-zone registers (R270, R271) -/

/-- `CLU_LANDZ` as it reads. -/
def Zone.word (z : Zone) : U64 :=
  let st : BitVec 2 := match z.st with
    | .idle => 0 | .filling => 1 | .ready => 2 | .draining => 3
  (z.hsize ++ (0 : BitVec 10) ++ z.base ++ (0 : BitVec 8) ++ st ++ boolBit z.arch ++
    boolBit z.en : BitVec 41).setWidth 64

/-- Whether zone `z` of a cluster may be enabled with these settings (R271). -/
def Cluster.zoneOk (x : Cluster) (z : Nat) (n : Zone) : Bool :=
  1 ≤ n.hsize.toNat && n.hsize.toNat ≤ 256 && n.window + 2 * n.half ≤ 2 ^ 22 &&
    (List.range 8).all (fun i =>
      let o := x.zone i
      i = z || !o.en || decide (n.window + 2 * n.half ≤ o.window) ||
        decide (o.window + 2 * o.half ≤ n.window))

/-- A write to `CLU_LANDZ` takes effect (R271): the zone's pre-issued command is discarded, and `EN` is
set only where the settings allow it. -/
def Cluster.writeZone (x : Cluster) (z : Nat) (w : RegW) : Cluster :=
  let x1 := x.discardIf (fun d => d.zone = some z)
  let v := regMerge (x.zone z).word w
  let n : Zone := { en := v.getLsbD 0, arch := false, st := .idle, base := v.extractLsb' 12 10,
                    hsize := v.extractLsb' 32 9 }
  x1.updZone z (fun _ => { n with en := n.en && x.zoneOk z n })

/-- A write to `CLU_LANDZ` by an agent (R271): held for the cluster's own sequencer, accepted from others
only while the cluster does not run. -/
def Chip.landzWrite (k : Chip) (ag : Agent) (c z : Nat) (w : RegW) : Chip :=
  let x := k.cluster c
  if ag = .seq c && x.st = .running then
    if x.zoneHeld.isSome then k
    else k.updCluster c (fun x => { x with zoneHeld := some (x.nextNo, (z, w)) })
  else if x.st = .idle || x.st = .gated || x.st = .reset then k.updCluster c (·.writeZone z w)
  else k

/-- A write to `CLU_LANDZ` (R271). -/
def execCluLandzWrite (ag : Agent) (c z : Nat) (w : RegW) (s : State) :
    Host.Outcome State Fault Refusal :=
  .next (s.onChip (fun k => if k.clusterPresent c then k.landzWrite ag c z w else k))

/-- Every engine operation and mover command of bundles before `no` has ended. -/
def Cluster.allEnded (x : Cluster) (no : Nat) : Bool :=
  x.enginesEnded no &&
    [0, 1].all (fun m => (x.mover m).cmds.all (fun d =>
      no ≤ d.no || d.speculative || d.phase = .drain))

/-- The held write of the cluster's own sequencer takes effect (R271). -/
def Cluster.applyHeld (x : Cluster) : Cluster :=
  match x.zoneHeld with
  | some (no, (z, w)) => if x.allEnded no then { x with zoneHeld := none }.writeZone z w else x
  | none => x

/-- A held `CLU_LANDZ` write takes effect (R271). -/
def execLandzWriteApply (c : Nat) (s : State) : Host.Outcome State Fault Refusal :=
  .next (s.onChip (fun k => k.updCluster c (·.applyHeld)))

end Sys2Proof.Machine
end

