-- ==== Sys2Proof/Machine/LaunchOps.lean ====
section
/-! DEFINITION. Work queues, launches, stops and cluster resets (03_cluster_execution.md R97-R119). -/

namespace Sys2Proof.Machine

/-! ## Queue registers (R100-R102) -/

/-- Records of a ring. -/
def WQueue.size (w : WQueue) : Nat := 2 ^ w.log2.toNat

/-- Physical address of record `i` (R101). -/
def WQueue.slotAddr (w : WQueue) (i : BitVec 16) : Nat := (w.base.toNat + i.toNat % w.size) * 128

/-- `DSP_QCFG` as it reads. -/
def WQueue.cfgWord (w : WQueue) : U64 :=
  (boolBit w.ringErr ++ boolBit w.overrun ++ boolBit w.stale ++ w.log2 ++ boolBit w.enable :
    BitVec 8).setWidth 64

/-- `DSP_QHEAD` as it reads. -/
def WQueue.headWord (w : WQueue) : U64 := (w.retired ++ w.tail ++ w.head : BitVec 48).setWidth 64

/-- `DSP_QCFG` after a write (R100, R101); `live` says that a launch of the queue is running. A record that waits
to start when the queue is enabled again keeps its place before the records of the new ring (DEDUCED,
notes/assumptions/39.md). -/
def WQueue.writeCfg (w : WQueue) (live : Bool) (r : RegW) : WQueue :=
  let v := regMerge w.cfgWord r
  let w1 := { w with
    stale := w.stale && !regSets r 5
    overrun := w.overrun && !regSets r 6
    ringErr := w.ringErr && !regSets r 7 }
  let l : BitVec 4 := v.extractLsb' 1 4
  if w.enable then
    if v.getLsbD 0 || w.head ≠ w.tail || live then w1 else { w1 with enable := false }
  else if v.getLsbD 0 && 4 ≤ l.toNat && l.toNat ≤ 12 then
    { w1 with log2 := l, enable := true, head := 0, tail := 0, retired := 0, stopped := false,
              nextLate := w.next.isSome, aborts := [], done := [] }
  else { w1 with log2 := l }

/-- `DSP_QBASE` after a write (R101). -/
def WQueue.writeBase (w : WQueue) (r : RegW) : WQueue :=
  if w.enable then w
  else { w with base := (regMerge ((w.base.setWidth 64) <<< 7) r).extractLsb' 7 49 }

/-- A doorbell of value `t` (R102, R103). -/
def WQueue.doorbell (w : WQueue) (t : BitVec 16) : WQueue :=
  if !w.enable then w
  else
    let dn := (t - w.retired).toNat
    let old := (w.tail - w.retired).toNat
    if old ≤ dn && dn ≤ w.size then { w with tail := t, stopped := w.stopped && w.ringErr }
    else { w with overrun := true }

/-! ## Records (R104, R105) -/

/-- A launch record of 128 bytes (R104). -/
def decodeRecord (addr x : Nat) : LaunchRec :=
  { addr := addr
    seq := BitVec.ofNat 16 (bitsOf x 0 16)
    priority := BitVec.ofNat 3 (bitsOf x 16 3)
    abortable := bitOf x 19
    maskMode := bitOf x 20
    space := BitVec.ofNat 12 (bitsOf x 32 12)
    queue := BitVec.ofNat 10 (bitsOf x 48 10)
    entry := BitVec.ofNat 64 (bitsOf x 64 64)
    arg := BitVec.ofNat 64 (bitsOf x 128 64)
    clusters := BitVec.ofNat 24 (bitsOf x 192 24)
    compHasp := BitVec.ofNat 14 (bitsOf x 256 14)
    compInc := BitVec.ofNat 48 (bitsOf x 272 48)
    reserved := bitsOf x 21 11 ≠ 0 || bitsOf x 44 4 ≠ 0 || bitsOf x 58 6 ≠ 0 || bitsOf x 216 40 ≠ 0 ||
      bitsOf x 270 2 ≠ 0 || bitsOf x 320 448 ≠ 0 }

/-- The clusters of quadrant `q`, in increasing order. -/
def quadClusters (q : Nat) : List Nat := span (24 * q) 24

/-- The clusters of a quadrant that are not `OFF`. -/
def Chip.aliveClusters (k : Chip) (q : Nat) : List Nat :=
  (quadClusters q).filter (fun c => (k.cluster c).st ≠ .off)

/-- A quadrant that is present and usable. -/
def Chip.usable (k : Chip) (q : Nat) : Bool := k.quadPresent q && !(k.quad q).unusable

/-- The clusters a mask names. -/
def LaunchRec.named (r : LaunchRec) (q : Nat) : List Nat :=
  (quadClusters q).filter (fun c => r.clusters.getLsbD (c - 24 * q))

/-- Clusters a record needs. -/
def LaunchRec.need (r : LaunchRec) (q : Nat) : Nat :=
  if r.maskMode then (r.named q).length else r.clusters.toNat

/-- Whether a record fails the checks of R105. -/
def Chip.recordBad (k : Chip) (q : Nat) (r : LaunchRec) : Bool :=
  r.reserved || r.entry.toNat % 32 ≠ 0 || r.clusters = 0 ||
    (if r.maskMode then !((r.named q).all (fun c => (k.cluster c).st ≠ .off))
     else decide ((k.aliveClusters q).length < r.clusters.toNat)) ||
    !k.usable (haspQuad r.compHasp) || !k.usable (r.queue.toNat / 256)

/-- A launch of quadrant `q` with its outcome already fixed and no clusters (R105, R115). -/
def Chip.emptyLaunch (k : Chip) (q n : Nat) (r : LaunchRec) (status : Nat) : Chip :=
  k.updQuad q (fun d => { d with
    launches := d.launches ++ [({
      id := d.nextLaunch, queue := n, rec' := r, all := [], running := [],
      outcome := some (status, (0xFF, (0, 0))), startAt := 0, stopAt := 0, late := (d.queue n).nextLate
      noAdd := status = 5 && !k.usable (haspQuad r.compHasp) } : Launch)]
    nextLaunch := d.nextLaunch + 1 })

/-- A record read of a queue that fails (R103). -/
def Chip.ringError (k : Chip) (q n : Nat) : Chip :=
  k.updQuad q (·.updQueue n (fun w => { w with ringErr := true, stopped := true }))

/-- The record at `HEAD` read (R103-R105, R115). A `SEQ` that differs changes nothing: the record is read
again. While a record waits to start the dispatcher reads no further one of its queue, so `HEAD` stands (DESIGN
CHOICE, notes/assumptions/115.md). -/
def Chip.readRecord (k : Chip) (q n : Nat) : Chip :=
  let d := k.quad q
  let w := d.queue n
  if !d.enable || d.orphaned || !w.enable || w.stopped || w.head = w.tail || w.next.isSome then k
  else
    let pa := w.slotAddr w.head
    let la := paLocal pa
    if !k.isOwn pa || !cacheable la || k.reachMem (some q) la ≠ stOk then k.ringError q n
    else
      let (k1, (bs, poison)) := k.cohRead la 128
      if poison then k1.ringError q n
      else
        let r := decodeRecord la (ofBytes bs)
        if r.seq ≠ w.head then k1
        else
          let k2 := k1.updQuad q (·.updQueue n (fun w => { w with
            head := w.head + 1, nextLate := false, aborts := w.aborts.filter (· ≠ r.seq) }))
          if k2.recordBad q r then k2.emptyLaunch q n r 5
          else if w.aborts.contains r.seq && r.abortable then k2.emptyLaunch q n r 2
          else k2.updQuad q (·.updQueue n (fun w => { w with next := some r }))

/-! ## Dispatch (R106-R108, R119) -/

/-- A cluster that can be given to a launch. -/
def Chip.freeCluster (k : Chip) (c : Nat) : Bool :=
  (k.cluster c).st = .idle || (k.cluster c).st = .gated

/-- Queues of a quadrant with a record that waits to start, after `rr` in round-robin order. -/
def Quad.ready (d : Quad) : List Nat :=
  ((span (d.rr + 1) 256).map (· % 256)).filter (fun n => (d.queue n).next.isSome)

/-- The first queue of a list whose record has the highest priority (R108). -/
def Quad.best (d : Quad) (l : List Nat) : Option Nat :=
  let pr (n : Nat) : Nat := match (d.queue n).next with
    | some r => r.priority.toNat
    | none => 0
  l.foldl (fun b n => match b with
    | none => some n
    | some m => if pr m < pr n then some n else some m) none

/-- A list turned so that it starts at a free place: the spec leaves open which free clusters a count
takes (R108; notes/assumptions/27.md). -/
def Chip.turned (k : Chip) (l : List Nat) : List Nat × Chip :=
  let (v, k1) := k.fresh
  let i := v.toNat % max l.length 1
  (l.drop i ++ l.take i, k1)

/-- The clusters that a record takes from those given, at most `n` of them. -/
def Chip.pick (k : Chip) (q : Nat) (r : LaunchRec) (avail : List Nat) (n : Nat) : List Nat × Chip :=
  if r.maskMode then (((r.named q).filter avail.contains).take n, k)
  else
    let (l, k1) := k.turned avail
    (l.take n, k1)

/-- A cluster at the start of a launch (R106). Vector registers, tiles, tables, movers and the line
cache keep what they hold. -/
def Cluster.begin (x : Cluster) (q n : Nat) (r : LaunchRec) (c rank count : Nat) : Cluster :=
  let x1 : Cluster := { x with
    st := .running, queue := BitVec.ofNat 10 (q * 256 + n), seq := r.seq, regs := [], pc := r.entry,
    space := r.space.toNat, loops := [], stopIssued := false, faulted := none, errored := false,
    loads := [], stores := [], fence := none, lcHold := none, fetchRead := none, descRead := none,
    lockRead := none, queues := [], claims := [], waits := [], haspBuf := [], zoneHeld := none,
    prepared := [], feAt := none, whEnded := false }
  (((x1.setReg 1 r.arg).setReg 2 (BitVec.ofNat 64 rank)).setReg 3 (BitVec.ofNat 64 count)).setReg 4
    (BitVec.ofNat 64 c)

/-- A launch starts on a set of clusters (R106, R107). -/
def Chip.startLaunch (k : Chip) (q n : Nat) (r : LaunchRec) (cs : List Nat) : Chip :=
  let sorted := (quadClusters q).filter cs.contains
  let k1 := sorted.zipIdx.foldl (fun k p =>
    k.updCluster p.1 (fun x => x.begin q n r p.1 p.2 sorted.length)) k
  k1.updQuad q (fun d => { (d.updQueue n (fun w => { w with next := none, nextLate := false })) with
    launches := d.launches ++ [({
      id := d.nextLaunch, queue := n, rec' := r, all := sorted, running := sorted, outcome := none
      startAt := d.aclk, stopAt := d.aclk, noAdd := false, late := (d.queue n).nextLate } : Launch)]
    nextLaunch := d.nextLaunch + 1
    charged := d.charged ++ sorted.map (fun c => (c, r.queue.toNat)) })

/-- The gathering record chosen, if none is being gathered (R108). -/
def Quad.choose (d : Quad) : Quad :=
  match d.gathering with
  | some _ => d
  | none => { d with gathering := d.best d.ready, gathered := [] }

/-- A record other than the gathering one starts on clusters that one cannot use (R108), whatever its priority, and
its queue is then the last served in the round robin (DESIGN CHOICE, notes/assumptions/116.md). -/
def Chip.startOther (k : Chip) (q g : Nat) (gr : LaunchRec) : Chip :=
  let d := k.quad q
  let avail := (quadClusters q).filter (fun c =>
    k.freeCluster c && gr.maskMode && !(gr.named q).contains c)
  let fits (n : Nat) : Bool := match (d.queue n).next with
    | some r => n ≠ g && (if r.maskMode then (r.named q).all avail.contains
                          else decide (r.clusters.toNat ≤ avail.length))
    | none => false
  match d.best (d.ready.filter fits) with
  | none => k
  | some n => match (d.queue n).next with
    | none => k
    | some r =>
      let (cs, k1) := k.pick q r avail (r.need q)
      (k1.startLaunch q n r cs).updQuad q (fun d => { d with rr := n })

/-- One decision of the dispatcher (R107, R108): the gathering record takes the clusters it can use and
starts once it has all it needs; otherwise another record may start on the rest. -/
def Chip.dispatch (k : Chip) (q : Nat) : Chip :=
  let d0 := k.quad q
  if !d0.enable || d0.orphaned then k
  else
    let k1 := k.updQuad q Quad.choose
    let d := k1.quad q
    match d.gathering with
    | none => k1
    | some n => match (d.queue n).next with
      | none => k1.updQuad q (fun d => { d with gathering := none, gathered := [] })
      | some r =>
        let kept := d.gathered.filter k1.freeCluster
        let avail := (quadClusters q).filter (fun c => k1.freeCluster c && !kept.contains c)
        let (more, k2) := k1.pick q r avail (r.need q - kept.length)
        let got := kept ++ more
        if r.need q ≤ got.length then
          (k2.startLaunch q n r got).updQuad q (fun d =>
            { d with gathering := none, gathered := [], rr := n })
        else (k2.updQuad q (fun d => { d with gathered := got })).startOther q n r

/-! ## Stopping (R117) -/

/-- A table of `n` free values, each of the given width. -/
def freeTable (w free n : Nat) : SMap (BitVec w) :=
  (List.range n).filterMap (fun i =>
    let v : BitVec w := (Config.freeBits (free + i)).setWidth w
    if v = 0 then none else some (i, v))

/-- Bytes `lo` to `hi - 1` of a cluster's own store, as its engines reach it, become free bytes. -/
def Chip.spoilStore (k : Chip) (c lo hi : Nat) : Chip :=
  (span lo (hi - lo)).foldl (fun k o =>
    let (b, k1) := k.freshBytes 1
    k1.poke (storeAddr c ((k.cluster c).redirect o)) b) k

/-- Flags `f` that may or may not include those, `ran`, of an operation cut short: each one that it alone would set is
free. -/
def MFlags.maybe (f ran : MFlags) (v : U64) : MFlags :=
  f.or { ovf := ran.ovf && v.getLsbD 0, invalid := ran.invalid && v.getLsbD 1, nanin := ran.nanin && v.getLsbD 2
         dovf := ran.dovf && v.getLsbD 3, bump := ran.bump && v.getLsbD 4 }

def VFlags.maybe (f ran : VFlags) (v : U64) : VFlags :=
  f.or { invalid := ran.invalid && v.getLsbD 0, ovf := ran.ovf && v.getLsbD 1, nanin := ran.nanin && v.getLsbD 2
         irange := ran.irange && v.getLsbD 3, bump := ran.bump && v.getLsbD 4 }

/-- A matrix operation cancelled on unit `u` (05_matrix_units.md R196): tile and `GCOUNT` are free, the
mode is the sequencer's copy. `ran` is the unit as the whole operation would leave it. -/
def Chip.cancelMatrix (k : Chip) (c u : Nat) (ran : MUnit) : Chip :=
  let (v, k1) := k.fresh
  let t := freeTable 40 k1.free 32768
  { k1 with free := k1.free + 32768 }.updCluster c (fun x => x.updMUnit u (fun m => { m with
    tile := t, complex := m.seqComplex, gcount := v.extractLsb' 8 17
    limit := m.limit || (ran.limit && v.getLsbD 32), flags := m.flags.maybe ran.flags v }))

/-- The rows of a vector unit's table that registers `l` occupy become free values. -/
def Chip.freeRows (k : Chip) (c u bytes : Nat) (l : List Nat) (put : VUnit → Nat → Nat → VUnit) : Chip :=
  (l.flatMap (fun r => span (16 * r) 16)).foldl (fun k key =>
    let (bs, k') := k.freshBytes bytes
    k'.updCluster c (fun x => x.updVUnit u (fun m => put m key (ofBytes bs)))) k

/-- A vector or SFU operation cancelled (06_vector_units.md R224): its destination registers and masks
are free. `ran` is the unit as the whole operation would leave it. -/
def Chip.cancelVector (k : Chip) (c u : Nat) (use : RegUse) (ran : VUnit) : Chip :=
  let (v, k1) := k.fresh
  let k2 := k1.updCluster c (fun x => x.updVUnit u (fun m => { m with flags := m.flags.maybe ran.flags v }))
  (k2.freeRows c u 256 use.writes (fun m r v => { m with v := tblPut 0 m.v r (BitVec.ofNat 2048 v) })).freeRows
    c u 32 use.mwrites (fun m r v => { m with m := tblPut 0 m.m r (BitVec.ofNat 256 v) })

/-- The captured drain of unit `u` cancelled. -/
def Chip.cancelDrain (k : Chip) (c u : Nat) : Chip :=
  match ((k.cluster c).munit u).drain with
  | some d => k.cancelMatrix c u (((k.writeDrain c u d).cluster c).munit u)
  | none => k

/-- A `LUT.LD` that has begun leaves the inactive bank not valid and not loaded (R243). -/
def Lut.cancelLoad (l : Lut) : Lut :=
  let l1 := if l.active then { l with bank0 := { l.bank0 with valid := false } }
    else { l with bank1 := { l.bank1 with valid := false } }
  { l1 with loaded := false }

/-- A queued operation of engine `e` cancelled; `began` says that it has started. -/
def Chip.cancelOp (k : Chip) (c e : Nat) (o : EngEnt) (began : Bool) : Chip :=
  match o.op with
  | .lutLd _ => if began then k.updCluster c (fun x => { x with lut := x.lut.cancelLoad }) else k
  | .lutCommit => k
  | op =>
    let after := (k.runOp c e o).cluster c
    match op.use with
    | some (u, use) => k.cancelVector c u use (after.vunit u)
    | none =>
      let m := after.munit e
      k.cancelMatrix c e (match op, m.drain with
        | .zdrain .., some d => ((k.writeDrain c e d).cluster c).munit e
        | _, _ => m)

/-- Every matrix, vector and SFU operation not yet ended is cancelled (R90, R117). -/
def Chip.cancelEngines (k : Chip) (c : Nat) : Chip :=
  let x := k.cluster c
  let began (e : Nat) (p : EngEnt × Nat) : Bool := p.2 = 0 && k.mayStart c e p.1
  let k0 := (List.range 4).foldl (fun k u => k.cancelDrain c u) k
  let k1 := (List.range 7).foldl (fun k e =>
    (tblGet [] x.queues e).zipIdx.foldl (fun k p => k.cancelOp c e p.1 (began e p)) k) k0
  let k2 := (x.claims.filter (fun a => a.write && a.eng < 7)).foldl (fun k a => k.spoilStore c a.lo a.hi) k1
  k2.updCluster c (fun x => { x with
    queues := []
    claims := x.claims.filter (fun a => 7 ≤ a.eng)
    munits := (List.range 4).foldl (fun m u =>
      tblMod MUnit.reset m u (fun y => { y with drain := none })) x.munits })

/-- A mover command that has not begun completes with `ABORTED` (R117). -/
def MovCmd.abort (d : MovCmd) : MovCmd :=
  if d.phase = .queued then { d with phase := .done, status := stAborted, failSeg := none } else d

/-- A cluster is stopped (R117, 09_hasps.md R296). -/
def Chip.stopCluster (k : Chip) (c : Nat) : Chip :=
  if (k.cluster c).st ≠ .running then k
  else
    let k1 := (k.cancelEngines c).updCluster c (fun x =>
      { x.discardRunAhead with waits := [], fetchRead := none, descRead := none, lockRead := none })
    (k1.updCluster c (fun x =>
      let x1 := [0, 1].foldl (fun x m => x.updMover m (fun v =>
        { v with cmds := v.cmds.map MovCmd.abort })) x
      { x1.endStream with st := .stopping, fence := none })).drainAll c

/-- The launch a cluster belongs to. -/
def Quad.launchOf (d : Quad) (c : Nat) : Option Launch := d.launches.find? (fun l => l.running.contains c)

def Quad.updLaunch (d : Quad) (id : Nat) (f : Launch → Launch) : Quad :=
  { d with launches := d.launches.map (fun l => if l.id = id then f l else l) }

/-- An outcome other than `COMPLETE` is fixed, unless one is, and the launch is stopped (R116, R117). -/
def Chip.fixOutcome (k : Chip) (q : Nat) (l : Launch) (o : Nat × (Nat × (Nat × U64))) : Chip :=
  if l.outcome.isSome then k
  else
    l.running.foldl (fun k c => k.stopCluster c) (k.updQuad q (·.updLaunch l.id (fun l =>
      { l with outcome := some o })))

/-- A cluster leaves its launch (R108, R111). -/
def Chip.leaveLaunch (k : Chip) (c : Nat) : Chip :=
  k.updQuad (c / 24) (fun d => { d with launches := d.launches.map (fun l =>
    if l.running.contains c then
      { l with running := l.running.filter (· ≠ c), stopAt := d.aclk } else l) })

/-- Whether every operation a cluster issued has finished (R96). -/
def Chip.finished (k : Chip) (c : Nat) : Bool :=
  let x := k.cluster c
  (List.range 7).all (fun e => (tblGet [] x.queues e).isEmpty) &&
    (List.range 4).all (fun u => (x.munit u).drain.isNone) &&
    (x.mover 0).cmds.isEmpty && (x.mover 1).cmds.isEmpty && x.stores.isEmpty && x.loads.isEmpty &&
    x.lcHold.isNone && !k.haspsPending c

/-- A cluster without a launch: `IDLE`, or `RESET` when an error was contained at it (R118). -/
def Cluster.retire (x : Cluster) : Cluster :=
  { x.applyHeld with st := if x.errored then .reset else .idle, waits := [] }

/-! ## Completion (R110-R113) -/

/-- The completion area (R111). -/
def completionArea (o : Nat × (Nat × (Nat × U64))) (seq : BitVec 16) (cycles : Nat) : Bytes :=
  toBytes 4 (o.1 + 256 * o.2.1 + 65536 * o.2.2.1) ++ toBytes 4 seq.toNat ++ toBytes 8 o.2.2.2.toNat ++
    toBytes 8 cycles ++ toBytes 8 0

/-- `RETIRED` moves past records whose completions are written. -/
def WQueue.advance : Nat → WQueue → WQueue
  | 0, w => w
  | n + 1, w =>
    if w.done.contains w.retired then
      WQueue.advance n { w with done := w.done.filter (· ≠ w.retired), retired := w.retired + 1 }
    else w

/-- A completion area written, followed by its addition (R110). A late one leaves `RETIRED` as it is. -/
def Chip.writeCompletion (k : Chip) (q : Nat) (h : HeldComp) : Chip :=
  let k1 := (k.cohWrite h.addr h.area false).updQuad q (·.updQueue h.queue (fun w =>
    if h.late then w else WQueue.advance 4096 { w with done := w.done ++ [h.seq] }))
  if h.noAdd then k1 else k1.toBank (some q) none .add h.hasp h.inc h.err

/-- The completion of a launch with outcome `o` after `cycles` (R110, R111). -/
def Launch.completion (l : Launch) (o : Nat × (Nat × (Nat × U64))) (cycles : Nat) : HeldComp :=
  { addr := l.rec'.addr + 96, area := completionArea o l.rec'.seq cycles, hasp := l.rec'.compHasp
    inc := l.rec'.compInc, err := o.1 ≠ 1, noAdd := l.noAdd, late := l.late, queue := l.queue, seq := l.rec'.seq }

/-- The commit point of a launch (R110, R116), held while its quadrant is orphaned and its area lies in
LPDDR (19_reset_and_ras.md R530). A launch whose record lies in memory that cannot be reached does not commit
(DESIGN CHOICE, notes/assumptions/117.md). -/
def Chip.commit (k : Chip) (q id : Nat) : Chip :=
  let d := k.quad q
  match d.launches.find? (fun l => l.id = id) with
  | none => k
  | some l =>
    if !l.running.isEmpty then k
    else
      let h := l.completion (l.outcome.getD (1, (0xFF, (0, 0))))
        (if l.all.isEmpty then 0 else l.stopAt / 600 - l.startAt / 600)
      let gone (k : Chip) : Chip := k.updQuad q (fun d =>
        { d with launches := d.launches.filter (fun x => x.id ≠ id) })
      if d.orphaned && areaOf h.addr = .lpddr then
        (if 24 ≤ d.held.length then k
         else (gone k).updQuad q (fun d => { d with held := d.held ++ [h] }))
      else if k.reachMem (some q) h.addr ≠ stOk then k
      else (gone k).writeCompletion q h

/-! ## Aborts (R114-R116) -/

/-- Results of R115. -/
def abAborted : Nat := 1
def abDone : Nat := 2
def abNotFound : Nat := 3
def abDenied : Nat := 4

/-- The abort of a record that has started, or has completed. -/
def Chip.abortLaunch (k : Chip) (q n : Nat) (i : BitVec 16) : Chip × Nat :=
  match (k.quad q).launches.find? (fun l => l.queue = n && l.rec'.seq = i && !l.late) with
  | none => (k, abDone)
  | some l =>
    if l.outcome.isSome then (k, abDone)
    else if !l.rec'.abortable then (k, abDenied)
    else (k.fixOutcome q l (2, (0xFF, (0, 0))), abAborted)

/-- An abort of record `i` of queue `n` and its result (R115, R116). A record that `RETIRED` has passed is
`NOT_FOUND`, although its commit point came before the abort (DESIGN CHOICE, notes/assumptions/118.md). -/
def Chip.abort (k : Chip) (q n : Nat) (i : BitVec 16) : Chip × Nat :=
  let d := k.quad q
  let w := d.queue n
  if (w.tail - w.retired).toNat ≤ (i - w.retired).toNat then (k, abNotFound)
  else if (w.head - w.retired).toNat ≤ (i - w.retired).toNat then
    (if w.aborts.contains i then (k, abDone)
     else (k.updQuad q (·.updQueue n (fun w => { w with aborts := w.aborts ++ [i] })), abAborted))
  else match w.next with
  | some r =>
    if r.seq = i && !w.nextLate then
      (if !r.abortable then (k, abDenied)
       else ((k.updQuad q (fun d =>
           { d.updQueue n (fun w => { w with next := none }) with
             gathering := if d.gathering = some n then none else d.gathering
             gathered := if d.gathering = some n then [] else d.gathered })).emptyLaunch q n r 2, abAborted))
    else k.abortLaunch q n i
  | none => k.abortLaunch q n i

/-! ## Cluster reset (R118) -/

/-- A line of agent `a` written back if dirty, and invalidated. -/
def Chip.purgeLine (k : Chip) (a line : Nat) : Chip :=
  let k1 := k.settle line settleBound
  let e := k1.cline a line
  let k2 := if e.st = .m then k1.writeLine line e.data e.poison else k1
  (k2.dropHolder line a).updLine a line (fun e => { e with st := .i, locked := false, snoop := none, keep := false })

/-- Every line of a line cache written back and invalidated. -/
def Chip.purgeCache (k : Chip) (c : Nat) : Chip :=
  (((k.cluster c).lcache.filter (fun e => e.2.st ≠ .i)).map (·.2.line)).foldl (fun k l =>
    k.purgeLine (64 + c) l) k

/-- The whole store of a cluster written to zero. -/
def Chip.zeroStore (k : Chip) (c : Nat) : Chip :=
  { k with
    mem := k.mem.filter (fun e => !(storeAddr c 0 ≤ e.1 && e.1 < storeAddr c 0 + 2 ^ 22))
    poison := k.poison.filter (fun e =>
      !(storeAddr c 0 ≤ e.1 * 128 && e.1 * 128 < storeAddr c 0 + 2 ^ 22)) }

/-- A cluster reset (R118), once the stores it buffered have drained (19_reset_and_ras.md R524): what it leaves is the reset state but for translation, the counters that name
later operations and the fields of `DSP_CLST`. -/
def Chip.resetCluster (k : Chip) (c : Nat) : Chip :=
  (((k.purgeCache c).zeroStore c).updCluster c (fun x =>
    { Cluster.reset with
      st := .idle, queue := x.queue, seq := x.seq, nextNo := x.nextNo, nextId := x.nextId,
      ranges := x.ranges })).updQuad (c / 24) (fun d =>
    { d with ended := d.ended.filter (fun w => w.cluster ≠ c) })

end Sys2Proof.Machine
end

