-- ==== Sys2Proof/Machine/Contain.lean ====
section
/-! DEFINITION. Containment: failed hinges, unusable and orphaned quadrants, partitions
(01_package_and_hinges.md R46-R50, R561, R562; 19_reset_and_ras.md R529, R530, R535). -/

namespace Sys2Proof.Machine

/-! ## Agents cut from lines -/

/-- The caching agent that made a request, if one did. -/
def HReq.agent : HReq → Option Nat
  | .getS a => some a
  | .getM a => some a
  | .putS a => some a
  | .putF a => some a
  | .putE a => some a
  | .putM a _ _ _ => some a
  | _ => none

/-- The line that a dead agent was to forward, where the requester has not had it: memory's, poisoned if the dead
agent held it in `DX` (DEDUCED, notes/assumptions/55.md). -/
def Chip.forwardDead (k : Chip) (home : Nat) (b : Busy) : Chip :=
  match b.kind, b.req with
  | .bFS, some (.getS a) => if (k.cline a b.line).st = .isD then k.sendLine .dataF home a b.line else k
  | .bFM, some (.getM a) =>
    let st := (k.cline a b.line).st
    if st = .imD || st = .smD || st = .fmD then k.sendLine .dataE home a b.line else k
  | .bOnce, some (.readOnce r) =>
    if k.answers.any (fun m => m.dst = r && m.line = b.line && m.kind = .data) then k else k.sendLine .data home r b.line
  | _, _ => k

/-- A transaction that waits for dead agents takes each one's answer as an `InvAck` (R562); what one of them had sent
is lost. -/
def Chip.answerDead (k : Chip) (home : Nat) (dead : Nat → Bool) (b : Busy) : Chip :=
  if !b.waits.any dead then k
  else
    let k1 := { k with net := k.net.filter (fun m => !(dead m.src && m.line = b.line)) }
    (b.waits.filter dead).foldl (fun k a => k.homeAnswer home b.line a none) (k1.forwardDead home b)

/-- A home settles with dead agents without messages (R529, R562): their bits are cleared, and every line
one of them held in `DX` is written poisoned. Answers the lines poisoned. -/
def Chip.severHome (k : Chip) (home : Nat) (dead : Nat → Bool) : Chip × List Nat :=
  let hit := (k.home home).dir.filter (fun e => e.2.holders.any dead)
  let bad := (hit.filter (fun e => e.2.dstate = dsX)).map (·.1)
  let k0 := { k with net := k.net.filter (fun m =>
    !((m.dst = home && dead m.src) || (m.src = home && dead m.dst))) }
  let k1 := bad.foldl (fun k l => k.setPoison l true) k0
  let k2 := hit.foldl (fun k e => (e.2.holders.filter dead).foldl (fun k a => k.dropHolder e.1 a) k) k1
  let k3 := k2.updHome home (fun h =>
    let left := h.waiting.filter (fun w => !(w.2.agent.any dead))
    { h with waiting := left, kept := h.kept.filter (fun p => left.any (fun w => w.1 = p.1)) })
  ((k3.home home).busy.foldl (fun k b => k.answerDead home dead b) k3, bad)

/-- Every mover piece of cluster `c` in flight whose source or destination is lost ends with a status
(R47, R529). -/
def Chip.severMovers (k : Chip) (c : Nat) (lost : Nat → Bool) (st : Nat) : Chip :=
  [0, 1].foldl (fun k m => ((k.cluster c).mover m).cmds.foldl (fun k d =>
    if d.phase = .data then
      d.pieces.foldl (fun k p =>
        if p.landed then k
        else if !p.read && k.isOwn p.src && lost (paLocal p.src) then k.pieceFailed c m d.id p st false
        else if !d.desc.eth && p.parts.any (fun q => !q.st.over && k.isOwn q.dst && lost (paLocal q.dst)) then
          k.pieceFailed c m d.id p st true
        else k) k
    else k) k) k

/-- An agent loses every line of a lost range without writeback, and its accesses to the range end
(R47, R529, R562, R72). -/
def Chip.severAgent (k : Chip) (a : Nat) (lost : Nat → Bool) (st : Nat) : Chip :=
  let k0 := { k with net := k.net.filter (fun m => !((m.dst = a || m.src = a) && lost (m.line * 128))) }
  let own (k : Chip) (pa : Nat) : Bool := k.isOwn pa && lost (paLocal pa)
  if a < 64 then
    let k1 := k0.updHart a (fun h => { h with
      l1i := h.l1i.filter (fun l => !lost (l * 128))
      l1d := h.l1d.filter (fun e => !lost (e.1 * 128))
      l2 := h.l2.filter (fun e => !lost (e.1 * 128))
      resv := match h.resv with
        | some (pa, n) => if lost (paLocal pa) then none else some (pa, n)
        | none => none })
    let k2 := ((k1.hart a).accs.filter (fun x => x.target = .line && own k1 x.pa)).foldl
      (fun k x => k.failHart a x) k1
    ((k2.hart a).stores.filter (fun s => own k2 s.pa)).foldl (fun k s =>
      ((k.updHart a (fun h => { h with stores := h.stores.filter (·.id ≠ s.id) })).hartStoreError a).report 1
        { hartErr a 4 1 with paddr := BitVec.ofNat 64 s.pa, status := BitVec.ofNat 8 st } 1) k2
  else
    let c := a - 64
    let k1 := k0.updCluster c (fun x => { x with
      lcache := x.lcache.filterMap (fun e =>
        if e.2.st ≠ .i && lost (e.2.line * 128) then none else some e)
      lcHold := match x.lcHold with
        | some h => if lost (h.line * 128) then none else some h
        | none => none })
    let k2 := ((k1.cluster c).loads.filter (fun x => own k1 x.pa)).foldl (fun k x => k.faultLoad c x st) k1
    let k3 := ((k2.cluster c).stores.filter (fun s => own k2 s.pa)).foldl (fun k s => k.storeFailed c s st) k2
    k3.severMovers c lost st

/-- Every agent of a list loses a range. -/
def Chip.severAgents (k : Chip) (as : List Nat) (lost : Nat → Bool) (st : Nat) : Chip :=
  as.foldl (fun k a => k.severAgent a lost st) k

/-- The line caches of a quadrant. -/
def quadAgents (q : Nat) : List Nat := (quadClusters q).map (64 + ·)

def hartAgents : List Nat := List.range 64

/-- Local addresses whose units lie in quadrant `q`. -/
def Chip.unitsOf (k : Chip) (q : Nat) (la : Nat) : Bool := k.ownerQuad la = some q

/-- Severity and level of a contained loss. -/
def quadErr (q : Nat) (cls : BitVec 16) : ErrInfo :=
  { ErrInfo.none with cls := cls, level := 3, quad := BitVec.ofNat 8 q }

/-- Lines poisoned, as a record of class 0x02 (R562) counts them. -/
def Chip.poisonRecord (k : Chip) (q : Nat) (bad : List Nat) : Chip :=
  match bad with
  | [] => k
  | l :: _ => k.report 1 { quadErr q 2 with agent := 11, paddr := BitVec.ofNat 64 (l * 128) } bad.length

/-! ## Unusable quadrants (R48, R49, R562) -/

/-- The settlement of R562 at every home and cache outside quadrant `q`. -/
def Chip.settleUnusable (k : Chip) (q : Nat) : Chip :=
  let others := (List.range 4).filter (· ≠ q)
  let dead (a : Nat) : Bool := endQuad a = some q
  let (k1, bad) := (164 :: others.map (160 + ·)).foldl (fun (r : Chip × List Nat) h =>
    let (k', b) := r.1.severHome h dead
    (k', r.2 ++ b)) (k, [])
  (k1.severAgents (hartAgents ++ others.flatMap quadAgents) (k1.unitsOf q) stLinkLost).poisonRecord q bad

/-- Two diagonal seats without a usable seat adjacent to both (R50). -/
def Chip.diagonalCut (k : Chip) (a b : Nat) : Bool :=
  k.usable a && k.usable b && ((List.range 4).filter (fun s => s ≠ a && s ≠ b)).all (fun s => !k.usable s)

/-- A partition of two seats (R50, R561); its event follows (`State.partitionEvents`). -/
def Chip.partition (k : Chip) (a b : Nat) : Chip :=
  if !k.diagonalCut a b || k.parted a b then k
  else
    let k0 := { k with partitions := k.partitions ++ [(min a b, max a b)] }
    let (k1, _) := k0.severHome (160 + b) (fun x => endQuad x = some a)
    let (k2, _) := k1.severHome (160 + a) (fun x => endQuad x = some b)
    let k3 := (k2.severAgents (quadAgents a) (k2.unitsOf b) stLinkLost).severAgents (quadAgents b)
      (k2.unitsOf a) stLinkLost
    ((k3.partHasps a b).partHasps b a).report 1
      { quadErr a 5 with detail := BitVec.ofNat 64 (3 + 256 * a + 65536 * b) } 1

/-- Both diagonal pairs examined. -/
def Chip.checkPartitions (k : Chip) : Chip := (k.partition 0 3).partition 1 2

/-- A quadrant becomes unusable (R48): the others settle with it (R562), waits at its bank end
(09_hasps.md R299), its clusters are `OFF` (03_cluster_execution.md R99), its ports are `OFF`
(14_fabric_and_pods.md R414), and it is reported. -/
def Chip.makeUnusable (k : Chip) (q : Nat) : Chip :=
  if (k.quad q).unusable || !k.quadPresent q then k
  else
    let k0 := k.updQuad q (fun d => { d with
      unusable := true, orphaned := false, byReset := false, launches := [], held := [], inbox := [],
      gathering := none, gathered := [], walking := [], ended := [] })
    let k1 := (k0.settleUnusable q).loseWaits q
    let k2 := (quadClusters q).foldl (fun k c => k.updCluster c (fun _ => Cluster.reset)) k1
    let k3 := { k2 with
      homes := tblPut Home.reset k2.homes (160 + q) Home.reset
      net := k2.net.filter (fun m => endQuad m.src ≠ some q && endQuad m.dst ≠ some q) }
    let k4 := k3.onFabric (fun f => ((span (3 * q) 3).foldl (fun f n =>
      f.updPort n (fun p => { p.restart with st := .off })) f).release)
    (k4.checkPartitions).post 0x0102 2 q [q]

/-! ## Host loss (R529) -/

/-- The host-side settlement of a host loss through the hinge (R529): lines poisoned. -/
def Chip.settleHostLoss (k : Chip) (q : Nat) : Chip × List Nat :=
  let (k1, b1) := k.severHome 164 (fun a => endQuad a = some q)
  let (k2, b2) := k1.severHome (160 + q) (fun a => a < 64)
  (k2.severAgents hartAgents (k2.unitsOf q) stLinkLost, b1 ++ b2)

/-- A quadrant loses its host (R529): by its hinge, which also ends its flash requests (13_tiers_and_flash.md
R563), or by a host-complex reset. -/
def Chip.hostLoss (k : Chip) (q : Nat) (byReset : Bool) : Chip :=
  let st := if byReset then stHostReset else stLinkLost
  let k0 := k.updQuad q (fun d => { d with orphaned := true, byReset := byReset, enable := false })
  let (k1, bad) := if byReset then (k0, []) else k0.settleHostLoss q
  let k2 := k1.severAgents (quadAgents q) (fun la => areaOf la = .lpddr || (!byReset && areaOf la = .flash)) st
  let first := match bad with
    | l :: _ => BitVec.ofNat 64 (l * 128)
    | [] => 0
  (k2.post 0x0103 1 q [q]).report 1
    { quadErr q 6 with agent := 11, paddr := first, detail := BitVec.ofNat 64 bad.length } 1

/-! ## Routes (R46, R49) -/

/-- Where a message that stands at a die goes next. -/
inductive Route where
  /-- It has arrived. -/
  | here
  /-- Out of the hinge of this side. -/
  | side (n : Nat)
  /-- It is held at its source seat. -/
  | hold
  /-- Its pair of seats is partitioned (R50). -/
  | lost
  deriving DecidableEq, Repr

/-- The seats adjacent to both of a diagonal pair, lowest first. -/
def middles (a b : Nat) : List Nat := (List.range 4).filter (fun s => s ≠ a && s ≠ b)

/-- The route of R46 from die `d` (0-3 a base die, 4 the host die) to die `e`. It is a function of which quadrants are usable
and which are under reset, so a new route is in force in the step in which one of them changes, before that step
reports it (R49; 19_reset_and_ras.md R526). -/
def Chip.route (k : Chip) (d e : Nat) : Route :=
  if d = e || 4 < d || 4 < e then .here
  else if d = 4 then .side e
  else if e = 4 then .side (baseSide d 0)
  else if d ^^^ e = 1 then .side (baseSide d 1)
  else if d ^^^ e = 2 then .side (baseSide d 2)
  else match (middles d e).find? (fun s => k.usable s && !(k.quad s).underReset) with
    | some s => .side (baseSide d (d ^^^ s))
    | none => if (middles d e).any k.usable then .hold else .lost

/-- A message that stands at die `d` goes on its way (R46, R50). -/
def State.sendFrom (s : State) (d : Nat) (m : NetMsg) : State :=
  match s.chip.route d m.dst with
  | .here => s
  | .side n => { s with links := s.links.send n m }
  | .hold => { s with links := { s.links with diag := s.links.diag ++ [(d, m)] } }
  | .lost => { s with links := { s.links with lost := s.links.lost ++ [m] } }

/-- Messages held at their source seats go on by the routes in force now. -/
def State.reroute (s : State) : State :=
  s.links.diag.foldl (fun s e => s.sendFrom e.1 e.2) { s with links := { s.links with diag := [] } }

/-- The messages on the hinges of a seat that its receivers have not taken, with the die they stand at. -/
def Links.stranded (l : Links) (q : Nat) : List (Nat × NetMsg) :=
  (seatHinges q).flatMap (fun h => [authSide h, subSide h].flatMap (fun n =>
    let s := (l.syncAcks n).side n
    (carried s ++ s.held).map (fun m => (dieOf n, m))))

/-- The hinges of a seat with nothing on them. -/
def Links.clearSeat (l : Links) (q : Nat) : Links :=
  let l1 := (seatHinges q).foldl (fun l h => l.updHinge h (fun x => { x with bundles := [], held := [] })) l
  { l1 with wire := l1.wire.filter (fun w => !(seatHinges q).contains (hingeOf w.1)) }

/-- A message on a hinge of seat `q` as the seat goes: one from or to the seat, and every one of a seat that is unusable,
ends with `LINK_LOST` (R47; 19_reset_and_ras.md R526 step 4); of a seat about to be reset, one that stands in the seat
leaves it towards its end, and one on its way there takes another route (R526 step 5). -/
def State.leaveSeat (s : State) (q : Nat) (unusable : Bool) (e : Nat × NetMsg) : State :=
  if unusable || e.2.src = q || e.2.dst = q then { s with links := { s.links with lost := s.links.lost ++ [e.2] } }
  else if e.1 = q then
    { s with links := { s.links with mesh := s.links.mesh ++ [{
        side := peerSide (baseSide q (q ^^^ e.2.dst)), cls := e.2.cls, body := e.2.body }] } }
  else s.sendFrom e.1 e.2

/-- The messages on the hinges of a seat leave them. -/
def State.evacuate (s : State) (q : Nat) (unusable : Bool) : State :=
  (s.links.stranded q).foldl (fun s e => s.leaveSeat q unusable e) { s with links := s.links.clearSeat q }

/-! ## Hinges -/

/-- Codes of R36. -/
def HState.code : HState → Nat
  | .off => 0 | .clock => 1 | .deskew => 2 | .pattern => 3 | .widthSet => 4 | .confirm => 5
  | .active => 6 | .failed => 7

/-- A `HINGE_STATE` event (16_tumbler_interface.md R475): hinge, state, width. -/
def State.hingeEvent (s : State) (h : Nat) : State :=
  let a := s.links.side (authSide h)
  s.onChip (fun k => k.post 0x0101 (if a.st = .failed then 2 else 0) (dieOf (authSide h))
    [h, a.st.code, boolNat a.half])

/-- The `HINGE_STATE` events of partitions that arose when quadrant `q` became unusable (R50): each of the hinge from the
lower seat of the pair to `q` (DESIGN CHOICE, notes/assumptions/121.md). -/
def State.partitionEvents (s : State) (q : Nat) (old : List (Nat × Nat)) : State :=
  (s.chip.partitions.filter (fun p => !old.contains p)).foldl (fun s p =>
    s.hingeEvent (hingeOf (baseSide p.1 (p.1 ^^^ q)))) s

/-- A quadrant becomes unusable, with the messages in flight through it (R47-R50). -/
def State.makeUnusable (s : State) (q : Nat) : State :=
  if (s.chip.quad q).unusable || !s.chip.quadPresent q then s
  else (((s.onChip (fun k => k.makeUnusable q)).evacuate q true).reroute).partitionEvents q s.chip.partitions

/-- The quadrant that a failed hinge makes unusable (R48). -/
def failedSeat (h : Nat) : Nat := if h < 4 then h else max (dieOf (authSide h)) (dieOf (subSide h))

/-- What follows when a hinge has entered `FAILED` (R47-R49, R561). -/
def State.hingeFailed (s : State) (h : Nat) : State :=
  let seat := dieOf (authSide h)
  let s1 := (s.hingeEvent h).onChip (fun k => k.report 2
    { quadErr seat 5 with
      detail := BitVec.ofNat 64 (1 + 256 * seat + 65536 * sideIndex (authSide h) + 16777216 * 7) } 1)
  s1.makeUnusable (failedSeat h)

/-- Links changed by an operation on hinge `h`, with what follows when it goes `ACTIVE` or `FAILED`. -/
def State.onHinge (s : State) (h : Nat) (f : Links → Links) : State :=
  let old := s.links.hingeState h
  let s1 := { s with links := f s.links }
  let new := s1.links.hingeState h
  if new = .failed && old ≠ .failed then s1.hingeFailed h
  else if new = .active && old ≠ .active then s1.hingeEvent h
  else s1

end Sys2Proof.Machine
end

