-- ==== Sys2Proof/Machine/Commands.lean ====
section
/-! DEFINITION. The command tables of the Tumbler (16_tumbler_interface.md R473), mailbox classes (R455)
and the fields of command slots (R458), response slots (R459) and ownership words (R464). -/

namespace Sys2Proof.Machine

/-- Mailbox classes (R455). -/
inductive BoxClass where
  | l | g | b | r | d
  deriving DecidableEq, Repr

/-- The class of a mailbox. Numbers 16-23 and 24-31 stand for relayed commands that arrived for
`MB0`-`MB7` and for `MB14` (14_fabric_and_pods.md R431; notes/assumptions/60.md). -/
def boxClass (n : Nat) : BoxClass :=
  if n < 8 then .l else if n < 12 then .g else if n < 14 then .b else if n = 14 then .r
  else if n = 15 then .d else if n < 24 then .l else .r

/-! ## Status codes (R466-R470) -/

def mbDone : Nat := 0
def mbBusy : Nat := 1
def mbBadOpcode : Nat := 2
def mbBadArg : Nat := 3
def mbDenied : Nat := 4
def mbStale : Nat := 5
def mbNotPresent : Nat := 6
def mbAlready : Nat := 7
def mbTimeout : Nat := 8
def mbFault : Nat := 9

/-! ## Command slots (R458) -/

def slotOp (c : BitVec 512) : Nat := (c.extractLsb' 0 16).toNat
def slotTag (c : BitVec 512) : BitVec 16 := c.extractLsb' 16 16
def slotHen (c : BitVec 512) : Bool := c.getLsbD 32
def slotHasp (c : BitVec 512) : BitVec 14 := c.extractLsb' 33 14
def slotNbuf (c : BitVec 512) : Nat := (c.extractLsb' 48 3).toNat
def slotBuf (c : BitVec 512) (i : Nat) : Nat := (c.extractLsb' (64 + 16 * i) 16).toNat
def slotArg (c : BitVec 512) (i : Nat) : U64 := c.extractLsb' (128 + 64 * i) 64

/-- A reserved bit of the slot is set. -/
def slotReserved (c : BitVec 512) : Bool := c.getLsbD 47 || c.extractLsb' 51 13 ≠ 0

/-- The buffers a slot names. -/
def slotBufs (c : BitVec 512) : List Nat := (List.range (min 4 (slotNbuf c))).map (slotBuf c)

/-- The number that 64-bit words spell, the first lowest. -/
def ofWords : List U64 → Nat
  | [] => 0
  | x :: r => x.toNat + 2 ^ 64 * ofWords r

/-- A response slot (R459). -/
def rspSlot (status : Nat) (tag : BitVec 16) (progress : Nat) (res : List U64) : BitVec 512 :=
  BitVec.ofNat 512 (status + 65536 * tag.toNat + 2 ^ 32 * progress + 2 ^ 64 * ofWords (res.take 7))

/-! ## Ownership words (R464) -/

/-- An ownership word: `OWNER`, `SEQ` and `LENGTH`. -/
def ownWord (owner : Nat) (seq : Nat) (len : Nat) : U64 := BitVec.ofNat 64 (owner + 4 * seq + 2 ^ 32 * len)

def ownOwner (w : U64) : Nat := (w.extractLsb' 0 2).toNat
def ownSeq (w : U64) : Nat := (w.extractLsb' 2 30).toNat
def ownLength (w : U64) : Nat := (w.extractLsb' 32 32).toNat

/-- A buffer handed over to the command of a tag (R466). -/
def ownReady (w : U64) (tag : BitVec 16) : Bool := ownOwner w = 2 && ownSeq w = tag.toNat

/-! ## Command tables (R473) -/

/-- What a row of the command tables asks of a command: opcode, classes that may issue it (class G with
`star` only within its lists), argument words, input and output buffers, latency class D, and whether
`ARG0` names a quadrant. -/
structure CmdInfo where
  op : Nat
  classes : List BoxClass
  star : Bool
  nArgs : Nat
  nIn : Nat
  nOut : Nat
  slow : Bool
  quad : Bool
  deriving DecidableEq, Repr

def anyClass : List BoxClass := [.l, .g, .b, .r, .d]

def cmd (op : Nat) (classes : List BoxClass) (nArgs nIn nOut : Nat) : CmdInfo :=
  { op := op, classes := classes, star := false, nArgs := nArgs, nIn := nIn, nOut := nOut, slow := false,
    quad := false }

/-- A row of latency class D. -/
def cmdD (op : Nat) (classes : List BoxClass) (nArgs nIn nOut : Nat) : CmdInfo :=
  { cmd op classes nArgs nIn nOut with slow := true }

/-- A row whose `ARG0` names a quadrant. -/
def cmdQ (op : Nat) (classes : List BoxClass) (nArgs : Nat) : CmdInfo :=
  { cmd op classes nArgs 0 0 with quad := true }

/-- The same row with class G limited to its lists. -/
def CmdInfo.starred (c : CmdInfo) : CmdInfo := { c with star := true }

/-- Families 0x01 to 0x04. -/
def cmdTableA : List CmdInfo := [
  cmd 0x0101 anyClass 0 0 0, cmd 0x0102 [.l, .b, .r, .d] 0 0 1, cmd 0x0103 anyClass 0 0 0,
  cmd 0x0201 [.l, .b, .r] 1 0 0, cmd 0x0202 [.l, .b, .r] 1 0 0, cmd 0x0203 [.l, .r] 2 0 0,
  cmd 0x0204 [.l, .r] 1 0 0, cmdQ 0x0205 [.l, .r] 2, cmdQ 0x0206 [.l, .r] 2, cmd 0x0207 [.l, .r] 2 0 0,
  cmd 0x0301 anyClass 0 0 0, cmd 0x0302 [.l, .r] 1 0 0, cmd 0x0303 [.l, .r] 0 0 0,
  cmd 0x0304 [.l, .r] 1 0 0, (cmdQ 0x0401 [.l, .g, .r] 3).starred, (cmdQ 0x0402 [.l, .g, .r] 2).starred]

/-- Families 0x05 to 0x07. -/
def cmdTableB : List CmdInfo := [
  (cmd 0x0501 [.l, .g, .r] 5 0 0).starred, (cmd 0x0502 [.l, .g, .r] 1 0 0).starred,
  (cmd 0x0503 [.l, .g, .r] 1 0 0).starred, (cmdD 0x0504 [.l, .g, .r] 5 0 0).starred,
  cmd 0x0601 [.l, .r] 0 0 1, cmd 0x0602 [.l, .r] 1 0 0, cmd 0x0603 [.l, .r] 2 1 0,
  cmdD 0x0604 [.l, .r] 1 0 1, cmdD 0x0605 [.l, .r] 1 0 0, cmd 0x0606 [.l, .r] 1 0 0,
  cmd 0x0701 [.l, .b, .r] 0 0 1, cmdD 0x0702 [.l, .r] 2 1 0, cmd 0x0703 [.l, .b, .r] 0 0 1,
  cmd 0x0704 [.l, .r] 1 1 1]

/-- Families 0x08 to 0x0F. -/
def cmdTableC : List CmdInfo := [
  cmd 0x0801 [.l, .g, .r] 0 0 1, cmd 0x0802 [.l, .g, .r] 4 0 1, cmd 0x0803 [.r] 0 1 0,
  cmdD 0x0804 [.l, .r] 2 1 0, cmd 0x0805 [.l, .r] 2 0 0, cmd 0x0806 [.d, .r] 0 0 0, cmd 0x0807 [.d, .r] 0 1 0,
  cmd 0x0810 [.l] 3 1 0, cmd 0x0901 [.l, .b, .r] 1 0 1, cmd 0x0902 [.l, .b, .r] 1 0 0,
  cmd 0x0903 [.l, .b, .r, .d] 1 0 1, cmd 0x0A01 [.l, .b, .r] 0 0 0, cmd 0x0A02 [.l, .b, .r] 0 0 0,
  cmdQ 0x0A03 [.l, .b, .r] 1, cmdQ 0x0A04 [.l, .r] 1, (cmd 0x0B01 [.l, .g, .b, .r] 0 0 1).starred,
  cmd 0x0B02 [.l, .b, .r] 0 0 1, cmd 0x0B03 anyClass 1 0 0, cmd 0x0F01 [.d] 1 0 0, cmd 0x0F02 [.d] 1 0 0]

/-- The row of an opcode. -/
def cmdInfo (op : Nat) : Option CmdInfo := (cmdTableA ++ cmdTableB ++ cmdTableC).find? (fun c => c.op = op)

end Sys2Proof.Machine
end

