-- ==== Sys2Proof/Machine/MailOps.lean ====
section
/-! DEFINITION. Mailboxes as shared operations: buffers and their ownership (16_tumbler_interface.md
R461-R464), requirements of a doorbell (R466) and the end of a command (R468). -/

namespace Sys2Proof.Machine

def Chip.box (k : Chip) (mb : Nat) : Mailbox := k.mgmt.box mb
def Chip.updBox (k : Chip) (mb : Nat) (f : Mailbox → Mailbox) : Chip := k.onMgmt (fun m => m.updBox mb f)

/-- How the Tumbler's own access finds a place in memory: it reaches the units of an orphaned quadrant, since
commands whose buffers or spans lie outside LPDDR run through a host-complex reset (R471,
13_tiers_and_flash.md R391; notes/assumptions/68.md). -/
def Chip.tmbReach (k : Chip) (la : Nat) : Nat :=
  if !k.populated la then stNotPresent
  else match k.ownerQuad la with
  | some q =>
    let d := k.quad q
    if d.unusable || d.underReset || d.asleep || !d.up then stLinkLost else stOk
  | none => if k.hostOpen then stOk else stHostReset

/-! ## Buffers -/

/-- Where a buffer lies: the inline buffer, or a place in the shared window with its size. -/
inductive BufSpot where
  | inline
  | window (pa size : Nat)
  deriving DecidableEq, Repr

/-- The buffer of an index, where the index is valid (R461, R463). -/
def Mailbox.bufSpot (b : Mailbox) (i : Nat) : Option BufSpot :=
  if i = 0xFFFF then some .inline
  else if b.wen && i < b.nbufs.toNat then
    some (.window (b.wbase.toNat * 4096 + i * (2 ^ b.log2sz.toNat * 1024)) (2 ^ b.log2sz.toNat * 1024))
  else none

/-- Data bytes a buffer holds (R461, R463). -/
def BufSpot.room : BufSpot → Nat
  | .inline => 1664
  | .window _ size => size - 128

/-- The little-endian number of `n` bytes of the inline buffer, at offset `o` from `0x100`. -/
def Mailbox.inlWord (b : Mailbox) (o n : Nat) : Nat :=
  ofBytes ((List.range n).map (fun i => tblGet 0 b.inl (o + i)))

/-- Bytes of a buffer from offset `o` on, none where they cannot be read or are poisoned. Data lies from
offset 128 on. -/
def Chip.bufRead (k : Chip) (mb : Nat) (sp : BufSpot) (o n : Nat) : Chip × Option Bytes :=
  match sp with
  | .inline => (k, some ((List.range n).map (fun i => tblGet 0 (k.box mb).inl (o + i))))
  | .window pa _ =>
    if k.tmbReach (paLocal (pa + o)) = stOk then
      let (k1, (bs, p)) := k.cohRead (paLocal (pa + o)) n
      (k1, if p then none else some bs)
    else (k, none)

/-- Bytes written into a buffer; what cannot be reached is not written. -/
def Chip.bufWrite (k : Chip) (mb : Nat) (sp : BufSpot) (o : Nat) (bs : Bytes) : Chip :=
  match sp with
  | .inline => k.updBox mb (fun b => { b with inl := putBytes b.inl o bs })
  | .window pa _ =>
    if k.tmbReach (paLocal (pa + o)) = stOk then k.cohWrite (paLocal (pa + o)) bs false else k

/-- The ownership word of a buffer. -/
def Chip.readOwn (k : Chip) (mb : Nat) (sp : BufSpot) : Chip × Option U64 :=
  let (k1, bs) := k.bufRead mb sp 0 8
  (k1, bs.map (fun l => BitVec.ofNat 64 (ofBytes l)))

def Chip.writeOwn (k : Chip) (mb : Nat) (sp : BufSpot) (w : U64) : Chip := k.bufWrite mb sp 0 (toBytes 8 w.toNat)

/-! ## Acceptance (R466) -/

/-- Every named buffer is handed over to the copied command. An index that names no buffer asks for nothing
here (notes/assumptions/61.md). -/
def Chip.handedOver (k : Chip) (mb : Nat) : Chip × Bool :=
  let b := k.box mb
  (slotBufs b.copied).foldl (fun (k, ok) i =>
    match b.bufSpot i with
    | none => (k, ok)
    | some sp =>
      let (k1, w) := k.readOwn mb sp
      (k1, ok && match w with
        | some w => ownReady w (slotTag b.copied)
        | none => false)) (k, true)

/-- The requirements of step 4 of R466. -/
def Chip.accepted (k : Chip) (mb : Nat) : Chip × Bool :=
  if slotTag (k.box mb).copied = (k.box mb).dbTag then k.handedOver mb else (k, false)

/-! ## Completion (R468) -/

/-- A named buffer returned (R464): undefined content, new output, or its content unchanged. -/
def Chip.returnBuf (k : Chip) (mb : Nat) (sp : BufSpot) (tag : BitVec 16) (out : Option Bytes) (spoiled : Bool) :
    Chip :=
  if spoiled then k.writeOwn mb sp (ownWord 3 tag.toNat 0)
  else match out with
  | some bs => (k.bufWrite mb sp 128 bs).writeOwn mb sp (ownWord 1 tag.toNat bs.length)
  | none =>
    match k.readOwn mb sp with
    | (k1, some w) => k1.writeOwn mb sp (ownWord 1 tag.toNat (ownLength w))
    | (k1, none) => k1

/-- Every named buffer returned: input buffers are named before output buffers. -/
def Chip.returnBufs (k : Chip) (mb : Nat) (r : MbResult) : Chip :=
  let b := k.box mb
  let nIn := match cmdInfo (slotOp b.copied) with
    | some c => c.nIn
    | none => 0
  (List.range (slotBufs b.copied).length).foldl (fun k j =>
    match b.bufSpot (slotBuf b.copied j) with
    | none => k
    | some sp =>
      k.returnBuf mb sp (slotTag b.copied) (if j = nIn then r.out else none) r.spoiled) k

/-- `PROGRESS` of a finished command (R459, R469). -/
def finalProgress (c : BitVec 512) (status : Nat) : Nat :=
  match cmdInfo (slotOp c) with
  | some i => if i.slow && status = mbDone then 1000 else 0
  | none => 0

/-- Steps 2 to 5 of R468: response slot, `DONE`, completion addition and event. The event is posted
when the mailbox's own mask selects it (notes/assumptions/62.md). -/
def Chip.respondBox (k : Chip) (mb : Nat) (r : MbResult) : Chip :=
  let b := k.box mb
  let c := b.copied
  let st := r.status.toNat
  let k1 := k.updBox mb (fun b => { b with
    rsp := rspSlot st (slotTag c) (finalProgress c st) r.res
    st := .done, result := none, begun := false })
  let k2 := if slotHen c then k1.toBank none none .add (slotHasp c) 1 (st ≠ mbDone && st ≠ mbAlready) else k1
  if b.mask.getLsbD (eventGroup 0x0001) then k2.post 0x0001 0 7 [mb, (slotTag c).toNat, st] else k2

/-- A command of a mailbox ends (R468). -/
def Chip.endCommand (k : Chip) (mb : Nat) (r : MbResult) : Chip := (k.returnBufs mb r).respondBox mb r

/-- An answer without data. -/
def mbResult (status : Nat) (res : List U64) : MbResult :=
  { status := BitVec.ofNat 16 status, res := res, out := none, spoiled := false }

/-! ## Host-complex reset (R471) -/

/-- The new span of a relocation that failed is undefined: each byte that can be reached is free (R391). -/
def Chip.spoilSpan (k : Chip) (la : Nat) : Nat → Chip
  | 0 => k
  | n + 1 =>
    let k1 := if k.tmbReach la = stOk then
        let (bs, k1) := k.freshBytes 128
        k1.cohWrite la bs false
      else k
    k1.spoilSpan (la + 128) n

/-- A physical address in LPDDR. -/
def inLpddr (pa : Nat) : Bool := areaOf (paLocal pa) = .lpddr

/-- A relocation is over: its invalidation completes and its waiting translations go on. -/
def Chip.dropRelocation (k : Chip) (r : Relocation) : Chip :=
  { k with relocating := none, invals := k.invals.filter (fun i => i.id ≠ r.inval) }

/-- A relocation that has met a loss is over, and its new span undefined (R391). -/
def Chip.loseRelocation (k : Chip) (r : Relocation) : Chip :=
  (k.spoilSpan (paLocal (r.pstart * 65536)) (r.len * 512)).dropRelocation r

/-- `PROGRESS` of a running command (R459). -/
def Chip.setProgress (k : Chip) (mb v : Nat) : Chip :=
  k.updBox mb (fun b => { b with
    rsp := (b.rsp &&& ~~~((0x3FF : BitVec 512) <<< 32)) ||| (BitVec.ofNat 512 v <<< 32) })

/-- Whether the work of a mailbox's command reads or writes LPDDR: a `RELOCATE` with LPDDR at an end or its
table there (13_tiers_and_flash.md R391). -/
def Chip.worksInLpddr (k : Chip) (mb : Nat) : Bool :=
  match k.relocating with
  | some r =>
    r.mb = mb && (inLpddr ((k.space r.space).tbase.toNat * 4096) || inLpddr (r.pstart * 65536) || r.oldLpddr)
  | none => false

/-- A command that a host-complex reset ends: its window or its work lies in LPDDR. -/
def Chip.hostEnds (k : Chip) (mb : Nat) : Bool :=
  let b := k.box mb
  b.st = .running && ((b.wen && inLpddr (b.wbase.toNat * 4096)) || k.worksInLpddr mb)

/-- A split that a mailbox's command made is over (13_tiers_and_flash.md R397). -/
def Chip.endSplit (k : Chip) (mb : Nat) : Chip :=
  (List.range 4).foldl (fun k q =>
    k.updQuad q (fun d => if d.splitBy = some mb then { d with splitBy := none } else d)) k

/-- A running command gets its answer from elsewhere, when the mailbox still runs that opcode. -/
def Chip.answerCommand (k : Chip) (mb op : Nat) (r : MbResult) : Chip :=
  let b := k.box mb
  if b.st = .running && b.result.isNone && slotOp b.copied = op then
    k.updBox mb (fun b => { b with result := some r })
  else k

/-- A relocation with LPDDR at an end or its table there meets the reset, at whatever mailbox it runs (R391). -/
def Chip.endHostRelocation (k : Chip) : Chip :=
  match k.relocating with
  | some r => if k.worksInLpddr r.mb then (k.loseRelocation r).answerCommand r.mb 0x0504 (mbResult mbFault []) else k
  | none => k

/-- The mailboxes of classes L and G whose command a host-complex reset ends. -/
def Chip.hostEnding (k : Chip) : List Nat := (List.range 12).filter k.hostEnds

/-- The commands a host-complex reset ends, before the host-die home closes (R391, R471). -/
def Chip.endHostCommands (k : Chip) : Chip :=
  k.hostEnding.foldl (fun k mb => (k.endSplit mb).endCommand mb { mbResult mbFault [] with spoiled := true })
    k.endHostRelocation

/-- A mailbox of class L or G when the host die is reset: one whose command runs on is kept. -/
def Mailbox.hostReset (b : Mailbox) (n : Nat) : Mailbox :=
  if b.st = .running then b
  else { Mailbox.reset with
    opened := n < 8, mask := if n = 0 then 0x003F else 0, inl := b.inl, cmd := b.cmd, rsp := b.rsp }

end Sys2Proof.Machine
end

