-- ==== Sys2Proof/Machine/ResetOps.lean ====
section
/-! DEFINITION. Boot and resets as shared operations (18_boot_and_security.md R502-R514;
19_reset_and_ras.md R524-R531; 15_host_die.md R453, R454; 17_power_clocks_thermal.md R480-R485;
20_electrical_mechanical.md R547-R552). Every sequence that the spec gives as one unit runs in one step
(notes/assumptions/1.md). -/

namespace Sys2Proof.Machine

/-! ## Measurements (R513, R514) -/

/-- Register `i` extended by a digest, with its log entry; the log holds at most 256. -/
def Boot.extend (b : Boot) (e : LogEntry) : Boot :=
  let old := tblGet 0 b.m e.reg
  { b with
    m := tblPut 0 b.m e.reg (sha512 (toBytes 64 old.toNat ++ toBytes 64 e.digest.toNat))
    mlog := if b.mlog.length < 256 then b.mlog ++ [e] else b.mlog }

/-! ## Slots (R505, R506, R508) -/

/-- Keys accepted for hart firmware. -/
def Boot.hartSigner (b : Boot) (s : Signer) : Bool :=
  s = .root || match b.owner with
    | some o => o.ownerFw && s = .owner o.key
    | none => false

/-- A slot is valid (R505) under the keys that `accept` takes. -/
def FwKind.slotValid (k : FwKind) (accept : Signer → Bool) (sl : Slot) : Bool :=
  match sl.image with
  | some i => i.good && accept i.signer && decide (k.floor ≤ i.svn) && decide (i.svn ≤ 256)
  | none => false

def FwKind.slot (k : FwKind) (b : Bool) : Slot := if b then k.b else k.a

def FwKind.updSlot (k : FwKind) (b : Bool) (f : Slot → Slot) : FwKind :=
  if b then { k with b := f k.b } else { k with a := f k.a }

/-- A slot is started: an unconfirmed one counts a trial. -/
def FwKind.start (k : FwKind) (b fell : Bool) : FwKind :=
  { k.updSlot b (fun s => if s.confirmed then s else { s with trials := s.trials + 1 }) with
    running := some b, preferred := b, fell := k.fell || fell }

/-- Slot selection (R508): none when neither slot can be started. -/
def FwKind.select (k : FwKind) (accept : Signer → Bool) : Option FwKind :=
  let p := k.preferred
  if k.slotValid accept (k.slot p) && ((k.slot p).confirmed || decide ((k.slot p).trials < 3)) then
    some (k.start p false)
  else if k.slotValid accept (k.slot !p) then some (k.start (!p) true)
  else none

/-- The image that runs. -/
def FwKind.image (k : FwKind) : Option FwImage := k.running.bind (fun b => (k.slot b).image)

/-- The running slot is confirmed (R508). -/
def FwKind.confirm (k : FwKind) : FwKind :=
  match k.running with
  | none => k
  | some b => match (k.slot b).image with
    | none => k
    | some i => { k.updSlot b (fun s => { s with confirmed := true, trials := 0 }) with
        floor := max k.floor (min i.svn 256) }

/-- The log entry of a signed image's header. -/
def imageEntry (reg kind : Nat) (i : FwImage) : LogEntry :=
  { reg := reg, kind := kind, svn := i.svn, version := i.version, digest := sha512 i.header }

/-! ## Units (R1, R7, R8, R510, R511) -/

/-- The quadrants, stacks, ports, flash tier and harts of a variant (00_scope.md R1). -/
def variantMasks (v : BitVec 7) : Option (BitVec 4 × (BitVec 8 × (BitVec 12 × (Bool × U64)))) :=
  match v.toNat with
  | 1 => some (0xF, (0xFF, (0xFFF, (true, 0xFFFFFFFFFFFFFFFF))))
  | 2 => some (0xF, (0xFF, (0x6DB, (false, 0xFFFFFFFFFFFFFFFF))))
  | 3 => some (0x7, (0x3F, (0x0DB, (false, 0x0000FFFFFFFFFFFF))))
  | _ => none

/-- The module record is valid (R511). -/
def ModRecord.valid (r : ModRecord) : Bool :=
  r.good && variantMasks r.variant = some (r.quadMask, (r.hbmMask, (r.fabMask, (r.flash, r.hartMask))))

/-- `CAP_UNITS` of a record (00_scope.md R7). -/
def ModRecord.capUnits (r : ModRecord) : U64 :=
  (1 : BitVec 1) ++ r.variant ++ (0 : BitVec 24) ++ r.hbmMask ++ (0 : BitVec 7) ++ boolBit r.flash ++
    r.fabMask ++ r.quadMask

/-! ## Mailboxes (R471, R475) -/

/-- A mailbox right after a device reset or a cold reset: classes L, B, R and D are open
(notes/assumptions/15.md). -/
def bootBox (n : Nat) : Mailbox :=
  { Mailbox.reset with
    opened := n < 8 || 12 ≤ n
    mask := if n = 0 || n = 12 || n = 14 then 0x003F else 0 }

def bootBoxes : SMap Mailbox := (List.range 16).foldl (fun m n => tblPut Mailbox.reset m n (bootBox n)) []

/-! ## Volatile state -/

/-- The blocks that hold data of an image (notes/assumptions/71.md). -/
def Flash.holding (f : Flash) : List Nat :=
  (f.images.flatMap (fun i =>
    (List.range ((i.offset + i.span - 1) / blockBytes - i.offset / blockBytes + 1)).map (· + i.offset / blockBytes))).eraseDups

/-- The flash tier after its controller has restarted (13_tiers_and_flash.md R401, R403, R407). Data of an
image that was `WRITING` is undefined, and counters not written back intact are lost. -/
def Chip.flashRestart (k : Chip) : Chip :=
  let f := k.flash
  let lost := f.saved ≠ f.blocks && !f.images.isEmpty
  let erased (o : Nat) : Bool := f.images.any (fun i =>
    i.st = .erasing && decide (i.offset ≤ o) && decide (o < i.offset + i.span))
  { k with flash := { Flash.reset with
      images := f.images.filter (fun i => i.st ≠ .erasing)
      data := f.data.filter (fun e => !erased e.1)
      blocks := if lost then f.holding.foldl (fun t b =>
        tblMod FBlock.reset t b (fun x => { x with reads := 60000, due := true })) f.blocks else f.blocks
      dueOrder := if lost then f.dueOrder ++ f.holding.filter (fun b => !f.dueOrder.contains b) else f.dueOrder
      saved := f.blocks
      cntLost := lost
      wearPct := f.wearPct
      sparePct := f.sparePct
      deferNot := 0
      lowPosted := f.lowPosted } }

/-- Bytes of every `WRITING` image become free bytes (R401). -/
def Chip.spoilWriting (k : Chip) : Chip :=
  (k.flash.images.filter (fun i => i.st = .writing)).foldl (fun k i =>
    let (bs, k1) := k.freshBytes i.length
    { k1 with flash := { k1.flash with data := putBytes k1.flash.data i.offset bs } }) k

/-- The chip without its volatile state: what NOR and the flash tier keep. -/
def Chip.volatileLost (k : Chip) : Chip :=
  let k1 := k.spoilWriting.flashRestart
  { Chip.reset with
    flash := k1.flash
    fabric := { Fabric.reset with podRec := k.fabric.podRec, lanes := k.fabric.lanes }
    io := { HostIo.reset with widthStored := k.io.widthStored, width := k.io.widthStored }
    mgmt := { Chip.reset.mgmt with
      log := k.mgmt.log, repairs := k.mgmt.repairs, rowErrors := k.mgmt.rowErrors, now := k.mgmt.now }
    storedPkg := k.storedPkg
    free := k1.free }

/-- Boot state that only NOR keeps. -/
def Boot.volatileLost (b : Boot) : Boot :=
  { b with
    tumbler := { b.tumbler with running := none }
    hart := { b.hart with running := none }
    phase := .off, m := [], mlog := [], debugLevel := 0, unlocked := false, challenge := none,
    watchdog := false, releasedAt := none, staging := [], session := false, replies := [], seatsOk := [] }

/-- Every rail is down: volatile state is lost (13_tiers_and_flash.md R386). -/
def State.depower (s : State) : State :=
  { s with
    chip := { s.chip.volatileLost with mgmt := { s.chip.volatileLost.mgmt with now := 0 } }
    links := Links.reset
    power := Power.reset
    boot := s.boot.volatileLost
    pins := { s.pins with pgood := false, rails := [], thermN := true } }

/-! ## Boot sequence (R507) -/

/-- The mailboxes that a cause of recovery leaves (R509). -/
def Recovery.boxes : Recovery → List Nat
  | .noTumbler => [12, 13]
  | .identity => [12, 13, 15]
  | .record => [12, 13, 14, 15]
  | .noHartFw => [12, 13, 14, 15]

/-- Recovery (R509): no quadrant rail is up, `CAP_UNITS.VALID` is clear and no hart runs. So it is too for recovery entered at
step 5, after `VALID` was set, where 00_scope.md R9 would keep the capability registers until the next reset: the
model follows R509 (DESIGN CHOICE, notes/assumptions/106.md). -/
def State.recover (s : State) (why : Recovery) : State :=
  { s with
    chip := { s.chip with
      quads := [], clusters := [], harts := [], homes := [], net := [], mem := [], poison := [],
      capUnits := 0, capHarts := 0, hostOpen := false
      mgmt := { s.chip.mgmt with boxes := (List.range 16).foldl (fun m n =>
        tblPut Mailbox.reset m n { bootBox n with opened := why.boxes.contains n }) [] } }
    links := { Links.reset with nonces := s.links.nonces }
    boot := { s.boot with phase := .recovery why, watchdog := false }
    pins := { s.pins with rails := s.pins.rails.filter (fun r => r < 3 || 5 < r) } }

/-- Quadrants of the capability block. -/
def Chip.seats (k : Chip) : List Nat := (List.range 4).filter k.quadPresent

/-- Stacks of a quadrant. -/
def stacksOf (q : Nat) : List Nat := [2 * q, 2 * q + 1]

/-- The stack of an HBM address. -/
def Chip.stackOf (k : Chip) (la : Nat) : Option Nat :=
  if areaOf la = .hbm then (hbmSpot k.hbmPkg la).map (·.1) else none

/-- Repairs applied while the stacks train (19_reset_and_ras.md R541): each candidate row is reported. -/
def Chip.applyRepairs (k : Chip) (sts : List Nat) : Chip :=
  let mine (la : Nat) : Bool := match k.stackOf la with
    | some st => sts.contains st
    | none => false
  let rows := k.mgmt.repairs.filter mine
  let k1 := rows.foldl (fun k la => k.report 0
    { ErrInfo.none with
      cls := 0x0B, level := 0, quad := quadField (k.ownerQuad la), paddr := BitVec.ofNat 64 la,
      detail := BitVec.ofNat 64 la } 1) k
  { k1 with
    mgmt := { k1.mgmt with
      repairs := k1.mgmt.repairs.filter (fun la => !mine la)
      rowErrors := k1.mgmt.rowErrors.filter (fun p => !mine p.1) }
    quads := k1.quads.map (fun e =>
      if (stacksOf e.1).any sts.contains then (e.1, { e.2 with pprPend := 0 }) else e) }

/-- A nonce drawn by a die (01_package_and_hinges.md R52; notes/assumptions/7.md). -/
def State.drawNonce (s : State) (die : Nat) : State :=
  let (v, k) := s.chip.fresh
  { s with chip := k, links := { s.links with nonces := tblPut 0 s.links.nonces die v } }

/-- A quadrant powered and under training. -/
def trainingQuad : Quad := { Quad.reset with up := true, underReset := true }

/-- The pod configuration record applied at boot (14_fabric_and_pods.md R432). -/
def Fabric.applyRecord (f : Fabric) (variant : Nat) (present : List Nat) : Fabric :=
  match f.podRec with
  | none => f
  | some r => { f with
      devnum := r.devnum, podMember := false
      rt := buildRoutes r.topology r.devnum.toNat
      lgrp := buildGroups r.topology variant r.devnum.toNat present }

/-- `VARIANT` less one: 0 TV872, 1 TV860, 2 TV836. -/
def Chip.variantIx (k : Chip) : Nat := bitsOf k.capUnits.toNat 56 7 - 1

/-- The fabric ports present. -/
def Chip.portList (k : Chip) : List Nat := (List.range 12).filter k.fabPresent

/-- The enrolment pending comes into force (R519). -/
def Boot.enrol (b : Boot) : Boot :=
  match b.pendingOwner with
  | none => b
  | some e => { b with owner := if e.remove then none else some e, pendingOwner := none }

/-- The digest of the enrolment record in force, or 64 zero bytes (R513). -/
def Boot.ownerDigest (b : Boot) : BitVec 512 :=
  match b.owner with
  | some o => sha512 o.bytes
  | none => 0

/-- `OWNER_ID`: the key identifier of the owner key in force, or zero (18_boot_and_security.md R515). -/
def Boot.ownerId (b : Boot) : U64 :=
  match b.owner with
  | some o => o.key
  | none => 0

/-- Clocks and limiters when the root PLL runs (17_power_clocks_thermal.md R476, R488, R497;
notes/assumptions/9.md). -/
def bootPower (sts : List Nat) (history : Power) : Power :=
  { Power.reset with
    root := 7800, target := 7800, boost := true, requested := 7800, capLim := 8400, throtLim := 8400,
    ocLim := 8400, estLim := some 7800, doubled := sts, unread := sts, inputW := history.inputW }

/-- Step 4 up to the close of discovery (R507): rails, training and discovery, HBM and LPDDR zeroed. -/
def State.bootStep4 (s : State) : State :=
  let k := s.chip
  let seats := k.seats
  let k1 := { k with
    quads := seats.foldl (fun m q => tblPut Quad.reset m q trainingQuad) []
    clusters := [], mem := [], poison := [], homes := [], hostOpen := true
    fabric := k.fabric.applyRecord k.variantIx k.portList
    hbmPkg := k.storedPkg && seats.length = 4
    pkgAllowed := seats.length = 4 }
  let s1 := { s with
    chip := { k1.applyRepairs (List.range 8) with flash := { k1.flash with ready := k1.flashPresent } }
    links := { Links.reset with nonces := s.links.nonces, discOpen := true }
    power := bootPower ((List.range 8).filter k1.stackPresent) s.power
    boot := { s.boot with phase := .discovery }
    pins := { s.pins with rails := [1, 2, 3, 4, 5, 6, 7] } }
  let s2 := (4 :: seats).foldl (fun s d => s.drawNonce d) s1
  let (cfg, k3) := s2.chip.freshBytes 64
  { s2 with
    chip := k3
    boot := ((s2.boot.enrol).extend
        { reg := 3, kind := 0x11, svn := 0, version := 0, digest := BitVec.ofNat 512 (ofBytes cfg) }).extend
        { reg := 3, kind := 0x11, svn := 0, version := 0, digest := s2.boot.enrol.ownerDigest } }

/-- Step 3 (R507): identity, module record and capability block. -/
def State.bootStep3 (s : State) : State :=
  if !s.boot.identityOk then s.recover .identity
  else if !s.boot.record.valid then s.recover .record
  else
    { s with
      chip := { s.chip with
        capUnits := s.boot.record.capUnits, capHarts := s.boot.record.hartMask
        mgmt := { s.chip.mgmt with boxes := bootBoxes } }
      boot := s.boot.extend { reg := 2, kind := 3, svn := 0, version := 0,
                              digest := sha512 s.boot.record.header } }.bootStep4

/-- Steps 2 and on (R507): a device reset starts here. -/
def State.bootStep2 (s : State) : State :=
  let b := { s.boot with bootCount := s.boot.bootCount + 1 }.extend
    { reg := 0, kind := 0, svn := 0, version := 0, digest := sha512 Config.bootRom }
  match b.tumbler.select (· = .root) with
  | none => { s with boot := b }.recover .noTumbler
  | some t =>
    let b1 := { b with tumbler := t, watchdog := true }
    match t.image with
    | none => { s with boot := b1 }.recover .noTumbler
    | some i => { s with boot := b1.extend (imageEntry 1 1 i) }.bootStep3

/-- The record of a trip the module sequencer held (20_electrical_mechanical.md R550). -/
def TripCause.detail : TripCause → Nat
  | .sensor n => n
  | .peak => 0x100
  | .overvoltage => 0x101
  | .refclk => 0x102
  | .rail n => 0x200 + n

def Chip.tripRecord (k : Chip) (c : TripCause) : Chip :=
  k.report 2 { ErrInfo.none with cls := 8, level := 4, agent := 16, detail := BitVec.ofNat 64 c.detail } 1

/-- A power-on sequence (R507 step 1, R549, R552). -/
def State.powerOn (s : State) : State :=
  let s0 := s.depower
  let s1 := { s0 with pins := { s0.pins with
    rails := [1, 2], pgood := true, faultN := true, cause := none, needEdge := false } }
  let s2 := s1.bootStep2
  match s.pins.cause with
  | some c => s2.onChip (fun k => k.tripRecord c)
  | none => s2

/-- Whether the module sequencer may start rails (R547, R548, R551). -/
def State.mayPower (s : State) : Bool :=
  s.pins.pwrEn && s.pins.modRstN && s.pins.vinOk && s.pins.vsbOk && s.pins.refclk && !s.pins.needEdge

/-- The Tumbler runs: it has started and is not replaced by the boot ROM's recovery (R509). -/
def State.tumblerUp (s : State) : Bool :=
  s.pins.pgood && s.boot.phase ≠ .off && s.boot.phase ≠ .recovery .noTumbler

/-! ## Step 5: hart firmware -/

/-- The bytes of an image in the flash tier. -/
def Flash.imageBytes (f : Flash) (i : Image) : Bytes :=
  (List.range i.length).map (fun n => tblGet 0 f.data (i.offset + n))

/-- A `FW_EVENT` (16_tumbler_interface.md R475): slot and action. -/
def Chip.fwEvent (k : Chip) (b : Bool) (action : Nat) : Chip :=
  k.post 0x0601 0 7 [boolNat b, action]

/-- The boot image copied after the firmware (R507), and M5 (R513). -/
def State.copyBootImage (s : State) (at' : Nat) : State :=
  match s.boot.bootImage.bind (fun id =>
    s.chip.flash.images.find? (fun i => i.id = id && i.st = .sealed)) with
  | none => s
  | some i =>
    { s with
      chip := s.chip.cohWrite at' (s.chip.flash.imageBytes i) false
      boot := s.boot.extend { reg := 5, kind := 0x11, svn := 0, version := 0, digest := i.digest } }

/-- A hart released at its reset vector. -/
def startedHart (entry : U64) : Hart := { Hart.reset with running := true, pc := entry }

/-- The Tumbler's part of step 5 (R507, R508): hart firmware selected, copied and started; the Tumbler's
own slot confirmed and its watchdog disarmed; fall-backs reported. -/
def State.bootStep5 (s : State) : State :=
  match s.boot.hart.select s.boot.hartSigner with
  | none => s.recover .noHartFw
  | some h => match h.image with
    | none => s.recover .noHartFw
    | some i =>
      let s1 := { s with
        chip := { s.chip with hostOpen := true }.cohWrite (paLocal i.load.toNat) i.payload false
        boot := { s.boot with hart := h }.extend (imageEntry 4 2 i) }
      let s2 := s1.copyBootImage (paLocal i.load.toNat + i.payload.length)
      let harts := ((List.range 64).filter s2.chip.capHarts.getLsbD).foldl (fun m n =>
        tblPut Hart.reset m n (startedHart i.entry)) []
      let unconfirmed := !(h.running.all (fun b => (h.slot b).confirmed))
      let t := s2.boot.tumbler
      let tb := t.running.getD false
      let hb := h.running.getD false
      let k1 := if t.running.any (fun b => !(t.slot b).confirmed) then s2.chip.fwEvent tb 3 else s2.chip
      let k2 := if t.fell then k1.fwEvent tb 4 else k1
      let k3 := if h.fell then k2.fwEvent hb 4 else k2
      { s2 with
        chip := { k3 with harts := harts }
        boot := { s2.boot with
          phase := .running, watchdog := false
          tumbler := { t.confirm with fell := false }
          hart := { h with fell := false }
          releasedAt := if unconfirmed then some k3.mgmt.now else none } }

/-! ## Discovery closes (R53-R55) -/

/-- A quadrant that has passed discovery is in service, its ACLK count zero (04_iluchezia_bundles.md R135). -/
def Chip.enterService (k : Chip) (q : Nat) : Chip :=
  if (k.quad q).unusable then k
  else (quadClusters q).foldl (fun k c => k.updCluster c (fun x => { x with st := .idle }))
    (k.updQuad q (fun d => { d with underReset := false, aclk := 0 }))

/-- The hinges of a list that fail a check, or are not `ACTIVE`, are marked `FAILED` (R54, R55). -/
def State.checkHinges (s : State) (hs : List Nat) : State :=
  let seats := s.chip.seats
  let bad := hs.filter (fun h => s.links.hingeState h ≠ .active || !s.links.hingeOk seats h)
  bad.foldl (fun s h => s.onHinge h (fun l => l.failHinge h)) s

/-- A fabric port starts to train once its quadrant runs (14_fabric_and_pods.md R414). -/
def Chip.trainPorts (k : Chip) (q : Nat) : Chip :=
  (span (3 * q) 3).foldl (fun k n =>
    if k.fabPresent n && k.usable q && !(k.fabric.port n).disable then
      k.onFabric (fun f => f.updPort n (fun p =>
        { p.restart with st := .training, retrains := satAdd p.retrains 1 }))
    else k) k

/-- The Tumbler closes discovery at boot and goes on with step 5, or for quadrants that repeat it
(R54, R55). -/
def State.closeDiscovery (s : State) : State :=
  let seats := s.chip.seats
  if s.boot.phase = .discovery then
    let s1 := s.checkHinges (presentHinges seats)
    let s2 := s1.onChip (fun k => seats.foldl (fun k q => (k.enterService q).trainPorts q) k)
    { s2 with
      links := { s2.links with discOpen := false }
      boot := { s2.boot with seatsOk := seats.filter s2.chip.usable } }.reroute.bootStep5
  else
    let qs := s.links.rediscover
    let hs := ((presentHinges seats).filter (fun h => (hingeSeats h).any qs.contains)).filter (fun h =>
      s.links.hingeState h ≠ .failed)
    let s1 := s.checkHinges hs
    let s2 := s1.onChip (fun k => qs.foldl (fun k q => (k.enterService q).trainPorts q) k)
    { s2 with links := { s2.links with rediscover := [] } }.reroute

/-! ## Device reset (R524, R527) -/

/-- Read counters of the flash tier written to NAND (13_tiers_and_flash.md R407). -/
def Chip.saveCounters (k : Chip) : Chip := { k with flash := { k.flash with saved := k.flash.blocks } }

/-- A device reset, commanded through the Tumbler or by the boot watchdog. -/
def State.deviceReset (s : State) (commanded : Bool) : State :=
  let k := if commanded then s.chip.saveCounters else s.chip
  { s with
    chip := k.volatileLost
    links := Links.reset
    power := Power.reset
    boot := s.boot.volatileLost }.bootStep2

/-! ## Power lost (R485, R494, R528, R547, R550) -/

/-- A trip: `FAULT_N` low and every rail down at once. The Tumbler logs a sensor or input trip before the
rails fall; the sequencer holds the cause of the others. -/
def State.trip (s : State) (c : TripCause) : State :=
  if !s.pins.pgood then s
  else
    let logged := match c with
      | .rail _ => false
      | .refclk => false
      | _ => true
    let s1 := if logged then s.onChip (fun k => k.tripRecord c) else s
    let s2 := s1.depower
    { s2 with pins := { s2.pins with
        faultN := false, cause := if logged then none else some c } }

/-! ## Quadrant reset (R526) -/

/-- Launches of a quadrant completed, with `ABORTED` where their outcome was not fixed before (R526; R116). A completion
that cannot be written, held or not, is lost with the quadrant (notes/assumptions/114.md). -/
def Chip.abortAll (k : Chip) (q : Nat) : Chip :=
  (k.quad q).launches.foldl (fun k l =>
    let h := l.completion (l.outcome.getD (2, (0xFF, (0, 0))))
      (if l.all.isEmpty then 0 else (if l.running.isEmpty then l.stopAt else (k.quad q).aclk) / 600 - l.startAt / 600)
    if ((k.quad q).orphaned && areaOf h.addr = .lpddr) || k.reachMem (some q) h.addr ≠ stOk then k
    else k.writeCompletion q h) k

/-- Every line recorded at a home leaves the caches; dirty data returns to memory. -/
def Chip.flushHome (k : Chip) (home : Nat) : Chip :=
  (k.home home).dir.foldl (fun k e => (k.settle e.1 settleBound).flushLine e.1) k

/-- Memory of a quadrant zeroed (13_tiers_and_flash.md R386). -/
def Chip.zeroQuad (k : Chip) (q : Nat) : Chip :=
  { k with
    mem := k.mem.filter (fun e => !k.unitsOf q e.1)
    poison := k.poison.filter (fun e => !k.unitsOf q (e.1 * 128)) }

/-- A quadrant's units at their reset values, its error counters kept (R539). -/
def Chip.clearQuad (k : Chip) (q : Nat) : Chip :=
  let d := k.quad q
  let k1 := k.updQuad q (fun _ => { trainingQuad with
    nextLaunch := d.nextLaunch, charged := d.charged, hbmCe := d.hbmCe, sramCe := d.sramCe, ue := d.ue,
    pprPend := d.pprPend })
  let k2 := (quadClusters q).foldl (fun k c => k.updCluster c (fun x =>
    { Cluster.reset with nextNo := x.nextNo, nextId := x.nextId })) k1
  { (k2.zeroQuad q).applyRepairs (stacksOf q) with
    homes := tblPut Home.reset k2.homes (160 + q) Home.reset
    net := k2.net.filter (fun m => endQuad m.src ≠ some q && endQuad m.dst ≠ some q) }

/-- The hinges of a seat go `OFF` at both sides, to train again with the seat's die as the one that was
reset (01_package_and_hinges.md R44). -/
def Links.resetSeat (l : Links) (q : Nat) : Links :=
  (seatHinges q).foldl (fun l h =>
    if l.hingeState h = .failed then l
    else
      let l1 := l.updHinge h (fun x =>
        { x with st := .off, waiting := false, wanted := false, bundles := [], held := [], before := none })
      let mine := if dieOf (authSide h) = q then authSide h else subSide h
      { l1.updSide mine (fun _ => { Side.reset with fresh := true }) with
        wire := l1.wire.filter (fun w => hingeOf w.1 ≠ h)
        records := l1.records.filter (fun r => hingeOf r.1 ≠ h)
        discHeld := l1.discHeld.filter (fun r => hingeOf r.1 ≠ h) }) l

/-- A seat goes through training and discovery again: new nonce, hinges `OFF`, ports `OFF`. Messages in transit through
the seat leave it first (R526 step 5). -/
def State.retrainSeat (s : State) (q : Nat) : State :=
  let s1 := (s.evacuate q false).drawNonce q
  { s1 with
    links := { s1.links.resetSeat q with rediscover := (s1.links.rediscover.filter (· ≠ q)) ++ [q] }
    chip := s1.chip.onFabric (fun f => ((span (3 * q) 3).foldl (fun f n =>
      f.updPort n (fun p => { p.restart with st := .off })) f).release)
    power := { s1.power with
      doubled := (s1.power.doubled.filter (fun st => !(stacksOf q).contains st)) ++
        (stacksOf q).filter s1.chip.stackPresent
      unread := (s1.power.unread.filter (fun st => !(stacksOf q).contains st)) ++
        (stacksOf q).filter s1.chip.stackPresent } }

/-- A quadrant reset (R526) up to its training, once its clusters have drained; discovery then closes it. -/
def State.quadReset (s : State) (q : Nat) : State :=
  if !s.chip.usable q || (s.chip.quad q).underReset then s
  else
    let s1 := s.onChip (fun k =>
      let k0 := (k.abortAll q).updQuad q (fun d => { d with enable := false, orphaned := false, held := [] })
      let k1 := (quadClusters q).foldl (fun k c => k.purgeCache c) k0
      let k2 := k1.flushHome (160 + q)
      let others := hartAgents ++ ((List.range 4).filter (· ≠ q)).flatMap quadAgents
      ((k2.severAgents others (k2.unitsOf q) stLinkLost).loseWaits q).clearQuad q)
    s1.retrainSeat q

/-! ## Host-complex reset (15_host_die.md R453, R454) -/

/-- Steps 1 and 2: a hart drains its stores and writes its L2 back. A store that cannot reach its unit is discarded
with a record (R446); those to other modules have left already. -/
def Chip.quiesceHart (k : Chip) (h : Nat) : Chip :=
  let k1 := (k.hart h).stores.foldl (fun k s =>
    let st := k.reachMem none (paLocal s.pa)
    if s.sent || !k.isOwn s.pa then k
    else if st = stOk then k.cohWrite (paLocal s.pa) s.data false
    else k.report 1 { hartErr h 4 1 with paddr := BitVec.ofNat 64 s.pa, status := BitVec.ofNat 8 st } 1) k
  ((k1.hart h).l2.map (·.1)).foldl (fun k l => k.purgeLine h l) k1

/-- Mover data on its way over Ethernet is lost with the connections (R454). -/
def Chip.dropRdma (k : Chip) : Chip :=
  let k1 := k.io.rdma.foldl (fun k r =>
    match (k.cluster r.cluster).cmd r.mover r.cmd with
    | none => k
    | some d => k.segFailed r.cluster r.mover d r.seg stLinkLost) k
  { k1 with io := { k1.io with rdma := [] } }

/-- A host-complex reset. -/
def State.hostReset (s : State) : State :=
  let k0 := (List.range 64).foldl (fun k h => k.quiesceHart h) s.chip.saveCounters
  let k1 := { k0.flushHome 164 with l3 := [] }.endHostCommands
  let staging := s.boot.staging.filter (fun x => !k0.hostEnding.contains x.1)
  let k2 := { k1 with hostOpen := false }
  let k3 := ((List.range 4).filter (fun q =>
      k2.usable q && (k2.quad q).up && !(k2.quad q).orphaned)).foldl (fun k q => k.hostLoss q true) k2
  let k4 := k3.dropRdma
  let boxes := (List.range 12).foldl (fun m n => tblMod Mailbox.reset m n (fun b => b.hostReset n)) k4.mgmt.boxes
  { s with
    chip := { k4 with
      harts := [], homes := tblPut Home.reset k4.homes 164 Home.reset
      io := { HostIo.reset with widthStored := k4.io.widthStored, width := k4.io.width, nextRdma := k4.io.nextRdma }
      mgmt := { k4.mgmt with boxes := boxes } }
    boot := { s.boot with
      session := false, staging := staging, releasedAt := none, hart := { s.boot.hart with running := none } } }.bootStep5

/-! ## Device states (17_power_clocks_thermal.md R480-R485) -/

/-- Caches of a quadrant, the system cache among them, emptied before its clocks stop (R482). -/
def Chip.quiesceQuad (k : Chip) (q : Nat) : Chip :=
  ((quadClusters q).foldl (fun k c => k.purgeCache c) (k.flushHome (160 + q))).updQuad q (fun d => { d with sc := [] })

/-- The quadrants that can run. -/
def Chip.runSeats (k : Chip) : List Nat := k.seats.filter k.usable

/-- Entry to D1 (R482). -/
def State.enterD1 (s : State) : State :=
  let s1 := s.onChip (fun k => k.runSeats.foldl (fun k q =>
    (k.quiesceQuad q).updQuad q (fun d => { d with asleep := true })) k)
  { s1 with power := { s1.power with
      dstate := 1, regions := s1.power.regions.map (fun e => (e.1, { e.2 with activity := 0 })) } }

/-- Entry to D2 (R482, R483): quadrants lose their state, hinges and ports are `OFF`. -/
def State.enterD2 (s : State) : State :=
  let seats := s.chip.runSeats
  let s1 := s.onChip (fun k => seats.foldl (fun k q =>
    (((k.quiesceQuad q).severAgents hartAgents (k.unitsOf q) stLinkLost).clearQuad q).updQuad q (fun d =>
      { d with asleep := true, underReset := false })) k)
  { s1 with
    links := s.chip.seats.foldl (fun l q => l.resetSeat q) (seats.foldl (fun s q => s.evacuate q false) s1).links,
    chip := s1.chip.onFabric (fun f => ((List.range 12).foldl (fun f n =>
      f.updPort n (fun p => { p.restart with st := .off })) f).release),
    power := { s1.power with dstate := 2, regions := [] }
    pins := { s1.pins with rails := s1.pins.rails.filter (fun r => r < 3 || 5 < r) } }

/-- Return from D1 (R484). -/
def State.leaveD1 (s : State) : State :=
  let s1 := s.onChip (fun k => k.runSeats.foldl (fun k q => k.updQuad q (fun d => { d with asleep := false })) k)
  { s1 with power := { s1.power with dstate := 0 } }

/-- Return from D2 begins (R484): rails, training and discovery. -/
def State.leaveD2 (s : State) : State :=
  let seats := s.chip.runSeats
  let s1 := seats.foldl (fun s q =>
    (s.onChip (fun k => (k.clearQuad q))).retrainSeat q) s
  { s1 with
    power := { s1.power with dstate := 0, moving := true }
    pins := { s1.pins with rails := [1, 2, 3, 4, 5, 6, 7] } }

end Sys2Proof.Machine
end

