-- ==== Sys2Proof/Machine/Tick.lean ====
section
/-! DEFINITION. One REFCLK cycle (16_tumbler_interface.md R475, 04_iluchezia_bundles.md R135; 14_fabric_and_pods.md R434). -/

namespace Sys2Proof.Machine

/-- The clocks of a quadrant run: it is powered and awake (R480). -/
def quadClocked (q : Quad) : Bool := q.up && !q.asleep

/-- A REFCLK cycle of a quadrant: the ACLK count of a clocked one rises by `ROOT_MHZ / 600` cycles. -/
def Quad.tick (root : Nat) (q : Quad) : Quad := if quadClocked q then { q with aclk := q.aclk + root } else q

/-- The oldest packet of a port that is up waits for credits of its channel (R417). -/
def Port.starved (p : Port) : Bool :=
  (p.st = .active || p.st = .link) &&
    match p.out with
    | [] => false
    | q :: _ => decide (p.credits.getD (pkVc q.pk) 0 < pkUnits q.pk)

/-- A REFCLK cycle of a port: its packets grow older (R426), and it notes whether one waits for credits. -/
def Port.tick (p : Port) : Port :=
  { p with
    out := p.out.map (fun q => { q with age := q.age + 1 })
    inq := p.inq.map (fun q => { q with age := q.age + 1 })
    waited := p.waited || p.starved }

/-- The end of an interval of 1 µs on a port: `CREDIT_STALL` counts it where a packet has waited (R434;
notes/assumptions/59.md). -/
def Port.stall (p : Port) : Port :=
  { p with waited := false, creditStall := if p.waited then satAdd p.creditStall 1 else p.creditStall }

/-- The fabric after the REFCLK cycle that makes the count `now`: 100 cycles are 1 µs. -/
def Fabric.tick (f : Fabric) (now : Nat) : Fabric :=
  { f with
    ports := f.ports.map (fun e => (e.1, if now % 100 = 0 then e.2.tick.stall else e.2.tick))
    waiting := f.waiting.map (fun w => { w with q := { w.q with age := w.q.age + 1 } }) }

/-- A number moved towards another by at most `n`. -/
def towards (x goal n : Nat) : Nat := if x ≤ goal then min goal (x + n) else max goal (x - n)

/-- The root during a slew, at the REFCLK cycle that makes the count `now`: 50 MHz each µs, which is 1 MHz in two
cycles (17_power_clocks_thermal.md R477). -/
def Power.slew (p : Power) (now : Nat) : Power :=
  if p.slewing && now % 2 = 0 then { p with root := towards p.root p.target 1 } else p

/-- A REFCLK cycle: the REFCLK count rises while the host die runs, and each quadrant's clock goes on. -/
def tick (s : State) : State :=
  if s.pins.pgood then
    { s with
      power := s.power.slew (s.chip.mgmt.now + 1)
      chip := { s.chip with
        mgmt := { s.chip.mgmt with now := s.chip.mgmt.now + 1 }
        fabric := s.chip.fabric.tick (s.chip.mgmt.now + 1)
        quads := s.chip.quads.map (fun e => (e.1, e.2.tick s.power.root)) } }
  else s

end Sys2Proof.Machine
end

