-- ==== Sys2Proof/Machine/Power.lean ====
section
/-! DEFINITION. The commands of clocks, power and thermal control (17_power_clocks_thermal.md
R476-R501). -/

namespace Sys2Proof.Machine

def Power.sensor (p : Power) (n : Nat) : Sensor := tblGet Sensor.reset p.sensors n
def Power.region (p : Power) (n : Nat) : Region := tblGet Region.reset p.regions n
def Power.updRegion (p : Power) (n : Nat) (f : Region → Region) : Power :=
  { p with regions := tblMod Region.reset p.regions n f }

def State.onPower (s : State) (f : Power → Power) : State := { s with power := f s.power }

/-! ## The root (R476, R477, R479) -/

/-- A hinge trains or waits to train, so that slews are held (01_package_and_hinges.md R42). -/
def Links.training (l : Links) : Bool :=
  (List.range 8).any (fun h =>
    let st := l.hingeState h
    (l.side (authSide h)).waiting || st = .clock || st = .deskew || st = .pattern || st = .widthSet || st = .confirm)

/-- `CLK_STAT.HOLD`: a slew is held by hinge training. -/
def State.slewHeld (s : State) : Bool :=
  s.power.root ≠ s.power.target && !s.power.slewing && s.links.training

/-- A slew begins (R477), unless hinge training holds it. -/
def execRootSlewStart (s : State) : Host.Outcome State Fault Refusal :=
  .next (if s.pins.pgood && s.power.root ≠ s.power.target && !s.links.training then
    s.onPower (fun p => { p with slewing := true }) else s)

/-- A slew ends at the target in force (R477). -/
def execRootSlewEnd (s : State) : Host.Outcome State Fault Refusal :=
  .next (if s.power.slewing then s.onPower (fun p => { p with root := p.target, slewing := false }) else s)

/-! ## Power windows (R486-R490, R493, R495, R497) -/

/-- TDP in watts and input current limit in amperes of a variant (00_scope.md R1;
20_electrical_mechanical.md R546). -/
def tdpOf (variantIx : Nat) : Nat := match variantIx with | 0 => 2500 | 1 => 2400 | _ => 1900
def inputLimitOf (variantIx : Nat) : Nat := match variantIx with | 0 => 72 | 1 => 69 | _ => 55

/-- The floor of the cap: 40 % of TDP (R487). -/
def capFloor (variantIx : Nat) : Nat := tdpOf variantIx * 2 / 5

/-- The power limit that a cap gives (R487). -/
def limitOf (variantIx : Nat) : Option Nat → Nat
  | some c => min c (tdpOf variantIx)
  | none => tdpOf variantIx

/-- The power limit L (R487). -/
def Power.limit (p : Power) (variantIx : Nat) : Nat := limitOf variantIx p.cap

/-- A limiter that falls does so from the target in force where that is the lower of the two, so that its first step
bites (the examples of 17_power_clocks_thermal.md and 20_electrical_mechanical.md; log entry 123, DEDUCED); one that
rises goes up by 100 MHz to 8,400. -/
def limStep (lim target down : Nat) (lower raise : Bool) : Nat :=
  if lower then max 2600 (min lim target - down) else if raise then min 8400 (lim + 100) else lim

/-- The cap limiter at the end of a window of average power `w` (R487). -/
def capStep (lim target w limit : Nat) : Nat :=
  limStep lim target (100 * max 1 ((w - limit) / 50)) (decide (limit < w)) (decide (100 * w < 97 * limit))

/-- A limiter's loop acted in a window (R490): it fell, or it moved while it set the target (log entry 123, DEDUCED from
the same examples: holding is no intervention, recovering is one). -/
def loopActed (lower : Bool) (old new : Nat) (binds : Bool) : Bool := lower || (binds && old != new)

/-- Throttle and release thresholds in units of 0.125 °C, and trip (R493). -/
def throttleAt (n : Nat) : Option Nat := if n < 12 || n = 20 then some 840 else if n < 20 then some 760 else none
def releaseAt (n : Nat) : Nat := if n < 12 || n = 20 then 824 else 744
def tripAt (n : Nat) : Option Nat := if n < 12 || n = 20 then some 960 else if n < 20 then some 840 else none

/-- A sensor reads at or above a threshold, or below one. -/
def Sensor.atLeast (x : Sensor) (t : Nat) : Bool := x.valid && decide ((t : Int) ≤ x.temp.toInt)
def Sensor.below (x : Sensor) (t : Nat) : Bool := x.valid && decide (x.temp.toInt < (t : Int))

/-- The junction sensors of this module: regions, stacks and the host die. -/
def Chip.junctions (k : Chip) : List Nat :=
  ((List.range 12).filter (fun r => k.quadPresent (r / 3))) ++
    ((List.range 8).filter k.stackPresent).map (12 + ·) ++ [20]

/-- Boost may rise (R488). -/
def State.boostRises (s : State) (w limit : Nat) : Bool :=
  s.power.boost && s.power.estLim.isNone && decide (100 * w < 95 * limit) && s.power.limiter = 0 &&
    s.chip.junctions.all (fun n => (s.power.sensor n).below 760)

/-- The requested frequency after a window (R486, R488). -/
def State.nextRequested (s : State) (w limit : Nat) : Nat :=
  if s.power.fixed then s.power.requested
  else if s.boostRises w limit then min 8400 (s.power.requested + 100)
  else max 7800 (s.power.requested - 100)

/-- The smallest of the limits of R486 and its code; on a tie the earliest. -/
def smallest (req cap throt oc : Nat) (est : Option Nat) : Nat × BitVec 3 :=
  let best := [((cap, 1) : Nat × BitVec 3), (throt, 2), (oc, 3)].foldl (fun b x => if x.fst < b.fst then x else b)
    ((req, 0) : Nat × BitVec 3)
  match est with
  | some e => if e < best.fst then (e, 4) else best
  | none => best

/-- A region's ceiling after a millisecond (R493). -/
def Power.throttleRegion (p : Power) (r : Nat) : Power :=
  let x := p.sensor r
  p.updRegion r (fun g =>
    { g with
      ceiling :=
        if x.atLeast 840 then BitVec.ofNat 8 (g.ceiling.toNat - 16)
        else if x.below 824 then BitVec.ofNat 8 (min 255 (g.ceiling.toNat + 16)) else g.ceiling })

/-- The limiters and the target at the end of a window. -/
def State.windowLimits (s : State) (r : WindowReading) : Power :=
  let p := s.power
  let v := s.chip.variantIx
  let limit := p.limit v
  let w := r.inputW.toNat
  let host := p.sensor 20
  let cap := capStep p.capLim p.target w limit
  let throt := limStep p.throtLim p.target 100 (host.atLeast 840) (host.below 824)
  let above := decide (inputLimitOf v < r.inputA.toNat)
  let oc := limStep p.ocLim p.target 200 above (decide (10 * r.inputA.toNat < 9 * inputLimitOf v))
  let est := p.estLim.map (fun _ => if limit = tdpOf v then 7800 else r.estimateMhz)
  let req := s.nextRequested w limit
  let (t, l) := smallest req cap throt oc est
  let acted := p.acted ++ (if loopActed above p.ocLim oc (l = 3) then [2] else []) ++
    (if (List.range 12).any (fun n => (p.sensor n).atLeast 840) then [5] else []) ++
    (if (List.range 8).any (fun n => p.throttled.contains (12 + n)) then [6] else []) ++
    (if loopActed (host.atLeast 840) p.throtLim throt (l = 2) then [7] else []) ++
    (if loopActed (decide (limit < w)) p.capLim cap (l = 1) then [8] else [])
  let p1 := { p with
    target := t, limiter := l, requested := req, capLim := cap, throtLim := throt, ocLim := oc, estLim := est,
    cap := p.capSet, inputW := r.inputW, calm := if cap < p.capLim then 0 else p.calm + 1, acted := acted.eraseDups }
  (List.range 12).foldl Power.throttleRegion p1

/-- An intervention interval of fixed-frequency mode (R490, R499). -/
def State.recordIntervals (s : State) : State :=
  let p := s.power
  match p.acted.getLast? with
  | none => s
  | some last =>
    if !p.fixed then s.onPower (fun p => { p with acted := [] })
    else
      let now := s.chip.mgmt.now
      let s1 := s.onPower (fun p => { p with
        acted := []
        intervals := satAdd p.intervals 1
        lastLoop := BitVec.ofNat 4 last
        history := (p.history ++ [(now - 100000, now)]).drop (p.history.length + 1 - 64) })
      p.acted.foldl (fun s loop => s.onChip (fun k =>
        k.post 0x0202 1 7 [loop, s1.power.intervals.toNat])) s1

/-- A power window of 1 ms ends (R486-R490). -/
def execPowerWindow (r : WindowReading) (s : State) : Host.Outcome State Fault Refusal :=
  .next (
    if !s.tumblerUp then s
    else
      let old := s.power
      let s1 := { s with power := s.windowLimits r }
      let s2 := if s1.power.capLim < old.capLim && 100 ≤ old.calm then
          s1.onChip (fun k => k.post 0x0203 1 7 [s.chip.mgmt.now, r.inputW.toNat])
        else s1
      s2.recordIntervals)

/-- The regulators' first calibrated readings (R497): the cap limiter goes on from the estimator's limit. -/
def execEstimatorCalibrated (s : State) : Host.Outcome State Fault Refusal :=
  .next (match s.power.estLim with
    | some e => s.onPower (fun p => { p with estLim := none, capLim := min p.capLim e })
    | none => s)

/-! ## Regions (R491, R492, R495) -/

/-- Step of a ramp table (R491). -/
def rampStep (t : BitVec 2) : Nat := match t.toNat with | 0 => 5 | 1 => 3 | 2 => 2 | _ => 1

/-- A window of 64 ACLK cycles of a region (R491, R493, R495). -/
def execRampWindow (region : Nat) (demand : BitVec 8) (s : State) : Host.Outcome State Fault Refusal :=
  .next (
    if region < 12 && quadClocked (s.chip.quad (region / 3)) then
      s.onPower (fun p => p.updRegion region (fun g =>
        let goal := min demand.toNat (min g.ceiling.toNat (if p.railCap.contains (region / 3) then 128 else 255))
        { g with activity := BitVec.ofNat 8 (towards g.activity.toNat goal (rampStep g.table)) }))
    else s)

/-- A loop has acted in the current window (R490). -/
def Power.act (p : Power) (loop : Nat) : Power :=
  if p.acted.contains loop then p else { p with acted := p.acted ++ [loop] }

/-- A droop detector fires (R492). -/
def execDroopDetect (region : Nat) (s : State) : Host.Outcome State Fault Refusal :=
  .next (if region < 12 && quadClocked (s.chip.quad (region / 3)) then
    s.onPower (fun p => (p.updRegion region (fun g => { g with droop := true })).act 1) else s)

/-- A region's period is normal again (R492). -/
def execDroopRecover (region : Nat) (s : State) : Host.Outcome State Fault Refusal :=
  .next (if region < 12 then s.onPower (fun p => p.updRegion region (fun g => { g with droop := false })) else s)

/-- A quadrant rail is over its limit for 1 µs (R495). -/
def execRailOvercurrent (q : Nat) (s : State) : Host.Outcome State Fault Refusal :=
  .next (if (s.chip.quad q).up then
    s.onPower (fun p => { p.act 2 with railCap := p.railCap.filter (· ≠ q) ++ [q] }) else s)

/-- A quadrant rail has stayed below 90 % of its limit for 100 µs (R495). -/
def execRailOvercurrentRelease (q : Nat) (s : State) : Host.Outcome State Fault Refusal :=
  .next (s.onPower (fun p => { p with railCap := p.railCap.filter (· ≠ q) }))

/-- The input is above the transient peak for 10 ms (R495). -/
def execVinPeakTimeout (s : State) : Host.Outcome State Fault Refusal := .next (s.trip .peak)

/-! ## Sensors (R393, R493, R494, R501) -/

/-- `UNIT` of a sensor. -/
def sensorUnit (n : Nat) : Nat := if n < 12 then n / 3 else if n < 20 then (n - 12) / 2 else 7

/-- A sensor register after a reading. -/
def Sensor.read (x : Sensor) (n : Nat) (t : BitVec 12) : Sensor :=
  { temp := t, valid := true
    throt := match throttleAt n with
      | some a => decide ((a : Int) ≤ t.toInt)
      | none => false
    maxT := if !x.valid || decide (x.maxT.toInt < t.toInt) then t else x.maxT }

/-- Whether a stack refreshes at twice the rate after a reading (R393): 85 °C is 680, 82 °C is 656. -/
def refreshDouble (first was : Bool) (t : BitVec 12) : Bool :=
  if first then decide (680 < t.toInt) else if was then decide (656 ≤ t.toInt) else decide (680 < t.toInt)

/-- A coolant reading that is reported: above 50 °C at the inlet or 75 °C at the outlet
(20_electrical_mechanical.md R557). -/
def hotCoolant (n : Nat) (t : BitVec 12) : Bool :=
  (n = 21 && decide (400 < t.toInt)) || (n = 22 && decide (600 < t.toInt))

/-- A sensor delivers a reading (R393, R493, R501). -/
def State.takeReading (s : State) (n : Nat) (t : BitVec 12) : State :=
  let p := s.power
  let x := p.sensor n
  let y := x.read n t
  let on := y.throt
  let was := p.throttled.contains n
  let stops := was && y.below (releaseAt n)
  let dbl := p.doubled.filter (· ≠ n - 12)
  let p1 := { p with
    sensors := tblPut Sensor.reset p.sensors n y
    throttled := if on && !was then p.throttled ++ [n] else if stops then p.throttled.filter (· ≠ n)
      else p.throttled
    unread := p.unread.filter (· + 12 ≠ n)
    doubled := if 12 ≤ n && n < 20 then
        (if refreshDouble (p.unread.contains (n - 12)) (p.doubled.contains (n - 12)) t then dbl ++ [n - 12] else dbl)
      else p.doubled }
  let s1 := { s with
    power := p1
    pins := { s.pins with thermN := !(List.range 21).any (fun m => (p1.sensor m).throt) } }
  if hotCoolant n t then s1.onChip (fun k => k.post 0x0201 1 7 [n, t.toNat, 0])
  else if on && !was then s1.onChip (fun k => k.post 0x0201 1 (sensorUnit n) [n, t.toNat, 0])
  else if stops then s1.onChip (fun k => k.post 0x0201 0 (sensorUnit n) [n, t.toNat, 1])
  else s1

/-- A sensor reading (R501): of a sensor that is present, on a powered module. -/
def execThermalSensorReading (sensor : Nat) (temp : BitVec 12) (s : State) : Host.Outcome State Fault Refusal :=
  .next (if s.tumblerUp && (s.chip.junctions.contains sensor || sensor = 21 || sensor = 22) then
    s.takeReading sensor temp else s)

/-- A sensor is at or above its trip temperature (R494). -/
def execThermalTrip (sensor : Nat) (s : State) : Host.Outcome State Fault Refusal :=
  .next (match tripAt sensor with
    | some t =>
      if (s.power.sensor sensor).atLeast t then
        (s.onChip (fun k => k.post 0x0201 2 (sensorUnit sensor)
          [sensor, (s.power.sensor sensor).temp.toNat, 2])).trip (.sensor sensor)
      else s
    | none => s)

/-- `CLR_MAX` of a sensor register (R501). -/
def execThmClrMax (sensor : Nat) (w : RegW) (s : State) : Host.Outcome State Fault Refusal :=
  .next (if regSets w 28 then
    s.onPower (fun p => { p with sensors := tblMod Sensor.reset p.sensors sensor (fun x => { x with maxT := x.temp }) })
    else s)

/-! ## Energy (R498) -/

/-- A table of counters with measured amounts added; they wrap. -/
def addEnergy (m : SMap U64) (l : List (Nat × Nat)) : SMap U64 :=
  l.foldl (fun m e => tblMod 0 m e.1 (· + BitVec.ofNat 64 e.2)) m

/-- Shares of clusters added to the counters that their launches name (R109), as far as each quadrant's measured
core energy reaches. A cluster that ran no launch charging that counter is charged to none. -/
def addShares (ran : Nat → Nat → Bool) (m : SMap U64) (core : List (Nat × Nat)) : List (Nat × (Nat × Nat)) → SMap U64
  | [] => m
  | (c, (n, v)) :: r =>
    if ran c n then
      let left := ((core.filter (fun e => e.1 = c / 24)).map (·.2)).foldl (· + ·) 0
      addShares ran (tblMod 0 m n (· + BitVec.ofNat 64 (min v left)))
        ((c / 24, left - min v left) :: core.filter (fun e => e.1 ≠ c / 24)) r
    else addShares ran m core r

/-- The clusters that run a launch now, with the counters they charge. -/
def Quad.charging (d : Quad) : List (Nat × Nat) :=
  d.launches.flatMap (fun l => l.running.map (fun c => (c, l.rec'.queue.toNat)))

/-- The energy counters are updated (R498). -/
def execEnergyUpdate (e : EnergyReading) (s : State) : Host.Outcome State Fault Refusal :=
  .next (if s.tumblerUp then
    (s.onChip (fun k => (List.range 4).foldl (fun k q =>
      k.updQuad q (fun d => { d with charged := d.charging })) k)).onPower (fun p => { p with
      hostEnergy := p.hostEnergy + BitVec.ofNat 64 e.hostDie
      modEnergy := p.modEnergy + BitVec.ofNat 64 e.module
      qEnergy := addEnergy p.qEnergy (e.core.filter (fun x => s.chip.quadPresent x.1))
      hbmEnergy := addEnergy p.hbmEnergy (e.stack.filter (fun x => s.chip.stackPresent x.1))
      wqEnergy := addShares (fun c n => (s.chip.quad (c / 24)).charged.contains (c, n)) p.wqEnergy
        (e.core.filter (fun x => s.chip.quadPresent x.1)) e.share })
    else s)

end Sys2Proof.Machine
end

