-- ==== Sys2Proof/Machine/RegRead.lean ====
section
/-! DEFINITION. The register space (02_address_map.md R73-R78): which block an address lies in, and what
every register reads as. -/

namespace Sys2Proof.Machine

/-! ## Where an address lies (R73-R75) -/

/-- A place in register space, with the offset in its block. -/
inductive RegLoc where
  | tmb (n off : Nat)
  | cap (off : Nat)
  | clk (off : Nat)
  | pwr (off : Nat)
  | thm (off : Nat)
  | err (off : Nat)
  | fab (off : Nat)
  | flt (off : Nat)
  | quad (q off : Nat)
  | cluster (c off : Nat)
  deriving DecidableEq, Repr

/-- The block of an offset in register space; none where it is unassigned (R73-R75, R77). -/
def Chip.regLoc (k : Chip) (la : Nat) : Option RegLoc :=
  let o := la - 0x30000000000
  if o < 0x10000 then some (.tmb (o / 0x1000) (o % 0x1000))
  else if 0x100000 ≤ o && o < 0x101000 then some (.cap (o - 0x100000))
  else if 0x200000 ≤ o && o < 0x210000 then some (.clk (o - 0x200000))
  else if 0x300000 ≤ o && o < 0x310000 then some (.pwr (o - 0x300000))
  else if 0x340000 ≤ o && o < 0x350000 then some (.thm (o - 0x340000))
  else if 0x400000 ≤ o && o < 0x410000 then some (.err (o - 0x400000))
  else if 0x500000 ≤ o && o < 0x510000 then some (.fab (o - 0x500000))
  else if 0x600000 ≤ o && o < 0x610000 then (if k.flashPresent then some (.flt (o - 0x600000)) else none)
  else if 0x1000000 ≤ o && o < 0x1400000 then
    let q := (o - 0x1000000) / 0x100000
    let p := (o - 0x1000000) % 0x100000
    if !k.quadPresent q || 0x80000 ≤ p then none
    else if 0x70000 ≤ p && p < 0x73000 && !k.fabPresent (3 * q + (p - 0x70000) / 0x1000) then none
    else some (.quad q p)
  else if 0x10000000 ≤ o && o < 0x10600000 then
    let c := (o - 0x10000000) / 0x10000
    let p := (o - 0x10000000) % 0x10000
    if k.clusterPresent c && p < 0x6000 then some (.cluster c p) else none
  else none

/-- The quadrant a place lies in. -/
def RegLoc.quadOf : RegLoc → Option Nat
  | .quad q _ => some q
  | .cluster c _ => some (c / 24)
  | _ => none

/-- A place in the data area of a mailbox, which takes accesses of 1 and 2 bytes as well (R76, R457). -/
def RegLoc.dataArea : RegLoc → Bool
  | .tmb _ o => o < 0x80 || 0x100 ≤ o
  | _ => false

/-- Whether the register blocks of a quadrant are refused: unusable, under reset, or in D2 to any agent,
and to the host side while it is orphaned (R72; 17_power_clocks_thermal.md R480, R483; 19_reset_and_ras.md
R526, R530). In D1 the blocks stay reachable. -/
def State.regShut (s : State) (src : Option Nat) (q : Nat) : Bool :=
  let d := s.chip.quad q
  d.unusable || d.underReset || !d.up || (d.asleep && s.power.dstate = 2) ||
    match src with
    | none => d.orphaned
    | some p => s.chip.parted p q

/-! ## Words -/

/-- A word made of fields: lowest bit, width and value. -/
def pack : List (Nat × (Nat × Nat)) → Nat
  | [] => 0
  | (lo, (w, v)) :: r => v % 2 ^ w * 2 ^ lo + pack r

def packW (l : List (Nat × (Nat × Nat))) : U64 := BitVec.ofNat 64 (pack l)

/-- `HNG_STATUS` of a side (01_package_and_hinges.md R56). -/
def Links.statusWord (l : Links) (n : Nat) : U64 :=
  let s := l.side n
  packW [(0, (3, s.st.code)), (3, (1, boolNat s.half)), (4, (2, s.failCount.toNat)),
    (6, (1, boolNat (authSide (hingeOf n) = n))), (8, (16, s.passMap.toNat)),
    (32, (1, boolNat (dieOf (peerSide n) = 4))), (33, (2, if dieOf (peerSide n) = 4 then 0 else dieOf (peerSide n)))]

/-- `HNG_ERRCNT` (R57). -/
def Side.errWord (s : Side) : U64 :=
  packW [(0, (16, s.crcErr.toNat)), (16, (16, s.replays.toNat)), (32, (16, s.retrains.toNat))]

/-- `CAP_HBM_MAP` (02_address_map.md R66). `SET_HBM_MAP` changes `STORED_MODE` at once, as its description says, although the
rule keeps the register's values until the next reset (DESIGN CHOICE, notes/assumptions/120.md). -/
def Chip.hbmMapWord (k : Chip) : U64 :=
  packW [(0, (1, boolNat k.hbmPkg)), (1, (1, boolNat k.pkgAllowed)), (2, (1, boolNat k.storedPkg))]

/-- `CLK_STAT` (17_power_clocks_thermal.md R479). -/
def State.clkWord (s : State) : U64 :=
  let p := s.power
  packW [(0, (14, p.root)), (16, (14, p.target)), (32, (1, boolNat p.fixed)), (33, (1, boolNat p.boost)),
    (34, (1, boolNat (p.root ≠ p.target))), (35, (1, boolNat s.slewHeld)), (40, (3, p.limiter.toNat))]

/-- `PWR_STAT` (R499). -/
def State.pwrWord (s : State) : U64 :=
  packW [(0, (2, s.power.dstate.toNat)), (2, (1, boolNat s.power.moving)),
    (16, (16, if s.tumblerUp then s.power.limit s.chip.variantIx else 0)), (32, (16, s.power.inputW.toNat))]

/-- `PWR_INTV` (R499). -/
def Power.intvWord (p : Power) : U64 := packW [(0, (32, p.intervals.toNat)), (32, (4, p.lastLoop.toNat))]

/-- `PWR_RAMP` of a quadrant (R500). -/
def Power.rampWord (p : Power) (q : Nat) : U64 :=
  packW ((List.range 3).map (fun r => (2 * r, (2, (p.region (3 * q + r)).table.toNat))))

/-- A sensor register (R501). -/
def Sensor.word (x : Sensor) : U64 :=
  packW [(0, (12, x.temp.toNat)), (12, (1, boolNat x.valid)), (13, (1, boolNat x.throt)), (16, (12, x.maxT.toNat))]

/-- `ERR_STAT` (19_reset_and_ras.md R539). -/
def Mgmt.errWord (m : Mgmt) : U64 :=
  packW [(0, (32, m.errNext.toNat)), (32, (11, m.bank.length)), (48, (1, boolNat m.errOverflow))]

/-- `ERR_QCE` (R539). -/
def Quad.errWord (d : Quad) : U64 :=
  packW [(0, (16, d.hbmCe.toNat)), (16, (16, d.sramCe.toNat)), (32, (16, d.ue.toNat)), (48, (16, d.pprPend.toNat))]

/-- `FAB_DEVNUM` (02_address_map.md R68). -/
def Fabric.devWord (f : Fabric) : U64 := packW [(0, (6, f.devnum.toNat)), (6, (1, boolNat f.podMember))]

/-- The package fabric block (14_fabric_and_pods.md R433). -/
def Fabric.word (f : Fabric) (o : Nat) : U64 :=
  if o = 0 then f.devWord
  else if o = 0x10 then packW [(0, (16, f.timeouts.toNat)), (16, (16, f.unroute.toNat)),
    (32, (16, f.expired.toNat)), (48, (16, f.malformed.toNat))]
  else if 0x100 ≤ o && o < 0x300 then
    let e := f.route ((o - 0x100) / 8)
    packW [(0, (1, boolNat e.valid)), (1, (4, e.reqGrp.toNat)), (5, (4, e.rspGrp.toNat))]
  else if 0x400 ≤ o && o < 0x460 then
    let n := (o - 0x400) / 8
    let g := f.group n
    packW [(0, (12, g.ports.toNat)), (12, (12, (portMask (f.live n)).toNat)), (24, (1, boolNat g.dim)),
      (25, (1, boolNat g.dateline)), (26, (1, boolNat g.valid)), (32, (6, g.peer.toNat))]
  else 0

/-- Codes of R414. -/
def PortState.code : PortState → Nat
  | .off => 0 | .training => 1 | .link => 2 | .active => 3 | .down => 4

/-- The block of a local port (R434). -/
def Port.word (p : Port) (o : Nat) : U64 :=
  if o = 0 then packW [(0, (3, p.st.code)), (8, (4, p.group.toNat)), (12, (1, boolNat p.gvalid)),
    (13, (6, p.peerDev.toNat)), (19, (4, p.peerPort.toNat)), (23, (1, boolNat p.peerCfg)),
    (32, (16, p.retrains.toNat))]
  else if o = 8 then packW [(0, (16, p.fecUncorr.toNat)), (16, (16, p.replaysReq.toNat)),
    (32, (16, p.creditStall.toNat))]
  else if o = 0x10 then packW [(2, (1, boolNat p.disable))]
  else 0

/-- `FLT_STAT` (R411). -/
def Flash.statWord (f : Flash) : U64 :=
  packW [(0, (1, boolNat f.ready)), (1, (1, boolNat f.reloc)), (2, (1, boolNat f.defer.isSome)),
    (3, (1, boolNat f.cntLost)), (4, (1, boolNat (f.ready && f.sparePct.toNat < 2))),
    (16, (11, (f.images.filter (fun i => i.st = .sealed)).length))]

/-- The flash block (R411). -/
def Flash.word (f : Flash) (o : Nat) : U64 :=
  if o = 0 then f.statWord
  else if o = 8 then packW [(0, (28, (f.images.map Image.units).foldl (· + ·) 0))]
  else if o = 0x10 then f.rdbytes
  else if o = 0x18 then packW [(0, (16, f.retried.toNat)), (16, (16, f.rebuilt.toNat)), (32, (16, f.uncorr.toNat)),
    (48, (16, f.timeout.toNat))]
  else if o = 0x20 && f.ready then packW [(0, (8, f.wearPct.toNat)), (8, (8, f.sparePct.toNat))]
  else 0

/-- Codes of `DSP_CLST.STATE` (03_cluster_execution.md R99). -/
def ClState.code : ClState → Nat
  | .off => 0 | .idle => 1 | .gated => 2 | .running => 3 | .stopping => 4 | .reset => 5

/-- `DSP_CLST` (R99). -/
def Cluster.clstWord (x : Cluster) : U64 :=
  packW [(0, (3, x.st.code)), (8, (10, x.queue.toNat)), (32, (16, x.seq.toNat))]

/-- The dispatcher block of quadrant `q` (R97-R102, R114). -/
def Chip.dspWord (k : Chip) (q o : Nat) : U64 :=
  let d := k.quad q
  if o = 0 then packW [(0, (1, boolNat d.enable)), (1, (1, boolNat d.pgate))]
  else if o = 0x10 then packW [(0, (1, boolNat d.abtBusy)), (1, (3, d.abtResult.toNat))]
  else if 0x100 ≤ o && o < 0x1C0 then (k.cluster (24 * q + (o - 0x100) / 8)).clstWord
  else if 0x1000 ≤ o && o < 0x3000 then
    let w := d.queue ((o - 0x1000) / 32)
    if o % 32 = 0 then w.base.setWidth 64 <<< 7
    else if o % 32 = 8 then w.cfgWord
    else if o % 32 = 24 then w.headWord
    else 0
  else 0

/-- The hasp block (09_hasps.md R304-R308). -/
def Quad.hspWord (d : Quad) (o : Nat) : U64 :=
  if o < 0x8000 then
    let h := d.hasp (o / 8)
    packW [(0, (48, h.count.toNat)), (48, (1, boolNat h.err)), (49, (1, boolNat h.sat))]
  else if o = 0x8010 then packW [(0, (1, boolNat d.satev)), (1, (1, boolNat d.ropErr))]
  else if 0x9000 ≤ o && o < 0x9400 then
    let n := tblGet Notifier.reset d.notifiers ((o - 0x9000) / 16)
    if o % 16 = 0 then packW [(0, (12, n.index.toNat)), (16, (1, boolNat n.en)), (17, (1, boolNat n.onErr)),
      (18, (1, boolNat n.fired))]
    else n.thresh.setWidth 64
  else 0

/-- The translation block (12_range_translation.md R382). -/
def Chip.xltWord (k : Chip) (q o : Nat) : U64 :=
  let d := k.quad q
  let r := k.space d.spsel.toNat
  if o = 8 then packW [(0, (1, boolNat d.invBusy)), (1, (1, boolNat d.invDropped))]
  else if o = 0x10 then d.spsel.setWidth 64
  else if o = 0x18 then packW [(0, (1, boolNat r.en)), (4, (8, r.domain.toNat)), (12, (17, r.count.toNat))]
  else if o = 0x20 then r.tbase.setWidth 64 <<< 12
  else if o = 0x28 then packW [(0, (1, boolNat d.malformed)), (1, (1, boolNat d.walkErr)), (16, (12, d.malSpace.toNat))]
  else if o = 0x30 then d.malAddr.setWidth 64
  else if o = 0x38 then packW [(0, (32, d.l2hit.toNat)), (32, (32, d.walks.toNat))]
  else 0

/-- The quadrant block (R74). -/
def State.quadWord (s : State) (q o : Nat) : U64 :=
  let p := o % 0x10000
  match o / 0x10000 with
  | 0 => s.chip.dspWord q p
  | 1 => (s.chip.quad q).hspWord p
  | 2 => s.chip.xltWord q p
  | 3 =>
    let n := baseSide q (p / 0x100)
    if 0x300 ≤ p then 0
    else if p % 0x100 = 0 then s.links.statusWord n
    else if p % 0x100 = 8 then (s.links.side n).errWord
    else 0
  | 4 =>
    if p = 0 then tblGet 0 s.power.qEnergy q
    else if p = 8 || p = 0x10 then tblGet 0 s.power.hbmEnergy (2 * q + (p - 8) / 8)
    else if p = 0x18 then s.power.rampWord q
    else if 0x1000 ≤ p && p < 0x1800 then tblGet 0 s.power.wqEnergy (256 * q + (p - 0x1000) / 8)
    else 0
  | 5 =>
    if p < 0x18 then (s.power.sensor (3 * q + p / 8)).word
    else if p = 0x20 || p = 0x28 then (s.power.sensor (12 + 2 * q + (p - 0x20) / 8)).word
    else 0
  | 6 => if p = 0 then (s.chip.quad q).errWord else 0
  | 7 => if p < 0x3000 then (s.chip.fabric.port (3 * q + p / 0x1000)).word (p % 0x1000) else 0
  | _ => 0

/-- `CLU_MSTAT` (05_matrix_units.md R195). -/
def MUnit.word (u : MUnit) : U64 :=
  packW [(0, (17, u.gcount.toNat)), (17, (1, boolNat u.complex)), (24, (1, boolNat u.limit)),
    (25, (1, boolNat u.flags.ovf)), (26, (1, boolNat u.flags.invalid)), (27, (1, boolNat u.flags.nanin)),
    (28, (1, boolNat u.flags.dovf)), (29, (1, boolNat u.flags.bump))]

/-- `CLU_VSTAT` (06_vector_units.md R223). -/
def VUnit.word (u : VUnit) : U64 :=
  packW [(0, (1, boolNat u.flags.invalid)), (1, (1, boolNat u.flags.ovf)), (2, (1, boolNat u.flags.nanin)),
    (3, (1, boolNat u.flags.irange)), (4, (1, boolNat u.flags.bump))]

/-- `CLU_LUTST` (07_special_functions.md R242). -/
def Lut.word (l : Lut) : U64 :=
  packW [(0, (1, boolNat l.active)), (1, (1, boolNat l.loaded)), (2, (1, boolNat l.bank0.valid)),
    (3, (1, boolNat l.bank1.valid)), (4, (1, boolNat l.badimg)), (8, (8, l.gen.toNat))]

/-- The `CLU_` registers (R75). -/
def Cluster.word (x : Cluster) (o : Nat) : U64 :=
  if 0x200 ≤ o && o < 0x220 then (x.munit ((o - 0x200) / 8)).word
  else if 0x240 ≤ o && o < 0x250 then (x.vunit ((o - 0x240) / 8)).word
  else if o = 0x260 then x.lut.word
  else if o = 0x280 then packW [(0, (1, boolNat x.hwTmo)), (1, (1, boolNat x.hwLost)), (2, (1, boolNat x.raddFail)),
    (4, (3, (x.waits.filter (·.gate)).length)), (7, (1, boolNat (x.waits.any (fun w => !w.gate)))),
    (8, (14, x.lastHasp.toNat))]
  else if o = 0x288 then packW [(0, (1, boolNat x.stFailed)), (1, (1, boolNat x.stOverrun)), (8, (8, x.stCause.toNat)),
    (16, (16, x.stCount.toNat))]
  else if o = 0x290 then x.stAddr.setWidth 64
  else if o = 0x298 then packW [(0, (1, boolNat x.noStream))]
  else if o = 0x2A0 then packW [(0, (6, (x.lcache.filter (fun e => e.2.locked)).length)),
    (6, (1, boolNat x.stream.on)), (8, (5, x.lcPending)), (16, (16, x.backInv.toNat)), (32, (16, x.lockInv.toNat))]
  else if 0x300 ≤ o && o < 0x340 then (x.zone ((o - 0x300) / 8)).word
  else 0

/-- The `MOV_` registers (08_movers_and_run_ahead.md R268, R269). -/
def Mover.word (v : Mover) (o : Nat) : U64 :=
  if o = 0 then packW [(0, (7, (v.cmds.filter (fun d => !d.speculative && d.phase ≠ .drain)).length)),
    (8, (4, (v.cmds.filter (·.speculative)).length)), (16, (1, boolNat v.err)), (17, (1, boolNat v.overrun)),
    (24, (8, v.lastStatus.toNat)), (32, (32, v.errCount.toNat))]
  else if o = 8 then v.errinfo
  else if o = 0x10 then v.errdesc
  else if o = 0x18 then v.erraddr
  else if o = 0x20 then v.doneCnt
  else if o = 0x28 then v.bytes
  else if o = 0x30 then packW [(0, (16, v.preissued.toNat)), (16, (16, v.confirmed.toNat)), (32, (16, v.discarded.toNat))]
  else 0

/-! ## Mailboxes (16_tumbler_interface.md R455-R460, R474) -/

/-- Codes of `TMB_STAT.STATE`. -/
def MbState.code : MbState → Nat
  | .idle => 0 | .check => 1 | .running => 2 | .done => 3

/-- The word at offset `o` of a mailbox. -/
def Mailbox.word (b : Mailbox) (o : Nat) : U64 :=
  if o < 0x40 then b.cmd.extractLsb' (8 * o) 64
  else if o < 0x80 then b.rsp.extractLsb' (8 * (o - 0x40)) 64
  else if o = 0x88 then packW [(0, (2, b.st.code)), (2, (1, boolNat b.dbBusy)), (3, (1, boolNat b.winErr)),
    (4, (1, boolNat b.opened))]
  else if o = 0x90 then b.wbase.setWidth 64 <<< 12
  else if o = 0x98 then packW [(0, (13, b.nbufs.toNat)), (16, (4, b.log2sz.toNat)), (20, (1, boolNat b.wen))]
  else if o = 0xA0 then packW [(0, (16, b.prod.toNat)), (16, (16, b.cons.toNat)), (32, (16, b.lost.toNat))]
  else if o = 0xA8 then packW [(0, (16, b.mask.toNat)), (16, (1, boolNat b.irq))]
  else if 0x100 ≤ o && o < 0x800 then BitVec.ofNat 64 (b.inlWord (o - 0x100) 8)
  else if 0x800 ≤ o then (tblGet 0 b.evq ((o - 0x800) / 64)).extractLsb' (8 * ((o - 0x800) % 64)) 64
  else 0

/-- Whether an agent of the package reaches a mailbox (R455, R456): sequencers only class L. -/
def agentReaches (ag : Agent) (n : Nat) : Bool :=
  match boxClass n, ag with
  | .l, _ => true
  | .g, .seq _ => false
  | .g, _ => true
  | _, .tumbler => true
  | _, _ => false

/-! ## Reading -/

/-- What an aligned register holds, at its word-aligned offset. -/
def State.regWord (s : State) (ag : Agent) (l : RegLoc) : U64 :=
  match l with
  | .tmb n o => if agentReaches ag n then (s.chip.mgmt.box n).word (o / 8 * 8) else 0
  | .cap o => if o / 8 = 0 then s.chip.capUnits else if o / 8 = 1 then s.chip.capHarts
      else if o / 8 = 2 then s.chip.hbmMapWord else 0
  | .clk o => if o / 8 = 0 then s.clkWord else 0
  | .pwr o =>
    if o / 8 = 0 then s.pwrWord else if o / 8 = 2 then s.power.hostEnergy
    else if o / 8 = 3 then s.power.modEnergy else if o / 8 = 4 then s.power.intvWord else 0
  | .thm o => if o / 8 < 3 then (s.power.sensor (20 + o / 8)).word else 0
  | .err o => if o / 8 = 0 then s.chip.mgmt.errWord else 0
  | .fab o => s.chip.fabric.word (o / 8 * 8)
  | .flt o => s.chip.flash.word (o / 8 * 8)
  | .quad q o => s.quadWord q (o / 8 * 8)
  | .cluster c o =>
    if o < 0x4000 then (s.chip.cluster c).word (o / 8 * 8)
    else ((s.chip.cluster c).mover ((o - 0x4000) / 0x1000)).word (o % 0x1000 / 8 * 8)

/-- Outcome of the checks of a register access (R71, R72, R76). -/
inductive RegCheck where
  | ok (l : RegLoc)
  | nothing
  | misaligned
  | lost
  deriving DecidableEq, Repr

/-- The checks of an access of `size` bytes at a place, by an agent of quadrant `src`. -/
def State.regCheckAt (s : State) (src : Option Nat) (la size : Nat) : Option RegLoc → RegCheck
  | none => .nothing
  | some l =>
    if la % size ≠ 0 || !(size = 4 || size = 8 || (l.dataArea && (size = 1 || size = 2))) then .misaligned
    else match l.quadOf with
      | some q => if s.regShut src q then .lost else .ok l
      | none => .ok l

/-- The checks of an access of `size` bytes by an agent of quadrant `src`. -/
def State.regCheck (s : State) (src : Option Nat) (la size : Nat) : RegCheck :=
  s.regCheckAt src la size (s.chip.regLoc la)

/-- The bytes an access reads, zero-extended. -/
def State.regRead (s : State) (ag : Agent) (l : RegLoc) (la size : Nat) : U64 :=
  let w := s.regWord ag l
  BitVec.ofNat 64 (w.toNat / 2 ^ (8 * (la % 8)) % 2 ^ (8 * size))

end Sys2Proof.Machine
end

