-- ==== Sys2Proof/Machine/SeqOps.lean ====
section
/-! DEFINITION. The scalar slot in stages I and X: where an access goes, what the slot does, and which fault
it takes (04_iluchezia_bundles.md R128-R143; 03_cluster_execution.md R94, R95; 02_address_map.md R71). -/

namespace Sys2Proof.Machine

/-! ## What a scalar slot does once it has passed stage X -/

/-- The effect of a scalar slot. -/
inductive SAct where
  | none
  | write (rd : SReg) (v : U64)
  | jump (target : U64) (link : Option (SReg × U64))
  | push (e : LoopEnt)
  | pass (target : U64)
  | leave (n : Nat) (target : U64)
  | access (kind : AccKind) (rd : SReg) (va : U64) (pa size : Nat) (cached : Bool) (space : Nat)
      (claim : Option Nat)
  | store (pa : Nat) (data : Bytes) (cached : Bool) (space : Nat) (claim : Option Nat)
  | zone (z : Nat) (w : RegW)
  | lc (op : LcOp) (rd : SReg) (line : Option Nat)
  deriving DecidableEq, Repr

/-- Outcome of stage X: an effect, a wait, or a fault code with the refused physical address, if the fault
is that of R71 or R76. -/
inductive SEnd where
  | act (a : SAct)
  | wait
  | fault (code : Nat) (pa : Option Nat)
  deriving DecidableEq, Repr

/-! ## Where an access goes (R62, R71, R76) -/

/-- Outcome of a physical address as a scalar access: reached, through the line cache or not, with the
offset checked against claims; or refused with a fault code. -/
inductive Spot where
  | ok (cached : Bool) (claim : Option Nat)
  | refused (code : Nat)
  deriving DecidableEq, Repr

/-- The address of a sequencer access (02_address_map.md R62, R69-R71, R76; R134). -/
def Chip.seqSpot (k : Chip) (c pa size : Nat) (coh atomic : Bool) : Spot :=
  let la := paLocal pa
  if !k.isOwn pa then
    if k.fabric.reach pa = .remote && (cacheable la || (!atomic && (areaOf la = .shelf || areaOf la = .stores)))
    then .ok false none else .refused ftNothing
  else match areaOf la with
    | .lpddr | .hbm => if k.populated la then .ok (coh && !atomic) none else .refused ftNothing
    | .shelf => if k.populated la && !atomic then .ok false none else .refused ftNothing
    | .stores =>
      if k.populated la && !atomic then
        .ok false (if (storeSpot la).1 = c then some (storeSpot la).2 else none)
      else .refused ftNothing
    | .regs =>
      (match k.regLoc la with
      | none => .refused ftNothing
      | some l =>
        if atomic then .refused ftNothing
        else if size = 4 || size = 8 || l.dataArea then .ok false none
        else .refused ftMisaligned)
    | _ => .refused ftNothing

/-- A fault of a translation (R374). -/
def xltFault (st : Nat) : Nat := if st = stTranslation then ftTranslation else faultOf st

/-- A scalar access by virtual address in stage X (R132): its physical address, route and claim offset. -/
def Chip.seqPlace (k : Chip) (c : Nat) (va : U64) (size : Nat) (kind : XKind) :
    Chip × (SEnd ⊕ (Nat × (Bool × Option Nat))) :=
  let x := k.cluster c
  if va.toNat % size ≠ 0 then (k, .inl (.fault ftMisaligned none))
  else match k.translate c x.space va kind with
    | (k1, .wait) => (k1, .inl .wait)
    | (k1, .fail st) => (k1, .inl (.fault (xltFault st) none))
    | (k1, .ok e) =>
      let pa := e.phys va
      match k1.seqSpot c pa size e.coh (kind = .atomic) with
      | .ok cached claim => (k1, .inr (pa, (cached, claim)))
      | .refused code => (k1, .inl (.fault code (some pa)))

/-- An offset access in stage X (R133; 08_movers_and_run_ahead.md R272). -/
def Cluster.offsetFault (x : Cluster) (o : U64) : Option Nat :=
  if o.toNat % 8 ≠ 0 then some ftMisaligned
  else if 2 ^ 22 ≤ o.toNat || x.zoneRefuses o.toNat (o.toNat + 8) then some ftNothing
  else none

/-- The physical address of an offset of the own store. -/
def Chip.offsetPa (k : Chip) (c o : Nat) : Nat :=
  k.fabric.devnum.toNat * 2 ^ 50 + storeAddr c ((k.cluster c).redirect o)

/-- An atomic is outstanding: no later load or store is performed before it (10_memory_ordering.md
R314). -/
def Cluster.amoOut (x : Cluster) : Bool :=
  x.loads.any (fun a => match a.kind with | .amo _ _ _ => true | .load _ => false)

/-- An outstanding load or atomic writes a register of a list (R81). -/
def Cluster.awaits (x : Cluster) (rs : List SReg) : Bool :=
  x.loads.any (fun a => a.rd ≠ 0 && rs.contains a.rd)

/-- `CLU_LANDZ` of the cluster's own block, by local address (08_movers_and_run_ahead.md R270). -/
def ownLandz (c la : Nat) : Option Nat :=
  let o := la - (0x30010000000 + c * 0x10000)
  if 0x30010000000 + c * 0x10000 + 0x300 ≤ la && o < 0x340 then some ((o - 0x300) / 8) else none

/-- The data of a register write of 4 or 8 bytes at an aligned address (02_address_map.md R76). -/
def regWOf (la size : Nat) (v : U64) : RegW :=
  { part := if size = 8 then .full else if la % 8 = 0 then .low else .high, val := v }

/-- A register access of the sequencer is outstanding (02_address_map.md R78). -/
def Chip.regOut (k : Chip) (c : Nat) : Bool :=
  (k.cluster c).loads.any (fun a => k.isReg a.pa) || (k.cluster c).stores.any (fun s => k.isReg s.pa)

/-! ## Line-cache group (R136; 11_coherence.md R358-R362) -/

/-- An address form of the line-cache group needs a permission (R136). -/
def lcKind (op : LcOp) : Option XKind :=
  match op with
  | .lock => some .read
  | .inval => some .write
  | _ => none

/-- The translation of an address form, which faults on permission only where the form needs one. -/
def Chip.lcTranslate (k : Chip) (c : Nat) (va : U64) (op : LcOp) : Chip × Xlt :=
  match lcKind op with
  | some kind => k.translate c (k.cluster c).space va kind
  | none =>
    match k.translate c (k.cluster c).space va .read with
    | (k1, .fail st) =>
      if st = stPermission then
        match (k1.lookup c (k1.cluster c).space va).2 with
        | some e => (k1, .ok e)
        | none => (k1, .fail st)
      else (k1, .fail st)
    | r => r

/-- A line-cache group instruction acts on a line; it waits while the entry is in a transient state, and a put that
would be a 17th transaction waits (R358). -/
def Chip.lcOnLine (k : Chip) (c : Nat) (op : LcOp) (rd : SReg) (line : Nat) : SEnd :=
  if (k.cline (64 + c) line).st.transient || (op ≠ .lock && op ≠ .unlock && 16 ≤ (k.cluster c).lcPending) then .wait
  else .act (.lc op rd (some line))

/-- The line-cache group in stage X: it waits until earlier stores have been written or sent (R362). -/
def Chip.lcX (k : Chip) (c : Nat) (op : LcOp) (rd : SReg) (v : U64) : Chip × SEnd :=
  if op = .cleanw || op = .invalw || op = .flushw then
    let w := bitsOf v.toNat 0 6
    if 47 < w then (k, .fault ftIllegal none)
    else
      let e := tblGet CLine.none (k.cluster c).lcache w
      if !k.storesVisible c (k.cluster c).nextNo .cluster then (k, .wait)
      else if e.st = .i then (k, .act (.lc op rd none))
      else (k, k.lcOnLine c op rd e.line)
  else match k.lcTranslate c v op with
    | (k1, .wait) => (k1, .wait)
    | (k1, .fail st) => (k1, .fault (xltFault st) none)
    | (k1, .ok e) =>
      let pa := e.phys v
      let line := lineOf (paLocal pa)
      if !(k1.isOwn pa && cacheable (paLocal pa)) then (k1, .act (.lc op rd none))
      else if op = .lock && !k1.populated (paLocal pa) then (k1, .fault ftNothing (some pa))
      else if !k1.storesVisible c (k1.cluster c).nextNo .cluster then (k1, .wait)
      else if op = .lock then
        let l := k1.cline (64 + c) line
        if (k1.cluster c).lockRead = some (line, true) then (k1, .act (.write rd 1))
        else if l.locked && l.st.readable then (k1, .act (.lc op rd (some line)))
        else if !l.locked && 32 ≤ ((k1.cluster c).lcache.filter (fun e => e.2.locked)).length then
          (k1, .act (.write rd 0))
        else if l.st.readable then (k1, k1.lcOnLine c op rd line)
        else
          let st := k1.reachMem (some (c / 24)) (paLocal pa)
          if st ≠ stOk then (k1, .fault (faultOf st) (some pa))
          else ((k1.updCluster c (fun x => { x with lockRead := some (line, false) })).requestLine (64 + c) line
            false, .wait)
      else (k1, k1.lcOnLine c op rd line)

/-! ## Stage X -/

/-- The end bundle of an active loop (R141). -/
def Cluster.atLoopEnd (x : Cluster) (pc : U64) : Bool := x.loops.any (fun e => e.stop = pc)

/-- A push of a loop (R138, R139). -/
def Cluster.loopX (x : Cluster) (pc : U64) (t body : Nat) : SEnd :=
  let stop := pc + BitVec.ofNat 64 (32 * body)
  if t = 0 then .act (.pass (stop + 32))
  else if 4 ≤ x.loops.length then .fault ftIllegal none
  else if (match x.loops with | e :: _ => decide (e.stop.toNat < stop.toNat) | [] => false) then
    .fault ftIllegal none
  else .act (.push { start := pc + 32, stop := stop, trip := t, index := 0 })

/-- A loop, branch or jump slot in stage X (R137-R143). -/
def Cluster.controlX (x : Cluster) (pc : U64) (s : Scalar) : SEnd :=
  match s with
  | .branch op rs1 rs2 off =>
    .act (if branchTaken op (x.reg rs1) (x.reg rs2) then .jump (pc + (off.signExtend 64 <<< 5)) none else .none)
  | .jal rd off => .act (.jump (pc + (off.signExtend 64 <<< 5)) (some (rd, pc + 32)))
  | .jalr rd rs1 imm =>
    let t := x.reg rs1 + imm.signExtend 64
    if t.toNat % 32 ≠ 0 then .fault ftMisaligned none else .act (.jump t (some (rd, pc + 32)))
  | .loop rc body => x.loopX pc (bitsOf (x.reg rc).toNat 0 32) body.toNat
  | .loopi t body => x.loopX pc t.toNat body.toNat
  | .brk rs sense level =>
    (match x.loops[level.toNat]? with
    | none => .fault ftIllegal none
    | some e =>
      if decide (x.reg rs = 0) = sense then .act (.leave (level.toNat + 1) (e.stop + 32)) else .act .none)
  | _ => .act .none

/-- Whether a slot is a branch, jump or loop instruction (R141). -/
def slotIsControl (s : Scalar) : Bool :=
  match s with
  | .branch _ _ _ _ | .jal _ _ | .jalr _ _ _ | .loop _ _ | .loopi _ _ | .brk _ _ _ => true
  | _ => false

/-- The bytes a scalar store writes. -/
def storeBytes (n : Nat) (v : U64) : Bytes := toBytes n v.toNat

/-- The scalar slot of the bundle at `pc` in stage X. -/
def Chip.scalarX (k : Chip) (c : Nat) (pc : U64) (s : Scalar) : Chip × SEnd :=
  let x := k.cluster c
  let access (va : U64) (n : Nat) (rd : SReg) (kind : AccKind) (xk : XKind) : Chip × SEnd :=
    match k.seqPlace c va n xk with
    | (k1, .inl e) => (k1, e)
    | (k1, .inr (pa, (cached, claim))) => (k1, .act (.access kind rd va pa n cached x.space claim))
  if s.isMem && x.amoOut then (k, .wait)
  else if slotIsControl s then
    (k, if x.atLoopEnd pc then .fault ftIllegal none else x.controlX pc s)
  else match s with
  | .alu op rd rs1 rs2 => (k, .act (.write rd (aluResult op (x.reg rs1) (x.reg rs2))))
  | .alui op rd rs1 imm => (k, .act (.write rd (aluIResult op (x.reg rs1) imm)))
  | .shift op rd rs1 sh => (k, .act (.write rd (shiftResult op (x.reg rs1) sh)))
  | .lui rd imm => (k, .act (.write rd (luiResult imm)))
  | .load size signed rd rs1 imm =>
    access (x.reg rs1 + imm.signExtend 64) (2 ^ size.toNat) rd (.load signed) .read
  | .store size rs2 rs1 imm =>
    let n := 2 ^ size.toNat
    (match k.seqPlace c (x.reg rs1 + imm.signExtend 64) n .write with
    | (k1, .inl e) => (k1, e)
    | (k1, .inr (pa, (cached, claim))) =>
      match (if k1.isReg pa then ownLandz c (paLocal pa) else none) with
      | some z =>
        if k1.regOut c then (k1, .wait) else (k1, .act (.zone z (regWOf (paLocal pa) n (x.reg rs2))))
      | none => (k1, .act (.store pa (storeBytes n (x.reg rs2)) cached x.space claim)))
  | .ldl rd rs1 imm =>
    let o := x.reg rs1 + imm.signExtend 64
    (k, match x.offsetFault o with
      | some f => .fault f none
      | none => .act (.access (.load true) rd o (k.offsetPa c o.toNat) 8 false 0 (some o.toNat)))
  | .stl rs2 rs1 imm =>
    let o := x.reg rs1 + imm.signExtend 64
    (k, match x.offsetFault o with
      | some f => .fault f none
      | none => .act (.store (k.offsetPa c o.toNat) (storeBytes 8 (x.reg rs2)) false 0 (some o.toNat)))
  | .amo op rd rs1 rs2 => access (x.reg rs1) 8 rd (.amo op (x.reg rs2) (x.reg rd)) .atomic
  | .rdcyc rd => (k, .act (.write rd (BitVec.ofNat 64 ((k.quad (c / 24)).aclk / 600))))
  | .lidx rd depth =>
    (k, match x.loops[depth.toNat]? with
      | some e => .act (.write rd (BitVec.ofNat 64 e.index))
      | none => .fault ftIllegal none)
  | .rdspace rd => (k, .act (.write rd (BitVec.ofNat 64 x.space)))
  | .lc op rd rs1 => (k.updCluster c (·.endStream)).lcX c op rd (x.reg rs1)
  | _ => (k, .act .none)

/-! ## The descriptor of a `MOV` (08_movers_and_run_ahead.md R250, R251) -/

/-- Outcome of a descriptor read: a wait, 64 bytes, or the status of a failed read. -/
inductive DescEnd where
  | wait
  | got (bs : Bytes)
  | failed (st : Nat)
  deriving DecidableEq, Repr

/-- A line of 64 bytes found at its place: poisoned, or with the cluster's own buffered stores laid over
it. -/
def Chip.descBytes (k : Chip) (c pa : Nat) (bs : Bytes) (poison : Bool) : DescEnd :=
  if poison then .failed stPoison else .got (overlay pa bs (k.olderStores c (k.cluster c).nextId))

/-- A descriptor at a physical address of the module (R250, R251). -/
def Chip.descAt (k : Chip) (c pa : Nat) (coh : Bool) : Chip × DescEnd :=
  let la := paLocal pa
  let st := k.reachMem (some (c / 24)) la
  let line := lineOf la
  if st = stNotPresent then (k, .failed stNotPresent)
  else if cacheable la && coh && (k.cline (64 + c) line).st.readable then
    let e := k.cline (64 + c) line
    (k.touch (64 + c) line, k.descBytes c pa (lineBytes e.data (la % 128) 64) e.poison)
  else if st ≠ stOk then (k, .failed st)
  else if cacheable la && coh then
    ((k.updCluster c (fun x => { x with descRead := some { pa := pa, answer := none } })).requestLine (64 + c) line
      false, .wait)
  else
    let (k1, (bs, p)) := k.cohRead la 64
    (k1, k1.descBytes c pa (if k1.inOwnStore c pa then k1.ownBytes c la 64 else bs) p)

/-- The descriptor of a `MOV` in another module's memory: one `READ` packet, after the sequencer's earlier
accesses to its line (R250; 11_coherence.md R356). -/
def Chip.remoteDesc (k : Chip) (c pa : Nat) : Chip × DescEnd :=
  let x := k.cluster c
  let ask (k : Chip) : Chip × DescEnd :=
    if k.mayLeave c x.nextId pa 64 && k.fabric.reqs.all (fun r => r.owner ≠ .seqDesc c) then
      ((k.updCluster c (fun x => { x with descRead := some { pa := pa, answer := none } })).onFabric (fun f =>
        f.request 2 false false 64 (paLocal pa) (BitVec.ofNat 6 (paDev pa)) 0 0 0 [] (.seqDesc c)
          (k.portReach (some (c / 24)))), .wait)
    else (k, .wait)
  match x.descRead with
  | none => ask k
  | some d =>
    match d.answer with
    | none => (k, .wait)
    | some (st, bs) =>
      if d.pa ≠ pa then ask k
      else (k, if st = stOk then .got bs else .failed st)

/-- A descriptor of this module whose line the line cache has asked for: its read waits where it was translated, and
ends with the line (R379; 11_coherence.md R352). -/
def Chip.descWaited (k : Chip) (c : Nat) : Option (Chip × DescEnd) :=
  match (k.cluster c).descRead with
  | none => none
  | some d =>
    if !k.isOwn d.pa then none
    else match d.answer with
      | none => some (k.descAt c d.pa true)
      | some (st, bs) => some (k, if st = stOk then k.descBytes c d.pa bs false else .failed st)

/-- The read of the descriptor of a `MOV` at issue. -/
def Chip.readDesc (k : Chip) (c : Nat) (f : MovF) : Chip × DescEnd :=
  let x := k.cluster c
  let a := x.reg f.rdesc
  if (k.descWaited c).isSome then (k.descWaited c).getD (k, .wait)
  else if x.amoOut || x.loads.any (fun l => k.ordered c l.pa) then (k, .wait)
  else if a.toNat % 64 ≠ 0 then (k, .failed stPermission)
  else if !f.dloc then
    if 2 ^ 22 ≤ a.toNat || x.zoneRefuses a.toNat (a.toNat + 64) then (k, .failed stNotPresent)
    else if x.claimWait x.nextNo (some a.toNat) 64 false then (k, .wait)
    else
      let pa := k.offsetPa c a.toNat
      (k, k.descBytes c pa (k.ownBytes c (paLocal pa) 64) (k.poisoned (lineOf (paLocal pa))))
  else match k.translate c x.space a .read with
    | (k1, .wait) => (k1, .wait)
    | (k1, .fail st) => (k1, .failed st)
    | (k1, .ok e) =>
      let pa := e.phys a
      match k1.seqSpot c pa 8 e.coh false with
      | .refused _ => (k1, .failed stNotPresent)
      | .ok _ claim =>
        if !k1.isOwn pa then k1.remoteDesc c pa
        else if areaOf (paLocal pa) = .regs then (k1, .failed stNotPresent)
        else if x.claimWait x.nextNo claim 64 false then (k1, .wait)
        else k1.descAt c pa e.coh

/-- The command a `MOV` makes of what it read (R155; 08_movers_and_run_ahead.md R251-R254). -/
def Chip.makeCmd (k : Chip) (c : Nat) (f : MovF) (d : Except Nat Desc) : MovCmd :=
  let x := k.cluster c
  let make (d : Desc) : MovCmd :=
    MovCmd.make x.nextId x.nextNo d (x.reg f.rdesc) f.dloc f.hasp f.cnt x.space
  match d with
  | .error st => { make Desc.empty with early := some st, unread := true }
  | .ok d =>
    let q := haspQuad f.hasp
    { make d with
      early := if d.refused (k.mayName x.space) then some stPermission
        else if !k.quadPresent q then some stNotPresent
        else if k.shut (some (c / 24)) q then some stLinkLost
        else none }

/-! ## Hasp references (09_hasps.md R285, R286) -/

/-- A hasp reference checked: the remote device, if any, and the hasp; or its fault code. -/
def Chip.haspRef (k : Chip) (c : Nat) (v : U64) (wait add : Bool) : Except Nat (Option (BitVec 6) × BitVec 14) :=
  let n := v.toNat
  let hasp : BitVec 14 := v.extractLsb' 0 14
  let dev : BitVec 6 := v.extractLsb' 16 6
  let remote := bitOf n 14
  if bitOf n 15 || bitsOf n 22 2 ≠ 0 || bitsOf n 28 36 ≠ 0 || (!remote && dev ≠ 0) ||
      (!wait && bitsOf n 24 4 ≠ 0) then .error ftNothing
  else if remote && dev ≠ k.fabric.devnum then
    if add && k.fabric.podMember && (k.fabric.route dev.toNat).valid then .ok (some dev, hasp)
    else .error ftNothing
  else if !k.quadPresent (haspQuad hasp) then .error ftNothing
  else if k.shut (some (c / 24)) (haspQuad hasp) then .error ftLinkLost
  else .ok (none, hasp)

end Sys2Proof.Machine
end

