-- ==== Sys2Proof/Machine/FrontOps.lean ====
section
/-! DEFINITION. The run-ahead front end: the path it follows and what it may pre-issue
(08_movers_and_run_ahead.md R274-R282). -/

namespace Sys2Proof.Machine

/-! ## The path (R274-R276) -/

/-- An active loop as the front end follows it: the entry, whether its trip count is known or predicted, and
the iterations completed at the sequencer in this activation. -/
structure WLoop where
  ent : LoopEnt
  counted : Bool
  base : Nat
  deriving DecidableEq, Repr

/-- The front end's shadow of the sequencer at a point ahead of it: bundle address, registers that are
known, loops, tile modes that are known, whether an unmet wait has been passed, and the predictor entries used. -/
structure Walker where
  pc : U64
  regs : List (Option U64)
  loops : List WLoop
  modes : List (Option Bool)
  waits : Bool
  used : List U64
  deriving DecidableEq, Repr

/-- The bundle at an address as it now stands; none where the front end stops: no fetch possible, or an illegal
bundle. Its translation goes through the cluster's range cache (12_range_translation.md R375). -/
def Chip.peekBundle (k : Chip) (c : Nat) (pc : U64) : Chip × Option Bundle256 :=
  match k.translateNow c (k.cluster c).space pc .read with
  | (k1, .ok e) =>
    let la := paLocal (e.phys pc)
    (k1,
      if !k.isOwn (e.phys pc) || e.side || k.reachMem (some (c / 24)) la ≠ stOk || pc.toNat % 32 ≠ 0 then none
      else if cacheable la then
        let own := k.cline (64 + c) (lineOf la)
        let (d, p) := if own.st.readable then (own.data, own.poison) else k.lineNow (lineOf la)
        if p then none else decodeBundle (BitVec.ofNat 256 (ofBytes (lineBytes d (la % 128) 32)))
      else if k.poisoned (lineOf la) then none
      else decodeBundle (BitVec.ofNat 256 (ofBytes (k.bytes la 32))))
  | (k1, _) => (k1, none)

/-- A register of the shadow. -/
def Walker.reg (w : Walker) (r : SReg) : Option U64 := if r = 0 then some 0 else (w.regs[r.toNat]?).join

/-- A register of the shadow written. -/
def Walker.set (w : Walker) (r : SReg) (v : Option U64) : Walker :=
  if r = 0 then w else { w with regs := setNth w.regs r.toNat v }

/-- The shadow at the sequencer (R274). -/
def Chip.walker (k : Chip) (c : Nat) : Walker :=
  let x := k.cluster c
  { pc := x.pc
    regs := (List.range 32).map (fun r => if x.awaits [BitVec.ofNat 5 r] then none else some (x.reg (BitVec.ofNat 5 r)))
    loops := x.loops.map (fun e => { ent := e, counted := true, base := e.index })
    modes := (List.range 4).map (fun u => some (x.munit u).seqComplex)
    used := []
    waits := x.waits.any (fun w => !w.gate) }

/-- The shadow after the scalar slot's register write. -/
def Walker.scalar (w : Walker) (space : Nat) (s : Scalar) : Walker :=
  let two (a b : SReg) (f : U64 → U64 → U64) : Option U64 := do
    let x ← w.reg a
    let y ← w.reg b
    pure (f x y)
  match s with
  | .alu op rd rs1 rs2 => w.set rd (two rs1 rs2 (aluResult op))
  | .alui op rd rs1 imm => w.set rd ((w.reg rs1).map (fun a => aluIResult op a imm))
  | .shift op rd rs1 sh => w.set rd ((w.reg rs1).map (fun a => shiftResult op a sh))
  | .lui rd imm => w.set rd (some (luiResult imm))
  | .lidx rd depth => w.set rd ((w.loops[depth.toNat]?).map (fun e => BitVec.ofNat 64 e.ent.index))
  | .rdspace rd => w.set rd (some (BitVec.ofNat 64 space))
  | s => match s.rd with
    | some rd => w.set rd none
    | none => w

/-- The loops of a path after a taken transfer (R142). -/
def keepLoops (t : U64) (l : List WLoop) : List WLoop :=
  l.filter (fun e => decide (e.ent.start.toNat ≤ t.toNat) && decide (t.toNat ≤ e.ent.stop.toNat))

/-- The path after the end bundle of loops (R140); none at a cold exit not yet passed (R276). -/
def walkEnd (pc : U64) : List WLoop → Option (U64 × List WLoop)
  | [] => some (pc + 32, [])
  | e :: r =>
    if e.ent.stop ≠ pc then some (pc + 32, e :: r)
    else if !e.counted && e.base < 2 then none
    else if !e.counted || e.ent.index + 1 < e.ent.trip then
      some (e.ent.start, { e with ent := { e.ent with index := e.ent.index + 1 } } :: r)
    else walkEnd pc r

/-- The value the predictor holds for a bundle: none without an entry (R276). -/
def predicted (l : List Pred) (pc : U64) : Option (Option Nat) := (l.find? (fun p => p.pc = pc)).map (·.value)

/-- A push of a loop overflows the loop stack or nests improperly (R139). -/
def Walker.badPush (w : Walker) (stop : U64) : Bool :=
  4 ≤ w.loops.length || match w.loops with
    | e :: _ => decide (e.ent.stop.toNat < stop.toNat)
    | [] => false

/-- A push of a loop on the path. -/
def Walker.push (w : Walker) (stop : U64) (t : Nat) (counted : Bool) : Option (U64 × List WLoop) :=
  if w.badPush stop then none
  else some (w.pc + 32, { ent := { start := w.pc + 32, stop := stop, trip := t, index := 0 },
                          counted := counted, base := 0 } :: w.loops)

/-- Where the path goes from a bundle; none where the front end stops (R275, R276). -/
def Walker.next (w : Walker) (preds : List Pred) (s : Scalar) : Option (U64 × List WLoop) :=
  let taken (t : U64) : Option (U64 × List WLoop) := some (t, keepLoops t w.loops)
  match s with
  | .branch op rs1 rs2 off =>
    match w.reg rs1, w.reg rs2 with
    | some a, some b => if branchTaken op a b then taken (w.pc + (off.signExtend 64 <<< 5)) else some (w.pc + 32, w.loops)
    | _, _ => none
  | .jal _ off => taken (w.pc + (off.signExtend 64 <<< 5))
  | .jalr _ rs1 imm =>
    match w.reg rs1 with
    | some a => taken (a + imm.signExtend 64)
    | none => none
  | .loopi t body => w.push (w.pc + BitVec.ofNat 64 (32 * body.toNat)) t.toNat true
  | .loop rc body =>
    let stop := w.pc + BitVec.ofNat 64 (32 * body.toNat)
    match w.reg rc, predicted preds w.pc with
    | some v, _ =>
      if bitsOf v.toNat 0 32 = 0 then some (stop + 32, w.loops) else w.push stop (bitsOf v.toNat 0 32) true
    | none, some (some 0) => some (stop + 32, w.loops)
    | none, some (some t) => w.push stop t true
    | none, _ => w.push stop 0 false
  | .brk rs sense level =>
    let out : Option (U64 × List WLoop) := (w.loops[level.toNat]?).map (fun e =>
      (e.ent.stop + 32, w.loops.drop (level.toNat + 1)))
    match w.reg rs, predicted preds w.pc, w.loops with
    | some v, _, _ => if decide (v = 0) = sense then out else some (w.pc + 32, w.loops)
    | none, some i, e :: _ => if i = some e.ent.index then out else some (w.pc + 32, w.loops)
    | none, none, e :: _ => if e.base < 2 then none else some (w.pc + 32, w.loops)
    | none, _, [] => none
  | _ => walkEnd w.pc w.loops

/-- The front end's predicate of a bundle: true, false or unknown. -/
def Walker.pred (w : Walker) (b : Bundle256) : Option Bool :=
  if b.pred = 0 then some true else (w.reg (predReg b.pred)).map (fun v => v ≠ 0)

/-- Three-valued conjunction: false where one side is known false, true where both are known true. -/
def both (a b : Option Bool) : Option Bool :=
  match a, b with
  | some true, x => x
  | some false, _ => some false
  | none, some false => some false
  | none, _ => none

/-- Whether the scalar slot has a legal operand value (04_iluchezia_bundles.md R160), where that is known. -/
def Walker.scalarLegal (w : Walker) (s : Scalar) : Option Bool :=
  if slotIsControl s && w.loops.any (fun e => e.ent.stop = w.pc) then some false
  else match s with
  | .brk _ _ level => some (decide (level.toNat < w.loops.length))
  | .lidx _ depth => some (decide (depth.toNat < w.loops.length))
  | .loopi _ body => some (!w.badPush (w.pc + BitVec.ofNat 64 (32 * body.toNat)))
  | .loop rc body =>
    if !w.badPush (w.pc + BitVec.ofNat 64 (32 * body.toNat)) then some true
    else (w.reg rc).map (fun v => bitsOf v.toNat 0 32 = 0)
  | .lc op _ rs1 =>
    if op = .cleanw || op = .invalw || op = .flushw then (w.reg rs1).map (fun v => decide (bitsOf v.toNat 0 6 ≤ 47))
    else some true
  | _ => some true

/-- Whether the matrix slot has legal operand values (R148, R160; 05_matrix_units.md R180), where that is
known. -/
def Walker.matrixLegal (w : Walker) : Option Matrix → Option Bool
  | some (.mma complex f) =>
    both ((w.reg f.rk).map (fun v => v ≠ 0 && decide (v.toNat ≤ 65536) && v.toNat % mxGroup f.fmtA.toNat = 0))
      (if f.acc then (w.modes[f.unit.toNat]?).join.map (· = complex) else some true)
  | some (.zdrain f) =>
    if drainMx f.dfmt.toNat then (w.modes[f.unit.toNat]?).join.map (fun m => !m) else some true
  | _ => some true

/-- Whether a bundle has legal operand values (R160), where the front end knows it: engine slots count only where
they take effect (R161). -/
def Walker.legal (w : Walker) (b : Bundle256) : Option Bool :=
  both (w.scalarLegal b.scalar) (match w.pred b, w.matrixLegal b.matrix with
    | some true, m => m
    | some false, _ => some true
    | none, some true => some true
    | none, _ => none)

/-- The tile modes after a bundle (05_matrix_units.md R179). -/
def Walker.modesAfter (w : Walker) (b : Bundle256) : List (Option Bool) :=
  let put (u : Nat) (m : Bool) : List (Option Bool) :=
    match w.pred b with
    | some true => setNth w.modes u (some m)
    | some false => w.modes
    | none => setNth w.modes u none
  match b.matrix with
  | some (.mma complex f) => if f.acc then w.modes else put f.unit.toNat complex
  | some (.zload f) => put f.unit.toNat false
  | _ => w.modes

/-- The predictor entry that a slot's outcome is taken from (R276). -/
def Walker.predUsed (w : Walker) (preds : List Pred) (s : Scalar) : List U64 :=
  let r : Option SReg := match s with
    | .brk rs _ _ => some rs
    | .loop rc _ => some rc
    | _ => none
  match r with
  | some r => if (w.reg r).isNone && (predicted preds w.pc).isSome then [w.pc] else []
  | none => []

/-- A `HASP.WAIT` of a bundle is not known to be met (R278). -/
def Chip.waitUnmet (k : Chip) (w : Walker) (b : Bundle256) : Bool :=
  match b.sfu with
  | some (.sync (.wait rh rv _)) =>
    w.pred b ≠ some false && match w.reg rh, w.reg rv with
      | some h, some v =>
        let hasp : BitVec 14 := h.extractLsb' 0 14
        decide (((k.quad (haspQuad hasp)).hasp (haspIndex hasp)).count.toNat < bitsOf v.toNat 0 48)
      | _, _ => true
  | _ => false

/-- One bundle of the path followed; none where the front end stops: at a bundle it knows to be illegal, too
(R275). -/
def Chip.walkOn (k : Chip) (c : Nat) (w : Walker) (b : Bundle256) : Option Walker :=
  let preds := (k.cluster c).preds
  match w.next preds b.scalar with
  | some (pc, loops) =>
    if b.stop || w.legal b = some false then none
    else some { w.scalar (k.cluster c).space b.scalar with
      pc := pc, loops := loops, modes := w.modesAfter b, waits := w.waits || k.waitUnmet w b
      used := w.used ++ w.predUsed preds b.scalar }
  | none => none

/-- The first bundle within `n` bundles on the path that meets a test, with the shadow before it. A bundle
at which the front end stops is not offered. -/
def Chip.walkTo (k : Chip) (c : Nat) (p : Walker → Bundle256 → Bool) (w : Walker) :
    Nat → Chip × Option (Walker × Bundle256)
  | 0 => (k, none)
  | n + 1 =>
    match k.peekBundle c w.pc with
    | (k1, none) => (k1, none)
    | (k1, some b) =>
      if b.sbar || b.stop then (k1, none)
      else match k1.walkOn c w b with
        | none => (k1, none)
        | some w' => if p w b then (k1, some (w, b)) else k1.walkTo c p w' n

/-- Bundles the front end looks at: the next one to issue and 1,024 beyond it. -/
def frontDistance : Nat := 1025

/-- The predictor entries that a path has used stand first (R276). -/
def Cluster.touchPreds (x : Cluster) (l : List U64) : Cluster :=
  { x with preds := l.foldl (fun ps pc => match ps.find? (fun p => p.pc = pc) with
    | some p => p :: ps.filter (fun q => q.pc ≠ pc)
    | none => ps) x.preds }

/-- The front end goes along its path to a bundle that meets a test: caches and predictor are used on the way. -/
def Chip.follow (k : Chip) (c : Nat) (p : Walker → Bundle256 → Bool) : Chip × Option (Walker × Bundle256) :=
  match k.walkTo c p (k.walker c) frontDistance with
  | (k1, some (w, b)) => (k1.updCluster c (·.touchPreds w.used), some (w, b))
  | r => r

/-- A bundle on the path whose `MOV` a preparation describes. -/
def prepAt (p : Prepared) (w : Walker) (b : Bundle256) : Bool :=
  w.pc = p.pc && match b.mover with
    | some f => w.reg f.rdesc = some p.rdesc
    | none => false

/-- A pre-issued command and a preparation belong together. -/
def MovCmd.isOf (d : MovCmd) (p : Prepared) : Bool := d.rdesc = p.rdesc && d.desc = p.desc

/-- The pre-issued commands whose bundle no longer lies on the path, or is predicated off there, are
discarded (R280). -/
def Chip.dropOffPath (k : Chip) (c : Nat) : Chip :=
  let x := k.cluster c
  let gone (d : MovCmd) : Bool := x.prepared.all (fun p =>
    !d.isOf p || !((k.walkTo c (fun w b => prepAt p w b && w.pred b ≠ some false) (k.walker c)
      frontDistance).2.isSome))
  if [0, 1].any (fun m => (x.mover m).cmds.any (·.speculative)) then
    k.updCluster c (·.discardIf gone)
  else k

/-! ## Preparing and pre-issuing (R277, R278) -/

/-- The descriptor as the front end reads it; none where it cannot or may not (R277). -/
def Chip.peekDesc (k : Chip) (c : Nat) (f : MovF) (a : U64) : Chip × Option (Desc × Nat) :=
  let x := k.cluster c
  let at' (pa : Nat) (d : LineData × Bool) (bs : Bytes) : Option (Desc × Nat) :=
    if d.2 then none
    else some (decodeDesc (ofBytes (overlay pa bs (k.olderStores c x.nextId))), pa)
  if a.toNat % 64 ≠ 0 then (k, none)
  else if !f.dloc then
    if 2 ^ 22 ≤ a.toNat || x.zoneRefuses a.toNat (a.toNat + 64) then (k, none)
    else
      let pa := k.offsetPa c a.toNat
      (k, at' pa (0, k.poisoned (lineOf (paLocal pa))) (k.ownBytes c (paLocal pa) 64))
  else match k.translateNow c x.space a .read with
    | (k1, .ok e) =>
      let pa := e.phys a
      let la := paLocal pa
      (k1,
        if e.side || !k.isOwn pa || k.reachMem (some (c / 24)) la ≠ stOk then none
        else if cacheable la then
          let d := k.lineNow (lineOf la)
          at' pa d (lineBytes d.1 (la % 128) 64)
        else at' pa (0, k.poisoned (lineOf la)) (if k.inOwnStore c pa then k.ownBytes c la 64 else k.bytes la 64))
    | (k1, _) => (k1, none)

/-- No agent has written a byte of a prepared descriptor since it was read (R277). -/
def Chip.descKept (k : Chip) (c : Nat) (p : Prepared) : Bool :=
  !k.watch.any (fun w => w.cluster = c && w.pc = p.pc && w.rdesc = p.rdesc && w.hit)

/-- The zone a dense fill goes to, if it is enabled and `IDLE` (R278). -/
def Cluster.fillZone (x : Cluster) (d : Desc) : Option Nat :=
  let dense := (d.d1.toNat ≤ 1 || d.dstr1.toNat = d.d0.toNat) &&
    (d.d2.toNat ≤ 1 || d.dstr2.toNat = d.d0.toNat * d.d1.toNat) &&
    (d.d3.toNat ≤ 1 || d.dstr3.toNat = d.d0.toNat * d.d1.toNat * d.d2.toNat)
  if d.dkind ≠ 0 || !dense then none
  else (List.range 8).find? (fun z =>
    let o := x.zone z
    o.en && o.st = .idle && d.dst.toNat = o.window && d.size = o.half)

/-- A source byte that may be read ahead (R278): LPDDR, HBM or shelf of this module, in a range not marked
side-effect. -/
def Chip.plainSource (k : Chip) (c : Nat) (d : MovCmd) (p : Piece) : Bool :=
  let a := areaOf (paLocal p.src)
  k.isOwn p.src && (a = .lpddr || a = .hbm || a = .shelf) &&
    match (k.translateNow c (d.spaceOf false) p.srcVa .read).2 with
    | .ok e => !e.side
    | _ => false

/-- A piece of a pre-issued command, written to the shadow half (R278). -/
def Zone.shadowPiece (z : Zone) (p : Piece) : Piece :=
  { p with parts := p.parts.map (fun q =>
      { q with dst := if z.arch then q.dst - z.half else q.dst + z.half }) }

/-- Whether a bundle or its descriptor bars the pre-issue of its command (R278). -/
def Chip.barred (k : Chip) (c : Nat) (w : Walker) (b : Bundle256) (f : MovF) (e : Desc) : Bool :=
  let x := k.cluster c
  !f.spec || e.nospec || e.side || e.remote || e.eth || e.dhaspEn || e.skind ≠ 1 || e.isNull ||
    e.refused (k.mayName x.space) || w.pred b ≠ some true || w.legal b ≠ some true || w.waits || x.waits.any (·.gate) || x.fence.isSome

/-- The command that a prepared bundle makes (R278). -/
def Chip.earlyCmd (k : Chip) (c : Nat) (f : MovF) (p : Prepared) : MovCmd :=
  let x := k.cluster c
  MovCmd.make x.nextId x.nextNo p.desc p.rdesc f.dloc f.hasp f.cnt x.space

/-- The pieces of a pre-issued command may all be read ahead (R278). -/
def Chip.allPlain (k : Chip) (c : Nat) (d : MovCmd) (ps : List Piece) : Bool :=
  ps.all (k.plainSource c d) && ps.all (fun p => (k.cluster c).stores.all (fun s => lineOf s.pa ≠ lineOf p.src))

/-- The pieces of a preparation's translation pass, their destinations as the zone now stands (R277). -/
def Chip.earlyPieces (k : Chip) (c : Nat) (d : MovCmd) (p : Prepared) : Option (List Piece) :=
  p.pieces.map (fun ps => ps.map (fun q => { q with parts := k.partsOf c d q.dstVa q.len }))

/-- The command of a prepared bundle pre-issued, when every condition of R278 holds. -/
def Chip.preIssue (k : Chip) (c : Nat) (w : Walker) (b : Bundle256) (f : MovF) (p : Prepared) : Chip :=
  let x := k.cluster c
  let d := k.earlyCmd c f p
  match x.fillZone p.desc, k.earlyPieces c d p with
  | some z, some ps =>
    if k.barred c w b f p.desc || !k.descKept c p || !k.allPlain c d ps then k
    else
      k.updCluster c (fun x => { (x.updZone z (fun o => { o with st := .filling })).updMover f.mover.toNat (fun v =>
        { v with
          cmds := v.cmds ++ [{ d with phase := .data, pieces := ps.map (x.zone z).shadowPiece, zone := some z }]
          preissued := satAdd v.preissued 1 }) with nextId := x.nextId + 1 })
  | _, _ => k

end Sys2Proof.Machine
end

