-- ==== Sys2Proof/Machine/IssueOps.lean ====
section
/-! DEFINITION. Issue of a bundle at a sequencer: what holds it, its faults in order, and its effects
(03_cluster_execution.md R80-R96; 04_iluchezia_bundles.md R120-R162). -/

namespace Sys2Proof.Machine

/-! ## What holds issue (R81, R159) -/

/-- A fence is complete (10_memory_ordering.md R319). -/
def Chip.fenceDone (k : Chip) (c : Nat) (sc : Scope) : Bool :=
  let x := k.cluster c
  x.loads.isEmpty && k.storesVisible c x.nextNo sc && x.enginesEnded x.nextNo && !k.haspsPending c

/-- The fence that holds issue ends when it is complete. -/
def Chip.endFence (k : Chip) (c : Nat) : Chip :=
  match (k.cluster c).fence with
  | some sc => if k.fenceDone c sc then k.updCluster c (fun x => { x with fence := none }) else k
  | none => k

/-- The sequencer may issue: it runs, has not issued a stop bundle or faulted, and nothing holds it. -/
def Cluster.canIssue (x : Cluster) : Bool :=
  x.st = .running && !x.stopIssued && x.faulted.isNone && !x.errored && x.fence.isNone && x.lcHold.isNone &&
    x.zoneHeld.isNone && x.waits.all (·.gate)

/-- A precise fault (R94, R95); an access that R71 or R76 refuses is recorded (19_reset_and_ras.md
R537). -/
def Chip.seqFault (k : Chip) (c code : Nat) (pc : U64) (pa : Option Nat) : Chip :=
  let k1 := k.updCluster c (·.takeFault code pc)
  match pa with
  | some a => k1.report 1 { clusterErr c 0 10 1 with
      paddr := BitVec.ofNat 64 a, status := BitVec.ofNat 8 code,
      space := BitVec.ofNat 16 (k.cluster c).space } 1
  | none => k1

/-! ## Engine slots at issue -/

/-- A sync operation with the operands read at issue: remote device, hasp, value and timeout code. -/
structure SyncReady where
  op : SyncOp
  dev : Option (BitVec 6)
  hasp : BitVec 14
  v : U64
  tmo : BitVec 4
  deriving DecidableEq, Repr

/-- The engine slots of a bundle made ready: operations, mover command and sync operation. -/
structure Ready where
  preps : List Prep
  mov : Option (MovF × MovCmd)
  sync : Option SyncReady
  deriving DecidableEq, Repr

/-- Outcome of a check of a slot. -/
inductive Check (α : Type) where
  | ok (a : α)
  | wait
  | fault (code : Nat)
  deriving DecidableEq, Repr

/-- A slot that is empty or predicated off, or made ready. -/
def prepSlot {α : Type} (on : Bool) (s : Option α) (f : α → Except Nat Prep) : Check (List Prep) :=
  match on, s with
  | true, some a => (match f a with | .ok p => .ok [p] | .error e => .fault e)
  | _, _ => .ok []

/-- The mover slot made ready (08_movers_and_run_ahead.md R250): it waits for its descriptor. -/
def Chip.prepMover (k : Chip) (c : Nat) (on : Bool) (s : Option MovF) : Chip × Check (Option (MovF × MovCmd)) :=
  match on, s with
  | true, some f =>
    (match (k.updCluster c (·.endStream)).readDesc c f with
    | (k1, .wait) => (k1, .wait)
    | (k1, .got bs) => (k1, .ok (some (f, k1.makeCmd c f (.ok (decodeDesc (ofBytes bs))))))
    | (k1, .failed st) => (k1, .ok (some (f, k1.makeCmd c f (.error st)))))
  | _, _ => (k, .ok none)

/-- The SFU/sync slot made ready (09_hasps.md R286). A wait with `WH` that has ended registers no more, and its
reference is not checked again (R299). -/
def Chip.prepSync (k : Chip) (c : Nat) (on wh : Bool) (s : Option Sfu) :
    Check (List Prep × Option SyncReady) :=
  let x := k.cluster c
  let ref (op : SyncOp) (rh rv : SReg) (wait add : Bool) :
      Check (List Prep × Option SyncReady) :=
    match k.haspRef c (x.reg rh) wait add with
    | .ok (d, h) => .ok ([], some
        { op := op, dev := d, hasp := h, v := x.reg rv, tmo := (x.reg rh).extractLsb' 24 4 })
    | .error e => .fault e
  match on, s with
  | true, some (.sync op) =>
    (match op with
    | .add rh rv _ => ref op rh rv false true
    | .wait rh rv _ =>
      if wh && x.whEnded then
        .ok ([], some { op := op, dev := none, hasp := (x.reg rh).extractLsb' 0 14, v := x.reg rv
                        tmo := (x.reg rh).extractLsb' 24 4 })
      else ref op rh rv true false
    | .set rh rv _ => ref op rh rv false false
    | .reset rh _ => ref op rh 0 false false
    | _ => .ok ([], some { op := op, dev := none, hasp := 0, v := 0, tmo := 0 }))
  | true, some f =>
    (match x.prepSfu f with
    | some (.ok p) => .ok ([p], none)
    | some (.error e) => .fault e
    | none => .ok ([], none))
  | _, _ => .ok ([], none)

/-- The engine slots in slot order, each after those before it (R162). -/
def Chip.prepAll (k : Chip) (c : Nat) (b : Bundle256) (on : Bool) : Chip × Check Ready :=
  let x := k.cluster c
  match prepSlot on b.matrix x.prepMatrix with
  | .fault e => (k, .fault e)
  | .wait => (k, .wait)
  | .ok m =>
    match prepSlot on b.vector (fun p => x.prepVector p.1 p.2) with
    | .fault e => (k, .fault e)
    | .wait => (k, .wait)
    | .ok v =>
      match k.prepMover c on b.mover with
      | (k1, .fault e) => (k1, .fault e)
      | (k1, .wait) => (k1, .wait)
      | (k1, .ok mv) =>
        match k1.prepSync c on b.wh b.sfu with
        | .fault e => (k1, .fault e)
        | .wait => (k1, .wait)
        | .ok (s, sync) => (k1, .ok { preps := m ++ v ++ s, mov := mv, sync := sync })

/-- The claims a bundle takes (R88). -/
def Ready.claims (r : Ready) (no : Nat) : List Claim :=
  r.preps.flatMap (·.claims no) ++
    (match r.mov with
     | some (f, d) => if d.early.isSome || d.desc.isNull then [] else d.desc.claims no (7 + f.mover.toNat)
     | none => [])

/-- Queue, claim, buffer and gate entries are free (R81, R159; 09_hasps.md R291) for operations given by engine
and number of claims, a mover command, and a sync operation. -/
def Cluster.fits (x : Cluster) (needs : List (Nat × Nat)) (mov : Option (Nat × Nat)) (sync : Option SyncOp)
    (wh : Bool) : Bool :=
  needs.all (fun p => decide ((tblGet [] x.queues p.1).length < 8)) &&
    (match mov with
     | some (m, _) =>
       decide (((x.mover m).cmds.filter (fun d => !d.speculative && d.phase ≠ .drain)).length < 64)
     | none => true) &&
    decide (x.claims.length + (needs.map (·.2)).foldl (· + ·) 0 + (mov.map (·.2)).getD 0 ≤ 64) &&
    (match sync with
     | some (.add _ _ _) => decide (x.haspBuf.length < 16)
     | some (.set _ _ _) => decide (x.haspBuf.length < 16)
     | some (.reset _ _) => decide (x.haspBuf.length < 16)
     | some (.wait _ _ _) => wh || decide ((x.waits.filter (·.gate)).length < 4)
     | _ => true)

/-- The mover command of a bundle by mover and number of claims. -/
def movNeeds (no : Nat) (f : MovF) (d : MovCmd) : Nat × Nat :=
  (f.mover.toNat,
    if d.early.isSome || d.desc.isNull then 0 else (d.desc.claims no (7 + f.mover.toNat)).length)

/-- What a bundle made ready takes is free (R81). -/
def Cluster.hasRoom (x : Cluster) (r : Ready) (wh : Bool) : Bool :=
  x.fits (r.preps.map (fun p => (p.eng, p.exts.length))) (r.mov.map (fun m => movNeeds x.nextNo m.1 m.2))
    (r.sync.map (·.op)) wh

/-- Engines that the valid slots of a bundle name, with the claims each takes (R88), but for the mover. -/
def slotNeeds (b : Bundle256) : List (Nat × Nat) :=
  (match b.matrix with
    | some (.mma _ f) => [(f.unit.toNat, if mxScaled f.fmtA.toNat then 4 else 2)]
    | some (.zdrain f) => [(f.unit.toNat, if drainMx f.dfmt.toNat then 2 else 1)]
    | some (.zload f) => [(f.unit.toNat, 1)]
    | some (.mcfg f) => [(f.unit.toNat, 0)]
    | none => []) ++
  (match b.vector with
    | some (op, f) => [(4 + f.unit.toNat, if op = .vld || op = .vst then 1 else 0)]
    | none => []) ++
  (match b.sfu with
    | some (.lutLd _) => [(6, 1)]
    | some (.sync _) => []
    | some _ => [(6, 0)]
    | none => [])

/-- The sync operation of a bundle. -/
def syncOf (b : Bundle256) : Option SyncOp :=
  match b.sfu with
  | some (.sync op) => some op
  | _ => none

/-- Stage I (R81; 08_movers_and_run_ahead.md R250): a bundle stays there, and takes no fault of stage X (R94), until
its descriptor has been read and every entry it takes is free. -/
def Chip.stageI (k : Chip) (c : Nat) (b : Bundle256) (on : Bool) : Chip × Bool :=
  let x := k.cluster c
  let fit (x : Cluster) (mov : Option (Nat × Nat)) : Bool :=
    x.fits (if on then slotNeeds b else []) mov (if on then syncOf b else none) b.wh
  if !fit x (if on then b.mover.map (fun f => (f.mover.toNat, 0)) else none) then (k, false)
  else match k.prepMover c on b.mover with
    | (k1, .ok (some (f, d))) => (k1, fit (k1.cluster c) (some (movNeeds (k1.cluster c).nextNo f d)))
    | (k1, .ok none) => (k1, true)
    | (k1, _) => (k1.drainAll c, false)

/-! ## The wait-on-hasp bit (R124; 09_hasps.md R293) -/

/-- Whether a wait of cluster `c` on a hasp ends at registration: the hasp has reached the value, with the operations
that the sequencer issued to it before applied (R288, R293). -/
def Chip.haspMet (k : Chip) (c : Nat) (h : BitVec 14) (v : U64) : Bool :=
  decide (bitsOf v.toNat 0 48 ≤ ((k.quad (haspQuad h)).hasp (haspIndex h)).count.toNat) &&
    !k.haspBehind c h (k.cluster c).nextNo

/-- A wait registered at its bank. -/
def Cluster.addWait (x : Cluster) (gate : Bool) (h : BitVec 14) (v : U64) (sc : Scope) (tmo : BitVec 4) :
    Cluster :=
  { x with
    waits := x.waits ++ [({ id := x.nextId, no := x.nextNo, gate := gate, hasp := h, v := v.setWidth 48,
                            scope := sc, tmo := tmo } : HWait)]
    nextId := x.nextId + 1 }

/-- The wait of a bundle with `WH`: whether the bundle may go on; otherwise it is registered and holds
issue. It ends streaming (11_coherence.md R359). A reference that faults lets the bundle go on to its fault. -/
def Chip.holdWh (k : Chip) (c : Nat) (b : Bundle256) (on : Bool) : Chip × Bool :=
  let x := k.cluster c
  match on && b.wh, b.sfu with
  | true, some (.sync (.wait rh rv sc)) =>
    (match k.haspRef c (x.reg rh) true false with
    | .ok (_, h) =>
      if x.whEnded || k.haspMet c h (x.reg rv) then (k, true)
      else ((k.updCluster c (fun x =>
        x.endStream.addWait false h (x.reg rv) sc ((x.reg rh).extractLsb' 24 4))).drainAll c, false)
    | .error _ => (k, true))
  | _, _ => (k, true)

/-! ## Effects of the scalar slot -/

/-- A register written by a later bundle is not written again by an outstanding load. -/
def Cluster.forgetLoad (x : Cluster) (rd : SReg) : Cluster :=
  { x with loads := x.loads.map (fun a => if a.rd = rd then { a with rd := 0 } else a) }

/-- A register written by the scalar slot. -/
def Cluster.scalarWrite (x : Cluster) (rd : SReg) (v : U64) : Cluster := (x.forgetLoad rd).setReg rd v

/-- An entry of the loop predictor written (08_movers_and_run_ahead.md R276). -/
def notePred (l : List Pred) (pc : U64) (v : Option Nat) : List Pred :=
  (({ pc := pc, value := v } : Pred) :: l.filter (fun p => p.pc ≠ pc)).take 32

/-- A scalar load or atomic begins (R94). One of another module goes out in a packet (`Chip.sendRemote`). -/
def Chip.beginAccess (k : Chip) (c : Nat) (pc : U64) (kind : AccKind) (rd : SReg) (va : U64) (pa size : Nat)
    (cached : Bool) (space : Nat) (claim : Option Nat) : Chip :=
  let x := k.cluster c
  let a : ScAcc := { id := x.nextId, no := x.nextNo, rd := rd, pc := pc, va := va, pa := pa, size := size,
                     kind := kind, cached := cached, space := space, claim := claim, answer := none }
  k.updCluster c (fun x =>
    let y := (x.forgetLoad rd).endStream
    { y with loads := y.loads ++ [a], nextId := x.nextId + 1 })

/-- The streaming detector after a cached store at `la` (R359): whether the store goes no-allocate. -/
def Stream.after (t : Stream) (off : Bool) (la n : Nat) : Stream :=
  if off then Stream.reset
  else if t.next ≠ some la then { Stream.reset with next := some (la + n), inLine := if la % 128 = 0 then n else 0 }
  else
    let inLine := if la % 128 = 0 then n else if t.inLine = la % 128 then t.inLine + n else 0
    let full := decide (128 ≤ inLine)
    let lines := t.lines + boolNat full
    { t with next := some (la + n), inLine := if full then 0 else inLine, lines := lines,
             on := t.on || decide (8 ≤ lines) }

/-- A store of a streaming sequence to a line that is not in the cache joins the open `WriteFull` of its
line, or opens one; the end of the line closes it (R359). -/
def Cluster.streamStore (x : Cluster) (s : StoreEnt) (la : Nat) : Cluster :=
  let line := lineOf la
  let last := decide ((la + s.data.length) % 128 = 0)
  let joined : Cluster :=
    if x.stream.pendLine = some line then
      match x.stores.getLast? with
      | some t => { x with stores := x.stores.dropLast ++ [{ t with data := t.data ++ s.data, no := s.no }] }
      | none => { x with stores := x.stores ++ [{ s with cached := false }] }
    else { x with stores := x.stores ++ [{ s with cached := false }] }
  { joined with stream := { joined.stream with pendLine := if last then none else some line } }

/-- A scalar store begins: into the store buffer (R314, R317). One to a weakly ordered location of this module has
entered the outbound port; one to another module goes out in a packet (`Chip.sendRemote`). -/
def Chip.beginStore (k : Chip) (c pa : Nat) (data : Bytes) (cached : Bool) (space : Nat)
    (claim : Option Nat) : Chip :=
  let x := k.cluster c
  let la := paLocal pa
  let s : StoreEnt := { id := x.nextId, no := x.nextNo, pa := pa, data := data, cached := cached,
                        sent := k.isOwn pa && !k.ordered c pa, space := space, claim := claim }
  let stream0 := x.stream
  let k1 := k.updCluster c (fun x =>
    let y := x.discardIf (fun d => d.pieces.any (fun p => p.src / 128 = pa / 128))
    { y with nextId := x.nextId + 1 })
  let plain (y : Cluster) : Cluster := { y with stores := y.stores ++ [s] }
  if cached then
    let st := stream0.after x.noStream la data.length
    k1.updCluster c (fun y =>
      if stream0.on && st.on && (k.cline (64 + c) (lineOf la)).st = .i then
        { y with stream := st }.streamStore s la
      else plain { y with stream := { st with pendLine := none } })
  else k1.updCluster c (fun y => plain y.endStream)

/-- A put of the line-cache group and the hold of issue until its `WbAck` (R361, R362). -/
def Chip.lcPut (k : Chip) (c line : Nat) (rd : SReg) (kind : CohKind) (st : CState) (keep revert : Bool) : Chip :=
  let a := 64 + c
  let e := k.cline a line
  let home := k.homeOf line
  let k1 := k.updLine a line (fun e => { e with
    st := st
    keep := keep
    data := if revert then k.lineData line else e.data
    poison := if revert then k.poisoned line else e.poison })
  let m := if kind = .putM then { mkDataMsg .putM a home line e.data e.poison with keep := keep }
    else mkMsg kind a home line
  (k1.send m).updCluster c (fun x => { x with lcHold := some { line := line, rd := rd } })

/-- A line-cache group operation on a line (R360, R361). -/
def Chip.lcAct (k : Chip) (c : Nat) (op : LcOp) (rd : SReg) (line : Nat) : Chip :=
  let a := 64 + c
  let e := k.cline a line
  match op with
  | .lock => k.updLine a line (fun e => { e with locked := true })
  | .unlock => k.updLine a line (fun e => { e with locked := false })
  | .clean | .cleanw => if e.st = .m then k.lcPut c line rd .putM .miA true false else k
  | .inval | .invalw =>
    (match e.st with
    | .m => k.lcPut c line rd .putE .eiA false true
    | .e => k.lcPut c line rd .putE .eiA false false
    | .f => k.lcPut c line rd .putF .fiA false false
    | .s => k.lcPut c line rd .putS .siA false false
    | _ => k)
  | .flush | .flushw =>
    (match e.st with
    | .m => k.lcPut c line rd .putM .miA false false
    | .e => k.lcPut c line rd .putE .eiA false false
    | .f => k.lcPut c line rd .putF .fiA false false
    | .s => k.lcPut c line rd .putS .siA false false
    | _ => k)

/-- The scalar slot takes effect. -/
def Chip.scalarEffect (k : Chip) (c : Nat) (pc : U64) (a : SAct) : Chip :=
  match a with
  | .write rd v => k.updCluster c (·.scalarWrite rd v)
  | .jump _ (some (rd, v)) => k.updCluster c (·.scalarWrite rd v)
  | .access kind rd va pa size cached space claim => k.beginAccess c pc kind rd va pa size cached space claim
  | .store pa data cached space claim => k.beginStore c pa data cached space claim
  | .zone z w => (k.updCluster c (·.endStream)).landzWrite (.seq c) c z w
  -- DESIGN CHOICE (notes/assumptions/112.md): `LC.LOCK` on a line that is not cacheable writes 0.
  | .lc op rd line =>
    let k1 := k.updCluster c (·.scalarWrite rd (if op = .lock && line.isSome then 1 else 0))
    (match line with
    | some l => k1.lcAct c op rd l
    | none => k1)
  | _ => k

/-! ## The next bundle (R137-R143) -/

/-- The loops a taken transfer keeps (R142). -/
def keepActive (t : U64) (l : List LoopEnt) : List LoopEnt :=
  l.filter (fun e => decide (e.start.toNat ≤ t.toNat) && decide (t.toNat ≤ e.stop.toNat))

/-- The next bundle and the loops after the end bundle of the innermost loops (R140). -/
def loopEnd (pc : U64) : List LoopEnt → U64 × List LoopEnt
  | [] => (pc + 32, [])
  | e :: r =>
    if e.stop ≠ pc then (pc + 32, e :: r)
    else if e.index + 1 < e.trip then (e.start, { e with index := e.index + 1 } :: r)
    else loopEnd pc r

/-- The predictor after a `BREAK` that did not exit: in the last iteration of its loop no exit is left in this
activation, and its entry says "none" (R276; notes/assumptions/113.md). -/
def Cluster.stayed (x : Cluster) (pc : U64) : List Pred :=
  match x.loops with
  | e :: _ => if e.trip ≤ e.index + 1 then notePred x.preds pc none else x.preds
  | [] => x.preds

/-- The next bundle, the loop stack and the predictor after the scalar slot. -/
def Cluster.goOn (x : Cluster) (pc : U64) (s : Scalar) (a : SAct) : Cluster :=
  match a with
  | .jump t _ => { x with pc := t, loops := keepActive t x.loops }
  | .push e => { x with
      pc := pc + 32, loops := e :: x.loops
      preds := match s with | .loop _ _ => notePred x.preds pc (some e.trip) | _ => x.preds }
  | .pass t => { x with pc := t, preds := notePred x.preds pc (some 0) }
  | .leave n t => { x with
      pc := t, loops := x.loops.drop n
      preds := notePred x.preds pc (x.loops.head?.map (·.index)) }
  | _ =>
    let (t, l) := loopEnd pc x.loops
    { x with pc := t, loops := l, preds := match s with | .brk _ _ _ => x.stayed pc | _ => x.preds }

/-! ## Effects of the engine slots -/

/-- A matrix operation changes the sequencer's copy of the tile mode (05_matrix_units.md R179). -/
def Cluster.noteMode (x : Cluster) (p : Prep) : Cluster :=
  match p.op with
  | .mma complex acc _ _ _ _ _ _ _ _ _ =>
    if acc then x else x.updMUnit p.eng (fun u => { u with seqComplex := complex })
  | .zload _ _ _ => x.updMUnit p.eng (fun u => { u with seqComplex := false })
  | _ => x

/-- An engine operation enters its queue (R85). -/
def Cluster.enqueue (x : Cluster) (no : Nat) (p : Prep) : Cluster :=
  let y := x.noteMode p
  { y with queues := tblMod [] y.queues p.eng (fun q => q ++ [({ no := no, op := p.op } : EngEnt)]) }

/-- A pre-issued command that a `MOV` confirms (08_movers_and_run_ahead.md R277, R279); `kept` says that a
preparation's descriptor has not been written since it was read. -/
def Cluster.toConfirm (x : Cluster) (kept : Prepared → Bool) (pc : U64) (f : MovF) (d : MovCmd) : Option MovCmd :=
  if d.early.isNone &&
      x.prepared.any (fun p => p.pc = pc && p.rdesc = d.rdesc && p.desc = d.desc && kept p) then
    (x.mover f.mover.toNat).cmds.find? (fun e => e.speculative && e.rdesc = d.rdesc && e.desc = d.desc &&
      e.hasp = d.hasp && e.cnt = d.cnt && e.dloc = d.dloc)
  else none

/-- The command of a `MOV` enters its mover, or confirms the pre-issued one (R250, R279). -/
def Cluster.takeMov (x : Cluster) (kept : Prepared → Bool) (pc : U64) (no : Nat) (f : MovF) (d : MovCmd) : Cluster :=
  let m := f.mover.toNat
  let y := match x.toConfirm kept pc f d with
    | some e => x.updMover m (fun v => { v with
        cmds := v.cmds.map (fun (o : MovCmd) => if o.id = e.id then { o with confirmed := true, no := no } else o)
        confirmed := satAdd v.confirmed 1 })
    | none => { x.updMover m (fun v => { v with cmds := v.cmds ++ [{ d with id := x.nextId, no := no }] }) with
        nextId := x.nextId + 1 }
  { y with prepared := y.prepared.filter (fun p => !(p.pc = pc && p.rdesc = d.rdesc)), descRead := none }

/-- A sync operation takes effect (R159; 09_hasps.md R287, R291, R293). -/
def Chip.syncEffect (k : Chip) (c no : Nat) (wh : Bool) (o : SyncReady) : Chip :=
  let buf (act : HaspAct) (sc : Scope) : Chip :=
    k.updCluster c (fun x =>
      let y := x.endStream
      { y with haspBuf := y.haspBuf ++ [({ no := no, act := act, remote := o.dev, hasp := o.hasp,
                                           v := o.v.setWidth 48, scope := sc, err := false } : HaspOp)] })
  let fence (sc : Scope) : Chip := k.updCluster c (fun x => { x.endStream with fence := some sc })
  match o.op with
  | .add _ _ sc => buf .add sc
  | .set _ _ sc => buf .set sc
  | .reset _ sc => buf .reset sc
  | .wait _ _ sc =>
    let k1 := k.updCluster c (·.endStream)
    if wh || k1.haspMet c o.hasp o.v then k1
    else k1.updCluster c (fun x => x.addWait true o.hasp o.v sc o.tmo)
  | .fenceC => fence .cluster
  | .fenceP => fence .package
  | .fenceS => fence .system

/-! ## Issue -/

/-- Every slot of a bundle takes effect (R80, R82). -/
def Chip.commitBundle (k : Chip) (c : Nat) (b : Bundle256) (a : SAct) (r : Ready) : Chip :=
  let x := k.cluster c
  let no := x.nextNo
  let pc := x.pc
  let k1 := k.scalarEffect c pc a
  let k2 := k1.updCluster c (fun y =>
    let y1 := r.preps.foldl (fun y p => y.enqueue no p) y
    let y2 := match r.mov with
      | some (f, d) => y1.takeMov (k.descKept c) pc no f d
      | none => y1
    { y2 with claims := y2.claims ++ r.claims no })
  let k3 := match r.sync with
    | some o => k2.syncEffect c no b.wh o
    | none => k2
  let k4 := k3.updCluster c (fun y =>
    let y1 := if b.stop then { y.discardRunAhead.closeStream with stopIssued := true } else y.goOn pc b.scalar a
    { y1 with nextNo := no + 1, whEnded := false, fetchRead := none, descRead := none, lockRead := none })
  (k4.drainAll c).dropOffPath c

/-- An operation of a slot row that stands alone in its queue runs to its end (R85). -/
def Chip.runSlot (k : Chip) (c : Nat) (p : Prep) : Chip :=
  if (tblGet [] (k.cluster c).queues p.eng).length = 1 then
    let k1 := k.endOp c p.eng
    match p.op with
    | .zdrain _ _ _ _ _ _ => k1.endDrain c p.eng
    | _ => k1
  else k

/-- A decoded bundle at the sequencer's next address issues, waits or faults (R80-R84, R161, R162). With
`run`, its engine operations run to their end where they may start at once. -/
def Chip.issue (k : Chip) (c : Nat) (b : Bundle256) (run : Bool) : Chip :=
  let k0 := k.endFence c
  let x := k0.cluster c
  if !x.canIssue then k0
  else if b.pred ≠ 0 && x.awaits [predReg b.pred] then k0
  else
    let on := b.pred = 0 || x.reg (predReg b.pred) ≠ 0
    if x.awaits (b.reads on) then k0
    else match k0.holdWh c b on with
      | (k1, false) => k1
      | (k1, true) =>
        match k1.stageI c b on with
        | (k2, false) => k2
        | (k2, true) =>
          match k2.scalarX c x.pc b.scalar with
          | (k3, .wait) => k3.drainAll c
          | (k3, .fault code pa) => k3.seqFault c code x.pc pa
          | (k3, .act a) =>
            match k3.prepAll c b on with
            | (k4, .wait) => k4.drainAll c
            | (k4, .fault code) => k4.seqFault c code x.pc none
            | (k4, .ok r) =>
              if !(k4.cluster c).hasRoom r (on && b.wh) then k4
              else
                let k5 := k4.commitBundle c b a r
                if run then r.preps.foldl (fun k p => k.runSlot c p) k5 else k5

/-! ## Fetch (R62, R132, R160-R162) -/

/-- Outcome of the fetch of a bundle. -/
inductive Fetch where
  | got (w : BitVec 256)
  | wait
  | fault (code : Nat) (pa : Option Nat)
  deriving DecidableEq, Repr

/-- The bundle bytes at a physical address (R62; 11_coherence.md R354; 12_range_translation.md R372). -/
def Chip.fetchAt (k : Chip) (c pa : Nat) (coh : Bool) : Chip × Fetch :=
  let la := paLocal pa
  let line := lineOf la
  let word (bs : Bytes) : Fetch := .got (BitVec.ofNat 256 (ofBytes bs))
  let own := areaOf la = .lpddr || areaOf la = .hbm || areaOf la = .shelf || areaOf la = .stores
  if !(k.isOwn pa && own && k.populated la) then (k, .fault ftNothing (some pa))
  else if cacheable la && coh && (k.cline (64 + c) line).st.readable then
    let e := k.cline (64 + c) line
    (k.touch (64 + c) line,
      if e.poison then .fault ftPoison (some pa) else word (lineBytes e.data (la % 128) 32))
  else
    let st := k.reachMem (some (c / 24)) la
    if st ≠ stOk then (k, .fault (faultOf st) (some pa))
    else if cacheable la && coh then
      ((k.updCluster c (fun x => { x with fetchRead := some { pc := x.pc, pa := pa, got := none } })).requestLine
        (64 + c) line false, .wait)
    else
      let (k1, (bs, p)) := k.cohRead la 32
      (k1, if p then .fault ftPoison (some pa) else word bs)

/-- The fetch of the bundle at the sequencer's next address. One that waits for its line stays where it was
translated, and ends with the line (12_range_translation.md R379; 11_coherence.md R352). -/
def Chip.fetchBundle (k : Chip) (c : Nat) : Chip × Fetch :=
  let x := k.cluster c
  if x.pc.toNat % 32 ≠ 0 then (k, .fault ftMisaligned none)
  else match x.fetchRead.filter (fun r => r.pc = x.pc) with
    | some r =>
      (match r.got with
      | none => k.fetchAt c r.pa true
      | some (bs, p) => (k, if p then .fault ftPoison (some r.pa) else .got (BitVec.ofNat 256 (ofBytes bs))))
    | none => match k.translate c x.space x.pc .read with
      | (k1, .wait) => (k1, .wait)
      | (k1, .fail st) => (k1, .fault (xltFault st) none)
      | (k1, .ok e) => k1.fetchAt c (e.phys x.pc) e.coh

/-- The bundle at the next address is fetched, decoded and issued, as far as nothing holds it. -/
def Chip.fetchIssue (k : Chip) (c : Nat) : Chip :=
  let k0 := (k.endFence c).drainAll c
  if !(k0.cluster c).canIssue then k0
  else match k0.fetchBundle c with
    | (k1, .wait) => k1
    | (k1, .fault code pa) =>
      if code = ftPoison then
        (k1.updCluster c (·.takeFault code (k1.cluster c).pc)).report 1
          { clusterErr c 0 3 1 with
            paddr := BitVec.ofNat 64 (pa.getD 0), vaddr := (k1.cluster c).pc, status := 6 } 1
      else k1.seqFault c code (k1.cluster c).pc pa
    | (k1, .got w) =>
      match decodeBundle w with
      | some b => k1.issue c b false
      | none => k1.seqFault c ftIllegal (k1.cluster c).pc none

/-- A bundle with nothing but its scalar slot. -/
def nopBundle : Bundle256 :=
  { scalar := .nop, matrix := none, vector := none, mover := none, sfu := none, pred := 0, wh := false,
    stop := false, sbar := false }

/-- A bundle of a slot row: an illegal one faults in stage I (R161). -/
def Chip.issueSlot (k : Chip) (c : Nat) (b : Bundle256) : Chip :=
  let k0 := k.endFence c
  if !k.clusterPresent c || !(k0.cluster c).canIssue then k0
  else if b.legal then k0.issue c b true
  else k0.seqFault c ftIllegal (k0.cluster c).pc none

end Sys2Proof.Machine
end

