-- ==== Sys2Proof/Machine/Scalar.lean ====
section
/-! DEFINITION. The integer instructions of the scalar slot (04_iluchezia_bundles.md R129-R131, R135). An instruction
of this file issues as a bundle of its own at the sequencer's next address. -/

namespace Sys2Proof.Machine

/-- A bundle that holds one instruction issues (03_cluster_execution.md R80). -/
def State.slot (s : State) (c : Nat) (b : Bundle256) : Host.Outcome State Fault Refusal :=
  .next (s.onChip (fun k => k.issueSlot c b))

/-- A scalar instruction issues. -/
def State.scalarSlot (s : State) (c : Nat) (i : Scalar) : Host.Outcome State Fault Refusal :=
  s.slot c { nopBundle with scalar := i }

/-- `NOP` (R122, R129). -/
def execNop (c : Nat) (s : State) : Host.Outcome State Fault Refusal :=
  s.scalarSlot c .nop

/-- `ADD` (R130): rs1 + rs2. -/
def execAdd (c : Nat) (rd rs1 rs2 : SReg) (s : State) : Host.Outcome State Fault Refusal :=
  s.scalarSlot c (.alu .add rd rs1 rs2)

/-- `SUB` (R130): rs1 - rs2. -/
def execSub (c : Nat) (rd rs1 rs2 : SReg) (s : State) : Host.Outcome State Fault Refusal :=
  s.scalarSlot c (.alu .sub rd rs1 rs2)

/-- `AND` (R130): rs1 AND rs2. -/
def execAnd (c : Nat) (rd rs1 rs2 : SReg) (s : State) : Host.Outcome State Fault Refusal :=
  s.scalarSlot c (.alu .and rd rs1 rs2)

/-- `OR` (R130): rs1 OR rs2. -/
def execOr (c : Nat) (rd rs1 rs2 : SReg) (s : State) : Host.Outcome State Fault Refusal :=
  s.scalarSlot c (.alu .or rd rs1 rs2)

/-- `XOR` (R130): rs1 XOR rs2. -/
def execXor (c : Nat) (rd rs1 rs2 : SReg) (s : State) : Host.Outcome State Fault Refusal :=
  s.scalarSlot c (.alu .xor rd rs1 rs2)

/-- `SLL` (R130): rs1 shifted left by rs2[5:0]. -/
def execSll (c : Nat) (rd rs1 rs2 : SReg) (s : State) : Host.Outcome State Fault Refusal :=
  s.scalarSlot c (.alu .sll rd rs1 rs2)

/-- `SRL` (R130): rs1 shifted right by rs2[5:0], logical. -/
def execSrl (c : Nat) (rd rs1 rs2 : SReg) (s : State) : Host.Outcome State Fault Refusal :=
  s.scalarSlot c (.alu .srl rd rs1 rs2)

/-- `SRA` (R130): rs1 shifted right by rs2[5:0], arithmetic. -/
def execSra (c : Nat) (rd rs1 rs2 : SReg) (s : State) : Host.Outcome State Fault Refusal :=
  s.scalarSlot c (.alu .sra rd rs1 rs2)

/-- `SLT` (R130): 1 if rs1 < rs2 signed, else 0. -/
def execSlt (c : Nat) (rd rs1 rs2 : SReg) (s : State) : Host.Outcome State Fault Refusal :=
  s.scalarSlot c (.alu .slt rd rs1 rs2)

/-- `SLTU` (R130): 1 if rs1 < rs2 unsigned, else 0. -/
def execSltu (c : Nat) (rd rs1 rs2 : SReg) (s : State) : Host.Outcome State Fault Refusal :=
  s.scalarSlot c (.alu .sltu rd rs1 rs2)

/-- `MUL` (R130): low 64 bits of rs1 times rs2. -/
def execMul (c : Nat) (rd rs1 rs2 : SReg) (s : State) : Host.Outcome State Fault Refusal :=
  s.scalarSlot c (.alu .mul rd rs1 rs2)

/-- `MIN` (R130): signed minimum. -/
def execMin (c : Nat) (rd rs1 rs2 : SReg) (s : State) : Host.Outcome State Fault Refusal :=
  s.scalarSlot c (.alu .min rd rs1 rs2)

/-- `MAX` (R130): signed maximum. -/
def execMax (c : Nat) (rd rs1 rs2 : SReg) (s : State) : Host.Outcome State Fault Refusal :=
  s.scalarSlot c (.alu .max rd rs1 rs2)

/-- `MINU` (R130): unsigned minimum. -/
def execMinu (c : Nat) (rd rs1 rs2 : SReg) (s : State) : Host.Outcome State Fault Refusal :=
  s.scalarSlot c (.alu .minu rd rs1 rs2)

/-- `MAXU` (R130): unsigned maximum. -/
def execMaxu (c : Nat) (rd rs1 rs2 : SReg) (s : State) : Host.Outcome State Fault Refusal :=
  s.scalarSlot c (.alu .maxu rd rs1 rs2)

/-- `ADDI` (R129): sign-extended immediate. -/
def execAddi (c : Nat) (rd rs1 : SReg) (imm : BitVec 16) (s : State) : Host.Outcome State Fault Refusal :=
  s.scalarSlot c (.alui .addi rd rs1 imm)

/-- `ANDI` (R129): sign-extended immediate. -/
def execAndi (c : Nat) (rd rs1 : SReg) (imm : BitVec 16) (s : State) : Host.Outcome State Fault Refusal :=
  s.scalarSlot c (.alui .andi rd rs1 imm)

/-- `ORI` (R129): zero-extended immediate. -/
def execOri (c : Nat) (rd rs1 : SReg) (imm : BitVec 16) (s : State) : Host.Outcome State Fault Refusal :=
  s.scalarSlot c (.alui .ori rd rs1 imm)

/-- `XORI` (R129): zero-extended immediate. -/
def execXori (c : Nat) (rd rs1 : SReg) (imm : BitVec 16) (s : State) : Host.Outcome State Fault Refusal :=
  s.scalarSlot c (.alui .xori rd rs1 imm)

/-- `SLTI` (R129): signed comparison. -/
def execSlti (c : Nat) (rd rs1 : SReg) (imm : BitVec 16) (s : State) : Host.Outcome State Fault Refusal :=
  s.scalarSlot c (.alui .slti rd rs1 imm)

/-- `SLTIU` (R129): unsigned comparison. -/
def execSltiu (c : Nat) (rd rs1 : SReg) (imm : BitVec 16) (s : State) : Host.Outcome State Fault Refusal :=
  s.scalarSlot c (.alui .sltiu rd rs1 imm)

/-- `SLLI` (R129): left shift by an immediate. -/
def execSlli (c : Nat) (rd rs1 : SReg) (sh : BitVec 6) (s : State) : Host.Outcome State Fault Refusal :=
  s.scalarSlot c (.shift .slli rd rs1 sh)

/-- `SRLI` (R129): logical right shift by an immediate. -/
def execSrli (c : Nat) (rd rs1 : SReg) (sh : BitVec 6) (s : State) : Host.Outcome State Fault Refusal :=
  s.scalarSlot c (.shift .srli rd rs1 sh)

/-- `SRAI` (R129): arithmetic right shift by an immediate. -/
def execSrai (c : Nat) (rd rs1 : SReg) (sh : BitVec 6) (s : State) : Host.Outcome State Fault Refusal :=
  s.scalarSlot c (.shift .srai rd rs1 sh)

/-- `LUI` (R129): the immediate shifted left by 16. -/
def execLui (c : Nat) (rd : SReg) (imm : BitVec 21) (s : State) : Host.Outcome State Fault Refusal :=
  s.scalarSlot c (.lui rd imm)

/-- `RDCYC` (R135): the ACLK cycles of the quadrant. -/
def execRdcyc (c : Nat) (rd : SReg) (s : State) : Host.Outcome State Fault Refusal :=
  s.scalarSlot c (.rdcyc rd)

/-- `LIDX` (R135): the iteration index of an active loop. -/
def execLidx (c : Nat) (rd : SReg) (depth : BitVec 2) (s : State) : Host.Outcome State Fault Refusal :=
  s.scalarSlot c (.lidx rd depth)

/-- `RDSPACE` (R135): the launch's space. -/
def execRdspace (c : Nat) (rd : SReg) (s : State) : Host.Outcome State Fault Refusal :=
  s.scalarSlot c (.rdspace rd)

end Sys2Proof.Machine
end

