-- ==== Sys2Proof/Machine/Access.lean ====
section
/-! DEFINITION. The loads, stores and atomics of the scalar slot (04_iluchezia_bundles.md R129, R132-R134). -/

namespace Sys2Proof.Machine

/-- `LB` (R129, R132): loads 1 byte, sign-extended. -/
def execLb (c : Nat) (rd rs1 : SReg) (imm : BitVec 16) (s : State) : Host.Outcome State Fault Refusal :=
  s.scalarSlot c (.load 0 true rd rs1 imm)

/-- `LBU` (R129, R132): loads 1 byte, zero-extended. -/
def execLbu (c : Nat) (rd rs1 : SReg) (imm : BitVec 16) (s : State) : Host.Outcome State Fault Refusal :=
  s.scalarSlot c (.load 0 false rd rs1 imm)

/-- `LH` (R129, R132): loads 2 bytes, sign-extended. -/
def execLh (c : Nat) (rd rs1 : SReg) (imm : BitVec 16) (s : State) : Host.Outcome State Fault Refusal :=
  s.scalarSlot c (.load 1 true rd rs1 imm)

/-- `LHU` (R129, R132): loads 2 bytes, zero-extended. -/
def execLhu (c : Nat) (rd rs1 : SReg) (imm : BitVec 16) (s : State) : Host.Outcome State Fault Refusal :=
  s.scalarSlot c (.load 1 false rd rs1 imm)

/-- `LW` (R129, R132): loads 4 bytes, sign-extended. -/
def execLw (c : Nat) (rd rs1 : SReg) (imm : BitVec 16) (s : State) : Host.Outcome State Fault Refusal :=
  s.scalarSlot c (.load 2 true rd rs1 imm)

/-- `LWU` (R129, R132): loads 4 bytes, zero-extended. -/
def execLwu (c : Nat) (rd rs1 : SReg) (imm : BitVec 16) (s : State) : Host.Outcome State Fault Refusal :=
  s.scalarSlot c (.load 2 false rd rs1 imm)

/-- `LD` (R129, R132): loads 8 bytes. -/
def execLd (c : Nat) (rd rs1 : SReg) (imm : BitVec 16) (s : State) : Host.Outcome State Fault Refusal :=
  s.scalarSlot c (.load 3 true rd rs1 imm)

/-- `SB` (R129, R132): stores 1 byte. -/
def execSb (c : Nat) (rs2 rs1 : SReg) (imm : BitVec 16) (s : State) : Host.Outcome State Fault Refusal :=
  s.scalarSlot c (.store 0 rs2 rs1 imm)

/-- `SH` (R129, R132): stores 2 bytes. -/
def execSh (c : Nat) (rs2 rs1 : SReg) (imm : BitVec 16) (s : State) : Host.Outcome State Fault Refusal :=
  s.scalarSlot c (.store 1 rs2 rs1 imm)

/-- `SW` (R129, R132): stores 4 bytes. -/
def execSw (c : Nat) (rs2 rs1 : SReg) (imm : BitVec 16) (s : State) : Host.Outcome State Fault Refusal :=
  s.scalarSlot c (.store 2 rs2 rs1 imm)

/-- `SD` (R129, R132): stores 8 bytes. -/
def execSd (c : Nat) (rs2 rs1 : SReg) (imm : BitVec 16) (s : State) : Host.Outcome State Fault Refusal :=
  s.scalarSlot c (.store 3 rs2 rs1 imm)

/-- `LDL` (R133): loads 8 bytes from an offset of the own store. -/
def execLdl (c : Nat) (rd rs1 : SReg) (imm : BitVec 16) (s : State) : Host.Outcome State Fault Refusal :=
  s.scalarSlot c (.ldl rd rs1 imm)

/-- `STL` (R133): stores 8 bytes to an offset of the own store. -/
def execStl (c : Nat) (rs2 rs1 : SReg) (imm : BitVec 16) (s : State) : Host.Outcome State Fault Refusal :=
  s.scalarSlot c (.stl rs2 rs1 imm)

/-- `AMOADD` (R134): adds rs2 to the word. -/
def execAmoadd (c : Nat) (rd rs1 rs2 : SReg) (s : State) : Host.Outcome State Fault Refusal :=
  s.scalarSlot c (.amo .add rd rs1 rs2)

/-- `AMOSWAP` (R134): replaces the word with rs2. -/
def execAmoswap (c : Nat) (rd rs1 rs2 : SReg) (s : State) : Host.Outcome State Fault Refusal :=
  s.scalarSlot c (.amo .swap rd rs1 rs2)

/-- `AMOCAS` (R134): replaces the word with rs2 where it equals rd. -/
def execAmocas (c : Nat) (rd rs1 rs2 : SReg) (s : State) : Host.Outcome State Fault Refusal :=
  s.scalarSlot c (.amo .cas rd rs1 rs2)

end Sys2Proof.Machine
end

