-- ==== Sys2Proof/Machine/Boot.lean ====
section
/-! DEFINITION. The commands of boot and of the power pins (18_boot_and_security.md R507-R509;
20_electrical_mechanical.md R547-R552; 01_package_and_hinges.md R54, R55). -/

namespace Sys2Proof.Machine

/-- The Tumbler closes discovery (R54, R55). -/
def execDiscoveryClose (s : State) : Host.Outcome State Fault Refusal :=
  .next (if s.links.discOpen || !s.links.rediscover.isEmpty then s.closeDiscovery else s)

/-- The boot watchdog expires (R508). -/
def execBootWatchdog (s : State) : Host.Outcome State Fault Refusal :=
  .next (if s.boot.watchdog then s.deviceReset false else s)

/-- Seconds in which hart firmware may confirm its slot (R508). -/
def confirmSeconds : Nat := 300

/-- Hart firmware confirms its slot (R508). -/
def execHartFwConfirm (s : State) : Host.Outcome State Fault Refusal :=
  .next (match s.boot.releasedAt with
    | some t =>
      if s.chip.mgmt.now ≤ t + confirmSeconds * refclkSecond then
        { s with
          boot := { s.boot with hart := s.boot.hart.confirm, releasedAt := none }
          chip := s.chip.fwEvent (s.boot.hart.running.getD false) 3 }
      else s
    | none => s)

/-! ## Pins -/

def State.onPins (s : State) (f : Pins → Pins) : State := { s with pins := f s.pins }

/-- A power-on sequence where the sequencer may start one. -/
def State.tryPower (s : State) : State := if s.mayPower && !s.pins.pgood then s.powerOn else s

/-- `PWR_EN` rises as R552 asks, which takes VSB and REFCLK to be in order (R547, R551). -/
def execPwrEnRise (s : State) : Host.Outcome State Fault Refusal :=
  .next (if s.pins.pwrEn then s
    else (s.onPins (fun p => { p with pwrEn := true, needEdge := false, vsbOk := true, refclk := true })).tryPower)

/-- Rails fall after a pin has gone low; `FAULT_N` is released (R548, R550). -/
def State.pinDown (s : State) : State :=
  (if s.pins.pgood then s.depower else s).onPins (fun p => { p with faultN := true })

/-- `PWR_EN` falls (R548, R550). -/
def execPwrEnFall (s : State) : Host.Outcome State Fault Refusal :=
  .next ((s.onPins (fun p => { p with pwrEn := false })).pinDown)

/-- `MOD_RST_N` falls: a cold reset, held while it is low (R524, R548). -/
def execModRstNFall (s : State) : Host.Outcome State Fault Refusal :=
  .next ((s.onPins (fun p => { p with modRstN := false })).pinDown)

/-- `MOD_RST_N` rises (R552). -/
def execModRstNRise (s : State) : Host.Outcome State Fault Refusal :=
  .next (if s.pins.modRstN then s else (s.onPins (fun p => { p with modRstN := true })).tryPower)

/-- V_IN rises through 36 V (R547, R552): without VSB the module waits for an edge of `PWR_EN`. -/
def execVinRise (s : State) : Host.Outcome State Fault Refusal :=
  .next ((s.onPins (fun p => { p with vinOk := true, needEdge := p.needEdge || !p.vsbOk })).tryPower)

/-- A loss of V_IN (R528, R547). -/
def State.loseVin (s : State) : State :=
  (if s.pins.pgood then s.depower else s).onPins (fun p => { p with vinOk := false })

/-- A dip of V_IN shorter than 1 ms to a voltage in millivolts (R547). -/
def execVinDip (mv : Nat) (s : State) : Host.Outcome State Fault Refusal :=
  .next (if mv < 30000 then s.loseVin else s)

/-- V_IN is lost (R547). -/
def execVinLoss (s : State) : Host.Outcome State Fault Refusal := .next s.loseVin

/-- V_IN above 60 V (R547). -/
def execVinOvervoltage (s : State) : Host.Outcome State Fault Refusal := .next (s.trip .overvoltage)

/-- VSB falls below 3.0 V (R547): handled as a loss of V_IN while V_IN is up; the sideband outputs are
undefined. -/
def execVsbLoss (s : State) : Host.Outcome State Fault Refusal :=
  .next (
    let s1 := if s.pins.vinOk && s.pins.pgood then s.depower else s
    let (v, k) := s1.chip.fresh
    { s1 with
      chip := k
      pins := { s1.pins with vsbOk := false, faultN := v.getLsbD 0, thermN := v.getLsbD 1 } })

/-- REFCLK is lost for more than 10 µs while `PGOOD` is high (R550). -/
def execRefclkLoss (s : State) : Host.Outcome State Fault Refusal :=
  .next (if s.pins.pgood then (s.trip .refclk).onPins (fun p => { p with refclk := false }) else s)

/-- A rail group leaves ±5 % of its set point for more than 20 µs while it is meant to be up (R550). -/
def execRailOutOfRegulation (rail : Nat) (s : State) : Host.Outcome State Fault Refusal :=
  .next (if s.pins.rails.contains rail then s.trip (.rail rail) else s)

end Sys2Proof.Machine
end

