-- ==== Sys2Proof/Machine/Coherence.lean ====
section
/-! DEFINITION. The commands of the coherence protocol (11_coherence.md): a message arrives at a home
or at a caching agent.

The message leaves the network when it is there. A command whose message the network does not hold
stands for a message that has arrived from it, unless an earlier message between the same ends for the
same line is still on its way (R342; notes/assumptions/25.md). -/

namespace Sys2Proof.Machine

/-- The agent exists on this module (R338). -/
def Chip.agentPresent (k : Chip) (a : Nat) : Bool :=
  if a < 64 then k.capHarts.getLsbD a else a < 160 && k.clusterPresent (a - 64)

/-- The home of a line serves requests: its quadrant runs, or the host-die home is open
(15_host_die.md R453). -/
def Chip.homeServes (k : Chip) (line : Nat) : Bool :=
  k.populated (line * 128) && cacheable (line * 128) &&
    match k.ownerQuad (line * 128) with
    | some q => !(k.quad q).unusable && (k.quad q).up
    | none => k.hostOpen

/-- Whether two messages run between the same ends for the same line. -/
def CohMsg.sameEnds (a b : CohMsg) : Bool := a.src = b.src && a.dst = b.dst && a.line = b.line

/-- A message arrives: the one of the network that meets the test, or the one given. -/
def Chip.arrive (k : Chip) (p : CohMsg → Bool) (given : CohMsg) (f : Chip → CohMsg → Chip) : Chip :=
  match k.net.find? p with
  | some m =>
    if ((k.net.takeWhile (fun x => x ≠ m)).any (fun x => x.sameEnds m)) then k
    else f { k with net := k.net.erase m } m
  | none => if k.net.any (fun x => x.sameEnds given) then k else f k given

/-- A request without a line arrives at its home (R347). -/
def Chip.arriveRequest (k : Chip) (kind : CohKind) (agent line : Nat) (req : HReq) : Chip :=
  let m := mkMsg kind agent (k.homeOf line) line
  if k.agentPresent agent && k.homeServes line then
    k.arrive (· = m) m (fun k m => k.homeRequest m.dst line req)
  else k

/-- A request of an agent that never caches arrives at its home (R347, R355). -/
def Chip.arriveUncached (k : Chip) (line : Nat) (req : HReq) : Chip :=
  if k.homeServes line then k.homeRequest (k.homeOf line) line req else k

/-- A snoop arrives at a caching agent (R351). -/
def Chip.arriveSnoop (k : Chip) (m : CohMsg) : Chip :=
  if k.agentPresent m.dst && k.homeServes m.line then
    k.arrive (· = m) m (fun k m => k.takeSnoop m.dst m)
  else k

/-- A grant arrives at a caching agent, from its home or from another cache (R351). -/
def Chip.arriveGrant (k : Chip) (kind : CohKind) (agent line : Nat) (d : LineData) (p : Bool) : Chip :=
  let m := mkDataMsg kind (k.homeOf line) agent line d p
  if k.agentPresent agent && k.homeServes line then
    k.arrive (fun x => { x with src := m.src } = m) m
      (fun k m => k.takeGrant agent line kind m.data m.poison)
  else k

/-- `GetS` at a home (R347). -/
def execGets (agent line : Nat) (s : State) : Host.Outcome State Fault Refusal :=
  .next (s.onChip (fun k => k.arriveRequest .getS agent line (.getS agent)))

/-- `GetM` at a home (R347). -/
def execGetm (agent line : Nat) (s : State) : Host.Outcome State Fault Refusal :=
  .next (s.onChip (fun k => k.arriveRequest .getM agent line (.getM agent)))

/-- `PutS` at a home (R349). -/
def execPuts (agent line : Nat) (s : State) : Host.Outcome State Fault Refusal :=
  .next (s.onChip (fun k => k.arriveRequest .putS agent line (.putS agent)))

/-- `PutF` at a home (R349). -/
def execPutf (agent line : Nat) (s : State) : Host.Outcome State Fault Refusal :=
  .next (s.onChip (fun k => k.arriveRequest .putF agent line (.putF agent)))

/-- `PutE` at a home (R349). -/
def execPute (agent line : Nat) (s : State) : Host.Outcome State Fault Refusal :=
  .next (s.onChip (fun k => k.arriveRequest .putE agent line (.putE agent)))

/-- `PutM` with its line at a home (R349). -/
def execPutm (agent line : Nat) (keep : Bool) (data : LineData) (poison : Bool) (s : State) :
    Host.Outcome State Fault Refusal :=
  .next (s.onChip (fun k =>
    let m := { mkDataMsg .putM agent (k.homeOf line) line data poison with keep := keep }
    if k.agentPresent agent && k.homeServes line then
      k.arrive (· = m) m (fun k m => k.homeRequest m.dst line (.putM agent m.keep m.data m.poison))
    else k))

/-- `ReadOnce` at a home (R347). -/
def execReadonce (req line : Nat) (s : State) : Host.Outcome State Fault Refusal :=
  .next (s.onChip (fun k => k.arriveUncached line (.readOnce req)))

/-- `WriteFull` at a home (R347). -/
def execWritefull (req line : Nat) (mask : BitVec 128) (data : LineData) (poison : Bool) (s : State) :
    Host.Outcome State Fault Refusal :=
  .next (s.onChip (fun k => k.arriveUncached line (.writeFull req mask data poison)))

/-- `Atomic` at a home (R347): the word must be aligned (04_iluchezia_bundles.md R134). -/
def execAtomic (req addr : Nat) (op : AmoOp) (operand compare : U64) (s : State) :
    Host.Outcome State Fault Refusal :=
  .next (s.onChip (fun k =>
    if addr % 8 = 0 then k.arriveUncached (lineOf addr) (.atomic req addr op operand compare) else k))

/-- A waiting request starts (R346). -/
def execHomeRequestResume (home line : Nat) (s : State) : Host.Outcome State Fault Refusal :=
  .next (s.onChip (fun k => if k.homeServes line then k.homeResume home line else k))

/-- `FwdGetS`, with or without `ONCE`, at a cache (R351). -/
def execFwdgets (agent line req : Nat) (once : Bool) (s : State) : Host.Outcome State Fault Refusal :=
  .next (s.onChip (fun k =>
    k.arriveSnoop { mkMsg .fwdGetS (k.homeOf line) agent line with req := req, once := once }))

/-- `FwdGetM` at a cache (R351). -/
def execFwdgetm (agent line req : Nat) (s : State) : Host.Outcome State Fault Refusal :=
  .next (s.onChip (fun k => k.arriveSnoop { mkMsg .fwdGetM (k.homeOf line) agent line with req := req }))

/-- `Inv` at a cache (R351). -/
def execInv (agent line : Nat) (s : State) : Host.Outcome State Fault Refusal :=
  .next (s.onChip (fun k => k.arriveSnoop (mkMsg .inv (k.homeOf line) agent line)))

/-- `BackInv` at a cache (R351). -/
def execBackinv (agent line : Nat) (s : State) : Host.Outcome State Fault Refusal :=
  .next (s.onChip (fun k => k.arriveSnoop (mkMsg .backInv (k.homeOf line) agent line)))

/-- `InvAck` at a home (R348). -/
def execInvack (agent line : Nat) (s : State) : Host.Outcome State Fault Refusal :=
  .next (s.onChip (fun k =>
    let m := mkMsg .invAck agent (k.homeOf line) line
    if k.agentPresent agent && k.homeServes line then
      k.arrive (· = m) m (fun k m => k.homeAnswer m.dst line agent none)
    else k))

/-- `WbAck` at a cache, or at an agent that never caches (R351, R355). -/
def execWback (agent line : Nat) (s : State) : Host.Outcome State Fault Refusal :=
  .next (s.onChip (fun k =>
    let m := mkMsg .wbAck (k.homeOf line) agent line
    if (k.agentPresent agent || 160 ≤ agent) && k.homeServes line then
      k.arrive (· = m) m (fun k m => k.deliver m)
    else k))

/-- `Data` at a home, or at an agent that never caches (R348, R355). -/
def execData (src dst line : Nat) (data : LineData) (poison : Bool) (s : State) :
    Host.Outcome State Fault Refusal :=
  .next (s.onChip (fun k =>
    let m := mkDataMsg .data src dst line data poison
    if k.homeServes line then k.arrive (· = m) m (fun k m => k.deliver m) else k))

/-- `DataE` at a cache (R351). -/
def execDatae (agent line : Nat) (data : LineData) (poison : Bool) (s : State) :
    Host.Outcome State Fault Refusal :=
  .next (s.onChip (fun k => k.arriveGrant .dataE agent line data poison))

/-- `DataF` at a cache (R351). -/
def execDataf (agent line : Nat) (data : LineData) (poison : Bool) (s : State) :
    Host.Outcome State Fault Refusal :=
  .next (s.onChip (fun k => k.arriveGrant .dataF agent line data poison))

end Sys2Proof.Machine
end

