-- ==== Sys2Proof/Machine/Control.lean ====
section
/-! DEFINITION. Branches, jumps and loops of the scalar slot (04_iluchezia_bundles.md R137-R143). -/

namespace Sys2Proof.Machine

/-- `BEQ` (R137). -/
def execBeq (c : Nat) (rs1 rs2 : SReg) (off : BitVec 16) (s : State) : Host.Outcome State Fault Refusal :=
  s.scalarSlot c (.branch .beq rs1 rs2 off)

/-- `BNE` (R137). -/
def execBne (c : Nat) (rs1 rs2 : SReg) (off : BitVec 16) (s : State) : Host.Outcome State Fault Refusal :=
  s.scalarSlot c (.branch .bne rs1 rs2 off)

/-- `BLT` (R137). -/
def execBlt (c : Nat) (rs1 rs2 : SReg) (off : BitVec 16) (s : State) : Host.Outcome State Fault Refusal :=
  s.scalarSlot c (.branch .blt rs1 rs2 off)

/-- `BGE` (R137). -/
def execBge (c : Nat) (rs1 rs2 : SReg) (off : BitVec 16) (s : State) : Host.Outcome State Fault Refusal :=
  s.scalarSlot c (.branch .bge rs1 rs2 off)

/-- `BLTU` (R137). -/
def execBltu (c : Nat) (rs1 rs2 : SReg) (off : BitVec 16) (s : State) : Host.Outcome State Fault Refusal :=
  s.scalarSlot c (.branch .bltu rs1 rs2 off)

/-- `BGEU` (R137). -/
def execBgeu (c : Nat) (rs1 rs2 : SReg) (off : BitVec 16) (s : State) : Host.Outcome State Fault Refusal :=
  s.scalarSlot c (.branch .bgeu rs1 rs2 off)

/-- `JAL` (R137). -/
def execJal (c : Nat) (rd : SReg) (off : BitVec 21) (s : State) : Host.Outcome State Fault Refusal :=
  s.scalarSlot c (.jal rd off)

/-- `JALR` (R137). -/
def execJalr (c : Nat) (rd rs1 : SReg) (imm : BitVec 16) (s : State) : Host.Outcome State Fault Refusal :=
  s.scalarSlot c (.jalr rd rs1 imm)

/-- `LOOP` (R138, R139). -/
def execLoop (c : Nat) (rc : SReg) (body : BitVec 16) (s : State) : Host.Outcome State Fault Refusal :=
  s.scalarSlot c (.loop rc body)

/-- `LOOPI` (R138, R139). -/
def execLoopi (c : Nat) (t : BitVec 10) (body : BitVec 16) (s : State) : Host.Outcome State Fault Refusal :=
  s.scalarSlot c (.loopi t body)

/-- `BREAK` (R143). -/
def execBrk (c : Nat) (rs : SReg) (sense : Bool) (level : BitVec 2) (s : State) :
    Host.Outcome State Fault Refusal :=
  s.scalarSlot c (.brk rs sense level)

end Sys2Proof.Machine
end

