-- ==== Sys2Proof/Machine/Dispatcher.lean ====
section
/-! DEFINITION. The commands of the quadrant dispatchers and of clusters as they hold them
(03_cluster_execution.md R96-R119). -/

namespace Sys2Proof.Machine

/-- `DSP_CTL` after a write (R98); `ENABLE` stays clear in an orphaned quadrant (R530). A cluster that is `GATED` when
`PGATE` is cleared stays so until a launch or a reset takes it (DESIGN CHOICE, notes/assumptions/119.md). -/
def Quad.writeCtl (d : Quad) (w : RegW) : Quad :=
  let v := regMerge ((boolBit d.pgate ++ boolBit d.enable : BitVec 2).setWidth 64) w
  { d with enable := v.getLsbD 0 && !d.orphaned, pgate := v.getLsbD 1 }

/-- A write to `DSP_CTL` (R98). -/
def execDspCtlWrite (q : Nat) (w : RegW) (s : State) : Host.Outcome State Fault Refusal :=
  .next (s.onChip (fun k => if k.bankUp q then k.updQuad q (·.writeCtl w) else k))

/-- Whether a launch of queue `n` is running: it has been given clusters and has not reached its commit point (R101,
R116). -/
def Quad.live (d : Quad) (n : Nat) : Bool := d.launches.any (fun l => l.queue = n && !l.all.isEmpty)

/-- Queue `n` after a write to `DSP_QCFG` (R100, R101). Once it is enabled again, completions of its earlier records
no longer move `RETIRED`. -/
def Quad.writeQcfg (d : Quad) (n : Nat) (w : RegW) : Quad :=
  let d1 := d.updQueue n (fun x => x.writeCfg (d.live n) w)
  if !(d.queue n).enable && (d1.queue n).enable then
    { d1 with
      launches := d1.launches.map (fun l => if l.queue = n then { l with late := true } else l)
      held := d1.held.map (fun h => if h.queue = n then { h with late := true } else h) }
  else d1

/-- A write to `DSP_QCFG` (R100, R101). -/
def execDspQcfgWrite (q n : Nat) (w : RegW) (s : State) : Host.Outcome State Fault Refusal :=
  .next (s.onChip (fun k => if k.bankUp q && n < 256 then k.updQuad q (·.writeQcfg n w) else k))

/-- A write to `DSP_QDB` (R102). `TAIL` lies in the low half: a write of the high half rings nothing. -/
def execDspQdb (q n : Nat) (w : RegW) (s : State) : Host.Outcome State Fault Refusal :=
  .next (s.onChip (fun k =>
    if k.bankUp q && n < 256 && w.part ≠ .high then
      k.updQuad q (·.updQueue n (·.doorbell (w.val.extractLsb' 0 16)))
    else k))

/-- The dispatcher reads the record at `HEAD` (R103-R105). -/
def execLaunchRecordRead (q n : Nat) (s : State) : Host.Outcome State Fault Refusal :=
  .next (s.onChip (fun k => if k.bankUp q && n < 256 then k.readRecord q n else k))

/-- Whether a queue waits for the record at its `HEAD`. -/
def Chip.recordAwaited (k : Chip) (q n : Nat) : Bool :=
  let d := k.quad q
  let w := d.queue n
  d.enable && !d.orphaned && w.enable && !w.stopped && w.head ≠ w.tail && w.next.isNone

/-- The re-reads of a record whose `SEQ` differed have gone on for 2 µs (R103): the last of them is made, and only a
`SEQ` that still differs makes the queue stale. -/
def Chip.staleRead (k : Chip) (q n : Nat) : Chip :=
  let k1 := k.readRecord q n
  if k1.recordAwaited q n && ((k1.quad q).queue n).head = ((k.quad q).queue n).head then
    k1.updQuad q (·.updQueue n (fun w => { w with stale := true, stopped := true }))
  else k1

/-- `QUEUE_STALE` (R103). -/
def execQueueStale (q n : Nat) (s : State) : Host.Outcome State Fault Refusal :=
  .next (s.onChip (fun k => if k.bankUp q && n < 256 && k.recordAwaited q n then k.staleRead q n else k))

/-- The dispatcher gathers clusters and starts a launch (R106-R108). -/
def execLaunchStart (q : Nat) (s : State) : Host.Outcome State Fault Refusal :=
  .next (s.onChip (fun k => if k.bankUp q then k.dispatch q else k))

/-- A launch reaches its commit point (R110). -/
def execLaunchCompletion (q id : Nat) (s : State) : Host.Outcome State Fault Refusal :=
  .next (s.onChip (fun k => if k.bankUp q then k.commit q id else k))

/-- A cluster halts (R96), or has stopped (R117). -/
def execClusterHalt (c : Nat) (s : State) : Host.Outcome State Fault Refusal :=
  .next (s.onChip (fun k =>
    let x := k.cluster c
    if k.finished c && ((x.st = .running && x.stopIssued && x.faulted.isNone && !x.errored) ||
        x.st = .stopping) then
      (k.leaveLaunch c).updCluster c Cluster.retire
    else k))

/-- A cluster reports a fault once it has halted (R94, R110, R116), or an error contained at it
(19_reset_and_ras.md R535). An error at a cluster without a launch resets it. -/
def execClusterFaultReport (c : Nat) (s : State) : Host.Outcome State Fault Refusal :=
  .next (s.onChip (fun k =>
    let x := k.cluster c
    let q := c / 24
    let i := c % 24
    match (k.quad q).launchOf c with
    | none =>
      if x.errored && k.freeCluster c then k.updCluster c (fun x => { x with st := .reset }) else k
    | some l =>
      if x.errored then k.fixOutcome q l (4, (i, (0, 0)))
      else match x.faulted with
      | none => k
      | some (code, addr) =>
        if x.st = .running && k.finished c then
          ((k.leaveLaunch c).updCluster c Cluster.retire).fixOutcome q
            { l with running := l.running.filter (· ≠ c) } (3, (i, (code, addr)))
        else k))

/-- A write to `DSP_ABORT` (R114, R115). -/
def execDspAbort (q : Nat) (w : RegW) (s : State) : Host.Outcome State Fault Refusal :=
  .next (s.onChip (fun k =>
    if k.bankUp q && !(k.quad q).abtBusy && w.part ≠ .high then
      let (k1, r) := k.abort q (w.val.extractLsb' 0 8).toNat (w.val.extractLsb' 16 16)
      k1.updQuad q (fun d => { d with abtResult := BitVec.ofNat 3 r })
    else k))

/-- A cluster has not stopped within 4 ms (R117): it is reset. -/
def execClusterStopTimeout (c : Nat) (s : State) : Host.Outcome State Fault Refusal :=
  .next (s.onChip (fun k =>
    if (k.cluster c).st = .stopping then k.updCluster c (fun x => { x with st := .reset }) else k))

/-- A write to `DSP_CRST` (R118). -/
def execDspCrst (q : Nat) (w : RegW) (s : State) : Host.Outcome State Fault Refusal :=
  .next (s.onChip (fun k =>
    if k.bankUp q then
      (quadClusters q).foldl (fun k c =>
        if regSets w (c % 24) && k.freeCluster c then k.updCluster c (fun x => { x with st := .reset })
        else k) k
    else k))


/-- The dispatcher power-gates an idle cluster (R119). -/
def execClusterPowerGate (c : Nat) (s : State) : Host.Outcome State Fault Refusal :=
  .next (s.onChip (fun k =>
    if (k.quad (c / 24)).pgate && (k.cluster c).st = .idle then
      k.updCluster c (fun x => { x with st := .gated })
    else k))

end Sys2Proof.Machine
end

