-- ==== Sys2Proof/Machine/Hasp.lean ====
section
/-! DEFINITION. The commands of the hasp banks (09_hasps.md); the sync slot is in Sync.lean. -/

namespace Sys2Proof.Machine

/-- The hasp-operation buffer releases what may leave it (R291). -/
def execHaspOpRelease (c : Nat) (s : State) : Host.Outcome State Fault Refusal :=
  .next (s.onChip (fun k => k.releaseHasps c (k.cluster c).haspBuf.length))

/-- The bank of quadrant `q` applies operation `i` of those that have reached it (R287). Operations of
one sequencer on one hasp keep their order (R288). -/
def execHaspBankApply (q i : Nat) (s : State) : Host.Outcome State Fault Refusal :=
  .next (s.onChip (fun k =>
    let box := (k.quad q).inbox
    match box[i]? with
    | none => k
    | some o =>
      if (box.take i).any (fun p => p.src.isSome && p.src.map (·.1) = o.src.map (·.1) && p.index = o.index) then k
      else (k.updQuad q (fun d => { d with inbox := box.eraseIdx i })).bankApply q o.index o.act o.v o.err))

/-- A registered wait ends by its timeout (R294); `TMO` 0 sets no bound. -/
def execHaspWaitTimeout (c id : Nat) (s : State) : Host.Outcome State Fault Refusal :=
  .next (s.onChip (fun k =>
    match (k.cluster c).waits.find? (fun w => w.id = id) with
    | some w => if w.tmo = 0 then k else k.updCluster c (·.endWait w true)
    | none => k))

/-- An `HSP_OP` add (R305, R306). -/
def execHspOpAdd (q : Nat) (index : BitVec 12) (value : BitVec 48) (s : State) :
    Host.Outcome State Fault Refusal :=
  .next (s.onChip (fun k => if k.bankUp q then k.bankApply q index.toNat .add value false else k))

/-- An `HSP_OP` set (R305, R306). -/
def execHspOpSet (q : Nat) (index : BitVec 12) (value : BitVec 48) (s : State) :
    Host.Outcome State Fault Refusal :=
  .next (s.onChip (fun k => if k.bankUp q then k.bankApply q index.toNat .set value false else k))

/-- An `HSP_OP` reset (R305, R306). -/
def execHspOpReset (q : Nat) (index : BitVec 12) (s : State) : Host.Outcome State Fault Refusal :=
  .next (s.onChip (fun k => if k.bankUp q then k.bankApply q index.toNat .reset 0 false else k))

/-- An `HSP_ROP` write (R306): dropped with `ROPERR` where the module is unroutable or the own one. -/
def Chip.ropWrite (k : Chip) (ag : Agent) (q : Nat) (hasp : BitVec 14) (dev : BitVec 6)
    (value : BitVec 42) : Chip :=
  if !k.bankUp q then k
  else if dev = k.fabric.devnum || !(k.fabric.podMember && (k.fabric.route dev.toNat).valid) then
    k.updQuad q (fun d => { d with ropErr := true })
  else k.sendHaspAdd (some q) dev hasp (value.setWidth 48) false (.rop ag hasp (BitVec.ofNat 6 q))

/-- An `HSP_ROP` write (R306). -/
def execHspRop (ag : Agent) (q : Nat) (hasp : BitVec 14) (dev : BitVec 6) (value : BitVec 42) (s : State) :
    Host.Outcome State Fault Refusal :=
  .next (s.onChip (fun k => k.ropWrite ag q hasp dev value))

/-- `HSP_NCFG` after a write (R308). -/
def Notifier.writeCfg (n : Notifier) (w : RegW) : Notifier :=
  let old : U64 := (boolBit n.fired ++ boolBit n.onErr ++ boolBit n.en ++ (0 : BitVec 4) ++ n.index).setWidth 64
  let v := regMerge old w
  { n with
    index := v.extractLsb' 0 12
    en := v.getLsbD 16
    onErr := v.getLsbD 17
    fired := n.fired && !regSets w 18 }

/-- A write to `HSP_NCFG`: the condition is evaluated at once (R308). -/
def execHspNcfgWrite (q n : Nat) (w : RegW) (s : State) : Host.Outcome State Fault Refusal :=
  .next (s.onChip (fun k =>
    if k.bankUp q && n < 64 then k.updQuad q (fun d =>
      { d with notifiers := tblMod Notifier.reset d.notifiers n (·.writeCfg w) }.evalNotifier n)
    else k))

/-- A write to `HSP_NTHR`: the condition is evaluated at once (R308). -/
def execHspNthrWrite (q n : Nat) (w : RegW) (s : State) : Host.Outcome State Fault Refusal :=
  .next (s.onChip (fun k =>
    if k.bankUp q && n < 64 then k.updQuad q (fun d =>
      { d with notifiers := tblMod Notifier.reset d.notifiers n (fun x =>
          { x with thresh := (regMerge (x.thresh.setWidth 64) w).setWidth 48 }) }.evalNotifier n)
    else k))

end Sys2Proof.Machine
end

