-- ==== Sys2Proof/Machine/Hinge.lean ====
section
/-! DEFINITION. The commands of the hinges (01_package_and_hinges.md R29-R58). Discovery closes in
Boot.lean. -/

namespace Sys2Proof.Machine

/-- A network message enters a hinge of the die that `side` belongs to: the one that R46 gives for its destination (R29,
R32, R40, R46, R47, R50). -/
def execHingeMessageSend (side : Nat) (m : NetMsg) (s : State) : Host.Outcome State Fault Refusal :=
  .next (s.sendFrom (dieOf side) m)

/-- A flit of one of some types, or one whose CRC fails, arrives at an ACTIVE side (R33, R34). -/
def State.flit (s : State) (side b : Nat) (f : Flit) (types : List Nat) : State :=
  if (s.links.side side).st = .active && (!flitGood f || types.contains (flitType f).toNat) then
    { s with links := s.links.receive side b f }
  else s

/-- The message that a flit ends, by the peer's replay buffer, where it is bound for another die than the receiver's. -/
def Links.passing (l : Links) (side b : Nat) (f : Flit) : Option NetMsg :=
  ((((l.side (peerSide side)).bundle b).replay.find? (fun t => t.flit = f)).bind (·.ends)).filter (fun m =>
    m.dst ≠ dieOf side && dieOf side < 4)

/-- A `MSG` flit, or one of a reserved type, arrives (R33, R34). A message of a diagonal pair goes on from the seat it
passes through (R46). -/
def execMsgFlit (side b : Nat) (f : Flit) (s : State) : Host.Outcome State Fault Refusal :=
  let s1 := s.flit side b f (1 :: span 6 10)
  .next (match s.links.passing side b f with
    | some m =>
      if s1.links.mesh.length = s.links.mesh.length then s1
      else { s1 with links := { s1.links with mesh := s.links.mesh } }.sendFrom (dieOf side) m
    | none => s1)

/-- An `IDLE` flit arrives (R32). -/
def execIdleFlit (side b : Nat) (f : Flit) (s : State) : Host.Outcome State Fault Refusal :=
  .next (s.flit side b f [0])

/-- A `REPLAY` flit arrives (R33). -/
def execReplayFlit (side b : Nat) (f : Flit) (s : State) : Host.Outcome State Fault Refusal :=
  .next (s.flit side b f [5])

/-- A `RETRAIN` flit arrives (R27, R35). -/
def execRetrainFlit (side b : Nat) (f : Flit) (s : State) : Host.Outcome State Fault Refusal :=
  .next (s.flit side b f [4])

/-- A `DISC` flit arrives (R33, R52). -/
def execDiscFlit (side b : Nat) (f : Flit) (s : State) : Host.Outcome State Fault Refusal :=
  .next (s.flit side b f [2])

/-- A `WIDTH` flit arrives (R43-R45). -/
def execWidthFlit (side b : Nat) (f : Flit) (s : State) : Host.Outcome State Fault Refusal :=
  .next (
    let st := (s.links.side side).st
    if (st = .widthSet || st = .confirm) && (!flitGood f || flitType f = 3) then
      s.onHinge (hingeOf side) (fun l => l.widthFlit side b f)
    else s)

/-- One flit has failed on eight replays in a row (R35). -/
def execReplayLimit (side b : Nat) (s : State) : Host.Outcome State Fault Refusal :=
  .next (if ((s.links.side side).bundle b).discarding then { s with links := s.links.wantRetrain side b }
    else s)

/-- A sequenced flit has stayed unacknowledged for 4,096 NCLK cycles (R35). -/
def execFlitAckTimeout (side b : Nat) (s : State) : Host.Outcome State Fault Refusal :=
  .next (if ((s.links.side side).bundle b).unacked ≠ 0 then { s with links := s.links.wantRetrain side b }
    else s)

/-- The forwarded clock of a bundle is lost (R35). -/
def execForwardedClockLoss (side b : Nat) (s : State) : Host.Outcome State Fault Refusal :=
  .next { s with links := s.links.wantRetrain side b }

/-- Both dies of a hinge are powered and out of reset, and their quadrants are not in D2. -/
def State.hingePowered (s : State) (h : Nat) : Bool :=
  (hingeSeats h).all (fun q => s.chip.quadPresent q && (s.chip.quad q).up &&
    !((s.chip.quad q).asleep && s.power.dstate = 2))

/-- Whether an attempt of a hinge may start (R35, R36, R39, R42): one is wanted, or due after a failed one,
or the hinge is `OFF` and powered; and no slew is under way. -/
def State.attemptDue (s : State) (h : Nat) : Bool :=
  let a := s.links.side (authSide h)
  let b := s.links.side (subSide h)
  s.hingePowered h && !s.power.slewing &&
    (a.waiting || (a.st = .off && b.st = .off) || (s.links.hingeState h = .active && (a.wanted || b.wanted)))

/-- A retrain attempt starts (R36). -/
def execHingeAttemptStart (h : Nat) (s : State) : Host.Outcome State Fault Refusal :=
  .next (if s.attemptDue h then { s with links := s.links.startAttempt h } else s)

/-- The receivers have locked: `CLOCK` to `DESKEW` (R36). -/
def execHingeClockLock (h : Nat) (s : State) : Host.Outcome State Fault Refusal :=
  .next { s with links := s.links.advance h .clock .deskew }

/-- The wires are deskewed: `DESKEW` to `PATTERN` (R36). -/
def execHingeDeskewDone (h : Nat) (s : State) : Host.Outcome State Fault Refusal :=
  .next { s with links := s.links.advance h .deskew .pattern }

/-- Whether a hinge is in a state of an attempt under way, at one of its sides at least (R36). -/
def Links.inAttempt (l : Links) (h : Nat) : Bool :=
  let st := l.hingeState h
  !(l.side (authSide h)).waiting &&
    (st = .clock || st = .deskew || st = .pattern || st = .widthSet || st = .confirm)

/-- `PATTERN` ends with what each side's receivers saw (R37, R38): `passA` of the authoritative side,
`passB` of the other. -/
def execHingePatternDone (h : Nat) (passA passB : BitVec 16) (s : State) :
    Host.Outcome State Fault Refusal :=
  .next (
    if (s.links.side (authSide h)).st = .pattern && (s.links.side (subSide h)).st = .pattern then
      s.onHinge h (fun l => l.patternDone h passA passB)
    else s)

/-- A state of an attempt exceeds its maximum time (R36, R39). -/
def execHingeStateTimeout (h : Nat) (s : State) : Host.Outcome State Fault Refusal :=
  .next (if s.links.inAttempt h then s.onHinge h (fun l => l.failAttempt h false) else s)

/-- A hinge has been `ACTIVE` for 10 ms without a retrain (R39). -/
def execHingeFailcountReset (h : Nat) (s : State) : Host.Outcome State Fault Refusal :=
  .next (
    if s.links.hingeState h = .active then
      { s with links := s.links.updHinge h (fun x => { x with failCount := 0 }) }
    else s)

/-- The host hinge of a quadrant has stayed out of `ACTIVE` for more than 20 µs (R40;
19_reset_and_ras.md R529). -/
def execHostLossTimeout (q : Nat) (s : State) : Host.Outcome State Fault Refusal :=
  .next (
    let d := s.chip.quad q
    let st := s.links.hingeState q
    if d.up && !d.unusable && !d.orphaned && !d.underReset && !(d.asleep && s.power.dstate = 2) &&
        st ≠ .active && st ≠ .failed && st ≠ .off then
      s.onChip (fun k => k.hostLoss q false)
    else s)

/-- A die's `DISC` timer expires (R51, R55). -/
def execDiscSendTimer (die : Nat) (s : State) : Host.Outcome State Fault Refusal :=
  .next (if s.links.discOpen || !s.links.rediscover.isEmpty then { s with links := s.links.sendDisc die }
    else s)

/-- Whether a write to `HNG_CTL` acts: the hinge is neither `OFF` nor `FAILED` (R58). -/
def Links.ctlActs (l : Links) (n : Nat) : Bool := (l.side n).st ≠ .off && (l.side n).st ≠ .failed

/-- `HNG_CTL.RETRAIN` requests a full attempt (R58); it has no effect while one is under way. Between a failed attempt and
the next, no attempt is under way: the next is full. -/
def Links.ctlRetrain (l : Links) (n : Nat) : Links :=
  if l.hingeState (hingeOf n) = .active then
    (l.updHinge (hingeOf n) (fun x => { x with forceFull := true })).wantRetrain n 0
  else if (l.side n).waiting then l.updHinge (hingeOf n) (fun x => { x with forceFull := true })
  else l

/-- `HNG_CTL.CLR_CNT` clears `HNG_ERRCNT` (R57, R58). -/
def Links.ctlClear (l : Links) (n : Nat) : Links :=
  if l.ctlActs n then l.updSide n (fun x => { x with crcErr := 0, replays := 0, retrains := 0 }) else l

/-- `HNG_CTL.RETRAIN` written as 1 (R58). -/
def execHngRetrain (q h : Nat) (s : State) : Host.Outcome State Fault Refusal :=
  .next { s with links := s.links.ctlRetrain (baseSide q h) }

/-- `HNG_CTL.CLR_CNT` written as 1 (R58). -/
def execHngClrCnt (q h : Nat) (s : State) : Host.Outcome State Fault Refusal :=
  .next { s with links := s.links.ctlClear (baseSide q h) }

end Sys2Proof.Machine
end

