-- ==== Sys2Proof/Machine/Sequencer.lean ====
section
/-! DEFINITION. Issue from memory, the mover slot, the end of engine operations, the run-ahead front end and
the line-cache control register (03_cluster_execution.md R80-R90; 08_movers_and_run_ahead.md R250, R274-R282;
11_coherence.md R363). -/

namespace Sys2Proof.Machine

/-- The sequencer fetches the bundle at its next address and issues it (R80-R84). -/
def execBundleIssue (c : Nat) (s : State) : Host.Outcome State Fault Refusal :=
  .next (s.onChip (fun k => if k.clusterPresent c then k.fetchIssue c else k))

/-- `MOV` (04_iluchezia_bundles.md R154; R250). -/
def execMov (c : Nat) (f : MovF) (s : State) : Host.Outcome State Fault Refusal :=
  s.slot c { nopBundle with mover := some f }

/-- An engine finishes the operation it runs: engines 0-6 the head of their queues, 9-12 the captured drains
of matrix units 0-3 (R85-R90). What waited for its claims goes on. -/
def execEngineOperationEnd (c e : Nat) (s : State) : Host.Outcome State Fault Refusal :=
  .next (s.onChip (fun k => if k.clusterPresent c then (k.endEngine c e).drainAll c else k))

/-- Whether a bundle of the path is a `MOV` at `va` for which no preparation can be used (R277). -/
def Chip.unprepared (k : Chip) (c : Nat) (va : U64) (w : Walker) (b : Bundle256) : Bool :=
  w.pc = va && match b.mover with
    | some f => (match w.reg f.rdesc with
      | some r => !(k.cluster c).prepared.any (fun p => p.pc = va && p.rdesc = r && k.descKept c p)
      | none => false)
    | none => false

/-- The sequencer's front end may run ahead (R274, R280). -/
def Chip.mayRunAhead (k : Chip) (c : Nat) : Bool :=
  let x := k.cluster c
  x.st = .running && x.faulted.isNone && !x.stopIssued && !k.invalidating x.space

/-- A preparation kept, and its descriptor put under watch (R277). -/
def Chip.keepPrepared (k : Chip) (c : Nat) (p : Prepared) : Chip :=
  let same (pc rdesc : U64) : Bool := pc = p.pc && rdesc = p.rdesc
  let k1 := k.updCluster c (fun x => { x with
    prepared := x.prepared.filter (fun q => !same q.pc q.rdesc) ++ [p], feAt := some p.pc })
  { k1 with watch := k1.watch.filter (fun w => w.cluster ≠ c || (!same w.pc w.rdesc &&
      (k1.cluster c).prepared.any (fun q => q.pc = w.pc && q.rdesc = w.rdesc))) ++
    [{ cluster := c, pc := p.pc, rdesc := p.rdesc, la := paLocal p.pa, hit := false }] }

/-- The descriptor of a `MOV` bundle read ahead and its translation pass run (R277); a fault on the way is
dropped. -/
def Chip.prepareAt (k : Chip) (c : Nat) (va : U64) (w : Walker) (f : MovF) : Chip :=
  let a := (w.reg f.rdesc).getD 0
  match k.peekDesc c f a with
  | (k1, none) => k1
  | (k1, some (d, pa)) =>
    let p : Prepared := { pc := va, rdesc := a, desc := d, pa := pa, pieces := none }
    if d.isNull || d.refused (k1.mayName (k1.cluster c).space) then k1.keepPrepared c p
    else match k1.pass c (k1.earlyCmd c f p) with
      | (k2, some (none, ps)) => k2.keepPrepared c { p with pieces := some ps }
      | (k2, _) => k2.keepPrepared c p

/-- The front end prepares the next unprepared `MOV` bundle at an address on its path (R274-R277). -/
def Chip.prepare (k : Chip) (c : Nat) (va : U64) : Chip :=
  if !k.mayRunAhead c then k
  else match k.follow c (k.unprepared c va) with
    | (k1, some (w, b)) => (match b.mover with
      | some f => k1.prepareAt c va w f
      | none => k1)
    | (k1, none) => k1

/-- The front end prepares a `MOV` bundle (R277). -/
def execFrontEndPrepare (c : Nat) (va : U64) (s : State) : Host.Outcome State Fault Refusal :=
  .next (s.onChip (fun k => if k.clusterPresent c then k.prepare c va else k))

/-- Whether a prepared bundle stands at `va` and no command is pre-issued for it (R278). -/
def Cluster.unissued (x : Cluster) (va : U64) (p : Prepared) : Bool :=
  p.pc = va && !(([0, 1] : List Nat).any (fun m =>
    (x.mover m).cmds.any (fun d => d.zone.isSome && d.phase ≠ .drain && d.isOf p)))

/-- The command of the first prepared bundle at an address on the path that is not yet pre-issued (R278). -/
def Chip.preIssueAt (k : Chip) (c : Nat) (va : U64) : Chip :=
  let x := k.cluster c
  if !k.mayRunAhead c then k
  else
    match k.follow c (fun w b => x.prepared.any (fun p => x.unissued va p && prepAt p w b)) with
    | (k1, none) => k1
    | (k1, some (w, b)) =>
      match b.mover, x.prepared.find? (fun p => x.unissued va p && prepAt p w b) with
      | some f, some p => k1.preIssue c w b f p
      | _, _ => k1

/-- The front end pre-issues a command (R278). -/
def execPreIssue (c : Nat) (va : U64) (s : State) : Host.Outcome State Fault Refusal :=
  .next (s.onChip (fun k => if k.clusterPresent c then k.preIssueAt c va else k))

/-- `CLU_LCCTL` after a write (R363): `NOSTREAM` ends streaming at once. -/
def Cluster.writeLcctl (x : Cluster) (w : RegW) : Cluster :=
  let v := regMerge ((boolBit x.noStream).setWidth 64) w
  let off := v.getLsbD 0
  { (if off then x.endStream else x) with noStream := off }

/-- A write to `CLU_LCCTL` (R363). -/
def execCluLcctlWrite (c : Nat) (w : RegW) (s : State) : Host.Outcome State Fault Refusal :=
  .next (s.onChip (fun k => if k.clusterPresent c then (k.updCluster c (·.writeLcctl w)).drainAll c else k))

end Sys2Proof.Machine
end

