-- ==== Sys2Proof/Machine/Translate.lean ====
section
/-! DEFINITION. The commands of the translation blocks (12_range_translation.md). The family 0x05
commands are in TumblerSpace.lean. -/

namespace Sys2Proof.Machine

/-- A write to `XLT_INVAL_SPACE` (R382): `SPACE` in bits [11:0], `HEN` in bit 12, `HASP` in
[29:16]. -/
def Chip.writeInval (k : Chip) (q : Nat) (w : RegW) : Chip :=
  let v := regBits w &&& regMask w
  let space := (v.extractLsb' 0 12).toNat
  let hasp : BitVec 14 := v.extractLsb' 16 14
  let hen := v.getLsbD 12
  let d := k.quad q
  if d.invBusy || space = 0 || (hen && !k.bankUp (haspQuad hasp)) then
    k.updQuad q (fun d => { d with invDropped := true })
  else (k.updQuad q (fun d => { d with invBusy := true })).startInval space (.register q hen hasp)

/-- `XLT_INVAL_SPACE` (R382): its fields lie in the low half. -/
def execXltInvalSpace (q : Nat) (w : RegW) (s : State) : Host.Outcome State Fault Refusal :=
  .next (s.onChip (fun k => if k.bankUp q && w.part ≠ .high then k.writeInval q w else k))

/-- One entry read of a walk under way (R371). -/
def execWalkEntryRead (q space : Nat) (va : U64) (s : State) : Host.Outcome State Fault Refusal :=
  .next (s.onChip (fun k =>
    match (k.quad q).walking.find? (fun w => w.space = space && w.va = va) with
    | none => k
    | some w =>
      match k.walkStep q w with
      | (k1, .inl w') => k1.updQuad q (fun d => { d with
          walking := d.walking.map (fun x => if x = w then w' else x) })
      | (k1, .inr r) => k1.endWalk q w r))

end Sys2Proof.Machine
end

