-- ==== Sys2Proof/Machine/Fabric.lean ====
section
/-! DEFINITION. The commands of the fabric ports and packets (14_fabric_and_pods.md R413-R428, R430). Relay
and configuration are in TumblerPod.lean. -/

namespace Sys2Proof.Machine

/-! ## Ports (R414-R417, R422, R430) -/

/-- A port can be powered: present, its quadrant runs and is usable, not in D2. -/
def Chip.portPowered (k : Chip) (n : Nat) : Bool :=
  k.fabPresent n && k.usable (n / 3) && (k.quad (n / 3)).up && !(k.quad (n / 3)).underReset

/-- An event for each group of the record without a `LIVE` port (R432). -/
def Chip.groupDown (k : Chip) (g : Nat) : Chip :=
  if (k.fabric.group g).valid && (k.fabric.live g).isEmpty then k.post 0x0402 1 7 [g] else k

/-- A port leaves `ACTIVE` or `LINK`, or fails its training, and is `DOWN` (R414, R422; 19 R561). -/
def Chip.portDown (k : Chip) (n : Nat) : Chip :=
  let live := (k.fabric.port n).st = .active
  let k1 := (k.onFabric (fun f => (f.updPort n (fun p => { p.restart with st := .down })).release)).report 1
    { ErrInfo.none with
      cls := 5, agent := 15, quad := BitVec.ofNat 8 (n / 3),
      detail := BitVec.ofNat 64 (2 + 256 * n + 16777216 * 4) } 1
  match k.fabric.groupOf n with
  | some g => if live then k1.groupDown g else k1
  | none => k1

/-- A port starts to train (R414, R434). -/
def Chip.portTrain (k : Chip) (n : Nat) : Chip :=
  if k.portPowered n && !(k.fabric.port n).disable then
    k.onFabric (fun f => f.updPort n (fun p =>
      { p.restart with st := .training, retrains := satAdd p.retrains 1 }))
  else k

/-- A port that is joining becomes `ACTIVE` once the group's other ports have every packet they took acknowledged,
and the packets that waited for it go on (R414, R422). -/
def Fabric.tryJoin (f : Fabric) (n g : Nat) : Fabric :=
  if (f.port n).joining && (f.live g).all (fun j => (f.port j).quiet) then
    (f.updPort n (fun p => { p with st := .active, joining := false })).refreshMember.release
  else f

/-- The joining port of a group tries again. -/
def Fabric.rejoin (f : Fabric) (n : Nat) : Fabric :=
  match f.groupOf n with
  | none => f
  | some g => match f.joiner g with
    | some j => f.tryJoin j g
    | none => f

/-- A frame is received (R415-R417). -/
def execFabricFrameReceive (port : Nat) (f : Frame) (s : State) : Host.Outcome State Fault Refusal :=
  .next (s.onChip (fun k =>
    let st := (k.fabric.port port).st
    if st = .link || st = .active then k.onFabric (fun x => (x.receiveFrame port f).rejoin port) else k))

/-- A training attempt ends (R414). -/
def execFabricPortTrain (port : Nat) (ok : Bool) (s : State) : Host.Outcome State Fault Refusal :=
  .next (s.onChip (fun k =>
    if (k.fabric.port port).st ≠ .training then k
    else if ok then k.onFabric (fun f =>
      (f.updPort port (fun p => { p with st := .link })).serve port)
    else k.portDown port))

/-- A `DOWN` port trains again (R414). -/
def execFabricTrainRetry (port : Nat) (s : State) : Host.Outcome State Fault Refusal :=
  .next (s.onChip (fun k => if (k.fabric.port port).st = .down then k.portTrain port else k))

/-- A frame has stayed unacknowledged for 50 µs (R414). -/
def execFrameAckTimeout (port : Nat) (s : State) : Host.Outcome State Fault Refusal :=
  .next (s.onChip (fun k =>
    let p := k.fabric.port port
    if p.st = .active && !p.replay.isEmpty then k.portDown port else k))

/-- A frame has failed its CRC on 8 replays in a row (R414). -/
def execFrameReplayLimit (port : Nat) (s : State) : Host.Outcome State Fault Refusal :=
  .next (s.onChip (fun k =>
    let p := k.fabric.port port
    if p.st = .active && p.discarding then k.portDown port else k))

/-- FEC lock is lost (R414). -/
def execFecLockLoss (port : Nat) (s : State) : Host.Outcome State Fault Refusal :=
  .next (s.onChip (fun k =>
    let st := (k.fabric.port port).st
    if st = .active || st = .link then k.portDown port else k))

/-- A port whose peer agrees joins its group: the group stops sending, and the port is added once every packet
queued on its other ports has been acknowledged (R414, R422). -/
def execLinkGroupJoin (port : Nat) (s : State) : Host.Outcome State Fault Refusal :=
  .next (s.onChip (fun k =>
    let p := k.fabric.port port
    match k.fabric.groupOf port with
    | none => k
    | some g =>
      if p.st = .link && p.gvalid then
        k.onFabric (fun f => (f.updPort port (fun p => { p with joining := true })).tryJoin port g)
      else k))

/-- The ports of each variant, by the index of R425: 0 TV872, 1 TV860, 2 TV836 (R1). -/
def variantPorts (v : Nat) : List Nat :=
  match v with
  | 0 => List.range 12
  | 1 => [0, 1, 3, 4, 6, 7, 9, 10]
  | _ => [0, 1, 3, 4, 6, 7]

/-- Variant of this module as an index. -/
def Chip.variant (k : Chip) : Nat := bitsOf k.capUnits.toNat 56 7 - 1

/-- Whether a peer agrees with the pod configuration record on port `n` (R425, R430, R432). -/
def Fabric.peerAgrees (f : Fabric) (own n : Nat) (i : HelloInfo) : Bool :=
  match f.podRec, f.groupOf n with
  | some r, some g =>
    i.configured && i.podId = r.podId && i.devnum = (f.group g).peer &&
      r.peers.any (fun p => p.1 = n && p.2 = i.serial) &&
      [0, 1, 2].any (fun v => expectedPeerPort r.topology (variantPorts v) g n own v = some i.port.toNat)
  | _, _ => false

/-- A `HELLO` from the peer of a port (R430). -/
def Chip.takeHello (k : Chip) (n : Nat) (i : HelloInfo) : Chip :=
  let p := k.fabric.port n
  if p.st ≠ .link && p.st ≠ .active then k
  else if p.st = .active && p.hello.isSome && p.hello ≠ some i then k.portDown n
  else
    let ok := k.fabric.peerAgrees k.variant n i
    let g := (k.fabric.groupOf n).getD 0
    let k1 := k.onFabric (fun f => f.updPort n (fun p => { p with
      hello := some i, peerDev := i.devnum, peerPort := i.port, peerCfg := i.configured,
      gvalid := ok, group := if ok then BitVec.ofNat 4 g else p.group }))
    if k.fabric.podRec.isSome && !ok then k1.post 0x0401 1 7 [n, i.serial.toNat] else k1

/-- A `HELLO` arrives (R430). -/
def execHello (port : Nat) (i : HelloInfo) (s : State) : Host.Outcome State Fault Refusal :=
  .next (s.onChip (fun k =>
    let k1 := match (k.fabric.port port).inq.find? (fun q => pkType q.pk = 6 && mgKind q.pk = 1) with
      | some q => k.onFabric (fun f => f.consume port q.pk)
      | none => k
    k1.takeHello port i))

/-- The payload of a `HELLO`: the items of R430 in their order (notes/assumptions/28.md). -/
def helloBytes (i : HelloInfo) : Bytes :=
  mgBytes 1 false 0 0 0 ++ toBytes 8 i.serial.toNat ++
    [i.devnum.setWidth 8, (boolBit i.configured).setWidth 8] ++ toBytes 8 i.podId.toNat ++
    [i.port.setWidth 8] ++ List.replicate 5 0

/-- A port's `HELLO` timer expires (R430). -/
def execHelloTimer (port : Nat) (s : State) : Host.Outcome State Fault Refusal :=
  .next (
    let f := s.chip.fabric
    let st := (f.port port).st
    if st = .link || st = .active then
      let i : HelloInfo :=
        { serial := s.boot.record.serial, devnum := f.devnum, configured := f.podRec.isSome,
          podId := match f.podRec with
            | some r => r.podId
            | none => 0
          port := BitVec.ofNat 4 port }
      s.onChip (fun k => k.onFabric (fun f => f.enqueue port (mkMgmt 0 f.devnum (helloBytes i))))
    else s)

/-- `FAB_PCTL.RETRAIN` (R434). -/
def execFabPctlRetrain (port : Nat) (s : State) : Host.Outcome State Fault Refusal :=
  .next (s.onChip (fun k =>
    let st := (k.fabric.port port).st
    if st = .training || st = .link || st = .active then k.portDown port else k))

/-- `FAB_PCTL.CLR_CNT` (R434). -/
def execFabPctlClrCnt (port : Nat) (s : State) : Host.Outcome State Fault Refusal :=
  .next (s.onChip (fun k => k.onFabric (fun f => f.updPort port (fun p =>
    { p with fecUncorr := 0, replaysReq := 0, creditStall := 0 }))))

/-- `FAB_PCTL.DISABLE` (R414, R434): the port is held `OFF`, or trains again. -/
def Chip.portDisable (k : Chip) (n : Nat) (v : Bool) : Chip :=
  let p := k.fabric.port n
  let k1 := k.onFabric (fun f => f.updPort n (fun p => { p with disable := v }))
  if v && !p.disable then
    let k2 := k1.onFabric (fun f => (f.updPort n (fun p => { p.restart with st := .off })).release)
    match k.fabric.groupOf n with
    | some g => if p.st = .active then k2.groupDown g else k2
    | none => k2
  else if !v && p.disable then k1.portTrain n
  else k1

/-- `FAB_PCTL.DISABLE` (R434). -/
def execFabPctlDisable (port : Nat) (v : Bool) (s : State) : Host.Outcome State Fault Refusal :=
  .next (s.onChip (fun k => if k.fabPresent port then k.portDisable port v else k))

/-! ## Packets in transit (R418, R422-R426) -/

/-- The line that orders a packet, and the hasp that does (R421). -/
def pkLine (p : Packet) : Option Nat :=
  match (pkType p).toNat with
  | 1 | 2 | 5 => some (pkAddr p / 128)
  | _ => none

def pkCounted (p : Packet) : Option (BitVec 14) :=
  if pkType p = 4 || (pkType p = 1 && pkCnt p) then some (pkHasp p) else none

/-- Two packets that are delivered in the order they were sent (R421). -/
def sameOrder (x p : Packet) : Bool :=
  pkSrc x = pkSrc p && pkDst x = pkDst p &&
    (((pkLine p).isSome && pkLine x = pkLine p) || ((pkCounted p).isSome && pkCounted x = pkCounted p))

/-- Whether an earlier packet of a port's queue has the same ordering key (R421). -/
def keyBlocked (q : List Queued) (p : Packet) : Bool := (q.takeWhile (fun x => x.pk ≠ p)).any (fun x => sameOrder x.pk p)

/-- A packet taken from port `n` (R418, R421, R423, R426): discarded, sent on its way, or given to `f`, with
the module as its destination. -/
def Chip.takePacket (k : Chip) (n : Nat) (p : Packet) (typ : Nat) (f : Chip → Chip) : Chip :=
  let inq := (k.fabric.port n).inq
  if (k.fabric.port n).st ≠ .active || (inq.any (fun x => x.pk = p) && keyBlocked inq p) then k
  else if pkMalformed p then
    (k.onFabric (fun f => f.consume n p)).onFabric (fun f => { f with malformed := satAdd f.malformed 1 })
  else if (pkType p).toNat ≠ typ then k
  else
    let q := (k.fabric.port n).received p
    let k1 := k.onFabric (fun f => f.consume n p)
    if pkExpired p (pkLife p + q.residence) then k1.onFabric (fun f => { f with expired := satAdd f.expired 1 })
    else if pkDst p ≠ k.fabric.devnum then
      k1.onFabric (fun f => f.forward (k.fabric.arrival n) (k1.portReach (some (n / 3))) q)
    else if pkRefused p (k1.fabric.reqs.any (fun r => r.tag = pkTag p)) then
      k1.onFabric (fun f => { f with malformed := satAdd f.malformed 1 })
    else f k1

/-! ## Requests performed here (R419, R420, R564) -/

/-- The status with which a request that entered in quadrant `q` finds a range of memory (R70, R71, R420,
R564; 17_power_clocks_thermal.md R483). -/
def Chip.ingressReach (k : Chip) (q : Nat) (addr len : Nat) : Nat :=
  let la := paLocal addr
  if areaOf la = .lpddr && k.populated la then
    (if !k.hostOpen then stHostReset else if (k.quad q).orphaned then stLinkLost else stOk)
  else
    let a := k.reachMem (some q) la
    if a ≠ stOk then a else k.reachMem (some q) (paLocal (addr + (len - 1)))

/-- The status of the bank a request's hasp lies in. -/
def Chip.ingressBank (k : Chip) (q : Nat) (hasp : BitVec 14) : Nat :=
  let b := haspQuad hasp
  if !k.quadPresent b then stNotPresent
  else if !k.bankUp b || k.shut (some q) b then stLinkLost
  else stOk

/-- The acknowledgement of a request that arrived on port `n`. -/
def Chip.answer (k : Chip) (n : Nat) (p : Packet) (st : Nat) (payload : Bytes) : Chip :=
  k.onFabric (fun f => f.respond p (BitVec.ofNat 8 st) payload (k.portReach (some (n / 3))))

/-- A `WRITE` performed (R301, R356, R419, R420). -/
def Chip.performWrite (k : Chip) (n : Nat) (p : Packet) : Chip :=
  let q := n / 3
  let hs := if pkCnt p then k.ingressBank q (pkHasp p) else stOk
  let st := if pkLength p = 0 then stOk else k.ingressReach q (pkAddr p) (pkLength p)
  if hs ≠ stOk then k.answer n p hs []
  else if st ≠ stOk then k.answer n p st []
  else
    let la := paLocal (pkAddr p)
    let bs := p.payload.take (pkLength p)
    let k1 := (k.cohWrite la bs false).spoilZones none la bs.length
    let k2 := if pkCnt p then
        k1.bankApply (haspQuad (pkHasp p)) (haspIndex (pkHasp p)) .add (BitVec.ofNat 48 (pkLength p)) false
      else k1
    k2.answer n p stOk []

/-- A `READ` performed (R356, R419, R420). -/
def Chip.performRead (k : Chip) (n : Nat) (p : Packet) : Chip :=
  let st := k.ingressReach (n / 3) (pkAddr p) (pkLength p)
  if st ≠ stOk then k.answer n p st []
  else
    let (k1, (bs, poison)) := k.cohRead (paLocal (pkAddr p)) (pkLength p)
    k1.answer n p (if poison then stPoison else stOk) bs

/-- An `ATOMIC` performed (R134, R419, R420). -/
def Chip.performAtomic (k : Chip) (n : Nat) (p : Packet) : Chip :=
  let addr := pkAddr p / 8 * 8
  let la := paLocal addr
  let st := if !cacheable la then stNotPresent else k.ingressReach (n / 3) addr 8
  if st ≠ stOk then k.answer n p st []
  else
    let op : AmoOp := if pkAop p = 0 then .add else if pkAop p = 1 then .swap else .cas
    let w (o : Nat) : U64 := BitVec.ofNat 64 (ofBytes ((p.payload.drop o).take 8))
    let (k1, (old, poison)) := k.cohAtomic la op (w 0) (w 8)
    if poison then k1.answer n p stPoison [] else k1.answer n p stOk (toBytes 8 old.toNat)

/-- A `HASP_ADD` performed (R287, R419, R420). -/
def Chip.performHaspAdd (k : Chip) (n : Nat) (p : Packet) : Chip :=
  let st := k.ingressBank (n / 3) (pkHasp p)
  if st ≠ stOk then k.answer n p st []
  else
    (k.bankApply (haspQuad (pkHasp p)) (haspIndex (pkHasp p)) .add (pkValue p) (pkErrf p)).answer n p stOk []

/-- A `WRITE` packet arrives (R419). -/
def execWritePacket (port : Nat) (p : Packet) (s : State) : Host.Outcome State Fault Refusal :=
  .next (s.onChip (fun k => k.takePacket port p 1 (fun k => k.performWrite port p)))

/-- A `READ` packet arrives (R419). -/
def execReadPacket (port : Nat) (p : Packet) (s : State) : Host.Outcome State Fault Refusal :=
  .next (s.onChip (fun k => k.takePacket port p 2 (fun k => k.performRead port p)))

/-- An `ATOMIC` packet arrives (R419). -/
def execAtomicPacket (port : Nat) (p : Packet) (s : State) : Host.Outcome State Fault Refusal :=
  .next (s.onChip (fun k => k.takePacket port p 5 (fun k => k.performAtomic port p)))

/-- A `HASP_ADD` packet arrives (R419). -/
def execHaspAddPacket (port : Nat) (p : Packet) (s : State) : Host.Outcome State Fault Refusal :=
  .next (s.onChip (fun k => k.takePacket port p 4 (fun k => k.performHaspAdd port p)))

/-! ## Answers and timeouts (R420, R427) -/

/-- The answer of a mover's read of another module (R261, R262). -/
def Chip.readAnswer (k : Chip) (c m id piece st : Nat) (data : Bytes) : Chip :=
  match (k.cluster c).cmd m id with
  | none => k
  | some d =>
    match d.pieces.find? (fun p => p.id = piece && p.asked) with
    | none => k
    | some p =>
      if st = stOk || st = stPoison then k.sourceData c m d p data (st = stPoison)
      else k.sourceFailed c m d p st

/-- The acknowledgement of a mover's write to another module (R262, R266). -/
def Chip.writeAnswer (k : Chip) (c m id piece part st : Nat) : Chip :=
  match (k.cluster c).cmd m id with
  | none => k
  | some d =>
    match d.pieces.find? (fun p => p.id = piece) with
    | none => k
    | some p =>
      let k1 := k.updCmd c m id (·.updPiece piece (·.setPart part (if st = stOk then .done else .failed)))
      (if st = stOk then k1 else k1.pieceFailed c m id p st true).afterPiece c m id

/-- A lost addition through `HSP_ROP` (R306). -/
def Chip.ropLost (k : Chip) (ag : Agent) (hasp : BitVec 14) (bank : Nat) : Chip :=
  let k1 := (k.updQuad bank (fun d => { d with ropErr := true })).report 1
    { quadErr bank 4 with level := 0, agent := 12, detail := hasp.setWidth 64 } 1
  match ag with
  | .hart h => k1.hartStoreError h
  | .seq c => k1.updCluster c (fun x => { x with raddFail := true })
  | .tumbler => k1

/-- A hart store to another module acknowledged, or failed (R333, 15_host_die.md R446). -/
def Chip.hartStoreAnswer (k : Chip) (h id st : Nat) : Chip :=
  match (k.hart h).stores.find? (fun x => x.id = id) with
  | none => k
  | some x =>
    let k1 := k.updHart h (fun y => { y with stores := y.stores.filter (·.id ≠ id) })
    if st = stOk then k1
    else (k1.hartStoreError h).report 1
      { hartErr h 4 1 with paddr := BitVec.ofNat 64 x.pa, status := BitVec.ofNat 8 st } 1

/-- A request of this module ends with a status (R420, R427). -/
def Chip.remoteEnd (k : Chip) (r : RemoteReq) (st : Nat) (data : Bytes) : Chip :=
  let k0 := k.onFabric (fun f => { f with reqs := f.reqs.filter (fun x => x.tag ≠ r.tag) })
  match r.owner with
  | .seqAccess c id =>
    (k0.updCluster c (fun x => { x with loads := x.loads.map (fun a =>
      if a.id = id then { a with answer := some (st, BitVec.ofNat 64 (ofBytes data)) } else a) })).drainAll c
  | .seqStore c id =>
    (match (k0.cluster c).stores.find? (fun x => x.id = id) with
    | none => k0
    | some x =>
      (if st = stOk then
        k0.updCluster c (fun y => { y with stores := y.stores.filter (·.id ≠ id) })
      else k0.storeFailed c x st).drainAll c)
  | .seqDesc c => k0.updCluster c (fun x => { x with
      descRead := x.descRead.map (fun d => { d with answer := some (st, data) }) })
  | .mover c m id piece part =>
    (if r.typ = 2 then k0.readAnswer c m id piece st data else k0.writeAnswer c m id piece part st).drainAll c
  | .moverHasp c m id => if st = stOk then k0 else k0.destEnd c m id st
  | .haspAdd c => if st = stOk then k0 else k0.raddLost c r.hasp
  | .rop ag hasp bank => if st = stOk then k0 else k0.ropLost ag hasp bank.toNat
  | .hart h id =>
    (match (k0.hart h).accs.find? (fun a => a.id = id) with
    | none => k0
    | some a =>
      if st = stOk then k0.finishHart h a data false
      else if st = stPoison then k0.finishHart h a data true
      else k0.failHart h a)
  | .hartStore h id => k0.hartStoreAnswer h id st

/-- A `READ_RESP` packet arrives (R419, R420). -/
def execReadResp (port : Nat) (p : Packet) (s : State) : Host.Outcome State Fault Refusal :=
  .next (s.onChip (fun k => k.takePacket port p 3 (fun k =>
    match k.fabric.reqs.find? (fun r => r.tag = pkTag p) with
    | some r => k.remoteEnd r (pkStatus p).toNat p.payload
    | none => k)))

/-- A request has had no acknowledgement for 2 ms (R427). -/
def execRemoteTimeout (tag : Nat) (s : State) : Host.Outcome State Fault Refusal :=
  .next (s.onChip (fun k =>
    match k.fabric.reqs.find? (fun r => r.tag.toNat = tag) with
    | some r =>
      (k.onFabric (fun f => { f with timeouts := satAdd f.timeouts 1 })).remoteEnd r stTimeout []
    | none => k))

end Sys2Proof.Machine
end

