-- ==== Sys2Proof/Machine/TumblerOps.lean ====
section
/-! DEFINITION. Doorbells, the checks of a command and the frame in which its row runs
(16_tumbler_interface.md R466, R467, R470, R473; 18_boot_and_security.md R509). -/

namespace Sys2Proof.Machine

/-! ## Checks (R467) -/

/-- The commands recovery accepts (R509), with their argument `ARG1`. -/
def Recovery.accepts (why : Recovery) (op : Nat) (kind : U64) : Bool :=
  match why with
  | .noTumbler => (op = 0x0804 && kind = 1) || op = 0x0805 || op = 0x0A01
  | _ => [0x0101, 0x0103, 0x0903, 0x0804, 0x0805, 0x0A01, 0x0806, 0x0807].contains op

/-- What recovery answers to a command it does not accept. -/
def Recovery.refusal (why : Recovery) : Nat := if why = .noTumbler then mbBadOpcode else mbDenied

/-- A class G mailbox issues a command only within the lists of `MB_ASSIGN` (R473): queues by
`256 * quadrant + queue`, and space tags. -/
def GuestLists.allow (g : GuestLists) (c : BitVec 512) : Bool :=
  let op := slotOp c
  let a := (slotArg c 0).toNat
  if op = 0x0401 || op = 0x0402 then g.queues.contains (256 * a + (slotArg c 1).toNat)
  else if 0x0501 ≤ op && op ≤ 0x0504 then g.spaces.contains a
  else true

/-- Check 2 of R467. -/
def Mailbox.mayIssue (b : Mailbox) (mb : Nat) (c : CmdInfo) : Bool :=
  c.classes.contains (boxClass mb) && (!c.star || boxClass mb ≠ .g || b.guest.allow b.copied)

/-- Check 3 of R467: the flash tier for family 0x06, and a quadrant that an argument names. -/
def Chip.unitsThere (k : Chip) (c : CmdInfo) (slot : BitVec 512) : Bool :=
  (c.op / 256 ≠ 6 || k.flashPresent) &&
    (!c.quad || 4 ≤ (slotArg slot 0).toNat || k.quadPresent (slotArg slot 0).toNat)

/-- Check 4 of R467. -/
def Chip.wellMade (k : Chip) (mb : Nat) (c : CmdInfo) : Chip × Bool :=
  let b := k.box mb
  let s := b.copied
  let shape := !slotReserved s && slotNbuf s = c.nIn + c.nOut &&
    (span c.nArgs (6 - c.nArgs)).all (fun i => slotArg s i = 0)
  (List.range (slotBufs s).length).foldl (fun (k, ok) j =>
    match b.bufSpot (slotBuf s j) with
    | none => (k, false)
    | some sp =>
      let (k1, w) := k.readOwn mb sp
      (k1, ok && (c.nIn ≤ j || match w with
        | some w => decide (ownLength w ≤ sp.room)
        | none => false))) (k, shape)

/-- The status of the first failing check, none when all hold. Family 0x0F is for class D after its unlock
(18_boot_and_security.md R522). -/
def State.checkCommand (s : State) (mb : Nat) : State × Option Nat :=
  let b := s.chip.box mb
  let op := slotOp b.copied
  match cmdInfo op with
  | none => (s, some mbBadOpcode)
  | some c =>
    let early := match s.boot.phase with
      | .recovery why => if why.accepts op (slotArg b.copied 1) then none else some why.refusal
      | _ => if b.mayIssue mb c && (op / 256 ≠ 0x0F || s.boot.debugLevel.getLsbD 1) then none else some mbDenied
    match early with
    | some st => (s, some st)
    | none =>
      if !s.chip.unitsThere c b.copied then (s, some mbNotPresent)
      else
        let (k, ok) := s.chip.wellMade mb c
        ({ s with chip := k }, if ok then none else some mbBadArg)

/-! ## Doorbells (R466) -/

/-- A mailbox in `CHECK` copies its slot and tries its requirements again; when they hold, the command is
checked and runs (R466, R467). -/
def State.recheck (s : State) (mb : Nat) : State :=
  if (s.chip.box mb).st ≠ .check then s
  else
    let k := s.chip.updBox mb (fun b => { b with copied := b.cmd })
    match k.accepted mb with
    | (k1, false) => { s with chip := k1 }
    | (k1, true) =>
      let (s1, bad) := { s with chip := k1 }.checkCommand mb
      s1.onChip (fun k => (k.setProgress mb 0).updBox mb (fun b => { b with
        st := .running, begun := false, result := bad.map (fun n => mbResult n []) }))

/-- A doorbell write with a tag (R466). -/
def State.ringDoorbell (s : State) (mb : Nat) (tag : BitVec 16) : State :=
  let b := s.chip.box mb
  if !b.opened then s
  else if b.st = .check || b.st = .running then s.onChip (fun k => k.updBox mb (fun b => { b with dbBusy := true }))
  else
    (s.onChip (fun k => k.updBox mb (fun b => { b with
      st := .check, copied := b.cmd, dbTag := tag, since := k.mgmt.now }))).recheck mb

/-! ## Running a command -/

/-- What a command's row is given: mailbox, command slot, whether its work has begun, its input (none when a
buffer cannot be read or is poisoned) and the room of its output buffer. -/
structure CmdCtx where
  mb : Nat
  slot : BitVec 512
  begun : Bool
  input : Option Bytes
  room : Nat
  deriving DecidableEq, Repr

def CmdCtx.arg (c : CmdCtx) (i : Nat) : Nat := (slotArg c.slot i).toNat

/-- Outcome of a row: the answer, or none while the work goes on. -/
abbrev CmdEnd := State × Option MbResult

def cmdEnd (s : State) (status : Nat) (res : List U64) : CmdEnd := (s, some (mbResult status res))
def cmdDone (s : State) (res : List U64) : CmdEnd := cmdEnd s mbDone res

/-- An answer with output data; an output that does not fit its buffer answers `BAD_ARG`
(notes/assumptions/63.md). -/
def cmdOut (s : State) (c : CmdCtx) (res : List U64) (bs : Bytes) : CmdEnd :=
  if bs.length ≤ c.room then (s, some { mbResult mbDone res with out := some bs })
  else cmdEnd s mbBadArg []

/-- The input of a command: the data of its first buffer. -/
def Chip.cmdInput (k : Chip) (mb : Nat) : Chip × Option Bytes :=
  let b := k.box mb
  match (slotBufs b.copied).head?.bind b.bufSpot with
  | none => (k, some [])
  | some sp =>
    match k.readOwn mb sp with
    | (k1, none) => (k1, none)
    | (k1, some w) => k1.bufRead mb sp 128 (ownLength w)

/-- Data room of a command's output buffer. -/
def Mailbox.outRoom (b : Mailbox) (nIn : Nat) : Nat :=
  match (((slotBufs b.copied).drop nIn).head?).bind b.bufSpot with
  | some sp => sp.room
  | none => 0

/-- The row of opcode `op` at mailbox `mb`: it runs when the mailbox has accepted a command of that
opcode that is not yet answered, and its answer waits for COMMAND_COMPLETE. -/
def State.runRow (s : State) (mb op : Nat) (f : State → CmdCtx → CmdEnd) : State :=
  let s1 := s.recheck mb
  let b := s1.chip.box mb
  if b.st = .running && b.result.isNone && slotOp b.copied = op then
    let nIn := match cmdInfo op with
      | some c => c.nIn
      | none => 0
    let (k, inp) := if nIn = 0 then (s1.chip, some []) else s1.chip.cmdInput mb
    let (s2, r) := f { s1 with chip := k }
      { mb := mb, slot := b.copied, begun := b.begun, input := inp, room := b.outRoom nIn }
    s2.onChip (fun k => k.updBox mb (fun b => { b with result := r, begun := true }))
  else s1

/-- The outcome of a command row. -/
def runCommand (mb op : Nat) (f : State → CmdCtx → CmdEnd) (s : State) : Host.Outcome State Fault Refusal :=
  .next (s.runRow mb op f)


/-! ## The end of a command -/

/-- Bytes cut into pieces of at most 248, the room of a `MGMT` packet beside its header; `n` bounds the
count. -/
def relayPieces : Nat → Bytes → List Bytes
  | 0, _ => []
  | n + 1, bs => if bs.length ≤ 248 then [bs] else bs.take 248 :: relayPieces n (bs.drop 248)

/-- A relay sent to a module as routed `MGMT` packets (14_fabric_and_pods.md R429, R431;
notes/assumptions/64.md). -/
def Chip.sendRelay (k : Chip) (kind : Nat) (dst : BitVec 6) (mseq : BitVec 32) (body : Bytes) : Chip :=
  (relayPieces (body.length + 1) body).foldl (fun k piece =>
    k.onFabric (fun f => f.forward none (k.portReach none)
      (mkMgmt dst f.devnum (mgBytes kind false 0 0 mseq ++ piece)))) k

/-- The end of a relayed command at its target: the response slot and its data return (R431, R472). -/
def Chip.endRelayed (k : Chip) (mb : Nat) (r : MbResult) : Chip :=
  match k.fabric.serving.find? (fun x => x.1 = mb) with
  | none => k.updBox mb (fun _ => Mailbox.reset)
  | some (_, (src, mseq)) =>
    let c := (k.box mb).copied
    let st := r.status.toNat
    let slot := rspSlot st (slotTag c) (finalProgress c st) r.res
    let k1 := k.sendRelay 3 src mseq (toBytes 64 slot.toNat ++ r.out.getD [])
    (k1.updBox mb (fun _ => Mailbox.reset)).onFabric (fun f => { f with
      serving := f.serving.filter (fun x => x.1 ≠ mb) })

/-- The answer of a remote session's command (18_boot_and_security.md R520). -/
def State.sessionReply (s : State) (mb : Nat) (out : Bytes) : State :=
  if mb = 14 && s.boot.session then
    { s with boot := { s.boot with replies := s.boot.replies ++ [((s.chip.box 14).rsp, out)] } }
  else s

/-- What a command kept for itself is free again at its end: the split of a quadrant (13_tiers_and_flash.md
R397) and the staging of a firmware kind (18_boot_and_security.md R516). -/
def State.releaseWork (s : State) (mb : Nat) : State :=
  { s.onChip (fun k => k.endSplit mb) with
    boot := { s.boot with staging := s.boot.staging.filter (fun x => x.1 ≠ mb) } }

/-- A command ends (R468). -/
def State.endCommand (s0 : State) (mb : Nat) (r : MbResult) : State :=
  let s := s0.releaseWork mb
  if mb < 16 then (s.onChip (fun k => k.endCommand mb r)).sessionReply mb (r.out.getD [])
  else s.onChip (fun k => k.endRelayed mb r)

/-- The row of a command that answers before it acts (R471): `check` gives a status that refuses it. -/
def State.runReset (s : State) (mb op : Nat) (check : State → CmdCtx → Option Nat) (act : CmdCtx → State → State) :
    State :=
  let s1 := s.recheck mb
  let b := s1.chip.box mb
  if b.st = .running && b.result.isNone && slotOp b.copied = op then
    let c : CmdCtx := { mb := mb, slot := b.copied, begun := b.begun, input := some [], room := 0 }
    match check s1 c with
    | some st => s1.onChip (fun k => k.updBox mb (fun b => { b with result := some (mbResult st []), begun := true }))
    | none => act c (s1.endCommand mb (mbResult mbDone []))
  else s1

/-! ## Spans of memory -/

/-- A span lies in LPDDR, or in the populated part of the HBM window in the mode in force
(12_range_translation.md R366): in one quadrant's slot, or over every stack. -/
def Chip.memSpan (k : Chip) (la n : Nat) : Bool :=
  n = 0 ||
    if areaOf la = .lpddr then areaOf (la + n - 1) = .lpddr
    else areaOf la = .hbm && areaOf (la + n - 1) = .hbm && k.populated la && k.populated (la + n - 1) &&
      (k.hbmPkg || (la - 0x10000000000) / 0x4000000000 = (la + n - 1 - 0x10000000000) / 0x4000000000)

/-- No byte of a span lies in an unusable quadrant: sixteen granules of 4 KiB touch every stack that a longer
span touches (02_address_map.md R64). -/
def Chip.spanUsable (k : Chip) (la n : Nat) : Bool :=
  (((List.range 17).map (fun i => la / 4096 * 4096 + 4096 * i)) ++ [la + n - 1]).all (fun a =>
    la + n ≤ a || match k.ownerQuad a with
      | some q => !(k.quad q).unusable
      | none => true)

/-- A span of the module's own memory that the Tumbler may be given. -/
def Chip.ownSpan (k : Chip) (pa n : Nat) : Bool :=
  paDev pa = k.fabric.devnum.toNat && paDev (pa + n - 1) = paDev pa && k.memSpan (paLocal pa) n &&
    k.spanUsable (paLocal pa) n

end Sys2Proof.Machine
end

