-- ==== Sys2Proof/Machine/Tumbler.lean ====
section
/-! DEFINITION. The commands at the mailboxes themselves: doorbells, ends of commands, windows and event
queues (16_tumbler_interface.md R460-R471, R474). -/

namespace Sys2Proof.Machine

/-- A write to `TMB_DB` (R460, R466): `TAG` lies in the low half. -/
def execTmbDb (ag : Agent) (mb : Nat) (w : RegW) (s : State) : Host.Outcome State Fault Refusal :=
  .next (if mb < 16 && agentReaches ag mb && w.part ≠ .high then s.ringDoorbell mb (w.val.extractLsb' 0 16) else s)

/-- A requirement of the doorbell has failed for 10 µs (R466 step 5): the command ends with no buffer
touched. -/
def execDoorbellStale (mb : Nat) (s : State) : Host.Outcome State Fault Refusal :=
  .next (
    let s1 := s.recheck mb
    if (s1.chip.box mb).st = .check then
      (s1.onChip (fun k => k.respondBox mb (mbResult mbStale []))).sessionReply mb []
    else s1)

/-- A command that has its answer ends (R468). -/
def execCommandComplete (mb : Nat) (s : State) : Host.Outcome State Fault Refusal :=
  .next (
    let s1 := s.recheck mb
    let b := s1.chip.box mb
    match b.result with
    | some r => if b.st = .running then s1.endCommand mb r else s1
    | none => s1)

/-! ## Time bounds (R469) -/

/-- The modules of the pod record but this one that have not reported `POD_MEMBER` (14_fabric_and_pods.md
R432). -/
def podDevices (t : Topology) : Nat :=
  match t with
  | .fullMesh m => m
  | _ => ringLen t * ringLen t

def Fabric.podSilent (f : Fabric) : List Nat :=
  match f.podRec with
  | none => []
  | some r => (List.range (podDevices r.topology)).filter (fun d =>
      d ≠ f.devnum.toNat && !f.pongs.any (fun p => p.1.toNat = d && p.2))

/-- Modules that have replied to the pod check. -/
def Fabric.podReplied (f : Fabric) : Nat :=
  ((List.range 64).filter (fun d => f.pongs.any (fun p => p.1.toNat = d))).length

/-- The answer of a pod check: `DONE` when every module has replied with `POD_MEMBER` set; the buffer lists the
silent ones, one byte each (notes/assumptions/65.md). -/
def Fabric.podAnswer (f : Fabric) : MbResult :=
  { mbResult (if f.podSilent.isEmpty then mbDone else mbTimeout) [BitVec.ofNat 64 f.podReplied] with
    out := some (f.podSilent.map (BitVec.ofNat 8)) }

/-- A command of latency class D, which has no bound: a relayed one takes the class of its inner command, whose slot
follows 16 bytes in the relay (R469, R473). -/
def Chip.unbounded (k : Chip) (mb : Nat) : Bool :=
  let slow (op : Nat) : Bool := match cmdInfo op with
    | some c => c.slow
    | none => false
  slow (slotOp (k.box mb).copied) || k.fabric.relays.any (fun x => x.mb = mb && slow (ofBytes ((x.body.drop 16).take 2)))

/-- A command's class bound has passed without an answer from hardware (R469): an invalidation or relay it
began goes on without it. -/
def Chip.commandTimeout (k : Chip) (mb : Nat) : Chip :=
  let b := k.box mb
  if b.st = .running && b.result.isNone && !k.unbounded mb then
    let r := if slotOp b.copied = 0x0703 && b.begun then k.fabric.podAnswer else mbResult mbTimeout []
    { k.updBox mb (fun b => { b with result := some r }) with
      invals := k.invals.map (fun i => if i.origin = .command mb then { i with origin := .command 0xFFFF } else i)
      fabric := { k.fabric with relays := k.fabric.relays.filter (fun x => x.mb ≠ mb) } }
  else k

/-- A command that hardware has not answered within its class bound ends with `TIMEOUT` (R469). -/
def execCommandTimeout (mb : Nat) (s : State) : Host.Outcome State Fault Refusal :=
  .next (s.onChip (fun k => k.commandTimeout mb))

/-! ## Windows (R460, R462) -/

/-- `TMB_WCFG` as a word. -/
def Mailbox.wcfgWord (b : Mailbox) : U64 :=
  packW [(0, (13, b.nbufs.toNat)), (16, (4, b.log2sz.toNat)), (20, (1, boolNat b.wen))]

/-- Whether a window may be enabled (R462). -/
def Chip.windowOk (k : Chip) (b : Mailbox) : Bool :=
  (b.st = .idle || b.st = .done) && 1 ≤ b.nbufs.toNat && b.nbufs.toNat ≤ 4096 && 2 ≤ b.log2sz.toNat &&
    k.ownSpan (b.wbase.toNat * 4096) (b.nbufs.toNat * (2 ^ b.log2sz.toNat * 1024))

/-- The fields of a window set; `WEN` stays 0 with `WIN_ERR` where it may not be enabled. -/
def Chip.setWindow (k : Chip) (b : Mailbox) (base cfg : U64) : Mailbox :=
  let b1 := { b with
    wbase := base.extractLsb' 12 44, nbufs := cfg.extractLsb' 0 13, log2sz := cfg.extractLsb' 16 4, wen := false }
  if cfg.getLsbD 20 then (if k.windowOk b1 then { b1 with wen := true } else { b1 with winErr := true }) else b1

/-- A write to `TMB_WBASE` or `TMB_WCFG` (R462), with the words it leaves. Class G mailboxes are set by
`MB_ASSIGN`; classes without a window refuse (R455). -/
def Chip.writeWindow (k : Chip) (mb : Nat) (base cfg : U64) : Chip :=
  let b := k.box mb
  if boxClass mb = .g then k
  else if boxClass mb ≠ .l || b.wen || b.st = .check || b.st = .running then
    k.updBox mb (fun b => { b with winErr := true })
  else k.updBox mb (fun b => k.setWindow b base cfg)

/-- A write to `TMB_WCFG` (R462). -/
def execTmbWcfgWrite (ag : Agent) (mb : Nat) (w : RegW) (s : State) : Host.Outcome State Fault Refusal :=
  .next (s.onChip (fun k =>
    if mb < 16 && agentReaches ag mb then
      let b := k.box mb
      k.writeWindow mb (b.wbase.setWidth 64 <<< 12) (regMerge b.wcfgWord w)
    else k))

/-! ## Event queues (R474) -/

/-- `CONS` after a write to `TMB_EVPTR`; dropped events are reported once space frees. -/
def Chip.writeEvptr (k : Chip) (mb : Nat) (w : RegW) : Chip :=
  (k.updBox mb (fun b => { b with
    cons := (regMerge (b.cons.setWidth 64 <<< 16) w).extractLsb' 16 16 })).onMgmt (fun m => m.reportLost mb)

/-- A write to `TMB_EVPTR` (R474). -/
def execTmbEvptrWrite (ag : Agent) (mb : Nat) (w : RegW) (s : State) : Host.Outcome State Fault Refusal :=
  .next (s.onChip (fun k => if mb < 16 && agentReaches ag mb then k.writeEvptr mb w else k))

end Sys2Proof.Machine
end

