-- ==== Sys2Proof/Machine/TumblerPod.lean ====
section
/-! DEFINITION. Command family 0x07 and the management packets of a pod (14_fabric_and_pods.md R429-R432;
16_tumbler_interface.md R472, R473; 18_boot_and_security.md R521). What the payloads hold beside their headers is
the model's choice: notes/assumptions/65.md. -/

namespace Sys2Proof.Machine

/-! ## Management packets in transit (R429) -/

/-- Reserved values or bits of a management header, or a path no packet takes. -/
def mgBad (p : Packet) : Bool :=
  mgKind p = 0 || 6 < mgKind p || bitsOf (mgHeader p) 17 7 ≠ 0 || bitsOf (mgHeader p) 56 8 ≠ 0 ||
    (mgDirected p && (mgPathLen p = 0 || 8 < mgPathLen p || mgPathLen p < mgHops p))

/-- A directed packet one hop on. -/
def mgNextHop (p : Packet) : Packet :=
  { p with payload := toBytes 8 (mgHeader p + 512) ++ p.payload.drop 8 }

/-- A port carries management packets while its link layer is up (R414, R430). -/
def Fabric.linked (f : Fabric) (n : Nat) : Bool := (f.port n).st = .link || (f.port n).st = .active

/-- A packet sent through a port, or lost where the port is down. -/
def Fabric.sendVia (f : Fabric) (n : Nat) (q : Queued) : Fabric :=
  if f.linked n then f.enqueue n q else { f with unroute := satAdd f.unroute 1 }

/-- A management packet of a kind taken from port `n` (R418, R429; notes/assumptions/65.md): discarded, sent on its
way, or given to `f`. -/
def State.takeMgmt (s : State) (n : Nat) (p : Packet) (kind : Nat) (f : State → State) : State :=
  let fab := s.chip.fabric
  let s1 := s.onChip (fun k => k.onFabric (fun f => f.consume n p))
  if !fab.linked n || pkType p ≠ 6 then s
  else if pkMalformed p || mgBad p then
    s1.onChip (fun k => k.onFabric (fun f => { f with malformed := satAdd f.malformed 1 }))
  else if mgKind p ≠ kind then s
  else
    let q := (fab.port n).received p
    if mgDirected p then
      (if mgHops p < mgPathLen p then
        s1.onChip (fun k => k.onFabric (fun f => f.sendVia (mgHop p (mgHops p)) { q with pk := mgNextHop p }))
      else f s1)
    else if pkDst p ≠ fab.devnum then
      s1.onChip (fun k => k.onFabric (fun f => f.forward (f.arrival n) (k.portReach (some (n / 3))) q))
    else f s1

/-! ## Neighbours -/

/-- A neighbour's record: port, its port, device number and configured bit, serial number and pod. -/
def helloRecord (n : Nat) (i : HelloInfo) : Bytes :=
  [BitVec.ofNat 8 n, i.port.setWidth 8, i.devnum.setWidth 8, (boolBit i.configured).setWidth 8, 0, 0, 0, 0] ++
    toBytes 8 i.serial.toNat ++ toBytes 8 i.podId.toNat

/-- `POD_NEIGHBOURS` (R432, R473). -/
def podNeighbours (s : State) (c : CmdCtx) : CmdEnd :=
  cmdOut s c [] ((List.range 12).flatMap (fun n => match (s.chip.fabric.port n).hello with
    | some i => helloRecord n i
    | none => []))

def execPodNeighbours (mb : Nat) (s : State) : Host.Outcome State Fault Refusal := runCommand mb 0x0701 podNeighbours s

/-! ## Configuration (R432) -/

/-- An entry of `POD_CONFIGURE`: serial number, device number and the directed path from the pod host. -/
structure PodEntry where
  serial : U64
  dev : Nat
  path : List Nat
  deriving DecidableEq, Repr

/-- An entry's 16 bytes: serial number, device number, hops, two reserved bytes and eight hops of 4 bits. -/
def podEntry (bs : Bytes) : PodEntry :=
  { serial := BitVec.ofNat 64 (ofBytes (bs.take 8))
    dev := ofBytes ((bs.drop 8).take 1)
    path := (List.range (min 8 (ofBytes ((bs.drop 9).take 1)))).map (fun i => bitsOf (ofBytes ((bs.drop 12).take 4)) (4 * i) 4) }

/-- The entries of an input; `n` bounds the count. -/
def podEntries : Nat → Bytes → List PodEntry
  | 0, _ => []
  | n + 1, bs => if bs.isEmpty then [] else podEntry bs :: podEntries n (bs.drop 16)

/-- The topology that the arguments name for a number of modules, where R425 allows it. -/
def podTopology (t m ports : Nat) : Option Topology :=
  if t = 0 then (if 2 ≤ m && m ≤ ports + 1 then some (.fullMesh m) else none)
  else if t = 1 then (if m = 16 then some .torus4 else none)
  else if t = 2 then (if m = 64 then some .torus8 else none)
  else none

/-- The list agrees with this module and its neighbours' reports (R432): device numbers differ and lie in the
pod, this module stands in it once without a path, and every path starts at a port with a `HELLO`, whose serial
number a path of one hop names. -/
def State.podListOk (s : State) (es : List PodEntry) : Bool :=
  (es.map (·.dev)).eraseDups.length = es.length && (es.map (·.serial)).eraseDups.length = es.length &&
    es.all (fun e => e.dev < es.length) &&
    (es.filter (fun e => e.path.isEmpty)).map (·.serial) = [s.boot.record.serial] &&
    es.all (fun e => match e.path with
      | [] => true
      | n :: rest => match (s.chip.fabric.port n).hello with
        | some i => !rest.isEmpty || i.serial = e.serial
        | none => false)

/-- The record of this module that a list gives: the serial number expected behind each port of each group. -/
def Chip.podRecordOf (k : Chip) (podId : U64) (t : Topology) (dev : Nat) (es : List PodEntry) : PodRecord :=
  let gs := buildGroups t k.variantIx dev k.portList
  { podId := podId, topology := t, devnum := BitVec.ofNat 6 dev
    peers := gs.flatMap (fun g =>
      ((List.range 12).filter g.2.ports.getLsbD).flatMap (fun n =>
        (es.filter (fun e => e.dev = g.2.peer.toNat)).map (fun e => (n, e.serial)))) }

/-- A module takes its pod configuration record (R432 step 4): it writes the record, takes every port to `OFF`,
takes its device number and routes, and trains its ports again. -/
def Chip.configurePod (k : Chip) (r : PodRecord) : Chip :=
  let k1 := k.onFabric (fun f =>
    let f1 : Fabric := (List.range 12).foldl (fun (f : Fabric) n => f.updPort n (fun p =>
      { p.restart with st := .off, gvalid := false })) f
    { f1 with podRec := some r }.applyRecord k.variantIx k.portList)
  (List.range 12).foldl (fun k n => k.portTrain n) k1

/-- The number that codes a topology in a `CONFIG`. -/
def topologyCode : Topology → Nat
  | .fullMesh _ => 0
  | .torus4 => 1
  | .torus8 => 2

/-- A `CONFIG` sent along a directed path: pod, topology, the module's device number and the list of serial and
device numbers, in packets of at most 240 list bytes. -/
def Fabric.sendConfig (f : Fabric) (podId : U64) (t : Topology) (es : List PodEntry) (e : PodEntry) : Fabric :=
  let seq := f.mseq + 1
  let path := e.path.zipIdx.foldl (fun n x => n + x.1 * 16 ^ x.2) 0
  let body := toBytes 8 podId.toNat ++ [BitVec.ofNat 8 (topologyCode t), BitVec.ofNat 8 e.dev, BitVec.ofNat 8 es.length, 0] ++
    es.flatMap (fun x => toBytes 8 x.serial.toNat ++ [BitVec.ofNat 8 x.dev])
  let send (f : Fabric) (piece : Bytes) : Fabric :=
    f.sendVia (e.path.headD 0) (mkMgmt 0 f.devnum (mgBytes 4 true 1 e.path.length seq ++ toBytes 4 path ++
      [0, 0, 0, 0] ++ piece))
  { ((List.range ((body.length + 239) / 240)).foldl (fun f i => send f ((body.drop (240 * i)).take 240)) f) with
    mseq := seq, awaited := f.awaited ++ [seq] }

/-- `POD_CONFIGURE` (R432): it answers once every module has acknowledged, and configures this module last. -/
def podConfigure (s : State) (c : CmdCtx) : CmdEnd :=
  match c.input with
  | none => cmdEnd s mbFault []
  | some bs =>
    let es := podEntries (bs.length / 16) bs
    let podId : U64 := BitVec.ofNat 64 (c.arg 0)
    match podTopology (c.arg 1) es.length s.chip.portList.length with
    | none => cmdEnd s mbBadArg []
    | some t =>
      if c.begun then
        (if s.chip.fabric.awaited.isEmpty then
          match es.find? (fun e => e.path.isEmpty) with
          | some e => cmdDone (s.onChip (fun k => k.configurePod (k.podRecordOf podId t e.dev es))) []
          | none => cmdEnd s mbBadArg []
        else (s, none))
      else if bs.length % 16 ≠ 0 || !s.podListOk es then cmdEnd s mbBadArg []
      else if !s.chip.fabric.awaited.isEmpty then cmdEnd s mbBusy []
      else
        (s.onChip (fun k => k.onFabric (fun f =>
          (es.filter (fun e => !e.path.isEmpty)).foldl (fun f e => f.sendConfig podId t es e) f)), none)

def execPodConfigure (mb : Nat) (s : State) : Host.Outcome State Fault Refusal := runCommand mb 0x0702 podConfigure s

/-- A `CONFIG_ACK` sent back through the port of the `CONFIG`; the hops beyond it are free
(notes/assumptions/65.md). -/
def Chip.ackConfig (k : Chip) (n : Nat) (p : Packet) : Chip :=
  let (v, k1) := k.fresh
  k1.onFabric (fun f => f.enqueue n (mkMgmt 0 f.devnum
    (mgBytes 5 true 1 (mgPathLen p) (mgSeq p) ++ toBytes 4 (n + 16 * (v.toNat % 2 ^ 28)) ++ [0, 0, 0, 0])))

/-- A `CONFIG` arrives (R429, R432), with the record it gives this module. -/
def execConfig (port : Nat) (p : Packet) (r : PodRecord) (s : State) : Host.Outcome State Fault Refusal :=
  .next (s.takeMgmt port p 4 (fun s => s.onChip (fun k => (k.configurePod r).ackConfig port p)))

/-- A `CONFIG_ACK` arrives (R429, R432). -/
def execConfigAck (port : Nat) (p : Packet) (s : State) : Host.Outcome State Fault Refusal :=
  .next (s.takeMgmt port p 5 (fun s => s.onChip (fun k => k.onFabric (fun f =>
    { f with awaited := f.awaited.filter (· ≠ mgSeq p) }))))

/-! ## Pod check (R432) -/

/-- What a `PING` carries: bit 0 marks a reply, bit 1 is `POD_MEMBER`. -/
def pingBytes (reply member : Bool) : Bytes := toBytes 8 (boolNat reply + 2 * boolNat member)

def pingWord (p : Packet) : Nat := ofBytes ((p.payload.drop 8).take 8)

/-- A `PING` to every other device number of the pod. -/
def Chip.pingAll (k : Chip) : Chip :=
  let seq := k.fabric.mseq + 1
  let k1 := k.onFabric (fun f => { f with mseq := seq, pongs := [] })
  k1.fabric.podSilent.foldl (fun k d => k.onFabric (fun f =>
    f.forward none (k.portReach none)
      (mkMgmt (BitVec.ofNat 6 d) f.devnum (mgBytes 6 false 0 0 seq ++ pingBytes false f.podMember)))) k1

/-- The mailbox whose pod check is under way. -/
def Chip.checker (k : Chip) : Option Nat :=
  (List.range 32).find? (fun mb =>
    let b := k.box mb
    b.st = .running && b.begun && b.result.isNone && slotOp b.copied = 0x0703)

/-- `POD_CHECK` (R432): it answers when every module has replied; silence ends it by its time bound. -/
def podCheck (s : State) (c : CmdCtx) : CmdEnd :=
  let s1 := if c.begun then s else s.onChip Chip.pingAll
  if !c.begun && s.chip.checker.isSome then cmdEnd s mbBusy []
  else if s1.chip.fabric.podSilent.isEmpty then (s1, some s1.chip.fabric.podAnswer)
  else (s1, none)

def execPodCheck (mb : Nat) (s : State) : Host.Outcome State Fault Refusal := runCommand mb 0x0703 podCheck s

/-- A `PING` for this module: a request is answered, a reply is counted. -/
def Chip.takePing (k : Chip) (n : Nat) (p : Packet) : Chip :=
  if bitOf (pingWord p) 0 then
    let k1 := k.onFabric (fun f => { f with
      pongs := f.pongs.filter (fun x => x.1 ≠ pkSrc p) ++ [(pkSrc p, bitOf (pingWord p) 1)] })
    match k1.checker with
    | some mb => if k1.fabric.podSilent.isEmpty then k1.answerCommand mb 0x0703 k1.fabric.podAnswer else k1
    | none => k1
  else k.onFabric (fun f => f.forward none (k.portReach (some (n / 3)))
    (mkMgmt (pkSrc p) f.devnum (mgBytes 6 false 0 0 (mgSeq p) ++ pingBytes true f.podMember)))

/-- A `PING` arrives (R429, R432). -/
def execPing (port : Nat) (p : Packet) (s : State) : Host.Outcome State Fault Refusal :=
  .next (s.takeMgmt port p 6 (fun s => s.onChip (fun k => k.takePing port p)))

/-! ## Relay (R431, R472) -/

/-- The mailbox a relay names: class R, or the class L mailbox itself. -/
def relayBox (mb : Nat) : Nat := if boxClass mb = .r then 14 else mb % 8

/-- `POD_RELAY` (R431): the command and its data go to the module named. -/
def podRelay (s : State) (c : CmdCtx) : CmdEnd :=
  let f := s.chip.fabric
  if c.begun then (s, none)
  else if 64 ≤ c.arg 0 || c.arg 0 = f.devnum.toNat then cmdEnd s mbBadArg []
  else match c.input with
  | none => cmdEnd s mbFault []
  | some bs =>
    if bs.length < 64 || 64 + 1664 < bs.length then cmdEnd s mbBadArg []
    else
      let seq := f.mseq + 1
      let dst : BitVec 6 := BitVec.ofNat 6 (c.arg 0)
      let body := toBytes 8 s.boot.ownerId.toNat ++ [BitVec.ofNat 8 (relayBox c.mb), 0, 0, 0, 0, 0, 0, 0] ++ bs
      let out : RelayOut := { mseq := seq, dst := dst, mb := c.mb, body := body, resent := 0 }
      (s.onChip (fun k =>
        (k.onFabric (fun f => { f with mseq := seq, relays := f.relays ++ [out] })).sendRelay 2 dst seq body), none)

def execPodRelay (mb : Nat) (s : State) : Host.Outcome State Fault Refusal := runCommand mb 0x0704 podRelay s

/-- A free mailbox for a relayed command. -/
def Chip.relaySeat (k : Chip) (r : RelayInfo) : Option Nat :=
  (span (if r.mailbox = 14 then 24 else 16) 8).find? (fun mb => (k.box mb).st = .idle)

/-- A relayed command refused at once. -/
def Chip.relayRefused (k : Chip) (r : RelayInfo) (status : Nat) : Chip :=
  k.sendRelay 3 r.src r.mseq (toBytes 64 (rspSlot status (slotTag r.slot) 0 []).toNat)

/-- A relayed command accepted: it stands in a mailbox of its own class, its data in the inline buffer. -/
def State.relayAccept (s : State) (r : RelayInfo) (mb : Nat) : State :=
  let tag := slotTag r.slot
  let own := ownWord 2 tag.toNat (min r.data.length 1664)
  (s.onChip (fun k =>
    (k.onFabric (fun f => { f with
      serving := f.serving ++ [(mb, (r.src, r.mseq))], executed := f.executed ++ [(r.src, r.mseq)] })).updBox mb (fun _ =>
        { Mailbox.reset with
          opened := true, st := .check, cmd := r.slot, dbTag := tag, since := k.mgmt.now
          inl := putBytes (putBytes [] 0 (toBytes 8 own.toNat)) 128 (r.data.take 1664) }))).recheck mb

/-- A `RELAY_CMD` for this module (R431, R521): each is executed once. -/
def State.takeRelay (s : State) (r : RelayInfo) : State :=
  if s.chip.fabric.executed.contains (r.src, r.mseq) then s
  else if s.chip.fabric.podRec.isNone || r.owner ≠ s.boot.ownerId || (r.mailbox ≠ 14 && 8 ≤ r.mailbox) then
    s.onChip (fun k => k.relayRefused r mbDenied)
  else match s.chip.relaySeat r with
  | none => s.onChip (fun k => k.relayRefused r mbBusy)
  | some mb => s.relayAccept r mb

/-- A `RELAY_CMD` arrives, with the relay its packets carry (R431). -/
def execRelayCmd (port : Nat) (p : Packet) (r : RelayInfo) (s : State) : Host.Outcome State Fault Refusal :=
  .next (s.takeMgmt port p 2 (fun s => s.takeRelay r))

/-- A `RELAY_RSP` arrives: the response slot and its data go into the relaying command's output (R431, R473). -/
def execRelayRsp (port : Nat) (p : Packet) (s : State) : Host.Outcome State Fault Refusal :=
  .next (s.takeMgmt port p 3 (fun s => s.onChip (fun k =>
    match k.fabric.relays.find? (fun x => x.mseq = mgSeq p && x.dst = pkSrc p) with
    | none => k
    | some x =>
      let body := p.payload.drop 8
      let r := if body.length ≤ (k.box x.mb).outRoom 1 then { mbResult mbDone [] with out := some body }
        else mbResult mbBadArg []
      (k.onFabric (fun f => { f with relays := f.relays.filter (fun y => y.mseq ≠ x.mseq) })).answerCommand
        x.mb 0x0704 r)))

/-- A relay has had no reply for 10 ms: it is sent again, or after the third time given up (R431). -/
def execRelayResendTimer (mseq : BitVec 32) (s : State) : Host.Outcome State Fault Refusal :=
  .next (s.onChip (fun k =>
    match k.fabric.relays.find? (fun x => x.mseq = mseq) with
    | none => k
    | some x =>
      if x.resent < 3 then
        (k.onFabric (fun f => { f with relays := f.relays.map (fun y =>
          if y.mseq = mseq then { y with resent := y.resent + 1 } else y) })).sendRelay 2 x.dst mseq x.body
      else
        (k.onFabric (fun f => { f with relays := f.relays.filter (fun y => y.mseq ≠ mseq) })).answerCommand
          x.mb 0x0704 (mbResult mbTimeout [])))

end Sys2Proof.Machine
end

