-- ==== Sys2Proof/Machine/Register.lean ====
section
/-! DEFINITION. Writes to the register space (02_address_map.md R73-R78): a register with a command of its own does
what that command does; in every other one RW fields take the value, W1C bits written as 1 clear, and RO and
reserved fields keep theirs. -/

namespace Sys2Proof.Machine

/-- The state a command leaves, when it leaves one. -/
def State.afterCmd (s : State) (o : Host.Outcome State Fault Refusal) : State :=
  match o with
  | .next t => t
  | _ => s

/-! ## W1C registers of a cluster block (R75) -/

/-- Bits of `CLU_MSTAT` (05_matrix_units.md R195). -/
def MUnit.clear (u : MUnit) (w : RegW) : MUnit :=
  { u with
    limit := u.limit && !regSets w 24
    flags := { u.flags with
      ovf := u.flags.ovf && !regSets w 25
      invalid := u.flags.invalid && !regSets w 26
      nanin := u.flags.nanin && !regSets w 27
      dovf := u.flags.dovf && !regSets w 28
      bump := u.flags.bump && !regSets w 29 } }

/-- Bits of `CLU_VSTAT` (06_vector_units.md R223). -/
def VUnit.clear (u : VUnit) (w : RegW) : VUnit :=
  { u with flags := { u.flags with
      invalid := u.flags.invalid && !regSets w 0
      ovf := u.flags.ovf && !regSets w 1
      nanin := u.flags.nanin && !regSets w 2
      irange := u.flags.irange && !regSets w 3
      bump := u.flags.bump && !regSets w 4 } }

/-- Bits of `MOV_STAT` (08_movers_and_run_ahead.md R268). -/
def Mover.clear (v : Mover) (w : RegW) : Mover :=
  { v with err := v.err && !regSets w 16, overrun := v.overrun && !regSets w 17 }

/-- The `CLU_` and `MOV_` registers without a command of their own, by word-aligned offset. -/
def Cluster.writeReg (x : Cluster) (o : Nat) (w : RegW) : Cluster :=
  if 0x200 ≤ o && o < 0x220 then x.updMUnit ((o - 0x200) / 8) (·.clear w)
  else if 0x240 ≤ o && o < 0x250 then x.updVUnit ((o - 0x240) / 8) (·.clear w)
  else if o = 0x260 then { x with lut := { x.lut with badimg := x.lut.badimg && !regSets w 4 } }
  else if o = 0x280 then { x with
    hwTmo := x.hwTmo && !regSets w 0, hwLost := x.hwLost && !regSets w 1, raddFail := x.raddFail && !regSets w 2 }
  else if o = 0x288 then { x with stFailed := x.stFailed && !regSets w 0, stOverrun := x.stOverrun && !regSets w 1 }
  else if o = 0x4000 then x.updMover 0 (·.clear w)
  else if o = 0x5000 then x.updMover 1 (·.clear w)
  else x

/-- A write in a cluster block. -/
def State.clusterWrite (s : State) (ag : Agent) (c o : Nat) (w : RegW) : State :=
  if o = 0x298 then s.afterCmd (execCluLcctlWrite c w s)
  else if 0x300 ≤ o && o < 0x340 then s.afterCmd (execCluLandzWrite ag c ((o - 0x300) / 8) w s)
  else s.onChip (fun k => k.updCluster c (fun x => x.writeReg o w))

/-! ## A quadrant block (R74) -/

/-- The dispatcher block (03_cluster_execution.md R97-R102, R114, R118). -/
def State.dspWrite (s : State) (q p : Nat) (w : RegW) : State :=
  let n := (p - 0x1000) / 32
  if p = 0 then s.afterCmd (execDspCtlWrite q w s)
  else if p = 8 then s.afterCmd (execDspAbort q w s)
  else if p = 0x18 then s.afterCmd (execDspCrst q w s)
  else if 0x1000 ≤ p && p < 0x3000 then
    if p % 32 = 0 then s.onChip (fun k => k.updQuad q (·.updQueue n (·.writeBase w)))
    else if p % 32 = 8 then s.afterCmd (execDspQcfgWrite q n w s)
    else if p % 32 = 16 then s.afterCmd (execDspQdb q n w s)
    else s
  else s

/-- `HSP_OP` (09_hasps.md R305): a half write, a set reserved bit, `OP` 0b11 or a reset with a value does
nothing. -/
def State.hspOpWrite (s : State) (q : Nat) (w : RegW) : State :=
  let v := w.val
  let i : BitVec 12 := v.extractLsb' 0 12
  let x : BitVec 48 := v.extractLsb' 16 48
  if w.part ≠ .full || v.extractLsb' 14 2 ≠ 0 then s
  else match (v.extractLsb' 12 2).toNat with
    | 0 => s.afterCmd (execHspOpAdd q i x s)
    | 1 => s.afterCmd (execHspOpSet q i x s)
    | 2 => if x = 0 then s.afterCmd (execHspOpReset q i s) else s
    | _ => s

/-- The hasp block (R304-R308). -/
def State.hspWrite (s : State) (ag : Agent) (q p : Nat) (w : RegW) : State :=
  if p = 0x8000 then s.hspOpWrite q w
  else if p = 0x8008 then
    if w.part ≠ .full || w.val.extractLsb' 20 2 ≠ 0 then s
    else s.afterCmd (execHspRop ag q (w.val.extractLsb' 0 14) (w.val.extractLsb' 14 6) (w.val.extractLsb' 22 42) s)
  else if p = 0x8010 then s.onChip (fun k => k.updQuad q (fun d => { d with
    satev := d.satev && !regSets w 0, ropErr := d.ropErr && !regSets w 1 }))
  else if 0x9000 ≤ p && p < 0x9400 then
    if p % 16 = 0 then s.afterCmd (execHspNcfgWrite q ((p - 0x9000) / 16) w s)
    else s.afterCmd (execHspNthrWrite q ((p - 0x9000) / 16) w s)
  else s

/-- The translation block (12_range_translation.md R382). -/
def State.xltWrite (s : State) (q p : Nat) (w : RegW) : State :=
  if p = 0 then s.afterCmd (execXltInvalSpace q w s)
  else if p = 8 then s.onChip (fun k => k.updQuad q (fun d => { d with invDropped := d.invDropped && !regSets w 1 }))
  else if p = 0x10 then s.onChip (fun k => k.updQuad q (fun d => { d with
    spsel := (regMerge (d.spsel.setWidth 64) w).setWidth 12 }))
  else if p = 0x28 then s.onChip (fun k => k.updQuad q (fun d => { d with
    malformed := d.malformed && !regSets w 0, walkErr := d.walkErr && !regSets w 1 }))
  else s

/-- `HNG_CTL` of hinge `h` of a quadrant (01_package_and_hinges.md R58). -/
def State.hngWrite (s : State) (q h : Nat) (w : RegW) : State :=
  let s1 := if regSets w 1 then s.afterCmd (execHngClrCnt q h s) else s
  if regSets w 0 then s1.afterCmd (execHngRetrain q h s1) else s1

/-- `FAB_PCTL` of a port (14_fabric_and_pods.md R434). -/
def State.pctlWrite (s : State) (n : Nat) (w : RegW) : State :=
  let s1 := if regSets w 1 then s.afterCmd (execFabPctlClrCnt n s) else s
  let s2 := if w.part = .high then s1 else s1.afterCmd (execFabPctlDisable n (w.val.getLsbD 2) s1)
  if regSets w 0 then s2.afterCmd (execFabPctlRetrain n s2) else s2

/-- A write in a quadrant block, by word-aligned offset. -/
def State.quadWrite (s : State) (ag : Agent) (q o : Nat) (w : RegW) : State :=
  let p := o % 0x10000
  match o / 0x10000 with
  | 0 => s.dspWrite q p w
  | 1 => s.hspWrite ag q p w
  | 2 => s.xltWrite q p w
  | 3 => if p < 0x300 && p % 0x100 = 0x10 then s.hngWrite q (p / 0x100) w else s
  | 5 =>
    if p < 0x18 then s.afterCmd (execThmClrMax (3 * q + p / 8) w s)
    else if p = 0x20 || p = 0x28 then s.afterCmd (execThmClrMax (12 + 2 * q + (p - 0x20) / 8) w s)
    else s
  | 7 => if p < 0x3000 && p % 0x1000 = 0x10 then s.pctlWrite (3 * q + p / 0x1000) w else s
  | _ => s

/-! ## Mailboxes (16_tumbler_interface.md R457-R462, R474) -/

/-- A slot with bytes replaced from offset `o` on. -/
def slotPut (c : BitVec 512) (o n : Nat) (v : U64) : BitVec 512 :=
  let m : BitVec 512 := BitVec.ofNat 512 (2 ^ (8 * n) - 1) <<< (8 * o)
  (c &&& ~~~m) ||| ((v.setWidth 512 <<< (8 * o)) &&& m)

/-- A write to the registers of a mailbox, by word-aligned offset. -/
def State.boxRegWrite (s : State) (ag : Agent) (n o : Nat) (w : RegW) : State :=
  if o = 0x80 then s.afterCmd (execTmbDb ag n w s)
  else if o = 0x88 then s.onChip (fun k => k.updBox n (fun b => { b with
    dbBusy := b.dbBusy && !regSets w 2, winErr := b.winErr && !regSets w 3 }))
  else if o = 0x90 then s.onChip (fun k =>
    k.writeWindow n (regMerge ((k.box n).wbase.setWidth 64 <<< 12) w) (k.box n).wcfgWord)
  else if o = 0x98 then s.afterCmd (execTmbWcfgWrite ag n w s)
  else if o = 0xA0 then s.afterCmd (execTmbEvptrWrite ag n w s)
  else if o = 0xA8 then
    if boxClass n = .l && w.part ≠ .high then
      s.onChip (fun k => k.updBox n (fun b => { b with irq := w.val.getLsbD 16 })) else s
  else s

/-- A write in a mailbox's block: the response slot and the event queue are written by the Tumbler alone
(notes/assumptions/75.md). -/
def State.boxWrite (s : State) (ag : Agent) (n o size : Nat) (v : U64) : State :=
  if !agentReaches ag n then s
  else if o < 0x40 then s.onChip (fun k => k.updBox n (fun b => { b with cmd := slotPut b.cmd o size v }))
  else if 0x80 ≤ o && o < 0x100 then s.boxRegWrite ag n (o / 8 * 8) (regWOf o size v)
  else if 0x100 ≤ o && o < 0x800 then
    s.onChip (fun k => k.updBox n (fun b => { b with inl := putBytes b.inl (o - 0x100) (toBytes size v.toNat) }))
  else s

/-! ## The register space -/

/-- An aligned write of `size` bytes to a place of register space. -/
def State.regWrite (s : State) (ag : Agent) (l : RegLoc) (size : Nat) (v : U64) : State :=
  match l with
  | .tmb n o => s.boxWrite ag n o size v
  | .thm o => if o / 8 < 3 then s.afterCmd (execThmClrMax (20 + o / 8) (regWOf o size v) s) else s
  | .err o =>
    if o / 8 = 0 && regSets (regWOf o size v) 48 then
      s.onChip (fun k => k.onMgmt (fun m => { m with errOverflow := false })) else s
  | .quad q o => s.quadWrite ag q (o / 8 * 8) (regWOf o size v)
  | .cluster c o => s.clusterWrite ag c (o / 8 * 8) (regWOf o size v)
  | _ => s

/-- The quadrant an agent's accesses come from. -/
def agentQuad : Agent → Option Nat
  | .seq c => some (c / 24)
  | _ => none

/-- A refused register write (R71, R76): a precise access fault of a hart, with its record; a fault of a
sequencer. -/
def State.regRefused (s : State) (ag : Agent) (addr code : Nat) : State :=
  s.onChip (fun k => match ag with
    | .hart h => (k.hartTrap h causeStore (BitVec.ofNat 64 addr)).report 1
        { hartErr h 0x0A 1 with paddr := BitVec.ofNat 64 addr, vaddr := BitVec.ofNat 64 addr } 1
    | .seq c => k.seqFault c code (k.cluster c).pc (some addr)
    | .tumbler => k)

/-- A register write whose target's quadrant cannot be reached (R72; 10_memory_ordering.md R333). -/
def State.regLost (s : State) (ag : Agent) (addr : Nat) (bs : Bytes) : State :=
  s.onChip (fun k => match ag with
    | .hart h => (k.hartStoreError h).report 1
        { hartErr h 4 1 with paddr := BitVec.ofNat 64 addr, status := BitVec.ofNat 8 stLinkLost } 1
    | .seq c =>
      let x := k.cluster c
      k.storeFailed c { id := x.nextId, no := x.nextNo, pa := addr, data := bs, cached := false, sent := true,
                        space := x.space, claim := none } stLinkLost
    | .tumbler => k)

/-- Whether an agent can make an access now. -/
def State.agentRuns (s : State) : Agent → Bool
  | .hart h => (s.chip.hart h).running && !(s.chip.hart h).stopped
  | .seq c => s.chip.clusterPresent c && (s.chip.cluster c).st = .running
  | .tumbler => s.tumblerUp

/-- A register write (R76, R77). -/
def execRegisterWrite (ag : Agent) (addr size : Nat) (val : U64) (s : State) : Host.Outcome State Fault Refusal :=
  .next (
    if !s.agentRuns ag then s
    else if !(s.chip.isOwn addr && areaOf (paLocal addr) = .regs) then s.regRefused ag addr ftNothing
    else match s.regCheck (agentQuad ag) (paLocal addr) size with
      | .ok l => s.regWrite ag l size val
      | .nothing => s.regRefused ag addr ftNothing
      | .misaligned => s.regRefused ag addr ftMisaligned
      | .lost => s.regLost ag addr (toBytes size val.toNat))

end Sys2Proof.Machine
end

