-- ==== Sys2Proof/Machine/Returns.lean ====
section
/-! DEFINITION. Answers to the scalar loads, atomics and stores of a sequencer (03_cluster_execution.md R94;
10_memory_ordering.md R314-R317, R333). -/

namespace Sys2Proof.Machine

/-- A load of a register performed (R76). -/
def State.regLoad (s : State) (c : Nat) (a : ScAcc) : State :=
  match s.regCheck (some (c / 24)) (paLocal a.pa) a.size with
  | .ok l =>
    let v := s.regRead (.seq c) l (paLocal a.pa) a.size
    s.onChip (fun k => k.finishLoad c a (toBytes a.size v.toNat) false)
  | .lost => s.onChip (fun k => k.faultLoad c a stLinkLost)
  | _ => s.onChip (fun k => k.faultLoad c a stNotPresent)

/-- A load or atomic of this module's memory performed at its target (R314; R134). -/
def Chip.memLoad (k : Chip) (c : Nat) (a : ScAcc) : Chip :=
  let la := paLocal a.pa
  let st := k.reachMem (some (c / 24)) la
  if k.inOwnStore c a.pa then k
  else if st ≠ stOk then k.faultLoad c a st
  else match a.kind with
    | .load _ =>
      if a.cached then k
      else
        let (k1, (bs, p)) := k.cohRead la a.size
        k1.finishLoad c a bs p
    | .amo op v w =>
      if (k.cluster c).stores.any (fun s => s.id < a.id && k.ordered c s.pa) then k
      else
        let (k1, (old, p)) := k.cohAtomic la op v w
        k1.finishLoad c a (toBytes 8 old.toNat) p

/-- A load or atomic ends (R94): with the answer of another module, or at its own target. -/
def State.returnLoad (s : State) (c : Nat) (a : ScAcc) : State :=
  let k := s.chip
  match a.answer with
  | some (st, v) =>
    s.onChip (fun k => if st = stOk then k.finishLoad c a (toBytes a.size v.toNat) false
      else if st = stPoison then k.finishLoad c a [] true
      else k.faultLoad c a st)
  | none =>
    if !k.isOwn a.pa || (if k.ordered c a.pa then k.loadsBefore c a.id else k.behind c a.id a.pa) then s
    else if k.isReg a.pa then s.regLoad c a
    else s.onChip (fun k => k.memLoad c a)

/-- The answer to a scalar load or atomic returns (R94). -/
def execScalarLoadReturn (c id : Nat) (s : State) : Host.Outcome State Fault Refusal :=
  .next (
    let s1 := s.onChip (fun k => k.drainAll c)
    match (s1.chip.cluster c).loads.find? (fun a => a.id = id) with
    | some a => (s1.returnLoad c a).onChip (fun k => k.drainAll c)
    | none => s1)

/-- A store leaves the buffer. -/
def Chip.dropStore (k : Chip) (c id : Nat) : Chip :=
  k.updCluster c (fun x => { x with stores := x.stores.filter (·.id ≠ id) })

/-- A store to a register takes effect (R76, R78). -/
def State.regStore (s : State) (c : Nat) (x : StoreEnt) : State :=
  match s.regCheck (some (c / 24)) (paLocal x.pa) x.data.length with
  | .ok l => (s.onChip (fun k => k.dropStore c x.id)).regWrite (.seq c) l x.data.length (BitVec.ofNat 64 (ofBytes x.data))
  | .lost => s.onChip (fun k => k.storeFailed c x stLinkLost)
  | _ => s.onChip (fun k => k.storeFailed c x stNotPresent)

/-- A store to this module's memory is acknowledged, or fails (R317, R333). One that waits for its line fails
when its home cannot be reached. -/
def Chip.memStore (k : Chip) (c : Nat) (x : StoreEnt) : Chip :=
  let la := paLocal x.pa
  let st := k.reachMem (some (c / 24)) la
  if k.inOwnStore c x.pa then k
  else if st ≠ stOk then k.storeFailed c x st
  else if x.sent then ((k.dropStore c x.id).cohWrite la x.data false).spoilZones (some c) la x.data.length
  else k

/-- A store to `HSP_OP` waits for the operations that its sequencer issued to the hasp before it (09_hasps.md
R288). -/
def Chip.haspTurn (k : Chip) (c : Nat) (x : StoreEnt) : Bool :=
  match hspOpHasp (paLocal x.pa) x.data with
  | some h => !k.haspOps c h x.no
  | none => true

/-- A store may be acknowledged now: the first of the ordered stores, or one with none before it to its line. -/
def Chip.storeTurn (k : Chip) (c : Nat) (x : StoreEnt) : Bool :=
  if k.ordered c x.pa then
    !k.loadsBefore c x.id && ((k.cluster c).stores.find? (fun s => k.ordered c s.pa)).map (·.id) = some x.id
  else !k.behind c x.id x.pa && k.haspTurn c x

/-- The target of a scalar store acknowledges it (R317). -/
def execStoreAcknowledged (c id : Nat) (s : State) : Host.Outcome State Fault Refusal :=
  .next (
    let s1 := s.onChip (fun k => k.drainAll c)
    match (s1.chip.cluster c).stores.find? (fun x => x.id = id) with
    | none => s1
    | some x =>
      if !s1.chip.isOwn x.pa || !s1.chip.storeTurn c x then s1
      else (if s1.chip.isReg x.pa then s1.regStore c x else s1.onChip (fun k => k.memStore c x)).onChip
        (fun k => k.drainAll c))

end Sys2Proof.Machine
end

