-- ==== Sys2Proof/Machine/Drain.lean ====
section
/-! DEFINITION. What a reset lets a cluster finish before it takes the cluster's state: mover commands whose data phase
has begun, and buffered stores (03_cluster_execution.md R117, R118; 19_reset_and_ras.md R524, R526, R527). -/

namespace Sys2Proof.Machine

/-- A buffered store of a cluster becomes visible at its home, fails (R333), or leaves for its module. -/
def State.drainStore (s : State) (c : Nat) (x : StoreEnt) : State :=
  let k := s.chip
  let la := paLocal x.pa
  let gone (k : Chip) : Chip := k.dropStore c x.id
  if !k.isOwn x.pa then (if x.sent then s else s.onChip (fun k => k.sendStore c x))
  else if k.isReg x.pa then s.regStore c x
  else if k.inOwnStore c x.pa then s.onChip (fun k => (gone k).writeMem (paLocal (k.placeOf c x.space x.claim x.pa)) x.data false)
  else
    let st := k.reachMem (some (c / 24)) la
    s.onChip (fun k => if st ≠ stOk then k.storeFailed c x st
      else ((gone k).cohWrite la x.data false).spoilZones (some c) la x.data.length)

/-- The stores a cluster buffers drain, oldest first. Those of other modules then wait for their acknowledgements. -/
def State.drainStores (s : State) (c : Nat) : State :=
  let s1 := s.onChip (fun k => k.drainAll c)
  (s1.chip.cluster c).stores.foldl (fun s x => s.drainStore c x) s1

/-- The pieces of a mover's commands that can be answered within the module are answered, in up to `n` rounds. -/
def Chip.answerPieces (k : Chip) (c m : Nat) : Nat → Chip
  | 0 => k
  | n + 1 =>
    let k1 := ((k.cluster c).mover m).cmds.foldl (fun k d =>
      (d.pieces.filter (·.open')).foldl (fun k p => k.dataResponse c m d.id p.id) k) k
    k1.answerPieces c m n

/-- A command of a mover whose quadrant is reset completes: what it still waits for from another module or from the
flash tier ends with `LINK_LOST` (DESIGN CHOICE, notes/assumptions/114.md). -/
def Chip.forceComplete (k : Chip) (c m id : Nat) : Chip :=
  match (k.cluster c).cmd m id with
  | none => k
  | some d =>
    if d.speculative || d.phase = .drain then k
    else
      let k1 := (if d.phase = .data then d.pieces.filter (fun p => !p.landed) else []).foldl (fun k p =>
        k.pieceFailed c m id p stLinkLost p.read) k
      match (k1.cluster c).cmd m id with
      | none => k1
      | some d1 =>
        let k2 := k1.tryComplete c m d1
        match (k2.cluster c).cmd m id with
        | none => k2
        | some d2 => (if d2.dsent then k2.destLost c m d2 else k2).completeCmd c m d2

/-- Every command of a cluster's movers completes (R117). -/
def Chip.finishMovers (k : Chip) (c : Nat) : Chip :=
  [0, 1].foldl (fun k m =>
    let cmds := ((k.cluster c).mover m).cmds
    let k1 := k.answerPieces c m ((cmds.map (fun d => d.pieces.length)).foldl (· + ·) 0)
    cmds.foldl (fun k d => k.forceComplete c m d.id) k1) k

/-- Steps 1 and 2 of a quadrant reset (R526): the dispatcher stops every launch, and each cluster's movers and stores
come to their end. -/
def State.drainQuad (s : State) (q : Nat) : State :=
  if !s.chip.usable q || (s.chip.quad q).underReset then s
  else
    let s1 := s.onChip (fun k => (quadClusters q).foldl (fun k c => (k.stopCluster c).finishMovers c)
      (k.updQuad q (fun d => { d with enable := false })))
    (quadClusters q).foldl (fun s c => s.drainStores c) s1

/-- The stores that every cluster buffers drain before the module is reset or powered down (R485, R527). -/
def State.drainModule (s : State) : State := (List.range 96).foldl (fun s c => s.drainStores c) s

/-- A device reset that the Tumbler commands (R524, R527). -/
def State.commandedReset (s : State) : State := s.drainModule.deviceReset true

/-- Package containment (R535): the Tumbler resets the device. -/
def State.packageError (s : State) : State := s.commandedReset

/-- A commanded power-down (R485). -/
def State.powerDown (s : State) : State := { s.drainModule with chip := s.drainModule.chip.saveCounters }.depower

/-- A cluster reset ends (R118), once every mover command has completed and every buffered store has drained (R524). -/
def execClusterReset (c : Nat) (s : State) : Host.Outcome State Fault Refusal :=
  .next (
    let x := s.chip.cluster c
    if x.st = .reset && [0, 1].all (fun m => (x.mover m).cmds.all (fun d => d.phase = .drain)) then
      let s1 := s.drainStores c
      if (s1.chip.cluster c).stores.isEmpty then s1.onChip (fun k => (k.leaveLaunch c).resetCluster c) else s1
    else s)

end Sys2Proof.Machine
end

