-- ==== Sys2Proof/Machine/FlashOps.lean ====
section
/-! DEFINITION. The flash tier as shared operations (13_tiers_and_flash.md R398-R411): blocks, wear, images and
damage. Sizes of blocks and pages are not given: notes/assumptions/71.md. -/

namespace Sys2Proof.Machine

def Chip.onFlash (k : Chip) (f : Flash → Flash) : Chip := { k with flash := f k.flash }

/-! ## Blocks -/

/-- Pages of a block (notes/assumptions/71.md). -/
def blockPages : Nat := 1024

def Flash.block (f : Flash) (b : Nat) : FBlock := tblGet FBlock.reset f.blocks b

def Flash.updBlock (f : Flash) (b : Nat) (g : FBlock → FBlock) : Flash :=
  { f with blocks := tblMod FBlock.reset f.blocks b g }

/-- Page reads counted; a count of 60,000 makes the block due (R407). -/
def FBlock.read (b : FBlock) (n : Nat) : FBlock :=
  { b with reads := b.reads + n, due := b.due || decide (60000 ≤ b.reads + n) }

/-- A block whose count has reached 90,000 (R407). -/
def FBlock.forced (b : FBlock) : Bool := decide (90000 ≤ b.reads)

/-- A block is forced, and goes ahead of all other background work. -/
def Flash.anyForced (f : Flash) : Bool := f.blocks.any (fun e => e.2.forced)

/-- The due blocks in the order they became due, and `RELOC`: a block is due and no deferral holds it, or a block is
forced. -/
def Flash.refresh (f : Flash) : Flash :=
  let due := (f.blocks.filter (fun e => e.2.due)).map (fun e => e.1)
  { f with
    dueOrder := f.dueOrder.filter (fun b => due.contains b) ++ due.filter (fun b => !f.dueOrder.contains b)
    reloc := f.anyForced || (!due.isEmpty && f.defer.isNone) }

/-- Whether background work may move a block now (R407, R408, R410): a forced one at any time; while none is forced
and no deferral is in force, the oldest of the due ones, or one that is not due, for wear. -/
def Flash.mayMove (f : Flash) (b : Nat) : Bool :=
  f.ready && ((f.block b).forced ||
    (!f.anyForced && f.defer.isNone && (!f.dueOrder.contains b || f.dueOrder.head? = some b)))

/-- A program and erase cycle of a block: its counter starts again (R407, R410). -/
def FBlock.cycled (b : FBlock) : FBlock := { reads := 0, erases := b.erases + 1, due := false }

/-- Wear and spare percentages after blocks were erased: the number of blocks and the loss of spares are not
given, so both are free (R410; notes/assumptions/72.md). Spare blocks below 2 % are reported once. -/
def Chip.rewear (k : Chip) : Chip :=
  let (w, k1) := k.fresh
  let (sp, k2) := k1.fresh
  let spare := sp.toNat % 101
  let k3 := k2.onFlash (fun f => { f with
    wearPct := BitVec.ofNat 8 (w.toNat % 256), sparePct := BitVec.ofNat 8 spare, lowPosted := decide (spare < 2) })
  if spare < 2 && !k.flash.lowPosted then k3.post 0x0301 1 7 [spare] else k3

/-! ## Images (R399, R400) -/

def Flash.image (f : Flash) (id : Nat) : Option Image := f.images.find? (fun i => i.id = id)

def Flash.updImage (f : Flash) (id : Nat) (g : Image → Image) : Flash :=
  { f with images := f.images.map (fun i => if i.id = id then g i else i) }

/-- The smallest `ID` not in use (notes/assumptions/16.md). -/
def Flash.freeId (f : Flash) : Option Nat := (span 1 1024).find? (fun n => (f.image n).isNone)

/-- User capacity held, in units of 64 KiB. -/
def Flash.used (f : Flash) : Nat := (f.images.map Image.units).foldl (· + ·) 0

/-- 12 TiB in units of 64 KiB. -/
def userUnits : Nat := 0xC000000

/-- Whether `[o, o + n)` of the window meets no image. -/
def Flash.isFree (f : Flash) (o n : Nat) : Bool :=
  o + n ≤ 0x100000000000 && f.images.all (fun i => o + n ≤ i.offset || i.offset + i.span ≤ o)

/-- The lowest place for `n` bytes: the start of the window or the end of an image (notes/assumptions/16.md). -/
def Flash.place (f : Flash) (n : Nat) : Option Nat :=
  let os := (0 :: f.images.map (fun i => i.offset + i.span)).filter (fun o => f.isFree o n)
  match os with
  | [] => none
  | o :: r => some (r.foldl min o)

/-- Bytes of the window dropped. -/
def Flash.dropData (f : Flash) (o n : Nat) : Flash :=
  { f with data := f.data.filter (fun e => e.1 < o || o + n ≤ e.1) }

/-- Mover commands that still hold an image (R403). -/
def Chip.imageHeld (k : Chip) (id : Nat) : Bool :=
  k.flash.readers.any (fun r => r.1 = id && ((k.cluster r.2.1).cmd r.2.2.1 r.2.2.2).isSome)

/-- The image, sealed or being erased, whose span holds a window offset. -/
def Flash.imageOf (f : Flash) (off : Nat) : Option Image :=
  f.images.find? (fun i => i.st ≠ .writing && i.offset ≤ off && off < i.offset + i.span)

/-! ## Damage (R405) -/

/-- A `TIER_ERROR` at a window offset: `DAMAGED`, a record of class 0x0C and an `IMAGE_DAMAGED` event. -/
def Chip.damage (k : Chip) (c m : Nat) (off : Nat) : Chip :=
  let id := match k.flash.imageOf off with
    | some i => i.id
    | none => 0
  ((k.onFlash (fun f => f.updImage id (fun i => { i with damaged := true }))).report 1
    { clusterErr c (8 + m) 0x0C 0 with
      paddr := BitVec.ofNat 64 (0x100000000000 + off), status := BitVec.ofNat 8 stTierError,
      detail := BitVec.ofNat 64 id } 1).post 0x0302 2 7 [id, off]

/-! ## Reads (R404, R563) -/

/-- A request's answer given to its mover command, if it still waits for it. -/
def Chip.flashAnswer (k : Chip) (r : FlashReq) (ok : Bool) : Chip :=
  match (k.cluster r.cluster).cmd r.mover r.cmd with
  | none => k
  | some d =>
    match d.pieces.find? (fun p => p.id = r.piece && p.asked) with
    | none => k
    | some p =>
      if !ok then (k.pieceFailed r.cluster r.mover r.cmd p stTierError false).afterPiece r.cluster r.mover r.cmd
      else if d.phase = .data then
        (k.onFlash (fun f => { f with rdbytes := satAdd f.rdbytes r.len })).pieceRead r.cluster r.mover d p
          ((List.range r.len).map (fun i => tblGet 0 k.flash.data (r.off + i))) false
      else k

/-- A request leaves the flash tier, with its page read counted. -/
def Chip.takeFlash (k : Chip) (r : FlashReq) : Chip :=
  k.onFlash (fun f =>
    ({ f with reqs := f.reqs.filter (fun x => x.id ≠ r.id) }.updBlock (r.off / blockBytes) (·.read 1)).refresh)

/-- A flash read served by a step of R404, or failed. Whatever went past the first step needed step 2 (R411). -/
def Chip.serveFlash (k : Chip) (r : FlashReq) (served : FlashServe) : Chip :=
  let k1 := (k.takeFlash r).onFlash (fun f =>
    if served = .hard then f else { f with retried := satAdd f.retried 1 })
  match served with
  | .hard | .shifted | .soft => k1.flashAnswer r true
  | .rebuilt => (k1.onFlash (fun f => { f with rebuilt := satAdd f.rebuilt 1 })).flashAnswer r true
  | .failed =>
    ((k1.onFlash (fun f => { f with uncorr := satAdd f.uncorr 1 })).flashAnswer r false).damage
      r.cluster r.mover r.off

/-- Whether a quadrant's flash traffic passes its host hinge: it does while the hinge is `ACTIVE` (R563). -/
def State.flashPasses (s : State) (q : Nat) : Bool := s.links.hingeState q = .active

end Sys2Proof.Machine
end

