-- ==== Sys2Proof/Machine/Flash.lean ====
section
/-! DEFINITION. The commands of the flash tier itself (13_tiers_and_flash.md R403-R410, R563). -/

namespace Sys2Proof.Machine

/-- A flash read ends at a step of R404; while the quadrant's host hinge retrains, it is held (R563). -/
def execFlashRead (id : Nat) (served : FlashServe) (s : State) : Host.Outcome State Fault Refusal :=
  .next (match s.chip.flash.reqs.find? (fun r => r.id = id) with
    | none => s
    | some r => if s.flashPasses (r.cluster / 24) then s.onChip (fun k => k.serveFlash r served) else s)

/-- A flash read has had no answer for 100 ms (R262, R404); one that a retrain of the host hinge holds is not timed
(R563). -/
def execFlashReadTimeout (id : Nat) (s : State) : Host.Outcome State Fault Refusal :=
  .next (match s.chip.flash.reqs.find? (fun r => r.id = id) with
    | none => s
    | some r => if !s.flashPasses (r.cluster / 24) then s else s.onChip (fun k =>
      ((((k.takeFlash r).onFlash (fun f => { f with timeout := satAdd f.timeout 1 })).flashAnswer r false).damage
        r.cluster r.mover r.off)))

/-- A block is relocated in the background (R406-R408, R410). Window offsets and data stay. -/
def execFlashBackgroundRelocate (block : Nat) (s : State) : Host.Outcome State Fault Refusal :=
  .next (s.onChip (fun k =>
    if k.flash.mayMove block then
      (k.onFlash (fun f => (f.updBlock block FBlock.cycled).refresh)).rewear
    else k))

/-- The Tumbler writes the read counters to NAND (R407). -/
def execFlashCounterSave (s : State) : Host.Outcome State Fault Refusal :=
  .next (if s.tumblerUp then s.onChip (fun k => k.saveCounters) else s)

/-- A block is scrubbed (R409): every page is read, and a bad one makes the block due. It waits during a
deferral. -/
def execFlashScrub (block : Nat) (bad : Bool) (s : State) : Host.Outcome State Fault Refusal :=
  .next (s.onChip (fun k =>
    if k.flash.ready && k.flash.defer.isNone then
      k.onFlash (fun f => (f.updBlock block (fun b =>
        { b.read blockPages with due := (b.read blockPages).due || bad })).refresh)
    else k))

/-- A deferral ends (R408): none may start for as long as it lasted. -/
def execFlashDeferEnd (s : State) : Host.Outcome State Fault Refusal :=
  .next (s.onChip (fun k => match k.flash.defer with
    | none => k
    | some (a, b) => k.onFlash (fun f => { f with defer := none, deferNot := b + (b - a) }.refresh)))

/-- The mailbox whose `IMG_ERASE` of an image is under way. -/
def Chip.eraser (k : Chip) (id : Nat) : Option Nat :=
  (List.range 32).find? (fun mb =>
    let b := k.box mb
    b.st = .running && b.begun && b.result.isNone && slotOp b.copied = 0x0605 && slotArg b.copied 0 = BitVec.ofNat 64 id)

/-- The blocks of an image's span erased. -/
def Flash.eraseBlocks (f : Flash) (i : Image) : Flash :=
  (span (i.offset / blockBytes) ((i.offset + i.span - 1) / blockBytes - i.offset / blockBytes + 1)).foldl
    (fun f b => f.updBlock b FBlock.cycled) f

/-- An erase completes once no mover command holds the image (R403): span and record are freed. -/
def execImageEraseDone (image : Nat) (s : State) : Host.Outcome State Fault Refusal :=
  .next (s.onChip (fun k => match k.flash.image image with
    | none => k
    | some i =>
      if i.st ≠ .erasing || k.imageHeld image then k
      else
        let k1 := (k.onFlash (fun f =>
          ({ (f.eraseBlocks i).dropData i.offset i.span with
            images := f.images.filter (fun x => x.id ≠ image)
            readers := f.readers.filter (fun r => r.1 ≠ image) }).refresh)).rewear
        match k.eraser image with
        | some mb => k1.answerCommand mb 0x0605 (mbResult mbDone [])
        | none => k1))

end Sys2Proof.Machine
end

