-- ==== Sys2Proof/Machine/Hart.lean ====
section
/-! DEFINITION. The commands of the harts: loads, stores, atomics, fences and cache management after paging
(15_host_die.md R437-R439, R443, R447; 10_memory_ordering.md R314-R320; 02_address_map.md R62, R70-R72, R76). A hart
makes its weakly ordered loads one at a time (notes/assumptions/77.md). -/

namespace Sys2Proof.Machine

/-! ## Where an access goes (R437, R443) -/

/-- The target of a hart access. A refused one takes a precise access fault, with a record where R71 or R76 refuses
it. -/
inductive HartSpot where
  | line | mem | reg | remote | io
  | refused (recorded : Bool)
  deriving DecidableEq, Repr

/-- A block of the host I/O range (R443). -/
inductive IoBlock where
  | file (hart : Nat)
  | aplic
  | iommu
  | eth (port : Nat)
  | ecam
  | window
  deriving DecidableEq, Repr

/-- The block of the host I/O range at an address, and the offset in it. -/
def ioBlock (la : Nat) : Option (IoBlock × Nat) :=
  let o := la - 0x40000000000
  if areaOf la ≠ .io then none
  else if o < 0x40000 then some (.file (o / 0x1000), o % 0x1000)
  else if 0x1000000 ≤ o && o < 0x1200000 then some (.file ((o - 0x1000000) / 0x8000), o % 0x1000)
  else if 0x2000000 ≤ o && o < 0x2008000 then some (.aplic, o - 0x2000000)
  else if 0x3000000 ≤ o && o < 0x3001000 then some (.iommu, o - 0x3000000)
  else if 0x4000000 ≤ o && o < 0x4200000 then some (.eth ((o - 0x4000000) / 0x100000), o % 0x100000)
  else if 0x10000000 ≤ o && o < 0x30000000 then some (.ecam, o % 0x10000000)
  else if (0x40000000 ≤ o && o < 0xC0000000) || (0x8000000000 ≤ o && o < 0x10000000000) then some (.window, o)
  else none

/-- A block is there: the interrupt files of an absent hart hold nothing (R71, 00_scope.md R2). -/
def Chip.ioPresent (k : Chip) (b : IoBlock) : Bool :=
  match b with
  | .file h => k.capHarts.getLsbD h
  | _ => true

/-- The access sizes of a block's standard (R443; notes/assumptions/109.md): 4 bytes for an interrupt file or the
APLIC, 4 or 8 for the IOMMU, up to 4 for configuration space; any for an Ethernet engine or a memory window. -/
def IoBlock.takes (b : IoBlock) (n : Nat) : Bool :=
  match b with
  | .file _ | .aplic => n = 4
  | .iommu => n = 4 || n = 8
  | .ecam => n = 1 || n = 2 || n = 4
  | .eth _ => n ≤ 8
  | .window => true

/-- The address holds an interrupt file of a present hart (R443). -/
def Chip.isMsiFile (k : Chip) (la : Nat) : Bool :=
  match ioBlock la with
  | some (.file h, _) => k.ioPresent (.file h)
  | _ => false

/-- The target in the host I/O range of an access of `n` bytes. -/
def Chip.ioSpot (k : Chip) (la n : Nat) (odd : Bool) : HartSpot :=
  match ioBlock la with
  | none => .refused true
  | some (b, _) => if !k.ioPresent b then .refused true else if odd || !b.takes n then .refused false else .io

/-- The target of an access of `n` bytes: a fetch, an AMO, an LR or SC, or none of them. A page of type NC or IO makes
main memory uncached (R437), but for an LR or SC, whose reservation the L2 keeps (notes/assumptions/122.md). -/
def Chip.hartSpot (k : Chip) (pa n : Nat) (page : PageType) (fetch amo lrsc : Bool) : HartSpot :=
  let la := paLocal pa
  let area := areaOf la
  let odd : Bool := pa % n ≠ 0
  if !k.isOwn pa then
    if k.fabric.reach pa ≠ .remote || fetch || !(cacheable la || area = .shelf || area = .stores) then .refused true
    else if odd || lrsc || (amo && !cacheable la) then .refused false
    else .remote
  else if cacheable la then
    if !(k.populated la && k.populated (la + n - 1)) then .refused true
    else if odd && (amo || lrsc) then .refused false
    else if page ≠ .pma && !lrsc then .mem
    else .line
  else if fetch then .refused true
  else if area = .shelf || area = .stores then
    if !k.populated la then .refused true else if odd || amo || lrsc then .refused false else .mem
  else if area = .regs then .reg
  else if area = .io then k.ioSpot la n (odd || amo || lrsc)
  else .refused true

/-! ## Fences (R320) -/

/-- Bits of a fence set: `i` 8, `o` 4, `r` 2, `w` 1. A page of type IO makes its accesses input or output. -/
def loadClass (page : PageType) (pa : Nat) : BitVec 4 := if cacheable (paLocal pa) && page ≠ .io then 2 else 8
def storeClass (page : PageType) (pa : Nat) : BitVec 4 := if cacheable (paLocal pa) && page ≠ .io then 1 else 4

/-- The bits of an outstanding access. -/
def HartAcc.fenceBits (a : HartAcc) : BitVec 4 :=
  match a.kind with
  | .load _ _ => loadClass .pma a.pa
  | .amo _ _ => 3

/-- A fence is complete (R320): a `FENCE` does not order accesses to other modules. -/
def Chip.hartFenceDone (k : Chip) (h : Nat) (pod : Bool) (pred : BitVec 4) : Bool :=
  let x := k.hart h
  if pod then x.accs.isEmpty && x.stores.isEmpty
  else x.accs.all (fun a => !k.isOwn a.pa || a.fenceBits &&& pred = 0) &&
    x.stores.all (fun s => !k.isOwn s.pa || storeClass .pma s.pa &&& pred = 0)

/-- The fence of a hart ends when it is complete. -/
def Chip.endHartFence (k : Chip) (h : Nat) : Chip :=
  match (k.hart h).fence with
  | some (pod, (pred, _)) =>
    if k.hartFenceDone h pod pred then k.updHart h (fun x => { x with fence := none }) else k
  | none => k

/-- What a hart can do now is done, before its next instruction. -/
def Chip.readyHart (k : Chip) (h : Nat) : Chip := (k.drainHartAll h).endHartFence h

/-- A store of a hart to a line of another module, or to one now accessed uncached, is outstanding
(10_memory_ordering.md R315). -/
def Chip.hartBehind (k : Chip) (h pa n : Nat) (un : Bool) : Bool :=
  (un || !k.isOwn pa) && (k.hart h).stores.any (fun s => linesMeet pa n s.pa s.data.length)

/-- An access of a hart waits: the hart does not run, a fence holds it, a weakly ordered load is outstanding, or it is
weakly ordered itself behind another load or behind a store to its line; or a register it reads has not arrived. -/
def Chip.hartWaits (k : Chip) (h pa n : Nat) (page : PageType) (bits : BitVec 4) (rs : SReg) : Bool :=
  let x := k.hart h
  let un : Bool := page ≠ .pma
  !x.running || x.stopped ||
    (match x.fence with
      | none => false
      | some (pod, (_, succ)) => pod || (k.isOwn pa && bits &&& succ ≠ 0)) ||
    x.accs.any (fun a => a.target ≠ .line) || ((un || !k.hartOrdered pa) && !x.accs.isEmpty) || k.hartBehind h pa n un ||
    (rs ≠ 0 && x.accs.any (fun a => a.rd = rs))

/-! ## Refusals and failures -/

/-- A refused access (R71, R76, R437). -/
def Chip.hartRefuse (k : Chip) (h cause : Nat) (va : U64) (pa : Nat) (recorded : Bool) : Chip :=
  let k1 := k.hartTrap h cause va
  if recorded then k1.report 1 { hartErr h 0x0A 1 with paddr := BitVec.ofNat 64 pa, vaddr := va } 1 else k1

/-- A store that cannot reach its unit is discarded (R72, R446). -/
def Chip.hartDiscard (k : Chip) (h pa st : Nat) : Chip :=
  (k.hartStoreError h).report 1 { hartErr h 4 1 with paddr := BitVec.ofNat 64 pa, status := BitVec.ofNat 8 st } 1

/-- An access stands outstanding; an older load into the same register does not write it. -/
def Chip.pushAcc (k : Chip) (h : Nat) (a : HartAcc) : Chip :=
  k.updHart h (fun x => { x with
    accs := x.accs.map (fun b => if b.rd = a.rd then { b with rd := 0 } else b) ++ [a], nextId := x.nextId + 1 })

/-! ## Loads -/

/-- The cause of a load's or fetch's access fault. -/
def ldCause (a : HartLd) : Nat := if a.fetch then causeFetch else causeLoad

/-- A load as it stands outstanding. -/
def Chip.hartAcc (k : Chip) (h : Nat) (a : HartLd) (t : HartTarget) : HartAcc :=
  { id := (k.hart h).nextId, rd := a.rd, va := a.va, pa := a.pa, bytes := 2 ^ a.size.toNat
    kind := .load a.signed a.fetch, target := t }

/-- A load of main memory of this module: it waits for its lines, or faults where they cannot be reached (R72). -/
def Chip.hartLineLoad (k : Chip) (h : Nat) (a : HartLd) : Chip :=
  let n := 2 ^ a.size.toNat
  let la := paLocal a.pa
  let held := (linesOf la n).all (fun l => (k.cline h l).st.readable)
  if !held && (k.reachMem none la ≠ stOk || k.reachMem none (la + n - 1) ≠ stOk) then
    k.hartRefuse h (ldCause a) a.va a.pa true
  else (k.pushAcc h (k.hartAcc h a .line)).drainHartAll h

/-- The status of a host-side access of `n` bytes at a local address. -/
def Chip.hostReach (k : Chip) (la n : Nat) : Nat :=
  if k.reachMem none la ≠ stOk then k.reachMem none la else k.reachMem none (la + n - 1)

/-- An uncached load of a shelf, a cluster store or main memory. -/
def Chip.hartMemLoad (k : Chip) (h : Nat) (a : HartLd) : Chip :=
  let n := 2 ^ a.size.toNat
  let la := paLocal a.pa
  if k.hostReach la n ≠ stOk then k.hartRefuse h (ldCause a) a.va a.pa true
  else
    let (k1, (bs, p)) := k.cohRead la n
    (k1.pushAcc h (k1.hartAcc h a .remote)).finishHart h (k1.hartAcc h a .remote) bs p

/-- A load of a register (R76). -/
def State.hartRegLoad (s : State) (h : Nat) (a : HartLd) : State :=
  let n := 2 ^ a.size.toNat
  match s.regCheck none (paLocal a.pa) n with
  | .ok l =>
    let v := s.regRead (.hart h) l (paLocal a.pa) n
    s.onChip (fun k => k.updHart h (fun x => x.setReg a.rd (extend n a.signed (toBytes n v.toNat))))
  | _ => s.onChip (fun k => k.hartRefuse h (ldCause a) a.va a.pa true)

/-- A load of another module (R356). -/
def Chip.hartRemoteLoad (k : Chip) (h : Nat) (a : HartLd) : Chip :=
  let b := k.hartAcc h a .remote
  let k1 := k.pushAcc h b
  k1.onFabric (fun f => f.request 2 false false b.bytes (paLocal a.pa) (BitVec.ofNat 6 (paDev a.pa)) 0 0 0 []
    (.hart h b.id) (k1.portReach none))

/-- A load of the host I/O range (R443, R447): a PCIe function answers one of its memory or configuration space, the
connection-table base is read back, and what else a block's registers read is a free value
(notes/assumptions/109.md). -/
def Chip.hartIoLoad (k : Chip) (h : Nat) (a : HartLd) : Chip :=
  let n := 2 ^ a.size.toNat
  let give (k : Chip) (bs : Bytes) : Chip := k.updHart h (fun x => x.setReg a.rd (extend n a.signed bs))
  match ioBlock (paLocal a.pa) with
  | some (.window, _) | some (.ecam, _) => k.pushAcc h (k.hartAcc h a .pcie)
  | some (.eth e, o) =>
    if o = Config.ethTableOffset && n = 8 then give k (toBytes 8 (k.ethPort e).base)
    else give (k.freshBytes n).2 (k.freshBytes n).1
  | _ => give (k.freshBytes n).2 (k.freshBytes n).1

/-- A hart load or instruction fetch (R314, R437). -/
def execHartLoad (h : Nat) (a : HartLd) (s : State) : Host.Outcome State Fault Refusal :=
  let s0 := s.onChip (fun k => k.readyHart h)
  let k := s0.chip
  let n := 2 ^ a.size.toNat
  if k.hartWaits h a.pa n a.page (loadClass a.page a.pa) 0 then .next s0
  else match k.hartSpot a.pa n a.page a.fetch false false with
    | .line => .next { s0 with chip := k.hartLineLoad h a }
    | .mem => .next { s0 with chip := k.hartMemLoad h a }
    | .reg => .next (s0.hartRegLoad h a)
    | .remote => .next { s0 with chip := k.hartRemoteLoad h a }
    | .io => .next { s0 with chip := k.hartIoLoad h a }
    | .refused r => .next { s0 with chip := k.hartRefuse h (ldCause a) a.va a.pa r }

/-! ## Stores -/

/-- A run of bytes cut where it crosses a line. -/
def splitLine (pa : Nat) (bs : Bytes) : List (Nat × Bytes) :=
  let room := 128 - pa % 128
  if bs.length ≤ room then [(pa, bs)] else [(pa, bs.take room), (pa + room, bs.drop room)]

/-- A store into the store buffer of a hart. -/
def Chip.pushHartStore (k : Chip) (h pa : Nat) (bs : Bytes) (sent : Bool) : Chip :=
  k.updHart h (fun x => { x with
    stores := x.stores ++ [({ id := x.nextId, pa := pa, data := bs, sent := sent } : HartStore)]
    nextId := x.nextId + 1 })

/-- A store to main memory of this module, line by line: discarded where its home cannot be reached (R72). -/
def Chip.hartLineStore (k : Chip) (h pa : Nat) (bs : Bytes) : Chip :=
  ((splitLine pa bs).foldl (fun k x =>
    let st := k.reachMem none (paLocal x.1)
    if st ≠ stOk && !(k.cline h (lineOf (paLocal x.1))).st.writable then k.hartDiscard h x.1 st
    else k.pushHartStore h x.1 x.2 false) k).drainHartAll h

/-- An uncached store to a shelf, a cluster store or main memory. -/
def Chip.hartMemStore (k : Chip) (h pa : Nat) (bs : Bytes) : Chip :=
  let la := paLocal pa
  let st := k.hostReach la bs.length
  if st ≠ stOk then k.hartDiscard h pa st
  else (k.cohWrite la bs false).spoilZones none la bs.length

/-- A store to a register (R76). -/
def State.hartRegStore (s : State) (h : Nat) (va : U64) (pa : Nat) (bs : Bytes) : State :=
  match s.regCheck none (paLocal pa) bs.length with
  | .ok l => s.regWrite (.hart h) l bs.length (BitVec.ofNat 64 (ofBytes bs))
  | .lost => s.onChip (fun k => k.hartDiscard h pa stLinkLost)
  | _ => s.onChip (fun k => k.hartRefuse h causeStore va pa true)

/-- A store to another module (R356). -/
def Chip.hartRemoteStore (k : Chip) (h pa : Nat) (bs : Bytes) : Chip :=
  let id := (k.hart h).nextId
  let k1 := k.pushHartStore h pa bs true
  k1.onFabric (fun f => f.request 1 false false bs.length (paLocal pa) (BitVec.ofNat 6 (paDev pa)) 0 0 0 bs
    (.hartStore h id) (k1.portReach none))

/-- A store to the host I/O range (R443, R447): a posted write into a PCIe memory window, an MSI in an interrupt file,
the connection-table base of an Ethernet port, or a write that a block's registers take
(notes/assumptions/109.md). -/
def Chip.hartIoStore (k : Chip) (pa : Nat) (bs : Bytes) : Chip :=
  let la := paLocal pa
  let taken : Chip := { k with io := { k.io with blockWrites := k.io.blockWrites ++ [(la, bs)] } }
  match ioBlock la with
  | some (.window, _) => { k with io := { k.io with posted := k.io.posted ++ [(la, bs)] } }
  | some (.file _, _) => { k with io := { k.io with msis := k.io.msis ++ [(la, BitVec.ofNat 64 (ofBytes bs))] } }
  | some (.eth e, o) =>
    if o = Config.ethTableOffset && bs.length = 8 then k.updEth e (fun p => { p with base := ofBytes bs }) else taken
  | _ => taken

/-- A store of bytes (R314, R437). -/
def State.hartStore (s : State) (h : Nat) (va : U64) (pa : Nat) (page : PageType) (bs : Bytes) :
    Host.Outcome State Fault Refusal :=
  let k := s.chip
  match k.hartSpot pa bs.length page false false false with
  | .line => .next { s with chip := k.hartLineStore h pa bs }
  | .mem => .next { s with chip := k.hartMemStore h pa bs }
  | .reg => .next (s.hartRegStore h va pa bs)
  | .remote => .next { s with chip := k.hartRemoteStore h pa bs }
  | .io => .next { s with chip := k.hartIoStore pa bs }
  | .refused r => .next { s with chip := k.hartRefuse h causeStore va pa r }

/-- A hart store. -/
def execHartStore (h : Nat) (a : HartSt) (s : State) : Host.Outcome State Fault Refusal :=
  let s0 := s.onChip (fun k => k.readyHart h)
  if s0.chip.hartWaits h a.pa (2 ^ a.size.toNat) a.page (storeClass a.page a.pa) a.rs then .next s0
  else s0.hartStore h a.va a.pa a.page (toBytes (2 ^ a.size.toNat) ((s0.chip.hart h).reg a.rs).toNat)

/-- `CBO.ZERO` (R438): 64 zero bytes as a store. -/
def execCboZero (h pa : Nat) (va : U64) (s : State) : Host.Outcome State Fault Refusal :=
  let s0 := s.onChip (fun k => k.readyHart h)
  if s0.chip.hartWaits h (pa / 64 * 64) 64 .pma (storeClass .pma pa) 0 then .next s0
  else s0.hartStore h va (pa / 64 * 64) .pma (List.replicate 64 0)

/-! ## Atomics -/

/-- The operation of an `ATOMIC` packet that a hart AMO is (14_fabric_and_pods.md R419): the packet has no other
(notes/assumptions/76.md). -/
def remoteAmo (a : HartAmoF) : Option AmoOp :=
  if !a.dword then none
  else match a.op with
    | .add => some .add
    | .swap => some .swap
    | _ => none

/-- The cause of an atomic's access fault. -/
def amoCause (a : HartAmoF) : Nat := if a.op = .lr then causeLoad else causeStore

/-- An atomic as it stands outstanding. -/
def Chip.hartAmoAcc (k : Chip) (h : Nat) (a : HartAmoF) (t : HartTarget) : HartAcc :=
  { id := (k.hart h).nextId, rd := a.rd, va := a.va, pa := a.pa, bytes := if a.dword then 8 else 4
    kind := .amo a.op ((k.hart h).reg a.rs), target := t }

/-- An atomic in the L2 (R354): it waits for its line in M, an LR for it in any readable state. -/
def Chip.hartLineAmo (k : Chip) (h : Nat) (a : HartAmoF) : Chip :=
  let st := (k.cline h (lineOf (paLocal a.pa))).st
  let held : Bool := if a.op = .lr then st.readable else st.writable
  if !held && k.reachMem none (paLocal a.pa) ≠ stOk then
    k.hartRefuse h (amoCause a) a.va a.pa true
  else (k.pushAcc h (k.hartAmoAcc h a .line)).drainHartAll h

/-- An uncached AMO of main memory, made at its home (R437). -/
def Chip.hartMemAmo (k : Chip) (h : Nat) (a : HartAmoF) : Chip :=
  let b := k.hartAmoAcc h a .remote
  let la := paLocal a.pa
  if k.hostReach la b.bytes ≠ stOk then k.hartRefuse h (amoCause a) a.va a.pa true
  else
    let (k1, (bs, p)) := k.cohRead la b.bytes
    let new := toBytes b.bytes (hartAmoResult a.op b.bytes (ofBytes bs) ((k.hart h).reg a.rs).toNat)
    ((if p then k1 else k1.cohWrite la new false).pushAcc h b).finishHart h b bs p

/-- An atomic at the home of another module (R356). -/
def Chip.hartRemoteAmo (k : Chip) (h : Nat) (a : HartAmoF) : Chip :=
  match remoteAmo a with
  | none => k.hartRefuse h (amoCause a) a.va a.pa false
  | some op =>
    let b := k.hartAmoAcc h a .remote
    let k1 := k.pushAcc h b
    k1.onFabric (fun f => f.request 5 false false 16 (paLocal a.pa) (BitVec.ofNat 6 (paDev a.pa)) 0 0
      (amoCode op) (toBytes 8 ((k.hart h).reg a.rs).toNat ++ toBytes 8 0) (.hart h b.id)
      (k1.portReach none))

/-- An atomic to register space breaks the size and alignment rules, or meets no block: a record is written (R71,
R76). -/
def State.amoRecorded (s : State) (a : HartAmoF) : Bool :=
  match s.regCheck none (paLocal a.pa) (if a.dword then 8 else 4) with
  | .ok _ | .lost => false
  | .nothing | .misaligned => true

/-- A hart AMO, LR or SC (R437). -/
def execHartAmo (h : Nat) (a : HartAmoF) (s : State) : Host.Outcome State Fault Refusal :=
  let s0 := s.onChip (fun k => k.readyHart h)
  let k := s0.chip
  let lrsc : Bool := a.op = .lr || a.op = .sc
  .next (
    if k.hartWaits h a.pa (if a.dword then 8 else 4) a.page (if a.page = .io then 12 else 3) a.rs then s0
    else match k.hartSpot a.pa (if a.dword then 8 else 4) a.page false true lrsc with
      | .line => { s0 with chip := k.hartLineAmo h a }
      | .mem => { s0 with chip := k.hartMemAmo h a }
      | .remote => { s0 with chip := k.hartRemoteAmo h a }
      | .refused r => { s0 with chip := k.hartRefuse h (amoCause a) a.va a.pa r }
      | .reg => { s0 with chip := k.hartRefuse h (amoCause a) a.va a.pa (s0.amoRecorded a) }
      | _ => { s0 with chip := k.hartRefuse h (amoCause a) a.va a.pa false })

/-! ## Fences and cache management (R438, R439) -/

/-- A fence is begun; a hart has one at a time. -/
def Chip.beginHartFence (k : Chip) (h : Nat) (pod : Bool) (pred succ : BitVec 4) : Chip :=
  let k0 := k.readyHart h
  if !(k0.hart h).running || (k0.hart h).stopped || (k0.hart h).fence.isSome then k0
  else (k0.updHart h (fun x => { x with fence := some (pod, (pred, succ)) })).endHartFence h

/-- `FENCE` (R320). -/
def execHartFence (h : Nat) (pred succ : BitVec 4) (s : State) : Host.Outcome State Fault Refusal :=
  .next (s.onChip (fun k => k.beginHartFence h false pred succ))

/-- `FENCE.POD` (R320, R439). -/
def execFencePod (h : Nat) (s : State) : Host.Outcome State Fault Refusal :=
  .next (s.onChip (fun k => k.beginHartFence h true 0xF 0xF))

/-- A clean of a line of an L2: dirty data goes home and the line stays (R438; 11_coherence.md R362). -/
def Chip.cleanL2 (k : Chip) (h line : Nat) : Chip :=
  let e := k.cline h line
  if e.st = .m then
    (k.updLine h line (fun e => { e with st := .miA, keep := true })).send
      { mkDataMsg .putM h (k.homeOf line) line e.data e.poison with keep := true }
  else k

/-- A cache-management instruction on a line: it waits for the hart's earlier accesses to the line, and has no
effect on a line that is never cached (R438). -/
def Chip.cboLine (k : Chip) (h pa : Nat) (f : Chip → Nat → Chip) : Chip :=
  let k0 := k.readyHart h
  let line := lineOf (paLocal pa)
  let busy := (k0.hart h).stores.any (fun s => lineOf (paLocal s.pa) = line) ||
    (k0.hart h).accs.any (fun a => (linesOf (paLocal a.pa) a.bytes).contains line)
  if k0.hartWaits h pa 1 .pma 3 0 || busy || !k0.hartOrdered pa then k0 else f k0 line

/-- `CBO.CLEAN` (R438). -/
def execCboClean (h pa : Nat) (_va : U64) (s : State) : Host.Outcome State Fault Refusal :=
  .next (s.onChip (fun k => k.cboLine h pa (fun k l => k.cleanL2 h l)))

/-- `CBO.FLUSH` (R438). -/
def execCboFlush (h pa : Nat) (_va : U64) (s : State) : Host.Outcome State Fault Refusal :=
  .next (s.onChip (fun k => k.cboLine h pa (fun k l => (k.evict h l).dropReservation h l)))

/-- Illegal instruction (PRESUMED RISC-V, notes/assumptions/13.md). -/
def causeIllegal : Nat := 2

/-- `CBO.INVAL` (R438): a flush, where `CBIE` allows the instruction. -/
def execCboInval (h pa : Nat) (_va : U64) (cbie : Bool) (s : State) : Host.Outcome State Fault Refusal :=
  .next (s.onChip (fun k =>
    if cbie then k.cboLine h pa (fun k l => (k.evict h l).dropReservation h l)
    else
      let k0 := k.readyHart h
      if k0.hartWaits h pa 1 .pma 3 0 then k0 else k0.hartTrap h causeIllegal 0))

end Sys2Proof.Machine
end

