-- ==== Sys2Proof/Machine/HostIo.lean ====
section
/-! DEFINITION. The commands of PCIe, Ethernet and the interrupt controllers (15_host_die.md R444-R452;
10_memory_ordering.md R330, R331; 08_movers_and_run_ahead.md R267). -/

namespace Sys2Proof.Machine

/-! ## Interrupt sources (R445) -/

/-- The level of APLIC source `n`; the edges of sources 12 and 13 are in `HostIo.edges`. The notifiers of an
orphaned quadrant are not delivered (19_reset_and_ras.md R530). -/
def Chip.aplicLevel (k : Chip) (n : Nat) : Bool :=
  if n = 1 then (List.range 8).any (fun b => (k.box b).irq && (k.box b).prod ≠ (k.box b).cons)
  else if n = 2 then !k.mgmt.bank.isEmpty
  else if 4 ≤ n && n < 8 then
    (quadClusters (n - 4)).any (fun c => (k.cluster c).stFailed || (k.cluster c).raddFail)
  else if 8 ≤ n && n < 12 then
    (k.quad (n - 8)).queues.any (fun e => e.2.stale || e.2.overrun || e.2.ringErr)
  else if 32 ≤ n && n < 40 then tblGet false k.io.intx (n - 32)
  else if 256 ≤ n && n < 512 then
    let d := k.quad ((n - 256) / 64)
    !d.orphaned && (tblGet Notifier.reset d.notifiers ((n - 256) % 64)).fired
  else false

/-- A change of an INTx pin (R445). -/
def execIntxPinChange (p i : Nat) (level : Bool) (s : State) : Host.Outcome State Fault Refusal :=
  .next (s.onChip (fun k => { k with io := { k.io with intx := tblPut false k.io.intx (4 * p + i) level } }))

/-! ## Requests of devices (R448, R449) -/

/-- Completion statuses of a PCIe read (PRESUMED PCI Express, notes/assumptions/78.md). -/
def cplOk : Nat := 0
def cplUr : Nat := 1
def cplAbort : Nat := 4

/-- What R449 makes of a request by its translated address. -/
inductive DevSpot where
  | memory
  | unreachable
  | msi
  | refused
  deriving DecidableEq, Repr

/-- The target of a request of `n` bytes. -/
def Chip.devSpot (k : Chip) (pa n : Nat) : DevSpot :=
  let la := paLocal pa
  if !k.isOwn pa then .refused
  else if cacheable la then
    if !(k.populated la && k.populated (la + n - 1)) then .refused
    else if k.reachMem none la = stOk && k.reachMem none (la + n - 1) = stOk then .memory
    else .unreachable
  else if k.isMsiFile la && n = 4 && la % 4 = 0 then .msi
  else .refused

/-- The record of a refused request of a device: class 0x09 for a PCIe function, with its requester ID, and
class 0x0A for an Ethernet engine (19_reset_and_ras.md R537; notes/assumptions/78.md). -/
def devErr (req : Option (BitVec 16)) (addr : U64) (pa : Option Nat) : ErrInfo :=
  let e : ErrInfo := { ErrInfo.none with
    cls := 0x0A, agent := 14, paddr := BitVec.ofNat 64 (pa.getD 0), vaddr := addr }
  match req with
  | some r => { e with cls := 9, detail := r.setWidth 64 }
  | none => e

/-- A write of a device under R449, and whether it was refused. -/
def Chip.devWrite (k : Chip) (dev : Nat) (pasid : BitVec 20) (addr : U64) (bs : Bytes) (ep : Bool)
    (req : Option (BitVec 16)) : Chip × Bool :=
  match Config.iommu dev pasid addr true with
  | none => (k.report 1 (devErr req addr none) 1, true)
  | some pa =>
    match k.devSpot pa bs.length with
    | .memory => (k.cohWrite (paLocal pa) bs ep, false)
    | .msi => ({ k with io := { k.io with
        msis := k.io.msis ++ [(paLocal pa, BitVec.ofNat 64 (ofBytes bs))] } }, false)
    | _ => (k.report 1 (devErr req addr (some pa)) 1, true)

/-- A read of a device under R449: completion status, data and poison. -/
def Chip.devRead (k : Chip) (dev : Nat) (pasid : BitVec 20) (addr : U64) (n : Nat) (req : Option (BitVec 16)) :
    Chip × (Nat × (Bytes × Bool)) :=
  match Config.iommu dev pasid addr false with
  | none => (k.report 1 (devErr req addr none) 1, (cplUr, ([], false)))
  | some pa =>
    match k.devSpot pa n with
    | .memory =>
      let (k1, (bs, p)) := k.cohRead (paLocal pa) n
      (if p then k1.report 1 { devErr req addr (some pa) with cls := 3 } 1 else k1, (cplOk, (bs, p)))
    | .unreachable => (k.report 1 (devErr req addr (some pa)) 1, (cplAbort, ([], false)))
    | _ => (k.report 1 (devErr req addr (some pa)) 1, (cplUr, ([], false)))

/-! ## PCIe (R330, R447-R449) -/

/-- Device ID of a PCIe requester (R448). -/
def pcieDev (f : PcieReq) : Nat := f.port * 65536 + f.requester.toNat

/-- An inbound PCIe write. Writes and MSIs become visible as they arrive, which every rule of R330 allows. -/
def execPcieWrite (f : PcieReq) (data : Bytes) (_ro ep : Bool) (s : State) : Host.Outcome State Fault Refusal :=
  .next (s.onChip (fun k => (k.devWrite (pcieDev f) f.pasid f.addr data ep (some f.requester)).1))

/-- An inbound PCIe read; a completion with EP set has status bit 8 set. -/
def execPcieRead (f : PcieReq) (len : Nat) (s : State) : Host.Outcome State Fault Refusal :=
  .next (s.onChip (fun k =>
    let (k1, (st, (bs, p))) := k.devRead (pcieDev f) f.pasid f.addr len (some f.requester)
    { k1 with io := { k1.io with
        completions := k1.io.completions ++ [(f.requester, (st + 256 * boolNat p, bs))] } }))

/-- A load of a hart that a PCIe function does not serve: a precise access fault and a record (R447). -/
def Chip.pcieFailed (k : Chip) (h : Nat) (a : HartAcc) : Chip :=
  ((k.updHart h (·.squash a.id)).hartTrap h causeLoad a.va).report 1
    { hartErr h 9 1 with agent := 14, paddr := BitVec.ofNat 64 a.pa, vaddr := a.va } 1

/-- The load of a hart that waits for a PCIe function. -/
def Hart.pcieAcc (x : Hart) : Option HartAcc := x.accs.find? (fun a => a.target = .pcie)

/-- No completion came by the timeout (R447). -/
def execPcieCompletionTimeout (h : Nat) (s : State) : Host.Outcome State Fault Refusal :=
  .next (s.onChip (fun k => match (k.hart h).pcieAcc with
    | some a => k.pcieFailed h a
    | none => k))

/-- The completion of a hart load into a PCIe window: data, or an error status. -/
def execPcieCompletion (h : Nat) (data : U64) (ok : Bool) (s : State) : Host.Outcome State Fault Refusal :=
  .next (s.onChip (fun k => match (k.hart h).pcieAcc with
    | some a => if ok then k.finishHart h a (toBytes a.bytes data.toNat) false else k.pcieFailed h a
    | none => k))

/-! ## Ethernet (R331, R445, R452; 08_movers_and_run_ahead.md R267) -/

/-- Device ID of the engine of an Ethernet port (R448). -/
def ethDev (e : Nat) : Nat := 0x20000 + e

/-- Local address of the context of a connection (R452). -/
def Chip.connAddr (k : Chip) (port qpn : Nat) : Nat := paLocal ((k.ethPort port).base + 256 * qpn)

/-- `QPSTATE` of a connection. -/
def Chip.qpState (k : Chip) (port qpn : Nat) : Nat := bitsOf (ofBytes (k.cohRead (k.connAddr port qpn) 1).2.1) 0 3

/-- An outstanding RDMA write ends with a status (R267). -/
def Chip.rdmaEnd (k : Chip) (r : RdmaOut) (st : Nat) : Chip :=
  let k1 := { k with io := { k.io with rdma := k.io.rdma.filter (fun x => x.id ≠ r.id) } }
  match (k1.cluster r.cluster).cmd r.mover r.cmd with
  | none => k1
  | some d =>
    (if st = stOk then k1.updCmd r.cluster r.mover r.cmd (·.updSeg r.seg (·.endSent .done))
     else k1.segFailed r.cluster r.mover d r.seg st).afterPiece r.cluster r.mover r.cmd

/-- The outstanding writes that meet a test end with `LINK_LOST`. -/
def Chip.rdmaLost (k : Chip) (p : RdmaOut → Bool) : Chip :=
  (k.io.rdma.filter p).foldl (fun k r => k.rdmaEnd r stLinkLost) k

/-- The port and connection of an endpoint (R451). -/
def epPort (ep : BitVec 16) : Nat := bitsOf ep.toNat 15 1
def epQpn (ep : BitVec 16) : Nat := bitsOf ep.toNat 0 15

/-- A connection moves to ERR and so leaves RTS (R452). -/
def Chip.qpError (k : Chip) (port qpn : Nat) : Chip :=
  let a := k.connAddr port qpn
  let (k1, (bs, _)) := k.cohRead a 1
  let b := BitVec.ofNat 8 (ofBytes bs / 8 * 8 + 5)
  (if k1.reachMem none a = stOk then k1.cohWrite a [b] false else k1).rdmaLost (fun r =>
    epPort r.endpoint = port && epQpn r.endpoint = qpn)

/-- A port accepts frames of up to 9,600 bytes, tagged or not (R450). -/
def frameAccepted (f : EthFrame) : Bool := f.bytes ≤ 9600

/-- The engine takes requests of a connection: its link is up, their frames are accepted and the connection is in RTR,
RTS or SQD (PRESUMED verbs, notes/assumptions/79.md). -/
def Chip.rdmaOpen (k : Chip) (r : RdmaReq) : Bool :=
  (k.ethPort r.port).up && frameAccepted r.frame && decide (2 ≤ k.qpState r.port r.qpn.toNat) &&
    decide (k.qpState r.port r.qpn.toNat ≤ 4)

/-- An answer sent on a connection: data, or a remote-access-error NAK. -/
def Chip.rdmaAnswer (k : Chip) (r : RdmaReq) (x : Option Bytes) : Chip :=
  { k with io := { k.io with rdmaAnswers := k.io.rdmaAnswers ++ [(r.port, (r.qpn.toNat, x))] } }

/-- A refused inbound request: a NAK, and the connection moves to ERR (R452). -/
def Chip.rdmaRefuse (k : Chip) (r : RdmaReq) : Chip := (k.rdmaAnswer r none).qpError r.port r.qpn.toNat

/-- The data of an RDMA write, page by page. -/
def Chip.rdmaWritePages (k : Chip) (r : RdmaReq) : Bytes → List (Nat × Nat) → Chip × Bool
  | _, [] => (k, false)
  | bs, (a, n) :: rest =>
    let (k1, bad) := k.devWrite (ethDev r.port) r.pasid (BitVec.ofNat 64 a) (bs.take n) false none
    if bad then (k1, true) else k1.rdmaWritePages r (bs.drop n) rest

/-- An incoming RDMA write: its data is visible before it is acknowledged (R331). -/
def execRdmaWriteReceive (r : RdmaReq) (data : Bytes) (s : State) : Host.Outcome State Fault Refusal :=
  .next (s.onChip (fun k =>
    if !k.rdmaOpen r then k
    else
      let (k1, bad) := k.rdmaWritePages r data (cuts 4096 (data.length + 1) r.addr.toNat data.length)
      if bad then k1.rdmaRefuse r else k1.rdmaAnswer r (some [])))

/-- The data of an RDMA read, page by page: none where it is refused or poisoned. -/
def Chip.rdmaReadPages (k : Chip) (r : RdmaReq) : List (Nat × Nat) → Chip × Option Bytes
  | [] => (k, some [])
  | (a, n) :: rest =>
    let (k1, (st, (bs, p))) := k.devRead (ethDev r.port) r.pasid (BitVec.ofNat 64 a) n none
    if st ≠ cplOk || p then (k1, none)
    else
      let (k2, more) := k1.rdmaReadPages r rest
      (k2, more.map (bs ++ ·))

/-- An incoming RDMA read (R452). -/
def execRdmaReadReceive (r : RdmaReq) (len : Nat) (s : State) : Host.Outcome State Fault Refusal :=
  .next (s.onChip (fun k =>
    if !k.rdmaOpen r then k
    else match k.rdmaReadPages r (cuts 4096 (len + 1) r.addr.toNat len) with
      | (k1, some bs) => k1.rdmaAnswer r (some bs)
      | (k1, none) => k1.rdmaRefuse r))

/-- The status of an outstanding RDMA write whose acknowledgement came, or did not come in time: a connection
that has left RTS gives `LINK_LOST` (R452). -/
def Chip.rdmaStatus (k : Chip) (r : RdmaOut) (st : Nat) : Nat :=
  if k.qpState (epPort r.endpoint) (epQpn r.endpoint) = 3 then st else stLinkLost

/-- An RDMA write of a mover command is acknowledged (R267). -/
def execRdmaAckReceive (id : Nat) (s : State) : Host.Outcome State Fault Refusal :=
  .next (s.onChip (fun k => match k.io.rdma.find? (fun r => r.id = id) with
    | some r => k.rdmaEnd r (k.rdmaStatus r stOk)
    | none => k))

/-- An RDMA write of a mover command stays unacknowledged (R267). -/
def execRdmaWriteTimeout (id : Nat) (s : State) : Host.Outcome State Fault Refusal :=
  .next (s.onChip (fun k => match k.io.rdma.find? (fun r => r.id = id) with
    | some r => k.rdmaEnd r (k.rdmaStatus r stTimeout)
    | none => k))

/-- The link of an Ethernet port changes: an edge of source `12 + e` (R445), and a port that goes down loses
the writes in flight on it (R267). -/
def execEthLinkChange (e : Nat) (up : Bool) (s : State) : Host.Outcome State Fault Refusal :=
  .next (s.onChip (fun k =>
    if (k.ethPort e).up = up then k
    else
      let k0 := k.updEth e (fun p => { p with up := up })
      let k1 := { k0 with io := { k0.io with edges := k0.io.edges ++ [12 + e] } }
      if up then k1 else k1.rdmaLost (fun r => epPort r.endpoint = e)))

end Sys2Proof.Machine
end

