-- ==== Sys2Proof/Machine/LineCache.lean ====
section
/-! DEFINITION. The line-cache group of the scalar slot (04_iluchezia_bundles.md R136; 11_coherence.md R360-R362). -/

namespace Sys2Proof.Machine

/-- `LC.CLEAN` (R136, R361): writes a modified line back and keeps it. -/
def execLcClean (c : Nat) (rd rs1 : SReg) (s : State) : Host.Outcome State Fault Refusal :=
  s.scalarSlot c (.lc .clean rd rs1)

/-- `LC.INVAL` (R136, R361): drops a line and its data. -/
def execLcInval (c : Nat) (rd rs1 : SReg) (s : State) : Host.Outcome State Fault Refusal :=
  s.scalarSlot c (.lc .inval rd rs1)

/-- `LC.FLUSH` (R136, R361): writes a modified line back and drops it. -/
def execLcFlush (c : Nat) (rd rs1 : SReg) (s : State) : Host.Outcome State Fault Refusal :=
  s.scalarSlot c (.lc .flush rd rs1)

/-- `LC.CLEANW` (R136, R361): `LC.CLEAN` on a way. -/
def execLcCleanw (c : Nat) (rd rs1 : SReg) (s : State) : Host.Outcome State Fault Refusal :=
  s.scalarSlot c (.lc .cleanw rd rs1)

/-- `LC.INVALW` (R136, R361): `LC.INVAL` on a way. -/
def execLcInvalw (c : Nat) (rd rs1 : SReg) (s : State) : Host.Outcome State Fault Refusal :=
  s.scalarSlot c (.lc .invalw rd rs1)

/-- `LC.FLUSHW` (R136, R361): `LC.FLUSH` on a way. -/
def execLcFlushw (c : Nat) (rd rs1 : SReg) (s : State) : Host.Outcome State Fault Refusal :=
  s.scalarSlot c (.lc .flushw rd rs1)

/-- `LC.LOCK` (R136, R360): brings a line in and locks it. -/
def execLcLock (c : Nat) (rd rs1 : SReg) (s : State) : Host.Outcome State Fault Refusal :=
  s.scalarSlot c (.lc .lock rd rs1)

/-- `LC.UNLOCK` (R136, R360): unlocks a line. -/
def execLcUnlock (c : Nat) (rd rs1 : SReg) (s : State) : Host.Outcome State Fault Refusal :=
  s.scalarSlot c (.lc .unlock rd rs1)

end Sys2Proof.Machine
end

