-- ==== Sys2Proof/Machine/Matrix.lean ====
section
/-! DEFINITION. The matrix slot (04_iluchezia_bundles.md R144-R150; 05_matrix_units.md). -/

namespace Sys2Proof.Machine

/-- A matrix instruction issues. -/
def State.matrixSlot (s : State) (c : Nat) (m : Matrix) : Host.Outcome State Fault Refusal :=
  s.slot c { nopBundle with matrix := some m }

/-- `MMA` (R147; 05_matrix_units.md R175). -/
def execMma (c : Nat) (f : MmaF) (s : State) : Host.Outcome State Fault Refusal :=
  s.matrixSlot c (.mma false f)

/-- `MMAC` (R147; 05_matrix_units.md R184). -/
def execMmac (c : Nat) (f : MmaF) (s : State) : Host.Outcome State Fault Refusal :=
  s.matrixSlot c (.mma true f)

/-- `ZDRAIN` (R149; 05_matrix_units.md R186). -/
def execZdrain (c : Nat) (f : ZdrainF) (s : State) : Host.Outcome State Fault Refusal :=
  s.matrixSlot c (.zdrain f)

/-- `ZLOAD` (R149; 05_matrix_units.md R193). -/
def execZload (c : Nat) (f : ZloadF) (s : State) : Host.Outcome State Fault Refusal :=
  s.matrixSlot c (.zload f)

/-- `MCFG` (R149, R150). -/
def execMcfg (c : Nat) (f : McfgF) (s : State) : Host.Outcome State Fault Refusal :=
  s.matrixSlot c (.mcfg f)

end Sys2Proof.Machine
end

