-- ==== Sys2Proof/Machine/Ras.lean ====
section
/-! DEFINITION. Errors that the detectors report (19_reset_and_ras.md R532, R533, R535, R540, R541). An operand
gives the record's fields; `STRUCT` numbers the rows of R532 from 1. -/

namespace Sys2Proof.Machine

/-! ## Repair candidates (R541) -/

/-- The row of an HBM address: its stack, its pseudo-channel (13_tiers_and_flash.md R392), and a run of 1 KiB of
that pseudo-channel (notes/assumptions/83.md). -/
def Chip.rowOf (k : Chip) (la : Nat) : Option (Nat × (Nat × Nat)) :=
  (hbmSpot k.hbmPkg la).map (fun x => (x.1, ((pseudoChannel x.2).1, (pseudoChannel x.2).2 / 1024)))

/-- Two HBM addresses lie in one row. -/
def Chip.sameRow (k : Chip) (a b : Nat) : Bool := k.rowOf a = k.rowOf b

/-- Twenty-four hours of REFCLK. -/
def refclkDay : Nat := 86400 * refclkSecond

/-- A row becomes a repair candidate, and is counted as awaiting repair. -/
def Chip.repairRow (k : Chip) (la : Nat) : Chip :=
  if areaOf la ≠ .hbm || k.mgmt.repairs.any (k.sameRow la) then k
  else
    let k1 := k.onMgmt (fun m => { m with
      repairs := m.repairs ++ [la], rowErrors := m.rowErrors.filter (fun p => !k.sameRow la p.1) })
    match k1.ownerQuad la with
    | some q => k1.updQuad q (fun d => { d with pprPend := satAdd d.pprPend 1 })
    | none => k1

/-- A corrected error counted against its row: the sixteenth within 24 hours makes it a candidate. -/
def Chip.rowError (k : Chip) (la : Nat) : Chip :=
  if areaOf la ≠ .hbm || k.mgmt.repairs.any (k.sameRow la) then k
  else
    let now := k.mgmt.now
    let kept := k.mgmt.rowErrors.filter (fun p => decide (now < p.2 + refclkDay))
    let k1 := k.onMgmt (fun m => { m with rowErrors := kept ++ [(la, now)] })
    if 15 ≤ (kept.filter (fun p => k.sameRow la p.1)).length then k1.repairRow la else k1

/-! ## Corrected errors (R532, R540) -/

/-- The codes of R532's rows for HBM and LPDDR, and for paths whose corrected errors write no record. -/
def strHbm : BitVec 8 := 7
def strLpddr : BitVec 8 := 8
def strLink : BitVec 8 := 9
def strFlash : BitVec 8 := 10

/-- `ERR_QCE` counts a corrected error of a quadrant. -/
def Chip.countCe (k : Chip) (e : ErrInfo) : Chip :=
  if 4 ≤ e.quad.toNat then k
  else k.updQuad e.quad.toNat (fun d =>
    if e.struct = strHbm then { d with hbmCe := satAdd d.hbmCe 1 } else { d with sramCe := satAdd d.sramCe 1 })

/-- A corrected error: counted and recorded, but on the hinges, the fabric and the flash tier. -/
def Chip.correctedAt (k : Chip) (e : ErrInfo) : Chip :=
  if e.struct = strLink || e.struct = strFlash then k
  else
    let k1 := (k.countCe e).onMgmt (·.corrected { e with cls := 1, level := 0 })
    if e.struct = strHbm then k1.rowError (paLocal e.paddr.toNat) else k1

def execCorrectedError (e : ErrInfo) (s : State) : Host.Outcome State Fault Refusal :=
  .next (s.onChip (fun k => k.correctedAt e))

/-! ## Uncorrectable errors (R532, R535) -/

/-- `UE` of a quadrant counts an uncorrectable error. -/
def Chip.countUe (k : Chip) (e : ErrInfo) : Chip :=
  if 4 ≤ e.quad.toNat then k else k.updQuad e.quad.toNat (fun d => { d with ue := satAdd d.ue 1 })

/-- The record of an uncorrectable error (class 0x02). -/
def Chip.ueRecord (k : Chip) (sev level : Nat) (e : ErrInfo) : Chip :=
  (k.countUe e).report sev { e with cls := 2, level := BitVec.ofNat 8 level } 1

/-- A line of memory poisoned (11_coherence.md R357). -/
def Chip.poisonAt (k : Chip) (la : Nat) : Chip := if k.populated la then k.setPoison (lineOf la) true else k

/-- The caching agent whose data a report is about: a hart, or a cluster's line cache. -/
def errAgent (e : ErrInfo) : Nat := if e.agent = 13 then e.hart.toNat else 64 + e.cluster.toNat

/-- Cache data uncorrectable: a dirty line is poisoned, a clean one refetched (R532). -/
def Chip.cacheData (k : Chip) (e : ErrInfo) : Chip :=
  let a := errAgent e
  let line := lineOf (paLocal e.paddr.toNat)
  let st := (k.cline a line).st
  if st = .m || st = .miA then k.updLine a line (fun x => { x with poison := true }) else k

/-- A corrupt hasp (R532): it wakes its waiters and fires its notifiers. -/
def Chip.corruptHasp (k : Chip) (q i : Nat) : Chip :=
  if !k.quadPresent q then k else
  let k1 := k.updQuad q (fun d => { d with
    hasps := tblPut Hasp.reset d.hasps i { count := BitVec.allOnes 48, err := true, sat := true } }.evalHasp i)
  k1.wakeWaits (BitVec.ofNat 14 (q * 4096 + i)) (BitVec.allOnes 48)

/-- A cached range of the reported space that holds the reported address. -/
def errHits (e : ErrInfo) (r : CachedRange) : Bool :=
  r.space = e.space.toNat && (findRange [r] r.space e.vaddr).isSome

/-- An entry of a range cache or of the loop predictor dropped (R532): of the cluster reported, or of the quadrant's
range cache where no cluster is. -/
def Chip.dropEntry (k : Chip) (e : ErrInfo) : Chip :=
  if k.clusterPresent e.cluster.toNat then
    k.updCluster e.cluster.toNat (fun x => { x with
      ranges := x.ranges.filter (fun r => !errHits e r)
      preds := x.preds.filter (fun p => p.pc ≠ e.vaddr) })
  else if e.quad.toNat < 4 then
    k.updQuad e.quad.toNat (fun d => { d with l2 := d.l2.map (fun x => (x.1, x.2.filter (fun r => !errHits e r))) })
  else k

/-- A tag, directory, tracker or mesh error: the hart stops, or the quadrant or the package is contained (R535). -/
def State.controlError (s : State) (e : ErrInfo) : State :=
  if e.agent = 13 then
    s.onChip (fun k =>
      (if e.hart.toNat < 64 then k.updHart e.hart.toNat (fun x => { x with stopped := true }) else k).ueRecord 2 0 e)
  else if e.quad.toNat < 4 then
    (s.onChip (fun k => k.ueRecord 2 3 e)).makeUnusable e.quad.toNat
  else (s.onChip (fun k => k.ueRecord 2 4 e)).packageError

/-- An uncorrectable FEC codeword of a fabric port, which the report names in byte 1 of its detail, is counted in
`FEC_UNCORR` (14_fabric_and_pods.md R434; notes/assumptions/92.md). -/
def Chip.fecUncorrectable (k : Chip) (e : ErrInfo) : Chip :=
  let n := e.detail.toNat / 256 % 256
  if e.agent = 15 && k.fabPresent n then
    k.onFabric (fun f => f.updPort n (fun p => { p with fecUncorr := satAdd p.fecUncorr 1 }))
  else k

/-- An uncorrectable error contained at its level. What else follows on the hinges, the fabric and the flash tier are
those paths' own commands. -/
def State.uncorrectableAt (s : State) (e : ErrInfo) : State :=
  let la := paLocal e.paddr.toNat
  match e.struct.toNat with
  | 1 => s.onChip (fun k => (k.cacheData e).ueRecord 1 0 e)
  | 2 => s.onChip (fun k => (k.poisonAt la).ueRecord 1 0 e)
  | 3 => s.onChip (fun k =>
      (if k.clusterPresent e.cluster.toNat then
        k.updCluster e.cluster.toNat (fun x => { x with errored := true }) else k).ueRecord 1 2 e)
  | 4 => s.controlError e
  | 5 => s.onChip (fun k => (k.corruptHasp e.quad.toNat (e.detail.toNat % 4096)).ueRecord 1 0 e)
  | 6 => s.onChip (fun k => k.dropEntry e)
  | 7 => s.onChip (fun k => ((k.poisonAt la).ueRecord 1 0 e).repairRow la)
  | 8 => s.onChip (fun k => (k.poisonAt la).ueRecord 1 0 e)
  | 9 => s.onChip (fun k => k.fecUncorrectable e)
  | 10 => s
  | _ => s.onChip (fun k => k.ueRecord 1 e.level.toNat e)

def execUncorrectableError (e : ErrInfo) (s : State) : Host.Outcome State Fault Refusal :=
  .next (s.uncorrectableAt e)

/-! ## Patrol scrub (R533) -/

/-- What a scrub reports of a line of main memory. -/
def Chip.scrubInfo (k : Chip) (line : Nat) : ErrInfo :=
  let la := line * 128
  { ErrInfo.none with
    quad := quadField (k.ownerQuad la), agent := 11
    struct := if areaOf la = .hbm then strHbm else strLpddr
    paddr := BitVec.ofNat 64 (k.fabric.devnum.toNat * 2 ^ 50 + la) }

/-- A line of HBM or LPDDR is patrol-read. -/
def execPatrolScrub (line : Nat) (found : ScrubResult) (s : State) : Host.Outcome State Fault Refusal :=
  .next (
    if !(cacheable (line * 128) && s.chip.populated (line * 128)) then s
    else match found with
      | .clean => s
      | .corrected => s.onChip (fun k => k.correctedAt (k.scrubInfo line))
      | .uncorrectable => s.uncorrectableAt (s.chip.scrubInfo line))

end Sys2Proof.Machine
end

