-- ==== Sys2Proof/Machine/Remote.lean ====
section
/-! DEFINITION. The remote session of `MB14` (18_boot_and_security.md R520) and the SMBus target of `MB12` and
`MB13` (20_electrical_mechanical.md R553-R555). -/

namespace Sys2Proof.Machine

/-! ## Remote session (R520) -/

/-- A session opens: the Tumbler serves `MB14`, port 0 has its link, the client's certificate chains to the key in
force, and no session is open. -/
def execRemoteSessionOpen (certOk : Bool) (s : State) : Host.Outcome State Fault Refusal :=
  .next (
    if certOk && s.tumblerUp && !s.boot.session && (s.chip.box 14).opened && (s.chip.ethPort 0).up then
      { s with boot := { s.boot with session := true } }
    else s)

/-- A request's slot and inline data put into `MB14`, the buffer handed over to the command. -/
def Mailbox.takeRequest (b : Mailbox) (slot : BitVec 512) (body : Bytes) : Mailbox :=
  { b with
    cmd := slot
    inl := putBytes (putBytes b.inl 0 (toBytes 8 (ownWord 2 (slotTag slot).toNat body.length).toNat)) 128 body }

/-- A request of the session is executed on `MB14`; one that comes while a command runs only sets `DB_BUSY`
(notes/assumptions/82.md). -/
def execRemoteSessionRequest (slot : BitVec 512) (body : Bytes) (s : State) : Host.Outcome State Fault Refusal :=
  .next (
    if !s.boot.session || 1664 < body.length then s
    else
      let st := (s.chip.box 14).st
      let s1 := if st = .check || st = .running then s
        else s.onChip (fun k => k.updBox 14 (fun b => b.takeRequest slot body))
      s1.ringDoorbell 14 (slotTag slot))

/-- A session without a record for 300 s closes; the mailbox keeps its state (R471). -/
def execRemoteSessionTimeout (s : State) : Host.Outcome State Fault Refusal :=
  .next { s with boot := { s.boot with session := false } }

/-! ## SMBus (R553-R555) -/

/-- The boot ROM or the Tumbler serves the target. -/
def State.smbUp (s : State) : Bool := s.pins.pgood && s.boot.phase ≠ .off

/-- The target's 7-bit address (R553). -/
def Pins.smbAddress (p : Pins) : BitVec 8 := 0x60 + p.smbAddr.setWidth 8

/-- The mailbox the pointer selects. -/
def Pins.smbBox (p : Pins) : Nat := if p.smbSel then 13 else 12

/-- `SMB_ALERT_N` (R555). -/
def State.smbAlertN (s : State) : Bool :=
  !s.pins.pgood || [12, 13].all (fun n => (s.chip.box n).prod = (s.chip.box n).cons)

/-- `IDCODE` of the TAP (R548). -/
def tapIdcode : BitVec 32 := 0x18720A75

/-- A transaction NACKed: it has no effect. -/
def State.smbRefuse (s : State) : State := { s with pins := { s.pins with smbNack := true, smbData := [] } }

/-- A transaction acknowledged with an answer. -/
def State.smbAnswer (s : State) (bs : Bytes) : State :=
  { s with pins := { s.pins with smbNack := false, smbData := bs } }

/-- A transaction that is served: the target runs and the PEC is right. -/
def State.smbServe (s : State) (pec ok : Bool) (f : State → State) : State :=
  if s.smbUp && pec && ok then f s else s.smbRefuse

/-- The pointer advanced. -/
def State.smbAdvance (s : State) (n : Nat) : State :=
  { s with pins := { s.pins with smbOff := s.pins.smbOff + BitVec.ofNat 13 n } }

/-- A length of R554 that does not pass offset `0xFFF`. -/
def Pins.smbRoom (p : Pins) (n : Nat) : Bool :=
  8 ≤ n && n ≤ 32 && n % 8 = 0 && p.smbOff.toNat + n ≤ 0x1000

/-- Write Word: the pointer is set (R554). -/
def execSmbWriteWord (word : BitVec 16) (pec : Bool) (s : State) : Host.Outcome State Fault Refusal :=
  .next (s.smbServe pec (word.extractLsb' 12 3 = 0 && word.extractLsb' 0 3 = 0) (fun s =>
    { s with pins := { s.pins with
        smbSel := word.getLsbD 15, smbOff := (word.extractLsb' 0 12).setWidth 13 } }.smbAnswer []))

/-- Data written at the pointer as 8-byte accesses in ascending order; `n` bounds the count. -/
def State.smbWrite (s : State) : Nat → Bytes → State
  | 0, _ => s
  | n + 1, bs =>
    if bs.isEmpty then s
    else
      ((s.boxWrite .tumbler s.pins.smbBox s.pins.smbOff.toNat 8
        (BitVec.ofNat 64 (ofBytes (bs.take 8)))).smbAdvance 8).smbWrite n (bs.drop 8)

/-- Block Write (R554). -/
def execSmbBlockWrite (data : Bytes) (pec : Bool) (s : State) : Host.Outcome State Fault Refusal :=
  .next (s.smbServe pec (s.pins.smbRoom data.length) (fun s => (s.smbWrite 4 data).smbAnswer []))

/-- `n` bytes read at the pointer as 8-byte accesses. -/
def State.smbRead (s : State) (n : Nat) : Bytes :=
  (List.range (n / 8)).flatMap (fun i =>
    toBytes 8 ((s.chip.box s.pins.smbBox).word (s.pins.smbOff.toNat + 8 * i)).toNat)

/-- Block Write-Block Read Process Call (R554). -/
def execSmbProcessCall (n : Nat) (pec : Bool) (s : State) : Host.Outcome State Fault Refusal :=
  .next (s.smbServe pec (s.pins.smbRoom n) (fun s => (s.smbAnswer (s.smbRead n)).smbAdvance n))

/-- The Alert Response Address (R555): the target answers with its own address while it asserts
`SMB_ALERT_N` (PRESUMED SMBus, notes/assumptions/80.md). -/
def execSmbAlertResponse (s : State) : Host.Outcome State Fault Refusal :=
  .next (s.smbServe true (!s.smbAlertN) (fun s => s.smbAnswer [s.pins.smbAddress <<< 1]))

end Sys2Proof.Machine
end

