-- ==== Sys2Proof/Machine/Sfu.lean ====
section
/-! DEFINITION. The functions of the SFU/sync slot (04_iluchezia_bundles.md R156, R158; 07_special_functions.md). -/

namespace Sys2Proof.Machine

/-- An SFU instruction issues. -/
def State.sfuSlot (s : State) (c : Nat) (f : Sfu) : Host.Outcome State Fault Refusal :=
  s.slot c { nopBundle with sfu := some f }

/-- `EXP2` (R158). -/
def execExp2 (c : Nat) (f : SfuF) (s : State) : Host.Outcome State Fault Refusal :=
  s.sfuSlot c (.fn .exp2 f)

/-- `LOG2` (R158). -/
def execLog2 (c : Nat) (f : SfuF) (s : State) : Host.Outcome State Fault Refusal :=
  s.sfuSlot c (.fn .log2 f)

/-- `RCP` (R158). -/
def execRcp (c : Nat) (f : SfuF) (s : State) : Host.Outcome State Fault Refusal :=
  s.sfuSlot c (.fn .rcp f)

/-- `RSQ` (R158). -/
def execRsq (c : Nat) (f : SfuF) (s : State) : Host.Outcome State Fault Refusal :=
  s.sfuSlot c (.fn .rsq f)

/-- `TANH` (R158). -/
def execTanh (c : Nat) (f : SfuF) (s : State) : Host.Outcome State Fault Refusal :=
  s.sfuSlot c (.fn .tanh f)

/-- `SIG` (R158). -/
def execSig (c : Nat) (f : SfuF) (s : State) : Host.Outcome State Fault Refusal :=
  s.sfuSlot c (.fn .sig f)

/-- `ERF` (R158). -/
def execErf (c : Nat) (f : SfuF) (s : State) : Host.Outcome State Fault Refusal :=
  s.sfuSlot c (.fn .erf f)

/-- `SIN` (R158). -/
def execSin (c : Nat) (f : SfuF) (s : State) : Host.Outcome State Fault Refusal :=
  s.sfuSlot c (.fn .sin f)

/-- `COS` (R158). -/
def execCos (c : Nat) (f : SfuF) (s : State) : Host.Outcome State Fault Refusal :=
  s.sfuSlot c (.fn .cos f)

/-- `LUT` (R158). -/
def execLut (c : Nat) (f : SfuF) (s : State) : Host.Outcome State Fault Refusal :=
  s.sfuSlot c (.fn .lut f)

/-- `LUT.LD` (R158; 07_special_functions.md R237). -/
def execLutLd (c : Nat) (vs : SReg) (s : State) : Host.Outcome State Fault Refusal :=
  s.sfuSlot c (.lutLd vs)

/-- `LUT.COMMIT` (R158; 07_special_functions.md R241). -/
def execLutCommit (c : Nat) (s : State) : Host.Outcome State Fault Refusal :=
  s.sfuSlot c .lutCommit

end Sys2Proof.Machine
end

