-- ==== Sys2Proof/Machine/Sync.lean ====
section
/-! DEFINITION. The sync operations of the SFU/sync slot (04_iluchezia_bundles.md R157-R159; 09_hasps.md R285-R294;
10_memory_ordering.md R319). -/

namespace Sys2Proof.Machine

/-- A sync instruction issues. -/
def State.syncSlot (s : State) (c : Nat) (op : SyncOp) (wh : Bool) : Host.Outcome State Fault Refusal :=
  s.slot c { nopBundle with sfu := some (.sync op), wh := wh }

/-- `HASP.ADD` (R159; 09_hasps.md R287). -/
def execHaspAdd (c : Nat) (rh rv : SReg) (scope : Scope) (s : State) : Host.Outcome State Fault Refusal :=
  s.syncSlot c (.add rh rv scope) false

/-- `HASP.WAIT`, with or without `WH` (R124, R159; 09_hasps.md R293). -/
def execHaspWait (c : Nat) (rh rv : SReg) (scope : Scope) (wh : Bool) (s : State) :
    Host.Outcome State Fault Refusal :=
  s.syncSlot c (.wait rh rv scope) wh

/-- `HASP.SET` (R159; 09_hasps.md R287). -/
def execHaspSet (c : Nat) (rh rv : SReg) (scope : Scope) (s : State) : Host.Outcome State Fault Refusal :=
  s.syncSlot c (.set rh rv scope) false

/-- `HASP.RESET` (R159; 09_hasps.md R287). -/
def execHaspReset (c : Nat) (rh : SReg) (scope : Scope) (s : State) : Host.Outcome State Fault Refusal :=
  s.syncSlot c (.reset rh scope) false

/-- `FENCE.C` (R159; 10_memory_ordering.md R319): CLUSTER scope. -/
def execFenceC (c : Nat) (s : State) : Host.Outcome State Fault Refusal :=
  s.syncSlot c .fenceC false

/-- `FENCE.P` (R159; 10_memory_ordering.md R319): PACKAGE scope. -/
def execFenceP (c : Nat) (s : State) : Host.Outcome State Fault Refusal :=
  s.syncSlot c .fenceP false

/-- `FENCE.S` (R159; 10_memory_ordering.md R319): SYSTEM scope. -/
def execFenceS (c : Nat) (s : State) : Host.Outcome State Fault Refusal :=
  s.syncSlot c .fenceS false

end Sys2Proof.Machine
end

