-- ==== Sys2Proof/Machine/TumblerFlash.lean ====
section
/-! DEFINITION. Command family 0x06 (16_tumbler_interface.md R473; 13_tiers_and_flash.md R399-R403, R408,
R410). -/

namespace Sys2Proof.Machine

/-- Codes of an image's state in `IMG_LIST` (notes/assumptions/66.md). -/
def ImgState.code : ImgState → Nat
  | .writing => 0 | .sealed => 1 | .erasing => 2

/-- A record of `IMG_LIST`: the fields of R399 in 96 bytes (notes/assumptions/66.md). -/
def Image.record (i : Image) : Bytes :=
  toBytes 8 (i.id + 65536 * i.st.code + 16777216 * boolNat i.damaged) ++ toBytes 8 i.offset ++ toBytes 8 i.length ++
    toBytes 64 i.digest.toNat ++ toBytes 8 0

/-- `IMG_LIST` (R473). -/
def imgList (s : State) (c : CmdCtx) : CmdEnd :=
  let bs := s.chip.flash.images.flatMap Image.record
  if c.room < bs.length then cmdEnd s mbBadArg [BitVec.ofNat 64 bs.length]
  else (s, some { mbResult mbDone [BitVec.ofNat 64 bs.length] with out := some bs })

def execImgList (mb : Nat) (s : State) : Host.Outcome State Fault Refusal := runCommand mb 0x0601 imgList s

/-- `IMG_CREATE` (R399, R400, R410): the span holds nothing of an earlier image. -/
def imgCreate (s : State) (c : CmdCtx) : CmdEnd :=
  let f := s.chip.flash
  let n := (c.arg 0 + 65535) / 65536
  if c.arg 0 = 0 then cmdEnd s mbBadArg []
  else if f.sparePct.toNat < 2 || userUnits < f.used + n then cmdEnd s mbDenied []
  else match f.freeId, f.place (n * 65536) with
  | some id, some o =>
    let i : Image := { id := id, st := .writing, offset := o, length := c.arg 0, digest := 0, damaged := false }
    cmdDone (s.onChip (fun k => k.onFlash (fun f => { f.dropData o (n * 65536) with images := f.images ++ [i] })))
      [BitVec.ofNat 64 id, BitVec.ofNat 64 o]
  | _, _ => cmdEnd s mbDenied []

def execImgCreate (mb : Nat) (s : State) : Host.Outcome State Fault Refusal := runCommand mb 0x0602 imgCreate s

/-- Data bytes the buffers of a command hold, as its first ownership word says. -/
def Chip.inputLength (k : Chip) (mb : Nat) : Nat :=
  let b := k.box mb
  match (slotBufs b.copied).head?.bind b.bufSpot with
  | none => 0
  | some sp => match (k.readOwn mb sp).2 with
    | some w => ownLength w
    | none => 0

/-- Bytes stored in an image at a window offset. -/
def Chip.writeImage (k : Chip) (o : Nat) (bs : Bytes) : Chip := k.onFlash (fun f => { f with data := putBytes f.data o bs })

/-- `IMG_WRITE` (R401): a source that is poisoned leaves what was written undefined. -/
def imgWrite (s : State) (c : CmdCtx) : CmdEnd :=
  match s.chip.flash.image (c.arg 0) with
  | none => cmdEnd s mbBadArg []
  | some i =>
    let n := s.chip.inputLength c.mb
    if i.st ≠ .writing then cmdEnd s mbDenied []
    else if c.arg 1 % 512 ≠ 0 || i.length < c.arg 1 + n then cmdEnd s mbBadArg []
    else match c.input with
    | some bs => cmdDone (s.onChip (fun k => k.writeImage (i.offset + c.arg 1) bs)) [BitVec.ofNat 64 bs.length]
    | none =>
      let (bs, k) := s.chip.freshBytes n
      cmdEnd { s with chip := k.writeImage (i.offset + c.arg 1) bs } mbFault []

def execImgWrite (mb : Nat) (s : State) : Host.Outcome State Fault Refusal := runCommand mb 0x0603 imgWrite s

/-- The 64-bit words of a digest, the lowest first. -/
def digestWords (d : BitVec 512) : List U64 := (List.range 8).map (fun i => d.extractLsb' (64 * i) 64)

/-- `IMG_SEAL` (R402): `RES0`-`RES6` are the first seven words of the digest, the buffer holds all of it. Whether its
read of the image ends uncorrectable, which leaves the image as it is, is a free value (DESIGN CHOICE, log 86). -/
def imgSeal (s : State) (c : CmdCtx) : CmdEnd :=
  match s.chip.flash.image (c.arg 0) with
  | none => cmdEnd s mbBadArg []
  | some i =>
    if i.st ≠ .writing then cmdEnd s mbDenied []
    else if c.room < 64 then cmdEnd s mbBadArg []
    else
      let (bad, k) := s.chip.fresh
      let t : State := { s with chip := k }
      if bad.getLsbD 0 then cmdEnd t mbFault []
      else
        let d := sha512 (k.flash.imageBytes i)
        cmdOut (t.onChip (fun k => k.onFlash (fun f => f.updImage i.id (fun i => { i with st := .sealed, digest := d }))))
          c (digestWords d) (toBytes 64 d.toNat)

def execImgSeal (mb : Nat) (s : State) : Host.Outcome State Fault Refusal := runCommand mb 0x0604 imgSeal s

/-- `IMG_ERASE` (R403): `ERASING` at once; it answers when the erase completes. -/
def imgErase (s : State) (c : CmdCtx) : CmdEnd :=
  if c.begun then (s, none)
  else match s.chip.flash.image (c.arg 0) with
  | none => cmdEnd s mbBadArg []
  | some i =>
    if i.st = .erasing then cmdEnd s mbDenied []
    else (s.onChip (fun k => k.onFlash (fun f => f.updImage i.id (fun i => { i with st := .erasing }))), none)

def execImgErase (mb : Nat) (s : State) : Host.Outcome State Fault Refusal := runCommand mb 0x0605 imgErase s

/-- `FLT_DEFER` (R408): a window may follow the last only after an equal interval. -/
def fltDefer (s : State) (c : CmdCtx) : CmdEnd :=
  let f := s.chip.flash
  let now := s.chip.mgmt.now
  if 60 < c.arg 0 then cmdEnd s mbBadArg []
  else if c.arg 0 = 0 then
    cmdDone (s.onChip (fun k => match f.defer with
      | none => k
      | some (a, _) => k.onFlash (fun f => { f with defer := none, deferNot := now + (now - a) }.refresh))) [0]
  else if f.defer.isSome || now < f.deferNot then cmdEnd s mbDenied []
  else
    cmdDone (s.onChip (fun k => k.onFlash (fun f =>
      { f with defer := some (now, now + c.arg 0 * refclkSecond) }.refresh))) [BitVec.ofNat 64 (c.arg 0)]

def execFltDefer (mb : Nat) (s : State) : Host.Outcome State Fault Refusal := runCommand mb 0x0606 fltDefer s

end Sys2Proof.Machine
end

