-- ==== Sys2Proof/Machine/TumblerInfo.lean ====
section
/-! DEFINITION. Command families 0x01 to 0x04: information, device states, clocks and work queues
(16_tumbler_interface.md R473; 17_power_clocks_thermal.md R481, R487-R489; 03_cluster_execution.md R115). -/

namespace Sys2Proof.Machine

/-! ## Family 0x01 -/

/-- `GET_CAPS` (R473); in recovery the capability words read zero (18_boot_and_security.md R509). -/
def getCaps (s : State) (_c : CmdCtx) : CmdEnd :=
  let rec' := match s.boot.phase with
    | .recovery _ => true
    | _ => false
  let version (k : FwKind) : U64 := match k.image with
    | some i => i.version
    | none => 0
  cmdDone s [
    if rec' then 0 else s.chip.capUnits, if rec' then 0 else s.chip.capHarts,
    if rec' then 0 else s.chip.hbmMapWord, if s.boot.record.valid then s.boot.record.serial else 0,
    version s.boot.tumbler, version s.boot.hart]

def execGetCaps (mb : Nat) (s : State) : Host.Outcome State Fault Refusal := runCommand mb 0x0101 getCaps s

/-- The sides of the hinges between dies that are present. -/
def presentSides (seats : List Nat) : List Nat :=
  (List.range 16).filter (fun n => (presentHinges seats).contains (hingeOf n))

/-- The seats partitioned from a seat, as a mask (01_package_and_hinges.md R50). -/
def Chip.partedFrom (k : Chip) (d : Nat) : Nat :=
  ((List.range 4).filter (fun e => d < 4 && k.parted d e)).foldl (fun m e => m + 2 ^ e) 0

/-- A topology record: seat, or 4 for the host die; hinge index at that die; the seats partitioned from it; `HNG_STATUS`
in bytes 8-15 (notes/assumptions/66.md). -/
def State.topologyRecord (s : State) (n : Nat) : Bytes :=
  [BitVec.ofNat 8 (dieOf n), BitVec.ofNat 8 (if n < 4 then n else (n - 4) % 3),
    BitVec.ofNat 8 (s.chip.partedFrom (dieOf n)), 0, 0, 0, 0, 0] ++
    toBytes 8 (s.links.statusWord n).toNat

def getTopology (s : State) (c : CmdCtx) : CmdEnd :=
  cmdOut s c [] ((presentSides s.chip.seats).flatMap s.topologyRecord)

def execGetTopology (mb : Nat) (s : State) : Host.Outcome State Fault Refusal := runCommand mb 0x0102 getTopology s

/-- The four bits of a quadrant: usable, in reset, orphaned, unusable. -/
def Chip.quadStatus (k : Chip) (q : Nat) : Nat :=
  let d := k.quad q
  if k.quadPresent q then
    boolNat (!d.unusable) + 2 * boolNat d.underReset + 4 * boolNat d.orphaned + 8 * boolNat d.unusable
  else 0

def getStatus (s : State) (_c : CmdCtx) : CmdEnd :=
  cmdDone s [s.power.dstate.setWidth 64,
    packW ((List.range 4).map (fun q => (4 * q, (4, s.chip.quadStatus q)))),
    if s.chip.flashPresent then s.chip.flash.statWord else 0]

def execGetStatus (mb : Nat) (s : State) : Host.Outcome State Fault Refusal := runCommand mb 0x0103 getStatus s

/-! ## Family 0x02 -/

/-- Every present cluster is `IDLE` or `GATED` (17_power_clocks_thermal.md R481). -/
def Chip.allIdle (k : Chip) : Bool :=
  (List.range 96).all (fun c => !k.clusterPresent c || (k.cluster c).st = .idle || (k.cluster c).st = .gated ||
    !k.usable (c / 24))

/-- Why a transition of R481 is refused, if it is. -/
def State.dstateRefusal (s : State) (tgt : Nat) : Option Nat :=
  let d := s.power.dstate.toNat
  if 4 ≤ tgt then some mbBadArg
  else if s.power.moving then some mbBusy
  else if tgt = d then some mbAlready
  else if d = 2 && tgt = 1 then some mbBadArg
  else if (tgt = 1 || tgt = 2) && !s.chip.allIdle then some mbDenied
  else none

/-- `SET_DSTATE` but to D3 (R481-R484): a return from D2 answers once discovery has closed. -/
def setDstate (s : State) (c : CmdCtx) : CmdEnd :=
  let tgt := c.arg 0
  if c.begun then
    (if s.power.moving && s.links.rediscover.isEmpty then
      cmdDone (s.onPower (fun p => { p with moving := false })) []
    else (s, none))
  else match s.dstateRefusal tgt with
  | some st => cmdEnd s st []
  | none =>
    if tgt = 1 then cmdDone s.enterD1 []
    else if tgt = 2 then cmdDone s.enterD2 []
    else if s.power.dstate = 1 then cmdDone s.leaveD1 []
    else
      let s1 := s.leaveD2
      if s1.links.rediscover.isEmpty then cmdDone (s1.onPower (fun p => { p with moving := false })) [] else (s1, none)

/-- `SET_DSTATE` (R473, R481-R485): entry to D3 answers first and then takes the rails down. -/
def execSetDstate (mb : Nat) (s : State) : Host.Outcome State Fault Refusal :=
  .next (
    let s1 := s.recheck mb
    if slotArg (s1.chip.box mb).copied 0 = 3 then
      s1.runReset mb 0x0201 (fun s _ => s.dstateRefusal 3) (fun _ s => s.powerDown)
    else s1.runRow mb 0x0201 setDstate)

/-- `SET_POWER_CAP` (R487): in force from the next window; `RES0` is the limit it gives. -/
def setPowerCap (s : State) (c : CmdCtx) : CmdEnd :=
  let w := c.arg 0
  if w ≠ 0 && w < capFloor s.chip.variantIx then cmdEnd s mbBadArg []
  else
    let cap := if w = 0 then none else some w
    cmdDone (s.onPower (fun p => { p with capSet := cap })) [BitVec.ofNat 64 (limitOf s.chip.variantIx cap)]

def execSetPowerCap (mb : Nat) (s : State) : Host.Outcome State Fault Refusal := runCommand mb 0x0202 setPowerCap s

/-- `SET_RAMP_TABLE` (R491): bit `3 q + r` of the mask is region r of quadrant q. -/
def setRampTable (s : State) (c : CmdCtx) : CmdEnd :=
  if 4096 ≤ c.arg 0 || 4 ≤ c.arg 1 then cmdEnd s mbBadArg []
  else
    cmdDone (s.onPower (fun p => (List.range 12).foldl (fun p r =>
      if bitOf (c.arg 0) r then p.updRegion r (fun x => { x with table := BitVec.ofNat 2 (c.arg 1) }) else p) p)) []

def execSetRampTable (mb : Nat) (s : State) : Host.Outcome State Fault Refusal := runCommand mb 0x0203 setRampTable s

/-- `SET_HBM_MAP` (02_address_map.md R65). -/
def setHbmMap (s : State) (c : CmdCtx) : CmdEnd :=
  if !s.chip.pkgAllowed then cmdEnd s mbDenied []
  else if 2 ≤ c.arg 0 then cmdEnd s mbBadArg []
  else cmdDone (s.onChip (fun k => { k with storedPkg := c.arg 0 = 1 })) []

def execSetHbmMap (mb : Nat) (s : State) : Host.Outcome State Fault Refusal := runCommand mb 0x0204 setHbmMap s

/-- A split of a quadrant's SRAM changed for mailbox `mb` (13_tiers_and_flash.md R397): system-cache lines where the
shelf grows are written back, shelf bytes that join read zero and bytes that leave are lost. -/
def Chip.splitShelf (k : Chip) (mb q n : Nat) : Chip :=
  let old := (k.quad q).shelfSize
  let base := 0x20000000000 + q * 0x10000000
  let lo := base + min old (n * 0x800000)
  let hi := base + max old (n * 0x800000)
  { k.updQuad q (fun d => { d with
      shelfK := BitVec.ofNat 4 n, splitBy := some mb, sc := d.sc.filter (fun h => n * 65536 ≤ h.slot) }) with
    mem := k.mem.filter (fun e => e.1 < lo || hi ≤ e.1)
    poison := k.poison.filter (fun e => e.1 * 128 < lo || hi ≤ e.1 * 128) }

/-- `SET_SHELF_SPLIT` (R397). -/
def setShelfSplit (s : State) (c : CmdCtx) : CmdEnd :=
  let q := c.arg 0
  if 4 ≤ q || 13 ≤ c.arg 1 then cmdEnd s mbBadArg []
  else if !s.chip.bankUp q then cmdEnd s mbFault []
  else if (s.chip.quad q).splitBy.isSome then cmdEnd s mbBusy []
  else cmdDone (s.onChip (fun k => k.splitShelf c.mb q (c.arg 1))) []

def execSetShelfSplit (mb : Nat) (s : State) : Host.Outcome State Fault Refusal := runCommand mb 0x0205 setShelfSplit s

/-- `SET_SC_POLICY` (R396). -/
def setScPolicy (s : State) (c : CmdCtx) : CmdEnd :=
  if 4 ≤ c.arg 0 || 3 ≤ c.arg 1 then cmdEnd s mbBadArg []
  else
    let p : ScPolicy := if c.arg 1 = 0 then .auto else if c.arg 1 = 1 then .all else .none
    cmdDone (s.onChip (fun k => k.updQuad (c.arg 0) (fun d => { d with policy := p }))) []

def execSetScPolicy (mb : Nat) (s : State) : Host.Outcome State Fault Refusal := runCommand mb 0x0206 setScPolicy s

/-- `SET_PCIE_WIDTH` (15_host_die.md R447): stored, and in force from the next device reset. -/
def setPcieWidth (s : State) (c : CmdCtx) : CmdEnd :=
  if 2 ≤ c.arg 0 || 3 ≤ c.arg 1 then cmdEnd s mbBadArg []
  else cmdDone (s.onChip (fun k => { k with io := { k.io with
    widthStored := tblPut 0 k.io.widthStored (c.arg 0) (c.arg 1) } })) []

def execSetPcieWidth (mb : Nat) (s : State) : Host.Outcome State Fault Refusal := runCommand mb 0x0207 setPcieWidth s

/-! ## Family 0x03 -/

/-- `GET_CLOCKS`: bit 0 of `RES1` is fixed-frequency mode, bit 1 boost (notes/assumptions/66.md). -/
def getClocks (s : State) (_c : CmdCtx) : CmdEnd :=
  cmdDone s [BitVec.ofNat 64 s.power.root, packW [(0, (1, boolNat s.power.fixed)), (1, (1, boolNat s.power.boost))]]

def execGetClocks (mb : Nat) (s : State) : Host.Outcome State Fault Refusal := runCommand mb 0x0301 getClocks s

/-- Fixed-frequency mode begins (R489, R499). -/
def Power.fix (p : Power) (mhz : Nat) : Power :=
  { p with
    fixed := true, requested := mhz, savedBoost := if p.fixed then p.savedBoost else p.boost, boost := false
    intervals := if p.fixed then p.intervals else 0
    history := if p.fixed then p.history else [] }

/-- `SET_FIXED_FREQ` (R489): it answers once the root runs at the argument, or once a limiter has fixed a lower
target. -/
def setFixedFreq (s : State) (c : CmdCtx) : CmdEnd :=
  let f := c.arg 0
  if f % 100 ≠ 0 || f < 2600 || 8400 < f then cmdEnd s mbBadArg []
  else
    let s1 := if c.begun then s else s.onPower (fun p => p.fix f)
    if s1.power.root = f || (c.begun && s1.power.limiter ≠ 0 && s1.power.target < f) then
      cmdDone s1 [BitVec.ofNat 64 s1.power.root]
    else (s1, none)

def execSetFixedFreq (mb : Nat) (s : State) : Host.Outcome State Fault Refusal := runCommand mb 0x0302 setFixedFreq s

/-- `CLEAR_FIXED_FREQ` (R489). -/
def clearFixedFreq (s : State) (_c : CmdCtx) : CmdEnd :=
  if !s.power.fixed then cmdEnd s mbAlready []
  else cmdDone (s.onPower (fun p => { p with fixed := false, requested := 7800, boost := p.savedBoost })) []

def execClearFixedFreq (mb : Nat) (s : State) : Host.Outcome State Fault Refusal :=
  runCommand mb 0x0303 clearFixedFreq s

/-- `SET_BOOST` (R488, R489): in fixed-frequency mode it changes the setting that returns with the end of the
mode (notes/assumptions/67.md). -/
def setBoost (s : State) (c : CmdCtx) : CmdEnd :=
  if 2 ≤ c.arg 0 then cmdEnd s mbBadArg []
  else
    let on := c.arg 0 = 1
    cmdDone (s.onPower (fun p => if p.fixed then { p with savedBoost := on } else { p with boost := on })) []

def execSetBoost (mb : Nat) (s : State) : Host.Outcome State Fault Refusal := runCommand mb 0x0304 setBoost s

/-! ## Family 0x04 -/

/-- The status of an abort's result (03_cluster_execution.md R115). -/
def abortStatus (r : Nat) : Nat :=
  if r = abAborted then mbDone else if r = abDone then mbAlready else if r = abDenied then mbDenied else mbBadArg

/-- `WQ_ABORT` (R115, R473). -/
def wqAbort (s : State) (c : CmdCtx) : CmdEnd :=
  let q := c.arg 0
  if 4 ≤ q || 256 ≤ c.arg 1 || 65536 ≤ c.arg 2 then cmdEnd s mbBadArg []
  else if !s.chip.bankUp q then cmdEnd s mbFault []
  else
    let (k, r) := s.chip.abort q (c.arg 1) (BitVec.ofNat 16 (c.arg 2))
    cmdEnd { s with chip := k } (abortStatus r) []

def execWqAbort (mb : Nat) (s : State) : Host.Outcome State Fault Refusal := runCommand mb 0x0401 wqAbort s

/-- `WQ_STATUS` (R473). -/
def wqStatus (s : State) (c : CmdCtx) : CmdEnd :=
  if 4 ≤ c.arg 0 || 256 ≤ c.arg 1 then cmdEnd s mbBadArg []
  else
    let w := (s.chip.quad (c.arg 0)).queue (c.arg 1)
    cmdDone s [w.cfgWord, w.headWord]

def execWqStatus (mb : Nat) (s : State) : Host.Outcome State Fault Refusal := runCommand mb 0x0402 wqStatus s

end Sys2Proof.Machine
end

