-- ==== Sys2Proof/Machine/TumblerReset.lean ====
section
/-! DEFINITION. Command families 0x0A and 0x0B: resets, reattachment, telemetry and event masks
(16_tumbler_interface.md R473; 19_reset_and_ras.md R526, R531; 17_power_clocks_thermal.md R498-R501). -/

namespace Sys2Proof.Machine

/-! ## Family 0x0A: a reset is answered before it begins (R471) -/

/-- `RESET_DEVICE` (19_reset_and_ras.md R524). -/
def execResetDevice (mb : Nat) (s : State) : Host.Outcome State Fault Refusal :=
  .next (s.runReset mb 0x0A01 (fun _ _ => none) (fun _ s => s.commandedReset))

/-- `RESET_HOST` (15_host_die.md R453). -/
def execResetHost (mb : Nat) (s : State) : Host.Outcome State Fault Refusal :=
  .next (s.runReset mb 0x0A02 (fun _ _ => none) (fun _ s => s.hostReset))

/-- `RESET_QUADRANT` (19_reset_and_ras.md R526). -/
def execResetQuadrant (mb : Nat) (s : State) : Host.Outcome State Fault Refusal :=
  .next (s.runReset mb 0x0A03 (fun _ c => if 4 ≤ c.arg 0 then some mbBadArg else none)
    (fun c s => (s.drainQuad (c.arg 0)).quadReset (c.arg 0)))

/-- A quadrant returns to its host: held completion areas are written in order, each followed by its
addition (19_reset_and_ras.md R531). -/
def Chip.reattach (k : Chip) (q : Nat) : Chip :=
  ((k.quad q).held.foldl (fun k h => k.writeCompletion q h) k).updQuad q (fun d =>
    { d with held := [], orphaned := false, enable := false })

/-- `REATTACH` (R531). -/
def reattach (s : State) (c : CmdCtx) : CmdEnd :=
  let q := c.arg 0
  if 4 ≤ q then cmdEnd s mbBadArg []
  else if !(s.chip.quad q).orphaned then cmdEnd s mbAlready []
  else if s.links.hingeState q ≠ .active || !s.chip.hostOpen then cmdEnd s mbFault []
  else cmdDone (s.onChip (fun k => k.reattach q)) []

def execReattach (mb : Nat) (s : State) : Host.Outcome State Fault Refusal := runCommand mb 0x0A04 reattach s

/-! ## Family 0x0B -/

/-- Energy counters by number: the host die, the module, four quadrants, eight stacks, and 256 queues of each
quadrant (notes/assumptions/66.md). -/
def Power.energy (p : Power) (n : Nat) : U64 :=
  if n = 0 then p.hostEnergy
  else if n = 1 then p.modEnergy
  else if n < 6 then tblGet 0 p.qEnergy (n - 2)
  else if n < 14 then tblGet 0 p.hbmEnergy (n - 6)
  else tblGet 0 p.wqEnergy (n - 14)

/-- `ENERGY_READ`: counters in the order of their numbers, as many as the buffer holds; class G reads the
counters of its list. -/
def energyRead (s : State) (c : CmdCtx) : CmdEnd :=
  let all := List.range 1038
  let ns := if boxClass c.mb = .g then
      (s.chip.box c.mb).guest.counters.filter (fun n => n < 1038) else all
  cmdOut s c [] ((ns.take (c.room / 8)).flatMap (fun n => toBytes 8 (s.power.energy n).toNat))

def execEnergyRead (mb : Nat) (s : State) : Host.Outcome State Fault Refusal := runCommand mb 0x0B01 energyRead s

/-- `TELEM_READ`: the 23 sensor registers, `PWR_STAT`, `CLK_STAT`, `PWR_INTV`, and start and end of the last 64
intervention intervals (R499). -/
def telemRead (s : State) (c : CmdCtx) : CmdEnd :=
  let words := (List.range 23).map (fun n => (s.power.sensor n).word) ++
    [s.pwrWord, s.clkWord, s.power.intvWord] ++
    s.power.history.flatMap (fun x => [BitVec.ofNat 64 x.1, BitVec.ofNat 64 x.2])
  cmdOut s c [] (words.flatMap (fun w => toBytes 8 w.toNat))

def execTelemRead (mb : Nat) (s : State) : Host.Outcome State Fault Refusal := runCommand mb 0x0B02 telemRead s

/-- `EVENT_MASK` (R475). -/
def eventMask (s : State) (c : CmdCtx) : CmdEnd :=
  if 0x10000 ≤ c.arg 0 then cmdEnd s mbBadArg []
  else cmdDone (s.onChip (fun k => k.updBox c.mb (fun b => { b with mask := BitVec.ofNat 16 (c.arg 0) }))) []

def execEventMask (mb : Nat) (s : State) : Host.Outcome State Fault Refusal := runCommand mb 0x0B03 eventMask s

end Sys2Proof.Machine
end

