-- ==== Sys2Proof/Machine/TumblerSec.lean ====
section
/-! DEFINITION. Command families 0x08, 0x09 and 0x0F: measurements and quotes, owner enrolment, firmware,
debug unlock, mailbox assignment, error records, the log and debug reads (16_tumbler_interface.md R473;
18_boot_and_security.md R504-R523; 19_reset_and_ras.md R538, R539). Layouts that the spec does not give are in
notes/assumptions/66.md. -/

namespace Sys2Proof.Machine

/-- The little-endian number in bytes `[o, o + n)`. -/
def numAt (bs : Bytes) (o n : Nat) : Nat := ofBytes ((bs.drop o).take n)

/-- The bytes `[o, o + n)` are zero. -/
def zeroAt (bs : Bytes) (o n : Nat) : Bool := ((bs.drop o).take n).all (· = 0)

/-- The key identifier of a public key in SEC 1 form (R504). -/
def keyId (key : Bytes) : U64 := (sha512 key).extractLsb' 0 64

def State.onBoot (s : State) (f : Boot → Boot) : State := { s with boot := f s.boot }

/-! ## Measurements (R514, R515) -/

/-- The entry of a measurement log. -/
def LogEntry.bytes (e : LogEntry) : Bytes :=
  [BitVec.ofNat 8 e.reg, BitVec.ofNat 8 e.kind, 0, 0] ++ toBytes 4 e.svn ++ toBytes 8 e.version.toNat ++
    List.replicate 48 0 ++ toBytes 64 e.digest.toNat

/-- M0 to M7. -/
def Boot.mBytes (b : Boot) : Bytes := (List.range 8).flatMap (fun i => toBytes 64 (tblGet 0 b.m i).toNat)

/-- `GET_MEASUREMENTS` (R514). -/
def getMeasurements (s : State) (c : CmdCtx) : CmdEnd :=
  let b := s.boot
  let n := min b.mlog.length ((c.room - 576) / 128)
  cmdOut s c [BitVec.ofNat 64 b.mlog.length]
    (toBytes 4 n ++ [0, 0, 0, 0] ++ toBytes 8 b.bootCount.toNat ++ List.replicate 48 0 ++ b.mBytes ++
      (b.mlog.take n).flatMap LogEntry.bytes)

def execGetMeasurements (mb : Nat) (s : State) : Host.Outcome State Fault Refusal :=
  runCommand mb 0x0801 getMeasurements s

/-- `SVN` of the image that runs, zero when none does. -/
def FwKind.svn (k : FwKind) : Nat := match k.image with
  | some i => i.svn
  | none => 0

/-- Bytes 0-639 of a quote (R515). -/
def State.quoteBody (s : State) (nonce : List U64) : Bytes :=
  let b := s.boot
  toBytes 4 0x51545654 ++ toBytes 2 1 ++ toBytes 2 (boolNat b.unlocked + 2 * boolNat b.owner.isSome) ++
    toBytes 8 b.record.serial.toNat ++ [b.record.variant.setWidth 8] ++ List.replicate 7 0 ++
    toBytes 8 b.bootCount.toNat ++ nonce.flatMap (fun w => toBytes 8 w.toNat) ++ toBytes 8 b.ownerId.toNat ++
    toBytes 8 Config.identityKey.toNat ++ toBytes 4 b.tumbler.svn ++ toBytes 4 b.hart.svn ++
    List.replicate 40 0 ++ b.mBytes

/-- `ATTEST_QUOTE` (R515): the quote and the identity certificate. -/
def attestQuote (s : State) (c : CmdCtx) : CmdEnd :=
  let body := s.quoteBody ((List.range 4).map (slotArg c.slot))
  cmdOut s c [] (body ++ toBytes 132 (Config.identitySign body).toNat ++ List.replicate 252 0 ++
    Config.identityCert)

def execAttestQuote (mb : Nat) (s : State) : Host.Outcome State Fault Refusal := runCommand mb 0x0802 attestQuote s

/-! ## Owner enrolment (R518, R519) -/

/-- The key that signs an enrolment record. -/
def Boot.enrolKey (b : Boot) : U64 := match b.owner with
  | some o => o.key
  | none => Config.provisioningKey

/-- The record meets R518 and is signed as R519 asks. A counter at its last value takes no more records
(notes/assumptions/73.md). -/
def Boot.enrolOk (b : Boot) (bs : Bytes) : Bool :=
  bs.length = 292 && numAt bs 0 8 = b.record.serial.toNat && numAt bs 8 4 = b.counter + 1 && b.counter < 256 &&
    numAt bs 12 4 < 8 && zeroAt bs 149 3 &&
    (if bitOf (numAt bs 12 4) 2 then zeroAt bs 16 133 else numAt bs 16 1 = 4) &&
    numAt bs 152 8 = b.enrolKey.toNat && Config.sigOk b.enrolKey (bs.take 160) (bs.drop 160)

/-- The record as it is kept. -/
def enrolment (bs : Bytes) : Enrolment :=
  { ownerFw := bitOf (numAt bs 12 4) 0, ownerDebug := bitOf (numAt bs 12 4) 1, remove := bitOf (numAt bs 12 4) 2
    key := keyId ((bs.drop 16).take 133), bytes := bs }

/-- `OWNER_ENROLL` (R519). -/
def ownerEnroll (s : State) (c : CmdCtx) : CmdEnd :=
  match c.input with
  | none => cmdEnd s mbFault []
  | some bs =>
    if s.boot.enrolOk bs then
      cmdDone (s.onBoot (fun b => { b with counter := b.counter + 1, pendingOwner := some (enrolment bs) })) []
    else cmdEnd s mbDenied []

def execOwnerEnroll (mb : Nat) (s : State) : Host.Outcome State Fault Refusal := runCommand mb 0x0803 ownerEnroll s

/-! ## Firmware update (R504, R505, R516, R517) -/

/-- The signer that a key identifier names. -/
def Boot.signerOf (b : Boot) (key : U64) : Signer :=
  if key = Config.rootKey then .root
  else match b.owner with
    | some o => if key = o.key then .owner key else .other key
    | none => .other key

/-- Bytes of a slot of a firmware kind (R502). -/
def slotBytes (kind : Nat) : Nat := if kind = 1 then 0x400000 else 0x1000000

/-- The header of a signed image is well made for its kind and slot, and digest and signature verify (R505). -/
def imageGood (kind : Nat) (bs : Bytes) : Bool :=
  let len := numAt bs 24 8
  let payload := (bs.drop 512).take len
  512 + len ≤ bs.length && 512 + len ≤ slotBytes kind && numAt bs 0 4 = 0x4D495654 && numAt bs 4 2 = kind &&
    numAt bs 6 2 = 1 && zeroAt bs 12 4 && zeroAt bs 56 8 && zeroAt bs 260 252 && (kind = 2 || zeroAt bs 32 16) &&
    numAt bs 64 64 = (sha512 payload).toNat &&
    Config.sigOk (BitVec.ofNat 64 (numAt bs 48 8)) (bs.take 128) ((bs.drop 128).take 132)

/-- A signed image as it is stored (R504). -/
def Boot.parseImage (b : Boot) (kind : Nat) (bs : Bytes) : FwImage :=
  { svn := numAt bs 8 4, version := BitVec.ofNat 64 (numAt bs 16 8), load := BitVec.ofNat 64 (numAt bs 32 8)
    entry := BitVec.ofNat 64 (numAt bs 40 8), signer := b.signerOf (BitVec.ofNat 64 (numAt bs 48 8))
    good := imageGood kind bs, header := bs.take 128, payload := (bs.drop 512).take (numAt bs 24 8) }

def Boot.kind (b : Boot) (kind : Nat) : FwKind := if kind = 1 then b.tumbler else b.hart

def Boot.updKind (b : Boot) (kind : Nat) (f : FwKind → FwKind) : Boot :=
  if kind = 1 then { b with tumbler := f b.tumbler } else { b with hart := f b.hart }

/-- A slot of a kind is valid under R505. -/
def Boot.slotOk (b : Boot) (kind : Nat) (sl : Slot) : Bool :=
  if kind = 1 then b.tumbler.slotValid (· = .root) sl else b.hart.slotValid b.hartSigner sl

/-- The slot an image is staged into. -/
def stagedSlot (i : FwImage) : Slot := { image := some i, confirmed := false, trials := 0 }

def emptySlot : Slot := { image := none, confirmed := false, trials := 0 }

/-- The kind is being staged or activated by another mailbox (R516). -/
def Boot.kindBusy (b : Boot) (mb kind : Nat) : Bool := b.staging.any (fun x => x.1 ≠ mb && x.2 = kind)

/-- `FW_STAGE` (R516): it erases the slot first, and writes the header last. -/
def fwStage (s : State) (c : CmdCtx) : CmdEnd :=
  let kind := c.arg 1
  let slotB : Bool := c.arg 0 = 1
  if 2 ≤ c.arg 0 || kind = 0 || 3 ≤ kind then cmdEnd s mbBadArg []
  else match c.input with
  | none => cmdEnd s mbFault []
  | some bs =>
    let sl := stagedSlot (s.boot.parseImage kind bs)
    if c.begun then
      cmdDone ((s.onBoot (fun b => b.updKind kind (fun k => k.updSlot slotB (fun _ => sl)))).onChip (fun k =>
        k.fwEvent slotB 1)) []
    else if (s.boot.kind kind).running = some slotB || (s.boot.kind kind).preferred = slotB then cmdEnd s mbDenied []
    else if s.boot.kindBusy c.mb kind then cmdEnd s mbBusy []
    else if !s.boot.slotOk kind sl then cmdEnd s mbBadArg []
    else
      (s.onBoot (fun b => { b.updKind kind (fun k => k.updSlot slotB (fun _ => emptySlot)) with
        staging := b.staging ++ [(c.mb, kind)] }), none)

def execFwStage (mb : Nat) (s : State) : Host.Outcome State Fault Refusal := runCommand mb 0x0804 fwStage s

/-- `FW_ACTIVATE` (R517). -/
def fwActivate (s : State) (c : CmdCtx) : CmdEnd :=
  let kind := c.arg 1
  let slotB : Bool := c.arg 0 = 1
  if 2 ≤ c.arg 0 || kind = 0 || 3 ≤ kind then cmdEnd s mbBadArg []
  else if s.boot.kindBusy c.mb kind then cmdEnd s mbBusy []
  else if !s.boot.slotOk kind ((s.boot.kind kind).slot slotB) then cmdEnd s mbDenied []
  else
    cmdDone ((s.onBoot (fun b => { b.updKind kind (fun k => { k with preferred := slotB }) with
      staging := b.staging ++ [(c.mb, kind)] })).onChip (fun k => k.fwEvent slotB 2)) []

def execFwActivate (mb : Nat) (s : State) : Host.Outcome State Fault Refusal := runCommand mb 0x0805 fwActivate s

/-! ## Debug unlock (R522, R523) -/

/-- Seconds a challenge is valid. -/
def challengeSeconds : Nat := 60

/-- `DEBUG_CHALLENGE` (R522): the bytes drawn are free. -/
def debugChallenge (s : State) (_c : CmdCtx) : CmdEnd :=
  let (bs, k) := s.chip.freshBytes 32
  let v : BitVec 256 := BitVec.ofNat 256 (ofBytes bs)
  cmdDone ({ s with chip := k }.onBoot (fun b => { b with challenge := some (v, s.chip.mgmt.now) }))
    ((List.range 4).map (fun i => v.extractLsb' (64 * i) 64))

def execDebugChallenge (mb : Nat) (s : State) : Host.Outcome State Fault Refusal :=
  runCommand mb 0x0806 debugChallenge s

/-- The keys whose signature an unlock record may carry (R523): hart debug needs the owner's while one is
enrolled. -/
def Boot.unlockKey (b : Boot) (key : U64) (level : Nat) : Bool :=
  match b.owner with
  | some o => (o.ownerDebug && key = o.key) || (key = Config.debugKey && !bitOf level 0)
  | none => key = Config.debugKey

/-- The record is accepted (R523). -/
def State.unlockOk (s : State) (bs : Bytes) : Bool :=
  let key : U64 := BitVec.ofNat 64 (numAt bs 44 8)
  bs.length = 196 && numAt bs 0 8 = s.boot.record.serial.toNat &&
    (match s.boot.challenge with
      | some (v, t) => numAt bs 8 32 = v.toNat && s.chip.mgmt.now ≤ t + challengeSeconds * refclkSecond
      | none => false) &&
    s.boot.unlockKey key (numAt bs 40 4) && Config.sigOk key (bs.take 64) (bs.drop 64)

/-- Levels taken from an accepted record, after M3 (R523). -/
def Boot.unlock (b : Boot) (bs : Bytes) : Boot :=
  { b.extend { reg := 3, kind := 0x10, svn := 0, version := 0, digest := sha512 bs } with
    debugLevel := b.debugLevel ||| BitVec.ofNat 3 (numAt bs 40 4), unlocked := true }

/-- `DEBUG_UNLOCK` (R522, R523): a challenge serves one command. -/
def debugUnlock (s : State) (c : CmdCtx) : CmdEnd :=
  let s1 := s.onBoot (fun b => { b with challenge := none })
  match c.input with
  | none => cmdEnd s1 mbFault []
  | some bs => if s.unlockOk bs then cmdDone (s1.onBoot (fun b => b.unlock bs)) [] else cmdEnd s1 mbDenied []

def execDebugUnlock (mb : Nat) (s : State) : Host.Outcome State Fault Refusal := runCommand mb 0x0807 debugUnlock s

/-! ## Mailbox assignment (R455, R462, R473) -/

/-- The lists of `MB_ASSIGN`: three counts of 4 bytes, then the entries of 4 bytes each: queues by
`256 * quadrant + queue`, space tags and counters. -/
def guestLists (bs : Bytes) : Option GuestLists :=
  let (a, b, c) := (numAt bs 0 4, numAt bs 4 4, numAt bs 8 4)
  let es (o n : Nat) : List Nat := (List.range n).map (fun i => numAt bs (12 + 4 * (o + i)) 4)
  if bs.length = 12 + 4 * (a + b + c) then
    some { queues := es 0 a, spaces := es a b, counters := es (a + b) c }
  else none

/-- `MB_ASSIGN` (R473): the mailbox is opened with its window and its lists. -/
def mbAssign (s : State) (c : CmdCtx) : CmdEnd :=
  let g := c.arg 0
  match c.input with
  | none => cmdEnd s mbFault []
  | some bs => match guestLists bs with
    | none => cmdEnd s mbBadArg []
    | some l =>
      let b := s.chip.box g
      let b1 := s.chip.setWindow { b with winErr := false } (slotArg c.slot 1) (slotArg c.slot 2)
      if g < 8 || 12 ≤ g || b.st = .check || b.st = .running || b1.winErr then cmdEnd s mbBadArg []
      else cmdDone (s.onChip (fun k => k.updBox g (fun b => { b with
        opened := true, wbase := b1.wbase, nbufs := b1.nbufs, log2sz := b1.log2sz, wen := b1.wen, guest := l }))) []

def execMbAssign (mb : Nat) (s : State) : Host.Outcome State Fault Refusal := runCommand mb 0x0810 mbAssign s

/-! ## Error records and the log (19_reset_and_ras.md R538, R539) -/

/-- `ERR_READ`: as many records as the buffer holds; `RES0` is the index after the last. -/
def errRead (s : State) (c : CmdCtx) : CmdEnd :=
  let rs := (s.chip.mgmt.bank.filter (fun r => c.arg 0 ≤ recIndex r)).take (c.room / 64)
  cmdOut s c [match rs.getLast? with
    | some r => BitVec.ofNat 64 (recIndex r + 1)
    | none => slotArg c.slot 0] (rs.flatMap (fun r => toBytes 64 r.toNat))

def execErrRead (mb : Nat) (s : State) : Host.Outcome State Fault Refusal := runCommand mb 0x0901 errRead s

/-- `ERR_CLEAR`: records below the index given are retired (notes/assumptions/74.md). -/
def errClear (s : State) (c : CmdCtx) : CmdEnd :=
  cmdDone (s.onChip (fun k => k.onMgmt (fun m => { m with
    bank := m.bank.filter (fun r => c.arg 0 ≤ recIndex r) }))) []

def execErrClear (mb : Nat) (s : State) : Host.Outcome State Fault Refusal := runCommand mb 0x0902 errClear s

/-- `LOG_READ`: the log's bytes from an offset on, as many as the buffer holds. -/
def logRead (s : State) (c : CmdCtx) : CmdEnd :=
  cmdOut s c [] (((s.chip.mgmt.log.flatMap (fun r => toBytes 64 r.toNat)).drop (c.arg 0)).take c.room)

def execLogRead (mb : Nat) (s : State) : Host.Outcome State Fault Refusal := runCommand mb 0x0903 logRead s

/-! ## Debug reads (R344, R522) -/

/-- A directory entry in the layout of R344; zero for `DI`. -/
def DirEnt.bits (e : DirEnt) (line : Nat) : BitVec 256 :=
  if e.dstate = 0 then 0
  else (0 : BitVec 43) ++ BitVec.ofNat 43 line ++ e.dstate ++ e.fidx ++ e.sharers

/-- `DIR_READ`. -/
def dirRead (s : State) (c : CmdCtx) : CmdEnd :=
  let pa := c.arg 0
  let la := paLocal pa
  if !s.chip.isOwn pa || !(areaOf la = .lpddr || areaOf la = .hbm) || !s.chip.populated la then
    cmdEnd s mbBadArg []
  else if s.chip.tmbReach la ≠ stOk then cmdEnd s mbFault []
  else
    let e := ((s.chip.home (s.chip.homeOf (la / 128))).entry (la / 128)).bits (la / 128)
    cmdDone s ((List.range 4).map (fun i => e.extractLsb' (64 * i) 64))

def execDirRead (mb : Nat) (s : State) : Host.Outcome State Fault Refusal := runCommand mb 0x0F01 dirRead s

/-- `REG_PEEK`. -/
def regPeek (s : State) (c : CmdCtx) : CmdEnd :=
  let pa := c.arg 0
  if !s.chip.isOwn pa then cmdEnd s mbBadArg []
  else match s.regCheck none (paLocal pa) 8 with
    | .ok l => cmdDone s [s.regRead .tumbler l (paLocal pa) 8]
    | .lost => cmdEnd s mbFault []
    | _ => cmdEnd s mbBadArg []

def execRegPeek (mb : Nat) (s : State) : Host.Outcome State Fault Refusal := runCommand mb 0x0F02 regPeek s

end Sys2Proof.Machine
end

