-- ==== Sys2Proof/Machine/TumblerSpace.lean ====
section
/-! DEFINITION. Command family 0x05 and the completion of invalidations (12_range_translation.md R364-R366,
R379-R382; 13_tiers_and_flash.md R389-R391). -/

namespace Sys2Proof.Machine

/-! ## Space records -/

/-- The table of a record lies where R366 allows it. -/
def Chip.tableOk (k : Chip) (r : SpaceRec) : Bool :=
  r.count = 0 || k.ownSpan (r.tbase.toNat * 4096) (32 * r.count.toNat)

/-- The record that the arguments of `SPACE_SET` give, where every argument fits its field. -/
def CmdCtx.spaceRec (c : CmdCtx) : Option SpaceRec :=
  if c.arg 1 < 2 && c.arg 2 < 256 && c.arg 3 ≤ 65536 && c.arg 4 < 2 ^ 44 then
    some { en := c.arg 1 = 1, domain := BitVec.ofNat 8 (c.arg 2), count := BitVec.ofNat 17 (c.arg 3),
           tbase := BitVec.ofNat 44 (c.arg 4) }
  else none

/-- `SPACE_SET` (R366): a change of an enabled space answers once its invalidation has completed. -/
def spaceSet (s : State) (c : CmdCtx) : CmdEnd :=
  let t := c.arg 0
  if c.begun then (s, none)
  else if t = 0 || 4096 ≤ t then cmdEnd s mbBadArg []
  else match c.spaceRec with
  | none => cmdEnd s mbBadArg []
  | some r =>
    if !s.chip.tableOk r then cmdEnd s mbBadArg []
    else
      let old := s.chip.space t
      let k := { s.chip with spaces := tblPut SpaceRec.reset s.chip.spaces t r }
      if old.en && old ≠ r then ({ s with chip := k.startInval t (.command c.mb) }, none)
      else cmdDone { s with chip := k } []

def execSpaceSet (mb : Nat) (s : State) : Host.Outcome State Fault Refusal := runCommand mb 0x0501 spaceSet s

/-- `SPACE_INVAL` (R377, R473). -/
def spaceInval (s : State) (c : CmdCtx) : CmdEnd :=
  let t := c.arg 0
  if c.begun then (s, none)
  else if t = 0 || 4096 ≤ t then cmdEnd s mbBadArg []
  else (s.onChip (fun k => k.startInval t (.command c.mb)), none)

def execSpaceInval (mb : Nat) (s : State) : Host.Outcome State Fault Refusal := runCommand mb 0x0502 spaceInval s

/-- `SPACE_GET` (R364, R473). -/
def spaceGet (s : State) (c : CmdCtx) : CmdEnd :=
  if 4096 ≤ c.arg 0 then cmdEnd s mbBadArg []
  else
    let r := s.chip.space (c.arg 0)
    cmdDone s [(boolBit r.en).setWidth 64, r.domain.setWidth 64, r.count.setWidth 64, r.tbase.setWidth 64]

def execSpaceGet (mb : Nat) (s : State) : Host.Outcome State Fault Refusal := runCommand mb 0x0503 spaceGet s

/-! ## Relocation (13_tiers_and_flash.md R389-R391) -/

/-- Local address of entry `i` of a space's table. -/
def Chip.entryAddr (k : Chip) (space i : Nat) : Nat := paLocal ((k.space space).tbase.toNat * 4096 + 32 * i)

/-- The entry of a space's table as the Tumbler reads it, none where it cannot be read. -/
def Chip.tumblerEntry (k : Chip) (space i : Nat) : Chip × Option Nat :=
  let la := k.entryAddr space i
  if k.tmbReach la ≠ stOk then (k, none)
  else
    let (k1, (bs, p)) := k.cohRead la 32
    (k1, if p then none else some (ofBytes bs))

/-- The entry of R389 as rewritten. -/
def RangeEnt.moved (e : RangeEnt) (pstart tier : Nat) (coh : Bool) : RangeEnt :=
  { e with pstart := BitVec.ofNat 40 pstart, tier := BitVec.ofNat 3 tier, coh := coh }

/-- The conditions of R389 on the entry and the new span. -/
def Chip.movable (k : Chip) (e : RangeEnt) (pstart tier : Nat) (coh : Bool) : Bool :=
  let n := e.moved pstart tier coh
  let old := e.pstart.toNat
  e.v && !e.malformed && !e.sealed && e.tier.toNat ≤ 2 && tier ≤ 2 &&
    paDev n.first = k.fabric.devnum.toNat && k.spanUsable (paLocal n.first) (e.len.toNat * 65536) &&
    (pstart + e.len.toNat ≤ old || old + e.len.toNat ≤ pstart) && !n.malformed

/-- The arguments of `RELOCATE` fit their fields. -/
def CmdCtx.relocArgs (c : CmdCtx) : Bool :=
  c.arg 0 ≠ 0 && c.arg 0 < 4096 && c.arg 2 < 2 ^ 40 && c.arg 3 ≤ 2 && c.arg 4 < 2

/-- `RELOCATE` up to the start point of its invalidation (R389, R390). -/
def relocate (s : State) (c : CmdCtx) : CmdEnd :=
  let t := c.arg 0
  let r := s.chip.space t
  if c.begun then (s, none)
  else if !c.relocArgs || !r.en || r.count.toNat ≤ c.arg 1 then cmdEnd s mbBadArg []
  else if s.chip.relocating.isSome then cmdEnd s mbBusy []
  else match s.chip.tumblerEntry t (c.arg 1) with
  | (k, none) => cmdEnd { s with chip := k } mbFault []
  | (k, some x) =>
    let e := decodeRange x
    if !k.movable e (c.arg 2) (c.arg 3) (c.arg 4 = 1) then cmdEnd { s with chip := k } mbBadArg []
    else
      let r : Relocation := {
        mb := c.mb, space := t, index := c.arg 1, pstart := c.arg 2, tier := c.arg 3, coh := c.arg 4 = 1,
        oldStart := e.pstart.toNat, len := e.len.toNat, oldLpddr := inLpddr e.first, inval := k.nextInv, copied := 0 }
      ({ s with chip := { k with relocating := some r }.startInval t (.command c.mb) }, none)

def execRelocate (mb : Nat) (s : State) : Host.Outcome State Fault Refusal := runCommand mb 0x0504 relocate s

/-- A line copied with its poison; false where an end cannot be reached. -/
def Chip.copyLine (k : Chip) (src dst : Nat) : Chip × Bool :=
  if k.tmbReach src ≠ stOk || k.tmbReach dst ≠ stOk then (k, false)
  else
    let (k1, (bs, p)) := k.cohRead src 128
    (k1.cohWrite dst bs p, true)

/-- `n` lines copied, stopping at the first that fails. -/
def Chip.copyLines (k : Chip) (src dst : Nat) : Nat → Chip × Bool
  | 0 => (k, true)
  | n + 1 => match k.copyLine src dst with
    | (k1, true) => k1.copyLines (src + 128) (dst + 128) n
    | (k1, false) => (k1, false)

/-- An entry with `PSTART`, `TIER` and `COH` replaced (R367). -/
def rewriteEntry (x pstart tier : Nat) (coh : Bool) : Nat :=
  let cleared := (BitVec.ofNat 256 x) &&& ~~~(((0xFFFFFFFFFF : BitVec 256) <<< 48) ||| ((0xF : BitVec 256) <<< 163))
  (cleared ||| (BitVec.ofNat 256 pstart <<< 48) ||| (BitVec.ofNat 256 (tier + 8 * boolNat coh) <<< 163)).toNat

/-- Step 4 of R390: the entry rewritten in the table; false where that cannot be. -/
def Chip.writeEntry (k : Chip) (r : Relocation) : Chip × Bool :=
  match k.tumblerEntry r.space r.index with
  | (k1, none) => (k1, false)
  | (k1, some x) =>
    (k1.cohWrite (k1.entryAddr r.space r.index) (toBytes 32 (rewriteEntry x r.pstart r.tier r.coh)) false, true)

/-- Step 5 of R390: the waiting translations are released and the command has its answer, `HW_FAULT` where a place was
lost (R391). -/
def Chip.endRelocation (k : Chip) (r : Relocation) (ok : Bool) : Chip :=
  let res := if ok then mbResult mbDone [BitVec.ofNat 64 (r.len * 65536)] else mbResult mbFault []
  (if ok then k.dropRelocation r else k.loseRelocation r).answerCommand r.mb 0x0504 res

/-- Units of 64 KiB in 64 MiB, after which progress is reported. -/
def relocChunk : Nat := 1024

/-- Steps 3 to 5 of R390, once every transfer has ended: the next 64 MiB are copied and progress is reported; after the
last of them the entry is rewritten. -/
def Chip.relocateOn (k : Chip) (r : Relocation) : Chip :=
  let n := min relocChunk (r.len - r.copied)
  match k.copyLines (paLocal ((r.oldStart + r.copied) * 65536)) (paLocal ((r.pstart + r.copied) * 65536)) (n * 512) with
  | (k1, false) => k1.endRelocation r false
  | (k1, true) =>
    if r.copied + n < r.len then
      { k1 with relocating := some { r with copied := r.copied + n } }.setProgress r.mb ((r.copied + n) * 1000 / r.len)
    else
      let (k2, ok) := k1.writeEntry r
      k2.endRelocation r ok

/-! ## Completion of invalidations (R379, R382) -/

/-- What the completion of an invalidation brings to who asked for it. -/
def Chip.invalDone (k : Chip) (o : InvOrigin) : Chip :=
  match o with
  | .register q hen hasp =>
    let k1 := k.updQuad q (fun d => { d with invBusy := false })
    if hen then k1.toBank (some q) none .add hasp 1 false else k1
  | .command mb => (k.answerCommand mb 0x0501 (mbResult mbDone [])).answerCommand mb 0x0502 (mbResult mbDone [])

/-- Every transfer that an invalidation waits for has ended (R379): it completes. That of a relocation goes on with its
copy, 64 MiB each time (R390). -/
def execInvalidationComplete (id : Nat) (s : State) : Host.Outcome State Fault Refusal :=
  .next (s.onChip (fun k =>
    match k.invals.find? (fun i => i.id = id) with
    | none => k
    | some i =>
      if i.waits.any k.inFlight then k
      else match k.relocating.filter (fun r => r.inval = id) with
      | some r => k.relocateOn r
      | none => { k with invals := k.invals.filter (fun i => i.id ≠ id) }.invalDone i.origin))

end Sys2Proof.Machine
end

