-- ==== Sys2Proof/Machine/Vector.lean ====
section
/-! DEFINITION. The vector slot (04_iluchezia_bundles.md R151-R153; 06_vector_units.md). -/

namespace Sys2Proof.Machine

/-- A vector instruction issues. -/
def State.vectorSlot (s : State) (c : Nat) (op : VOp) (f : VecF) : Host.Outcome State Fault Refusal :=
  s.slot c { nopBundle with vector := some (op, f) }

/-- `VADD` (R153). -/
def execVadd (c : Nat) (f : VecF) (s : State) : Host.Outcome State Fault Refusal :=
  s.vectorSlot c .vadd f

/-- `VSUB` (R153). -/
def execVsub (c : Nat) (f : VecF) (s : State) : Host.Outcome State Fault Refusal :=
  s.vectorSlot c .vsub f

/-- `VMUL` (R153). -/
def execVmul (c : Nat) (f : VecF) (s : State) : Host.Outcome State Fault Refusal :=
  s.vectorSlot c .vmul f

/-- `VFMA` (R153). -/
def execVfma (c : Nat) (f : VecF) (s : State) : Host.Outcome State Fault Refusal :=
  s.vectorSlot c .vfma f

/-- `VFNMA` (R153). -/
def execVfnma (c : Nat) (f : VecF) (s : State) : Host.Outcome State Fault Refusal :=
  s.vectorSlot c .vfnma f

/-- `VMIN` (R153). -/
def execVmin (c : Nat) (f : VecF) (s : State) : Host.Outcome State Fault Refusal :=
  s.vectorSlot c .vmin f

/-- `VMAX` (R153). -/
def execVmax (c : Nat) (f : VecF) (s : State) : Host.Outcome State Fault Refusal :=
  s.vectorSlot c .vmax f

/-- `VABS` (R153). -/
def execVabs (c : Nat) (f : VecF) (s : State) : Host.Outcome State Fault Refusal :=
  s.vectorSlot c .vabs f

/-- `VNEG` (R153). -/
def execVneg (c : Nat) (f : VecF) (s : State) : Host.Outcome State Fault Refusal :=
  s.vectorSlot c .vneg f

/-- `VADDS` (R153). -/
def execVadds (c : Nat) (f : VecF) (s : State) : Host.Outcome State Fault Refusal :=
  s.vectorSlot c .vadds f

/-- `VMULS` (R153). -/
def execVmuls (c : Nat) (f : VecF) (s : State) : Host.Outcome State Fault Refusal :=
  s.vectorSlot c .vmuls f

/-- `VFMAS` (R153). -/
def execVfmas (c : Nat) (f : VecF) (s : State) : Host.Outcome State Fault Refusal :=
  s.vectorSlot c .vfmas f

/-- `VAND` (R153). -/
def execVand (c : Nat) (f : VecF) (s : State) : Host.Outcome State Fault Refusal :=
  s.vectorSlot c .vand f

/-- `VOR` (R153). -/
def execVor (c : Nat) (f : VecF) (s : State) : Host.Outcome State Fault Refusal :=
  s.vectorSlot c .vor f

/-- `VXOR` (R153). -/
def execVxor (c : Nat) (f : VecF) (s : State) : Host.Outcome State Fault Refusal :=
  s.vectorSlot c .vxor f

/-- `VNOT` (R153). -/
def execVnot (c : Nat) (f : VecF) (s : State) : Host.Outcome State Fault Refusal :=
  s.vectorSlot c .vnot f

/-- `VSLL` (R153). -/
def execVsll (c : Nat) (f : VecF) (s : State) : Host.Outcome State Fault Refusal :=
  s.vectorSlot c .vsll f

/-- `VSRL` (R153). -/
def execVsrl (c : Nat) (f : VecF) (s : State) : Host.Outcome State Fault Refusal :=
  s.vectorSlot c .vsrl f

/-- `VSRA` (R153). -/
def execVsra (c : Nat) (f : VecF) (s : State) : Host.Outcome State Fault Refusal :=
  s.vectorSlot c .vsra f

/-- `VCMP` (R153). -/
def execVcmp (c : Nat) (f : VecF) (s : State) : Host.Outcome State Fault Refusal :=
  s.vectorSlot c .vcmp f

/-- `MAND` (R153). -/
def execMand (c : Nat) (f : VecF) (s : State) : Host.Outcome State Fault Refusal :=
  s.vectorSlot c .mand f

/-- `MOR` (R153). -/
def execMor (c : Nat) (f : VecF) (s : State) : Host.Outcome State Fault Refusal :=
  s.vectorSlot c .mor f

/-- `MXOR` (R153). -/
def execMxor (c : Nat) (f : VecF) (s : State) : Host.Outcome State Fault Refusal :=
  s.vectorSlot c .mxor f

/-- `MNOT` (R153). -/
def execMnot (c : Nat) (f : VecF) (s : State) : Host.Outcome State Fault Refusal :=
  s.vectorSlot c .mnot f

/-- `VMOV` (R153). -/
def execVmov (c : Nat) (f : VecF) (s : State) : Host.Outcome State Fault Refusal :=
  s.vectorSlot c .vmov f

/-- `VBCAST` (R153). -/
def execVbcast (c : Nat) (f : VecF) (s : State) : Host.Outcome State Fault Refusal :=
  s.vectorSlot c .vbcast f

/-- `CVT` (R153). -/
def execCvt (c : Nat) (f : VecF) (s : State) : Host.Outcome State Fault Refusal :=
  s.vectorSlot c .cvt f

/-- `MXPACK` (R153). -/
def execMxpack (c : Nat) (f : VecF) (s : State) : Host.Outcome State Fault Refusal :=
  s.vectorSlot c .mxpack f

/-- `MXUNPK` (R153). -/
def execMxunpk (c : Nat) (f : VecF) (s : State) : Host.Outcome State Fault Refusal :=
  s.vectorSlot c .mxunpk f

/-- `REDSUM` (R153). -/
def execRedsum (c : Nat) (f : VecF) (s : State) : Host.Outcome State Fault Refusal :=
  s.vectorSlot c .redsum f

/-- `REDMAX` (R153). -/
def execRedmax (c : Nat) (f : VecF) (s : State) : Host.Outcome State Fault Refusal :=
  s.vectorSlot c .redmax f

/-- `REDMIN` (R153). -/
def execRedmin (c : Nat) (f : VecF) (s : State) : Host.Outcome State Fault Refusal :=
  s.vectorSlot c .redmin f

/-- `SMAXC` (R153). -/
def execSmaxc (c : Nat) (f : VecF) (s : State) : Host.Outcome State Fault Refusal :=
  s.vectorSlot c .smaxc f

/-- `WELF` (R153). -/
def execWelf (c : Nat) (f : VecF) (s : State) : Host.Outcome State Fault Refusal :=
  s.vectorSlot c .welf f

/-- `WMERGE` (R153). -/
def execWmerge (c : Nat) (f : VecF) (s : State) : Host.Outcome State Fault Refusal :=
  s.vectorSlot c .wmerge f

/-- `VLD` (R153). -/
def execVld (c : Nat) (f : VecF) (s : State) : Host.Outcome State Fault Refusal :=
  s.vectorSlot c .vld f

/-- `VST` (R153). -/
def execVst (c : Nat) (f : VecF) (s : State) : Host.Outcome State Fault Refusal :=
  s.vectorSlot c .vst f

/-- `VTRN` (R153). -/
def execVtrn (c : Nat) (f : VecF) (s : State) : Host.Outcome State Fault Refusal :=
  s.vectorSlot c .vtrn f

/-- `VTRNQ` (R153). -/
def execVtrnq (c : Nat) (f : VecF) (s : State) : Host.Outcome State Fault Refusal :=
  s.vectorSlot c .vtrnq f

end Sys2Proof.Machine
end

