-- ==== Sys2Proof/Machine/Dispatch.lean ====
section
/-! DEFINITION. Dispatch: the meaning of each command. -/

namespace Sys2Proof.Machine

def exec (i : Instr) (s : State) : Host.Outcome State Fault Refusal :=
  match i with
  | .registerWrite ag addr size val => Sys2Proof.Machine.execRegisterWrite ag addr size val s
  | .hingeMessageSend side m => Sys2Proof.Machine.execHingeMessageSend side m s
  | .msgFlit side b f => Sys2Proof.Machine.execMsgFlit side b f s
  | .idleFlit side b f => Sys2Proof.Machine.execIdleFlit side b f s
  | .replayFlit side b f => Sys2Proof.Machine.execReplayFlit side b f s
  | .retrainFlit side b f => Sys2Proof.Machine.execRetrainFlit side b f s
  | .discFlit side b f => Sys2Proof.Machine.execDiscFlit side b f s
  | .widthFlit side b f => Sys2Proof.Machine.execWidthFlit side b f s
  | .replayLimit side b => Sys2Proof.Machine.execReplayLimit side b s
  | .flitAckTimeout side b => Sys2Proof.Machine.execFlitAckTimeout side b s
  | .forwardedClockLoss side b => Sys2Proof.Machine.execForwardedClockLoss side b s
  | .hingeAttemptStart h => Sys2Proof.Machine.execHingeAttemptStart h s
  | .hingeClockLock h => Sys2Proof.Machine.execHingeClockLock h s
  | .hingeDeskewDone h => Sys2Proof.Machine.execHingeDeskewDone h s
  | .hingePatternDone h passA passB => Sys2Proof.Machine.execHingePatternDone h passA passB s
  | .hingeStateTimeout h => Sys2Proof.Machine.execHingeStateTimeout h s
  | .hingeFailcountReset h => Sys2Proof.Machine.execHingeFailcountReset h s
  | .hostLossTimeout q => Sys2Proof.Machine.execHostLossTimeout q s
  | .discSendTimer die => Sys2Proof.Machine.execDiscSendTimer die s
  | .discoveryClose => Sys2Proof.Machine.execDiscoveryClose s
  | .hngRetrain q h => Sys2Proof.Machine.execHngRetrain q h s
  | .hngClrCnt q h => Sys2Proof.Machine.execHngClrCnt q h s
  | .bundleIssue c => Sys2Proof.Machine.execBundleIssue c s
  | .scalarLoadReturn c id => Sys2Proof.Machine.execScalarLoadReturn c id s
  | .clusterHalt c => Sys2Proof.Machine.execClusterHalt c s
  | .dspCtlWrite q w => Sys2Proof.Machine.execDspCtlWrite q w s
  | .dspQcfgWrite q n w => Sys2Proof.Machine.execDspQcfgWrite q n w s
  | .dspQdb q n w => Sys2Proof.Machine.execDspQdb q n w s
  | .launchRecordRead q n => Sys2Proof.Machine.execLaunchRecordRead q n s
  | .queueStale q n => Sys2Proof.Machine.execQueueStale q n s
  | .launchStart q => Sys2Proof.Machine.execLaunchStart q s
  | .launchCompletion q id => Sys2Proof.Machine.execLaunchCompletion q id s
  | .clusterFaultReport c => Sys2Proof.Machine.execClusterFaultReport c s
  | .dspAbort q w => Sys2Proof.Machine.execDspAbort q w s
  | .clusterStopTimeout c => Sys2Proof.Machine.execClusterStopTimeout c s
  | .dspCrst q w => Sys2Proof.Machine.execDspCrst q w s
  | .clusterReset c => Sys2Proof.Machine.execClusterReset c s
  | .clusterPowerGate c => Sys2Proof.Machine.execClusterPowerGate c s
  | .nop c => Sys2Proof.Machine.execNop c s
  | .add c rd rs1 rs2 => Sys2Proof.Machine.execAdd c rd rs1 rs2 s
  | .sub c rd rs1 rs2 => Sys2Proof.Machine.execSub c rd rs1 rs2 s
  | .and c rd rs1 rs2 => Sys2Proof.Machine.execAnd c rd rs1 rs2 s
  | .or c rd rs1 rs2 => Sys2Proof.Machine.execOr c rd rs1 rs2 s
  | .xor c rd rs1 rs2 => Sys2Proof.Machine.execXor c rd rs1 rs2 s
  | .sll c rd rs1 rs2 => Sys2Proof.Machine.execSll c rd rs1 rs2 s
  | .srl c rd rs1 rs2 => Sys2Proof.Machine.execSrl c rd rs1 rs2 s
  | .sra c rd rs1 rs2 => Sys2Proof.Machine.execSra c rd rs1 rs2 s
  | .slt c rd rs1 rs2 => Sys2Proof.Machine.execSlt c rd rs1 rs2 s
  | .sltu c rd rs1 rs2 => Sys2Proof.Machine.execSltu c rd rs1 rs2 s
  | .mul c rd rs1 rs2 => Sys2Proof.Machine.execMul c rd rs1 rs2 s
  | .min c rd rs1 rs2 => Sys2Proof.Machine.execMin c rd rs1 rs2 s
  | .max c rd rs1 rs2 => Sys2Proof.Machine.execMax c rd rs1 rs2 s
  | .minu c rd rs1 rs2 => Sys2Proof.Machine.execMinu c rd rs1 rs2 s
  | .maxu c rd rs1 rs2 => Sys2Proof.Machine.execMaxu c rd rs1 rs2 s
  | .addi c rd rs1 imm => Sys2Proof.Machine.execAddi c rd rs1 imm s
  | .andi c rd rs1 imm => Sys2Proof.Machine.execAndi c rd rs1 imm s
  | .ori c rd rs1 imm => Sys2Proof.Machine.execOri c rd rs1 imm s
  | .xori c rd rs1 imm => Sys2Proof.Machine.execXori c rd rs1 imm s
  | .slti c rd rs1 imm => Sys2Proof.Machine.execSlti c rd rs1 imm s
  | .sltiu c rd rs1 imm => Sys2Proof.Machine.execSltiu c rd rs1 imm s
  | .slli c rd rs1 sh => Sys2Proof.Machine.execSlli c rd rs1 sh s
  | .srli c rd rs1 sh => Sys2Proof.Machine.execSrli c rd rs1 sh s
  | .srai c rd rs1 sh => Sys2Proof.Machine.execSrai c rd rs1 sh s
  | .lui c rd imm => Sys2Proof.Machine.execLui c rd imm s
  | .lb c rd rs1 imm => Sys2Proof.Machine.execLb c rd rs1 imm s
  | .lbu c rd rs1 imm => Sys2Proof.Machine.execLbu c rd rs1 imm s
  | .lh c rd rs1 imm => Sys2Proof.Machine.execLh c rd rs1 imm s
  | .lhu c rd rs1 imm => Sys2Proof.Machine.execLhu c rd rs1 imm s
  | .lw c rd rs1 imm => Sys2Proof.Machine.execLw c rd rs1 imm s
  | .lwu c rd rs1 imm => Sys2Proof.Machine.execLwu c rd rs1 imm s
  | .ld c rd rs1 imm => Sys2Proof.Machine.execLd c rd rs1 imm s
  | .sb c rs2 rs1 imm => Sys2Proof.Machine.execSb c rs2 rs1 imm s
  | .sh c rs2 rs1 imm => Sys2Proof.Machine.execSh c rs2 rs1 imm s
  | .sw c rs2 rs1 imm => Sys2Proof.Machine.execSw c rs2 rs1 imm s
  | .sd c rs2 rs1 imm => Sys2Proof.Machine.execSd c rs2 rs1 imm s
  | .ldl c rd rs1 imm => Sys2Proof.Machine.execLdl c rd rs1 imm s
  | .stl c rs2 rs1 imm => Sys2Proof.Machine.execStl c rs2 rs1 imm s
  | .beq c rs1 rs2 off => Sys2Proof.Machine.execBeq c rs1 rs2 off s
  | .bne c rs1 rs2 off => Sys2Proof.Machine.execBne c rs1 rs2 off s
  | .blt c rs1 rs2 off => Sys2Proof.Machine.execBlt c rs1 rs2 off s
  | .bge c rs1 rs2 off => Sys2Proof.Machine.execBge c rs1 rs2 off s
  | .bltu c rs1 rs2 off => Sys2Proof.Machine.execBltu c rs1 rs2 off s
  | .bgeu c rs1 rs2 off => Sys2Proof.Machine.execBgeu c rs1 rs2 off s
  | .jal c rd off => Sys2Proof.Machine.execJal c rd off s
  | .jalr c rd rs1 imm => Sys2Proof.Machine.execJalr c rd rs1 imm s
  | .loop c rc body => Sys2Proof.Machine.execLoop c rc body s
  | .loopi c t body => Sys2Proof.Machine.execLoopi c t body s
  | .brk c rs sense level => Sys2Proof.Machine.execBrk c rs sense level s
  | .amoadd c rd rs1 rs2 => Sys2Proof.Machine.execAmoadd c rd rs1 rs2 s
  | .amoswap c rd rs1 rs2 => Sys2Proof.Machine.execAmoswap c rd rs1 rs2 s
  | .amocas c rd rs1 rs2 => Sys2Proof.Machine.execAmocas c rd rs1 rs2 s
  | .rdcyc c rd => Sys2Proof.Machine.execRdcyc c rd s
  | .lidx c rd depth => Sys2Proof.Machine.execLidx c rd depth s
  | .rdspace c rd => Sys2Proof.Machine.execRdspace c rd s
  | .lcClean c rd rs1 => Sys2Proof.Machine.execLcClean c rd rs1 s
  | .lcInval c rd rs1 => Sys2Proof.Machine.execLcInval c rd rs1 s
  | .lcFlush c rd rs1 => Sys2Proof.Machine.execLcFlush c rd rs1 s
  | .lcCleanw c rd rs1 => Sys2Proof.Machine.execLcCleanw c rd rs1 s
  | .lcInvalw c rd rs1 => Sys2Proof.Machine.execLcInvalw c rd rs1 s
  | .lcFlushw c rd rs1 => Sys2Proof.Machine.execLcFlushw c rd rs1 s
  | .lcLock c rd rs1 => Sys2Proof.Machine.execLcLock c rd rs1 s
  | .lcUnlock c rd rs1 => Sys2Proof.Machine.execLcUnlock c rd rs1 s
  | .mma c f => Sys2Proof.Machine.execMma c f s
  | .mmac c f => Sys2Proof.Machine.execMmac c f s
  | .zdrain c f => Sys2Proof.Machine.execZdrain c f s
  | .zload c f => Sys2Proof.Machine.execZload c f s
  | .mcfg c f => Sys2Proof.Machine.execMcfg c f s
  | .vadd c f => Sys2Proof.Machine.execVadd c f s
  | .vsub c f => Sys2Proof.Machine.execVsub c f s
  | .vmul c f => Sys2Proof.Machine.execVmul c f s
  | .vfma c f => Sys2Proof.Machine.execVfma c f s
  | .vfnma c f => Sys2Proof.Machine.execVfnma c f s
  | .vmin c f => Sys2Proof.Machine.execVmin c f s
  | .vmax c f => Sys2Proof.Machine.execVmax c f s
  | .vabs c f => Sys2Proof.Machine.execVabs c f s
  | .vneg c f => Sys2Proof.Machine.execVneg c f s
  | .vadds c f => Sys2Proof.Machine.execVadds c f s
  | .vmuls c f => Sys2Proof.Machine.execVmuls c f s
  | .vfmas c f => Sys2Proof.Machine.execVfmas c f s
  | .vand c f => Sys2Proof.Machine.execVand c f s
  | .vor c f => Sys2Proof.Machine.execVor c f s
  | .vxor c f => Sys2Proof.Machine.execVxor c f s
  | .vnot c f => Sys2Proof.Machine.execVnot c f s
  | .vsll c f => Sys2Proof.Machine.execVsll c f s
  | .vsrl c f => Sys2Proof.Machine.execVsrl c f s
  | .vsra c f => Sys2Proof.Machine.execVsra c f s
  | .vcmp c f => Sys2Proof.Machine.execVcmp c f s
  | .mand c f => Sys2Proof.Machine.execMand c f s
  | .mor c f => Sys2Proof.Machine.execMor c f s
  | .mxor c f => Sys2Proof.Machine.execMxor c f s
  | .mnot c f => Sys2Proof.Machine.execMnot c f s
  | .vmov c f => Sys2Proof.Machine.execVmov c f s
  | .vbcast c f => Sys2Proof.Machine.execVbcast c f s
  | .cvt c f => Sys2Proof.Machine.execCvt c f s
  | .mxpack c f => Sys2Proof.Machine.execMxpack c f s
  | .mxunpk c f => Sys2Proof.Machine.execMxunpk c f s
  | .redsum c f => Sys2Proof.Machine.execRedsum c f s
  | .redmax c f => Sys2Proof.Machine.execRedmax c f s
  | .redmin c f => Sys2Proof.Machine.execRedmin c f s
  | .smaxc c f => Sys2Proof.Machine.execSmaxc c f s
  | .welf c f => Sys2Proof.Machine.execWelf c f s
  | .wmerge c f => Sys2Proof.Machine.execWmerge c f s
  | .vld c f => Sys2Proof.Machine.execVld c f s
  | .vst c f => Sys2Proof.Machine.execVst c f s
  | .vtrn c f => Sys2Proof.Machine.execVtrn c f s
  | .vtrnq c f => Sys2Proof.Machine.execVtrnq c f s
  | .exp2 c f => Sys2Proof.Machine.execExp2 c f s
  | .log2 c f => Sys2Proof.Machine.execLog2 c f s
  | .rcp c f => Sys2Proof.Machine.execRcp c f s
  | .rsq c f => Sys2Proof.Machine.execRsq c f s
  | .tanh c f => Sys2Proof.Machine.execTanh c f s
  | .sig c f => Sys2Proof.Machine.execSig c f s
  | .erf c f => Sys2Proof.Machine.execErf c f s
  | .sin c f => Sys2Proof.Machine.execSin c f s
  | .cos c f => Sys2Proof.Machine.execCos c f s
  | .lut c f => Sys2Proof.Machine.execLut c f s
  | .lutLd c vs => Sys2Proof.Machine.execLutLd c vs s
  | .lutCommit c => Sys2Proof.Machine.execLutCommit c s
  | .mov c f => Sys2Proof.Machine.execMov c f s
  | .haspAdd c rh rv scope => Sys2Proof.Machine.execHaspAdd c rh rv scope s
  | .haspWait c rh rv scope wh => Sys2Proof.Machine.execHaspWait c rh rv scope wh s
  | .haspSet c rh rv scope => Sys2Proof.Machine.execHaspSet c rh rv scope s
  | .haspReset c rh scope => Sys2Proof.Machine.execHaspReset c rh scope s
  | .fenceC c => Sys2Proof.Machine.execFenceC c s
  | .fenceP c => Sys2Proof.Machine.execFenceP c s
  | .fenceS c => Sys2Proof.Machine.execFenceS c s
  | .frontEndPrepare c va => Sys2Proof.Machine.execFrontEndPrepare c va s
  | .preIssue c va => Sys2Proof.Machine.execPreIssue c va s
  | .moverCommandStart c m => Sys2Proof.Machine.execMoverCommandStart c m s
  | .moverDataResponse c m id piece => Sys2Proof.Machine.execMoverDataResponse c m id piece s
  | .moverCommandComplete c m id => Sys2Proof.Machine.execMoverCommandComplete c m id s
  | .cluLandzWrite ag c z w => Sys2Proof.Machine.execCluLandzWrite ag c z w s
  | .landzWriteApply c => Sys2Proof.Machine.execLandzWriteApply c s
  | .haspOpRelease c => Sys2Proof.Machine.execHaspOpRelease c s
  | .haspBankApply q i' => Sys2Proof.Machine.execHaspBankApply q i' s
  | .haspWaitTimeout c id => Sys2Proof.Machine.execHaspWaitTimeout c id s
  | .hspOpAdd q index value => Sys2Proof.Machine.execHspOpAdd q index value s
  | .hspOpSet q index value => Sys2Proof.Machine.execHspOpSet q index value s
  | .hspOpReset q index => Sys2Proof.Machine.execHspOpReset q index s
  | .hspRop ag q hasp dev value => Sys2Proof.Machine.execHspRop ag q hasp dev value s
  | .hspNcfgWrite q n w => Sys2Proof.Machine.execHspNcfgWrite q n w s
  | .hspNthrWrite q n w => Sys2Proof.Machine.execHspNthrWrite q n w s
  | .hartLoad h a => Sys2Proof.Machine.execHartLoad h a s
  | .hartStore h a => Sys2Proof.Machine.execHartStore h a s
  | .hartAmo h a => Sys2Proof.Machine.execHartAmo h a s
  | .hartFence h pred succ => Sys2Proof.Machine.execHartFence h pred succ s
  | .fencePod h => Sys2Proof.Machine.execFencePod h s
  | .cboClean h pa va => Sys2Proof.Machine.execCboClean h pa va s
  | .cboFlush h pa va => Sys2Proof.Machine.execCboFlush h pa va s
  | .cboInval h pa va cbie => Sys2Proof.Machine.execCboInval h pa va cbie s
  | .cboZero h pa va => Sys2Proof.Machine.execCboZero h pa va s
  | .gets agent line => Sys2Proof.Machine.execGets agent line s
  | .getm agent line => Sys2Proof.Machine.execGetm agent line s
  | .puts agent line => Sys2Proof.Machine.execPuts agent line s
  | .putf agent line => Sys2Proof.Machine.execPutf agent line s
  | .pute agent line => Sys2Proof.Machine.execPute agent line s
  | .putm agent line keep data poison => Sys2Proof.Machine.execPutm agent line keep data poison s
  | .readonce req line => Sys2Proof.Machine.execReadonce req line s
  | .writefull req line mask data poison => Sys2Proof.Machine.execWritefull req line mask data poison s
  | .atomic req addr op operand compare => Sys2Proof.Machine.execAtomic req addr op operand compare s
  | .homeRequestResume home line => Sys2Proof.Machine.execHomeRequestResume home line s
  | .fwdgets agent line req once => Sys2Proof.Machine.execFwdgets agent line req once s
  | .fwdgetm agent line req => Sys2Proof.Machine.execFwdgetm agent line req s
  | .inv agent line => Sys2Proof.Machine.execInv agent line s
  | .backinv agent line => Sys2Proof.Machine.execBackinv agent line s
  | .invack agent line => Sys2Proof.Machine.execInvack agent line s
  | .wback agent line => Sys2Proof.Machine.execWback agent line s
  | .data src dst line data poison => Sys2Proof.Machine.execData src dst line data poison s
  | .datae agent line data poison => Sys2Proof.Machine.execDatae agent line data poison s
  | .dataf agent line data poison => Sys2Proof.Machine.execDataf agent line data poison s
  | .cluLcctlWrite c w => Sys2Proof.Machine.execCluLcctlWrite c w s
  | .xltInvalSpace q w => Sys2Proof.Machine.execXltInvalSpace q w s
  | .invalidationComplete id => Sys2Proof.Machine.execInvalidationComplete id s
  | .walkEntryRead q space va => Sys2Proof.Machine.execWalkEntryRead q space va s
  | .spaceSet mb => Sys2Proof.Machine.execSpaceSet mb s
  | .spaceInval mb => Sys2Proof.Machine.execSpaceInval mb s
  | .spaceGet mb => Sys2Proof.Machine.execSpaceGet mb s
  | .relocate mb => Sys2Proof.Machine.execRelocate mb s
  | .setShelfSplit mb => Sys2Proof.Machine.execSetShelfSplit mb s
  | .setScPolicy mb => Sys2Proof.Machine.execSetScPolicy mb s
  | .flashRead id served => Sys2Proof.Machine.execFlashRead id served s
  | .flashReadTimeout id => Sys2Proof.Machine.execFlashReadTimeout id s
  | .flashBackgroundRelocate block => Sys2Proof.Machine.execFlashBackgroundRelocate block s
  | .flashCounterSave => Sys2Proof.Machine.execFlashCounterSave s
  | .flashScrub block bad => Sys2Proof.Machine.execFlashScrub block bad s
  | .flashDeferEnd => Sys2Proof.Machine.execFlashDeferEnd s
  | .imageEraseDone image => Sys2Proof.Machine.execImageEraseDone image s
  | .patrolScrub line found => Sys2Proof.Machine.execPatrolScrub line found s
  | .fabricFrameReceive port f => Sys2Proof.Machine.execFabricFrameReceive port f s
  | .fabricPortTrain port ok => Sys2Proof.Machine.execFabricPortTrain port ok s
  | .fabricTrainRetry port => Sys2Proof.Machine.execFabricTrainRetry port s
  | .frameAckTimeout port => Sys2Proof.Machine.execFrameAckTimeout port s
  | .frameReplayLimit port => Sys2Proof.Machine.execFrameReplayLimit port s
  | .fecLockLoss port => Sys2Proof.Machine.execFecLockLoss port s
  | .linkGroupJoin port => Sys2Proof.Machine.execLinkGroupJoin port s
  | .writePacket port p => Sys2Proof.Machine.execWritePacket port p s
  | .readPacket port p => Sys2Proof.Machine.execReadPacket port p s
  | .atomicPacket port p => Sys2Proof.Machine.execAtomicPacket port p s
  | .haspAddPacket port p => Sys2Proof.Machine.execHaspAddPacket port p s
  | .readResp port p => Sys2Proof.Machine.execReadResp port p s
  | .remoteTimeout tag => Sys2Proof.Machine.execRemoteTimeout tag s
  | .hello port i' => Sys2Proof.Machine.execHello port i' s
  | .helloTimer port => Sys2Proof.Machine.execHelloTimer port s
  | .relayCmd port p r => Sys2Proof.Machine.execRelayCmd port p r s
  | .relayRsp port p => Sys2Proof.Machine.execRelayRsp port p s
  | .relayResendTimer mseq => Sys2Proof.Machine.execRelayResendTimer mseq s
  | .config port p r => Sys2Proof.Machine.execConfig port p r s
  | .configAck port p => Sys2Proof.Machine.execConfigAck port p s
  | .ping port p => Sys2Proof.Machine.execPing port p s
  | .fabPctlRetrain port => Sys2Proof.Machine.execFabPctlRetrain port s
  | .fabPctlClrCnt port => Sys2Proof.Machine.execFabPctlClrCnt port s
  | .fabPctlDisable port v => Sys2Proof.Machine.execFabPctlDisable port v s
  | .pcieWrite f data ro ep => Sys2Proof.Machine.execPcieWrite f data ro ep s
  | .pcieRead f len => Sys2Proof.Machine.execPcieRead f len s
  | .pcieCompletionTimeout h => Sys2Proof.Machine.execPcieCompletionTimeout h s
  | .rdmaWriteReceive r data => Sys2Proof.Machine.execRdmaWriteReceive r data s
  | .rdmaAckReceive id => Sys2Proof.Machine.execRdmaAckReceive id s
  | .ethLinkChange e up => Sys2Proof.Machine.execEthLinkChange e up s
  | .tmbDb ag mb w => Sys2Proof.Machine.execTmbDb ag mb w s
  | .doorbellStale mb => Sys2Proof.Machine.execDoorbellStale mb s
  | .commandComplete mb => Sys2Proof.Machine.execCommandComplete mb s
  | .commandTimeout mb => Sys2Proof.Machine.execCommandTimeout mb s
  | .tmbWcfgWrite ag mb w => Sys2Proof.Machine.execTmbWcfgWrite ag mb w s
  | .tmbEvptrWrite ag mb w => Sys2Proof.Machine.execTmbEvptrWrite ag mb w s
  | .getCaps mb => Sys2Proof.Machine.execGetCaps mb s
  | .getTopology mb => Sys2Proof.Machine.execGetTopology mb s
  | .getStatus mb => Sys2Proof.Machine.execGetStatus mb s
  | .setDstate mb => Sys2Proof.Machine.execSetDstate mb s
  | .setPowerCap mb => Sys2Proof.Machine.execSetPowerCap mb s
  | .setRampTable mb => Sys2Proof.Machine.execSetRampTable mb s
  | .setHbmMap mb => Sys2Proof.Machine.execSetHbmMap mb s
  | .setPcieWidth mb => Sys2Proof.Machine.execSetPcieWidth mb s
  | .getClocks mb => Sys2Proof.Machine.execGetClocks mb s
  | .setFixedFreq mb => Sys2Proof.Machine.execSetFixedFreq mb s
  | .clearFixedFreq mb => Sys2Proof.Machine.execClearFixedFreq mb s
  | .setBoost mb => Sys2Proof.Machine.execSetBoost mb s
  | .wqAbort mb => Sys2Proof.Machine.execWqAbort mb s
  | .wqStatus mb => Sys2Proof.Machine.execWqStatus mb s
  | .imgList mb => Sys2Proof.Machine.execImgList mb s
  | .imgCreate mb => Sys2Proof.Machine.execImgCreate mb s
  | .imgWrite mb => Sys2Proof.Machine.execImgWrite mb s
  | .imgSeal mb => Sys2Proof.Machine.execImgSeal mb s
  | .imgErase mb => Sys2Proof.Machine.execImgErase mb s
  | .fltDefer mb => Sys2Proof.Machine.execFltDefer mb s
  | .podNeighbours mb => Sys2Proof.Machine.execPodNeighbours mb s
  | .podConfigure mb => Sys2Proof.Machine.execPodConfigure mb s
  | .podCheck mb => Sys2Proof.Machine.execPodCheck mb s
  | .podRelay mb => Sys2Proof.Machine.execPodRelay mb s
  | .getMeasurements mb => Sys2Proof.Machine.execGetMeasurements mb s
  | .attestQuote mb => Sys2Proof.Machine.execAttestQuote mb s
  | .ownerEnroll mb => Sys2Proof.Machine.execOwnerEnroll mb s
  | .fwStage mb => Sys2Proof.Machine.execFwStage mb s
  | .fwActivate mb => Sys2Proof.Machine.execFwActivate mb s
  | .debugChallenge mb => Sys2Proof.Machine.execDebugChallenge mb s
  | .debugUnlock mb => Sys2Proof.Machine.execDebugUnlock mb s
  | .mbAssign mb => Sys2Proof.Machine.execMbAssign mb s
  | .errRead mb => Sys2Proof.Machine.execErrRead mb s
  | .errClear mb => Sys2Proof.Machine.execErrClear mb s
  | .logRead mb => Sys2Proof.Machine.execLogRead mb s
  | .resetDevice mb => Sys2Proof.Machine.execResetDevice mb s
  | .resetHost mb => Sys2Proof.Machine.execResetHost mb s
  | .resetQuadrant mb => Sys2Proof.Machine.execResetQuadrant mb s
  | .reattach mb => Sys2Proof.Machine.execReattach mb s
  | .energyRead mb => Sys2Proof.Machine.execEnergyRead mb s
  | .telemRead mb => Sys2Proof.Machine.execTelemRead mb s
  | .eventMask mb => Sys2Proof.Machine.execEventMask mb s
  | .dirRead mb => Sys2Proof.Machine.execDirRead mb s
  | .regPeek mb => Sys2Proof.Machine.execRegPeek mb s
  | .rootSlewStart => Sys2Proof.Machine.execRootSlewStart s
  | .powerWindow r => Sys2Proof.Machine.execPowerWindow r s
  | .rampWindow region demand => Sys2Proof.Machine.execRampWindow region demand s
  | .droopDetect region => Sys2Proof.Machine.execDroopDetect region s
  | .droopRecover region => Sys2Proof.Machine.execDroopRecover region s
  | .thermalSensorReading sensor temp => Sys2Proof.Machine.execThermalSensorReading sensor temp s
  | .thermalTrip sensor => Sys2Proof.Machine.execThermalTrip sensor s
  | .railOvercurrent q => Sys2Proof.Machine.execRailOvercurrent q s
  | .railOvercurrentRelease q => Sys2Proof.Machine.execRailOvercurrentRelease q s
  | .vinPeakTimeout => Sys2Proof.Machine.execVinPeakTimeout s
  | .estimatorCalibrated => Sys2Proof.Machine.execEstimatorCalibrated s
  | .energyUpdate e => Sys2Proof.Machine.execEnergyUpdate e s
  | .thmClrMax sensor w => Sys2Proof.Machine.execThmClrMax sensor w s
  | .bootWatchdog => Sys2Proof.Machine.execBootWatchdog s
  | .hartFwConfirm => Sys2Proof.Machine.execHartFwConfirm s
  | .remoteSessionOpen certOk => Sys2Proof.Machine.execRemoteSessionOpen certOk s
  | .remoteSessionRequest slot body => Sys2Proof.Machine.execRemoteSessionRequest slot body s
  | .remoteSessionTimeout => Sys2Proof.Machine.execRemoteSessionTimeout s
  | .correctedError e => Sys2Proof.Machine.execCorrectedError e s
  | .uncorrectableError e => Sys2Proof.Machine.execUncorrectableError e s
  | .pwrEnRise => Sys2Proof.Machine.execPwrEnRise s
  | .pwrEnFall => Sys2Proof.Machine.execPwrEnFall s
  | .modRstNFall => Sys2Proof.Machine.execModRstNFall s
  | .modRstNRise => Sys2Proof.Machine.execModRstNRise s
  | .vinRise => Sys2Proof.Machine.execVinRise s
  | .vinDip mv => Sys2Proof.Machine.execVinDip mv s
  | .vinLoss => Sys2Proof.Machine.execVinLoss s
  | .vinOvervoltage => Sys2Proof.Machine.execVinOvervoltage s
  | .vsbLoss => Sys2Proof.Machine.execVsbLoss s
  | .refclkLoss => Sys2Proof.Machine.execRefclkLoss s
  | .railOutOfRegulation rail => Sys2Proof.Machine.execRailOutOfRegulation rail s
  | .smbWriteWord word pec => Sys2Proof.Machine.execSmbWriteWord word pec s
  | .smbBlockWrite data pec => Sys2Proof.Machine.execSmbBlockWrite data pec s
  | .smbProcessCall n pec => Sys2Proof.Machine.execSmbProcessCall n pec s
  | .smbAlertResponse => Sys2Proof.Machine.execSmbAlertResponse s
  | .rootSlewEnd => Sys2Proof.Machine.execRootSlewEnd s
  | .engineOperationEnd c e => Sys2Proof.Machine.execEngineOperationEnd c e s
  | .storeAcknowledged c id => Sys2Proof.Machine.execStoreAcknowledged c id s
  | .pcieCompletion h data ok => Sys2Proof.Machine.execPcieCompletion h data ok s
  | .rdmaReadReceive r len => Sys2Proof.Machine.execRdmaReadReceive r len s
  | .rdmaWriteTimeout id => Sys2Proof.Machine.execRdmaWriteTimeout id s
  | .intxPinChange p i' level => Sys2Proof.Machine.execIntxPinChange p i' level s

end Sys2Proof.Machine
end

