-- ==== Sys2Proof/Safety.lean ====
section
/-! DEFINITION. The terms that statements are made in: when a command can have its effect, and short names for
what it then leaves. -/

namespace Sys2Proof.Machine

/-- The outcomes of a step. -/
abbrev Out := Host.Outcome State Fault Refusal

/-- The next state with the dies in a given state and all else as before. -/
def State.goes (s : State) (k : Chip) : Out := .next { s with chip := k }

/-! ## Sequencer slots -/

/-- A bundle with nothing but a scalar slot. -/
def scalarBundle (i : Scalar) : Bundle256 := { nopBundle with scalar := i }

/-- A bundle with nothing but one engine slot. -/
def matrixBundle (m : Matrix) : Bundle256 := { nopBundle with matrix := some m }
def vectorBundle (op : VOp) (f : VecF) : Bundle256 := { nopBundle with vector := some (op, f) }
def moverBundle (f : MovF) : Bundle256 := { nopBundle with mover := some f }
def sfuBundle (f : Sfu) (wh : Bool) : Bundle256 := { nopBundle with sfu := some f, wh := wh }

/-- No engine slot. -/
def Ready.none : Ready := { preps := [], mov := Option.none, sync := Option.none }

/-- The sequencer may issue, and no register that the bundle reads is awaited (03_cluster_execution.md R81). -/
def Chip.slotReady (k : Chip) (c : Nat) (rs : List SReg) : Bool :=
  k.clusterPresent c && (k.cluster c).canIssue && !(k.cluster c).awaits rs

/-- Queue, claim, buffer and gate entries are free for the engine slots (R81, R159). -/
def Chip.roomFor (k : Chip) (c : Nat) (r : Ready) : Bool := (k.cluster c).hasRoom r false

/-- A bundle of one slot issued with the effect of its scalar slot and its engine slots made ready: every slot takes
effect, and an operation that stands alone in its queue runs to its end. -/
def Chip.slotDone (k : Chip) (c : Nat) (b : Bundle256) (a : SAct) (r : Ready) : Chip :=
  r.preps.foldl (fun k p => k.runSlot c p) (k.commitBundle c b a r)

/-- An effect of the scalar slot alone. -/
def Chip.scalarDone (k : Chip) (c : Nat) (i : Scalar) (a : SAct) : Chip := k.slotDone c (scalarBundle i) a Ready.none

/-- Nothing of a sequencer is outstanding, and no pre-issued command waits. -/
def Cluster.quiet (x : Cluster) : Bool :=
  x.loads.isEmpty && x.stores.isEmpty && [0, 1].all (fun m => (x.mover m).cmds.all (fun d => !d.speculative))

/-- Nothing is queued, claimed, waited for or outstanding at a cluster, so that an engine operation issued now starts at
once (03_cluster_execution.md R85-R91). -/
def Cluster.enginesFree (x : Cluster) : Bool := x.quiet && x.queues.isEmpty && x.claims.isEmpty && x.waits.isEmpty

/-- A sequencer after a bundle without a scalar instruction: the next bundle, the loops, the next issue number. -/
def Cluster.issued (x : Cluster) : Cluster :=
  { x with
    pc := (loopEnd x.pc x.loops).1, loops := (loopEnd x.pc x.loops).2, nextNo := x.nextNo + 1, whEnded := false
    fetchRead := none, descRead := none, lockRead := none }

/-- A sequencer whose bundle of one engine slot has been issued: the operation stands alone in its queue with its claims. -/
def Cluster.holding (x : Cluster) (p : Prep) : Cluster :=
  { (x.noteMode p).issued with
    queues := [(p.eng, [({ no := x.nextNo, op := p.op } : EngEnt)])], claims := p.claims x.nextNo }

/-- An operation has left its queue and given up its claims. -/
def Cluster.ended (x : Cluster) (no eng : Nat) : Cluster :=
  ({ x with queues := tblMod [] x.queues eng (fun q => q.drop 1) } : Cluster).release no eng

/-- The operands of a matrix instruction meet every check of issue (05_matrix_units.md R169, R180; 04_iluchezia_bundles.md
R147, R148): no offset above the store, no extent beyond it or in a refused landing zone, every offset and stride a
multiple of 64, a length of 1 to 65,536 in whole groups, a tile of the kind it is added to or drained from, and
scale offsets without other bits. -/
def Cluster.matrixOk (x : Cluster) (m : Matrix) : Bool :=
  let v (r : SReg) : Nat := (x.reg r).toNat
  let p := x.matrixPrep m
  let u := tblGet MUnit.reset x.munits p.eng
  match m with
  | .mma complex f =>
    let (sa, (sb, clean)) := splitRsc (x.reg f.rsc)
    let scaled := mxScaled f.fmtA.toNat
    x.placed [v f.ra, v f.rb] p.exts && (!scaled || clean) &&
      aligned64 ([v f.ra, v f.ras, v f.rb, v f.rbs] ++ (if scaled then [sa, sb] else [])) &&
      decide (1 ≤ v f.rk ∧ v f.rk ≤ 65536 ∧ v f.rk % mxGroup f.fmtA.toNat = 0) && (!f.acc || u.seqComplex = complex)
  | .zdrain f =>
    let sc := if drainMx f.dfmt.toNat then [v f.rsc] else []
    x.placed (v f.rd :: sc) p.exts && aligned64 (v f.rd :: v f.rds :: sc) && !(drainMx f.dfmt.toNat && u.seqComplex)
  | .zload f => x.placed [v f.rs] p.exts && aligned64 [v f.rs, v f.rss]
  | .mcfg _ => true

/-- The operands of a vector instruction meet every check of issue (R148): those of a `VLD` and of a `VST` lie in the store,
on multiples of 64. -/
def Cluster.vectorOk (x : Cluster) (op : VOp) (f : VecF) : Bool :=
  !memOp op || (x.placed [(x.reg f.rs).toNat] (x.vectorPrep op f).exts && aligned64 [(x.reg f.rs).toNat, (x.reg f.rs2).toNat])

/-- The operand of a `LUT.LD` meets every check of issue (07_special_functions.md R237; R148). -/
def Cluster.lutOk (x : Cluster) (vs : SReg) : Bool :=
  x.placed [(x.reg vs).toNat] (x.lutPrep vs).exts && aligned64 [(x.reg vs).toNat]

/-- One truth value as a register value. -/
def flagWord (p : Bool) : U64 := if p then 1 else 0

/-- What the sequencer needs to issue a bundle of one scalar instruction that reads the registers `rs`: it may issue, no
register is awaited, and the claim list is not overfull. -/
def ScalarReady (s : State) (c : Nat) (rs : List SReg) : Prop :=
  s.chip.slotReady c rs = true ∧ s.chip.roomFor c Ready.none = true

/-! ## Harts -/

/-- Nothing of a hart that runs is outstanding. -/
def Hart.quiet (x : Hart) : Bool := x.running && !x.stopped && x.accs.isEmpty && x.stores.isEmpty && x.fence.isNone

/-! ## Tumbler commands -/

/-- A mailbox runs a command of opcode `op` that has no answer yet (16_tumbler_interface.md R466, R467). -/
def State.commandRuns (s : State) (mb op : Nat) : Prop :=
  (s.chip.box mb).st = .running ∧ (s.chip.box mb).result = none ∧ slotOp (s.chip.box mb).copied = op

/-- The state in which a mailbox's running command has been worked on, with its answer if it has one. -/
def State.answers (s : State) (mb : Nat) (r : Option MbResult) : Out :=
  .next (s.onChip (fun k => k.updBox mb (fun b => { b with result := r, begun := true })))

/-- An answer of a status alone. -/
def State.refuses (s : State) (mb status : Nat) : Out := s.answers mb (some (mbResult status []))

/-! ## Boot -/

/-- The bounds of what the SPI-NOR and the measurement log hold (R503, R514, R518): every SVN floor and the enrolment counter are at
most 256, the bits of their fields, and the log holds at most 256 entries. -/
def Boot.bounded (b : Boot) : Bool :=
  decide (b.tumbler.floor ≤ 256) && decide (b.hart.floor ≤ 256) && decide (b.counter ≤ 256) && decide (b.mlog.length ≤ 256)

end Sys2Proof.Machine
end

