-- ==== Sys2Proof/Certificates/Slice0/Obligations.lean ====
section
/-! DEFINITION. The statements about this model (OBLIGATIONS.json). A file name in a docstring is a file of spec/, and a number with `.md`
alone a row of notes/assumptions. -/

open Sys2Proof Sys2Proof.Machine

/-- A step runs the command at the front of the queue with the queue's rest. -/
def Obligations.StepRunsFrontCommand : Prop :=
  ∀ (c : Instr) (rest : List Instr) (s : State),
    step { s with pending := c :: rest } = exec c { s with pending := rest }

/-- With no command waiting a step is one REFCLK cycle: it counts the cycle, and `ROOT_MHZ / 600` ACLK cycles in each
quadrant that is up and awake, while the host die runs; a root that slews moves by 1 MHz in every second cycle, 50 MHz in 1 µs
(17_power_clocks_thermal.md R477); packets that wait at a port grow older; each hundredth cycle counts a microsecond on the ports
in which a packet has waited for credits since the last; it changes nothing else. That an empty queue stands for a cycle is the model's
choice, notes/assumptions/4.md and 59.md. -/
def Obligations.EmptyQueueTicks : Prop :=
  ∀ (s : State), s.pending = [] →
    ∃ t : State, step s = .next t ∧
      (s.pins.pgood = false → t = s) ∧
      (s.pins.pgood = true →
        let now := s.chip.mgmt.now + 1
        let p := s.power
        let aged (l : List Queued) : List Queued := l.map (fun q => { q with age := q.age + 1 })
        t.chip.mgmt.now = now ∧
        (∀ q, (t.chip.quad q).aclk =
          if (s.chip.quad q).up && !(s.chip.quad q).asleep then (s.chip.quad q).aclk + p.root
          else (s.chip.quad q).aclk) ∧
        (∀ q, t.chip.quad q = { s.chip.quad q with aclk := (t.chip.quad q).aclk }) ∧
        t = { s with
          power := { p with root := t.power.root }
          chip := { s.chip with
            mgmt := { s.chip.mgmt with now := now }
            fabric := { s.chip.fabric with ports := t.chip.fabric.ports, waiting := t.chip.fabric.waiting }
            quads := t.chip.quads } } ∧
        t.power.root = (if p.slewing = true ∧ now % 2 = 0 then
          (if p.root < p.target then p.root + 1 else if p.target < p.root then p.root - 1 else p.root) else p.root) ∧
        t.chip.fabric.waiting.map (fun w => w.q.age) = s.chip.fabric.waiting.map (fun w => w.q.age + 1) ∧
        (∀ n, let old := s.chip.fabric.port n
          let new := t.chip.fabric.port n
          let stalls := old.waited || old.starved
          new = { old with
            out := aged old.out, inq := aged old.inq, waited := new.waited, creditStall := new.creditStall } ∧
          (now % 100 ≠ 0 → new.waited = stalls ∧ new.creditStall = old.creditStall) ∧
          (now % 100 = 0 → new.waited = false ∧
            new.creditStall = if stalls then satAdd old.creditStall 1 else old.creditStall)))

/-- What a step can end in: it answers a next state, whose queue is the rest of the queue; no step faults, and nothing is
refused. -/
def Obligations.StepOutcomes : Prop :=
  ∀ (s : State),
    ∃ t, step s = .next t ∧ t.pending = s.pending.tail

/-- What reset leaves of the values the spec gives: no command waits, every cluster and hasp is at its reset state, every scalar
register of a cluster is zero, memory reads zero without poison, and no REFCLK cycle has been counted. That the queue is empty is the
model's choice. -/
def Obligations.ResetHolds : Prop :=
  State.reset.pending = [] ∧
  (∀ c, State.reset.chip.cluster c = Cluster.reset) ∧
  (∀ q i, ((State.reset.chip.quad q).hasp i).count = 0) ∧
  (∀ a, State.reset.chip.byte a = 0) ∧
  (∀ l, State.reset.chip.poisoned l = false) ∧
  (∀ r, Cluster.reset.reg r = 0) ∧
  State.reset.chip.mgmt.now = 0

/-- The bounds hold at reset. -/
def Obligations.BootBoundsAtReset : Prop := Boot.bounded State.reset.boot = true

/-- Every step keeps the bounds, and no step lowers an SVN floor or the enrolment counter: what was retired stays
retired (R503, R518). -/
def Obligations.BootBoundsKept : Prop :=
  ∀ (s t : State), Boot.bounded s.boot = true → step s = .next t →
    Boot.bounded t.boot = true ∧ s.boot.tumbler.floor ≤ t.boot.tumbler.floor ∧ s.boot.hart.floor ≤ t.boot.hart.floor ∧
    s.boot.counter ≤ t.boot.counter

/-- Every legal bundle is the one its 256 bits spell: no field of any slot is lost or moved. -/
def Obligations.BundleRoundTrip : Prop :=
  ∀ (b : Bundle256), b.legal = true → decodeBundle (encodeBundle b) = some b

/-- The bundles of the assembled example of 04_iluchezia_bundles.md, as eight words each, decode to the slots that the example
names; `WH` without a `HASP.WAIT`, a reserved scalar opcode and a reserved control bit do not decode. -/
def Obligations.BundleWords : Prop :=
  let word (ws : List Nat) : BitVec 256 := BitVec.ofNat 256 (ws.foldr (fun w n => w + 2 ^ 32 * n) 0)
  let mma (acc : Bool) : Matrix :=
    .mma false { unit := 0, acc := acc, fmtA := 2, fmtB := 2, ra := 5, ras := 7, rb := 6, rbs := 8, rk := 9, rsc := 0 }
  decodeBundle (word [0x02002942, 0x18E52201, 0x94, 0, 0, 0, 0, 0x00010000]) =
    some { nopBundle with scalar := .alui .addi 5 5 512, matrix := some (mma false) } ∧
  decodeBundle (word [0x00020169, 0, 0, 0, 0, 0, 0, 0]) = some (scalarBundle (.loopi 5 2)) ∧
  decodeBundle (word [0x000C3181, 0, 0, 0, 0, 0, 0, 0]) = some (scalarBundle (.alu .add 6 6 12)) ∧
  decodeBundle (word [0x02002942, 0x18E52241, 0x94, 0, 0, 0, 0, 0x00010000]) =
    some { nopBundle with scalar := .alui .addi 5 5 512, matrix := some (mma true) } ∧
  decodeBundle (word [0, 0x01CD0003, 0, 0, 0, 0, 0, 0x01010000]) = some { nopBundle with
    stop := true
    matrix := some (.zdrain { unit := 0, rm := 0, dfmt := 0, sat := false, rd := 13, rds := 14, rsc := 0 }) } ∧
  decodeBundle (word [0, 0, 0, 0, 0, 0, 0, 0x00800000]) = none ∧
  decodeBundle (word [0x0C, 0, 0, 0, 0, 0, 0, 0]) = none ∧
  decodeBundle (word [0, 0, 0, 0, 0, 0, 0, 0x04000000]) = none

/-- R122: the scalar word zero is `NOP`, and a slot whose valid bit is clear is empty in every bundle that decodes, with all its bits
zero; a bundle with a bit set there does not decode. -/
def Obligations.InvalidSlotsAreZero : Prop :=
  ∀ (w : BitVec 256),
    (∀ b, decodeBundle w = some b →
      (w.extractLsb' 0 32 = 0 → b.scalar = .nop) ∧
      (w.getLsbD 240 = false → b.matrix = none) ∧ (w.getLsbD 241 = false → b.vector = none) ∧
      (w.getLsbD 242 = false → b.mover = none) ∧ (w.getLsbD 243 = false → b.sfu = none)) ∧
    (w.getLsbD 240 = false → w.extractLsb' 32 64 ≠ 0 → decodeBundle w = none) ∧
    (w.getLsbD 241 = false → w.extractLsb' 96 64 ≠ 0 → decodeBundle w = none) ∧
    (w.getLsbD 242 = false → w.extractLsb' 160 48 ≠ 0 → decodeBundle w = none) ∧
    (w.getLsbD 243 = false → w.extractLsb' 208 32 ≠ 0 → decodeBundle w = none)

/-- R146: the formats of an `MMA` or `MMAC` that a decoded bundle holds are equal or one of the three mixed pairs, of which `MMAC` has
the pair {0x2, 0x3} alone. -/
def Obligations.MatrixFormatPairs : Prop :=
  ∀ (w : BitVec 256) (b : Bundle256) (complex : Bool) (f : MmaF),
    decodeBundle w = some b → b.matrix = some (.mma complex f) →
    let pair (x y : BitVec 4) : Prop := (f.fmtA = x ∧ f.fmtB = y) ∨ (f.fmtA = y ∧ f.fmtB = x)
    (f.fmtA = f.fmtB ∨ pair 2 3 ∨ pair 4 5 ∨ pair 6 7) ∧ (complex = true → f.fmtA = f.fmtB ∨ pair 2 3)

/-- R130, R140, R80: what `scalarDone` is for a register write of a sequencer with nothing outstanding: the register is
written (`s0` is not), the program counter and the loop stack go on, the issue number rises, the wait bit and the notes of the
bundle's own reads clear, and nothing else of the module changes. No `BREAK` writes a register.

R137, R139, R140, R142, R143: what a control transfer changes at a sequencer with nothing outstanding: the program
counter, the loops, the predictor of R276 and the link register, the issue number, the wait bit and the notes of the bundle's
own reads; nothing else of the module, and no byte of memory.

R140: the end bundle of the innermost loop counts an iteration; the loop goes on at its start while the count stays
below the trip count, and is popped otherwise, and then the same holds of the next loop if it ends at the same bundle.
A bundle that ends no loop goes on at the next bundle. -/
def Obligations.ScalarFrames : Prop :=
  (∀ (k : Chip) (c : Nat) (i : Scalar) (rd : SReg) (v : U64), (k.cluster c).quiet = true → (∀ r p n, i ≠ .brk r p n) →
    let x := k.cluster c
    let y := (k.scalarDone c i (.write rd v)).cluster c
    (∀ r, y.reg r = if r = rd ∧ rd ≠ 0 then v else x.reg r) ∧
    y.pc = (loopEnd x.pc x.loops).1 ∧ y.loops = (loopEnd x.pc x.loops).2 ∧
    (x.loops = [] → y.pc = x.pc + 32 ∧ y.loops = []) ∧
    y = { x with
      regs := y.regs, pc := y.pc, loops := y.loops, nextNo := x.nextNo + 1, whEnded := false
      fetchRead := none, descRead := none, lockRead := none } ∧
    (∀ d, d ≠ c → (k.scalarDone c i (.write rd v)).cluster d = k.cluster d) ∧
    (∀ a, (k.scalarDone c i (.write rd v)).byte a = k.byte a) ∧
    k.scalarDone c i (.write rd v) = { k with clusters := (k.scalarDone c i (.write rd v)).clusters }) ∧
  (∀ (k : Chip) (c : Nat) (i : Scalar) (t : U64) (l : Option (SReg × U64)) (e : LoopEnt) (n : Nat),
    (k.cluster c).quiet = true →
    let x := k.cluster c
    let y (a : SAct) := (k.scalarDone c i a).cluster c
    (y (.jump t l)).pc = t ∧
    (y (.jump t l)).loops = x.loops.filter (fun e => e.start.toNat ≤ t.toNat ∧ t.toNat ≤ e.stop.toNat) ∧
    (∀ r, (y (.jump t l)).reg r = match l with
      | some (rd, v) => if r = rd ∧ rd ≠ 0 then v else x.reg r
      | none => x.reg r) ∧
    (y .none).pc = (loopEnd x.pc x.loops).1 ∧ (y .none).loops = (loopEnd x.pc x.loops).2 ∧ (y .none).regs = x.regs ∧
    (y (.push e)).pc = x.pc + 32 ∧ (y (.push e)).loops = e :: x.loops ∧ (y (.push e)).regs = x.regs ∧
    (y (.pass t)).pc = t ∧ (y (.pass t)).loops = x.loops ∧ (y (.pass t)).regs = x.regs ∧
    (y (.leave n t)).pc = t ∧ (y (.leave n t)).loops = x.loops.drop n ∧ (y (.leave n t)).regs = x.regs ∧
    (∀ a, a = .jump t l ∨ a = .none ∨ a = .push e ∨ a = .pass t ∨ a = .leave n t →
      y a = { x with
        regs := (y a).regs, pc := (y a).pc, loops := (y a).loops, preds := (y a).preds
        nextNo := x.nextNo + 1, whEnded := false, fetchRead := none, descRead := none, lockRead := none } ∧
      (∀ d, d ≠ c → (k.scalarDone c i a).cluster d = k.cluster d) ∧
      (∀ b, (k.scalarDone c i a).byte b = k.byte b) ∧
      k.scalarDone c i a = { k with clusters := (k.scalarDone c i a).clusters })) ∧
  (∀ (pc : U64) (e : LoopEnt) (r : List LoopEnt),
    loopEnd pc [] = (pc + 32, []) ∧
    (e.stop ≠ pc → loopEnd pc (e :: r) = (pc + 32, e :: r)) ∧
    (e.stop = pc → e.index + 1 < e.trip → loopEnd pc (e :: r) = (e.start, { e with index := e.index + 1 } :: r)) ∧
    (e.stop = pc → e.trip ≤ e.index + 1 → loopEnd pc (e :: r) = loopEnd pc r))

/-- R130: each ALU-group instruction writes its result, computed on the two source registers, to rd.

R129, R122, R135: the immediate forms, NOP, LUI and the three register reads of the sequencer. `ADDI`, `ANDI`, `SLTI`
and `SLTIU` sign-extend their immediate, `ORI` and `XORI` zero-extend it. `LIDX` reads an active loop; without that loop
it takes the fault of an illegal bundle. -/
def Obligations.ScalarArithmeticRows : Prop :=
  (∀ (s : State) (c : Nat) (rd rs1 rs2 : SReg), ScalarReady s c [rs1, rs2] →
    let a := (s.chip.cluster c).reg rs1
    let b := (s.chip.cluster c).reg rs2
    let ends (op : AluOp) (v : U64) : Out := s.goes (s.chip.scalarDone c (.alu op rd rs1 rs2) (.write rd v))
    exec (.add c rd rs1 rs2) s = ends .add (a + b) ∧
    exec (.sub c rd rs1 rs2) s = ends .sub (a - b) ∧
    exec (.and c rd rs1 rs2) s = ends .and (a &&& b) ∧
    exec (.or c rd rs1 rs2) s = ends .or (a ||| b) ∧
    exec (.xor c rd rs1 rs2) s = ends .xor (a ^^^ b) ∧
    exec (.sll c rd rs1 rs2) s = ends .sll (a <<< (b.toNat % 64)) ∧
    exec (.srl c rd rs1 rs2) s = ends .srl (a >>> (b.toNat % 64)) ∧
    exec (.sra c rd rs1 rs2) s = ends .sra (a.sshiftRight (b.toNat % 64)) ∧
    exec (.slt c rd rs1 rs2) s = ends .slt (flagWord (decide (a.toInt < b.toInt))) ∧
    exec (.sltu c rd rs1 rs2) s = ends .sltu (flagWord (decide (a.toNat < b.toNat))) ∧
    exec (.mul c rd rs1 rs2) s = ends .mul (BitVec.ofNat 64 (a.toNat * b.toNat)) ∧
    exec (.min c rd rs1 rs2) s = ends .min (if a.toInt < b.toInt then a else b) ∧
    exec (.max c rd rs1 rs2) s = ends .max (if a.toInt < b.toInt then b else a) ∧
    exec (.minu c rd rs1 rs2) s = ends .minu (if a.toNat < b.toNat then a else b) ∧
    exec (.maxu c rd rs1 rs2) s = ends .maxu (if a.toNat < b.toNat then b else a)) ∧
  (∀ (s : State) (c : Nat) (rd rs1 : SReg) (imm : BitVec 16) (sh : BitVec 6) (up : BitVec 21) (depth : BitVec 2),
    let a := (s.chip.cluster c).reg rs1
    let sx : U64 := imm.signExtend 64
    let zx : U64 := imm.setWidth 64
    let alu (op : AluIOp) (v : U64) : Out := s.goes (s.chip.scalarDone c (.alui op rd rs1 imm) (.write rd v))
    let shf (op : ShiftOp) (v : U64) : Out := s.goes (s.chip.scalarDone c (.shift op rd rs1 sh) (.write rd v))
    (ScalarReady s c [rs1] →
      exec (.addi c rd rs1 imm) s = alu .addi (a + sx) ∧
      exec (.andi c rd rs1 imm) s = alu .andi (a &&& sx) ∧
      exec (.ori c rd rs1 imm) s = alu .ori (a ||| zx) ∧
      exec (.xori c rd rs1 imm) s = alu .xori (a ^^^ zx) ∧
      exec (.slti c rd rs1 imm) s = alu .slti (flagWord (decide (a.toInt < sx.toInt))) ∧
      exec (.sltiu c rd rs1 imm) s = alu .sltiu (flagWord (decide (a.toNat < sx.toNat))) ∧
      exec (.slli c rd rs1 sh) s = shf .slli (a <<< sh.toNat) ∧
      exec (.srli c rd rs1 sh) s = shf .srli (a >>> sh.toNat) ∧
      exec (.srai c rd rs1 sh) s = shf .srai (a.sshiftRight sh.toNat)) ∧
    (ScalarReady s c [] →
      exec (.nop c) s = s.goes (s.chip.scalarDone c .nop .none) ∧
      exec (.lui c rd up) s = s.goes (s.chip.scalarDone c (.lui rd up) (.write rd (up.signExtend 64 <<< 16))) ∧
      exec (.rdcyc c rd) s =
        s.goes (s.chip.scalarDone c (.rdcyc rd) (.write rd (BitVec.ofNat 64 ((s.chip.quad (c / 24)).aclk / 600)))) ∧
      exec (.rdspace c rd) s =
        s.goes (s.chip.scalarDone c (.rdspace rd) (.write rd (BitVec.ofNat 64 (s.chip.cluster c).space))) ∧
      exec (.lidx c rd depth) s =
        match (s.chip.cluster c).loops[depth.toNat]? with
        | some e => s.goes (s.chip.scalarDone c (.lidx rd depth) (.write rd (BitVec.ofNat 64 e.index)))
        | none => s.goes (s.chip.seqFault c 5 (s.chip.cluster c).pc none)))

/-- R137, R141: the control transfers, each for a bundle that is not the end bundle of an active loop. A branch that is not
taken goes on to the next bundle; a taken one, `JAL` and `JALR` go to their target, and the last two write the address of
the bundle after to rd. A `JALR` to an address that is not a multiple of 32 takes fault `MISALIGNED` instead. At the
end bundle of an active loop each takes fault `ILLEGAL`.

R138, R139, R143: `LOOP` and `LOOPI` push a loop with index 0, for a trip count of 1 or more, unless four are
active or the new one ends beyond the innermost; a `LOOP` with trip count 0 goes to the bundle after the body. `BREAK`
leaves `level + 1` loops where its condition holds. The faults are `ILLEGAL`. -/
def Obligations.ControlRows : Prop :=
  (∀ (s : State) (c : Nat) (rd rs1 rs2 : SReg) (off imm : BitVec 16) (far : BitVec 21),
    let x := s.chip.cluster c
    let a := x.reg rs1
    let b := x.reg rs2
    let there : U64 := x.pc + (off.signExtend 64 <<< 5)
    let br (op : BrOp) (p : Prop) [Decidable p] : Out :=
      s.goes (s.chip.scalarDone c (.branch op rs1 rs2 off) (if p then .jump there none else .none))
    let illegal : Out := s.goes (s.chip.seqFault c 5 x.pc none)
    (ScalarReady s c [rs1, rs2] →
      (x.atLoopEnd x.pc = false →
        exec (.beq c rs1 rs2 off) s = br .beq (a = b) ∧
        exec (.bne c rs1 rs2 off) s = br .bne (a ≠ b) ∧
        exec (.blt c rs1 rs2 off) s = br .blt (a.toInt < b.toInt) ∧
        exec (.bge c rs1 rs2 off) s = br .bge (b.toInt ≤ a.toInt) ∧
        exec (.bltu c rs1 rs2 off) s = br .bltu (a.toNat < b.toNat) ∧
        exec (.bgeu c rs1 rs2 off) s = br .bgeu (b.toNat ≤ a.toNat)) ∧
      (x.atLoopEnd x.pc = true →
        exec (.beq c rs1 rs2 off) s = illegal ∧ exec (.bne c rs1 rs2 off) s = illegal ∧
        exec (.blt c rs1 rs2 off) s = illegal ∧ exec (.bge c rs1 rs2 off) s = illegal ∧
        exec (.bltu c rs1 rs2 off) s = illegal ∧ exec (.bgeu c rs1 rs2 off) s = illegal)) ∧
    (ScalarReady s c [] →
      exec (.jal c rd far) s =
        if x.atLoopEnd x.pc then illegal
        else s.goes (s.chip.scalarDone c (.jal rd far)
          (.jump (x.pc + (far.signExtend 64 <<< 5)) (some (rd, x.pc + 32))))) ∧
    (ScalarReady s c [rs1] →
      exec (.jalr c rd rs1 imm) s =
        if x.atLoopEnd x.pc then illegal
        else if (a + imm.signExtend 64).toNat % 32 ≠ 0 then s.goes (s.chip.seqFault c 4 x.pc none)
        else s.goes (s.chip.scalarDone c (.jalr rd rs1 imm)
          (.jump (a + imm.signExtend 64) (some (rd, x.pc + 32)))))) ∧
  (∀ (s : State) (c : Nat) (r : SReg) (body : BitVec 16) (t : BitVec 10) (sense : Bool) (level : BitVec 2),
    let x := s.chip.cluster c
    let stop : U64 := x.pc + BitVec.ofNat 64 (32 * body.toNat)
    let illegal : Out := s.goes (s.chip.seqFault c 5 x.pc none)
    let push (i : Scalar) (n : Nat) : Out :=
      if 4 ≤ x.loops.length then illegal
      else if ∃ e, x.loops.head? = some e ∧ e.stop.toNat < stop.toNat then illegal
      else s.goes (s.chip.scalarDone c i (.push { start := x.pc + 32, stop := stop, trip := n, index := 0 }))
    let n := (x.reg r).toNat % 2 ^ 32
    x.atLoopEnd x.pc = false →
    (ScalarReady s c [r] → body ≠ 0 →
      exec (.loop c r body) s =
        if n = 0 then s.goes (s.chip.scalarDone c (.loop r body) (.pass (stop + 32)))
        else push (.loop r body) n) ∧
    (ScalarReady s c [] → body ≠ 0 → t ≠ 0 → exec (.loopi c t body) s = push (.loopi t body) t.toNat) ∧
    (ScalarReady s c [r] →
      exec (.brk c r sense level) s =
        match x.loops[level.toNat]? with
        | none => illegal
        | some e => s.goes (s.chip.scalarDone c (.brk r sense level)
            (if (x.reg r = 0) = (sense = true) then .leave (level.toNat + 1) (e.stop + 32) else .none))))

/-- R141: a branch, `JAL`, `JALR`, `LOOP`, `LOOPI` or `BREAK` at the end bundle of an active loop takes fault `ILLEGAL` and has no
other effect. -/
def Obligations.LoopEndHoldsNoTransfer : Prop :=
  ∀ (s : State) (c : Nat) (rd rs1 rs2 : SReg) (off imm body : BitVec 16) (far : BitVec 21) (t : BitVec 10) (sense : Bool)
    (level : BitVec 2),
    let x := s.chip.cluster c
    let illegal (i : Instr) : Prop := exec i s = s.goes (s.chip.seqFault c 5 x.pc none)
    (∃ e ∈ x.loops, e.stop = x.pc) → ScalarReady s c [rs1, rs2] → body ≠ 0 → t ≠ 0 →
    illegal (.beq c rs1 rs2 off) ∧ illegal (.bne c rs1 rs2 off) ∧ illegal (.blt c rs1 rs2 off) ∧
    illegal (.bge c rs1 rs2 off) ∧ illegal (.bltu c rs1 rs2 off) ∧ illegal (.bgeu c rs1 rs2 off) ∧
    illegal (.jal c rd far) ∧ illegal (.jalr c rd rs1 imm) ∧
    illegal (.loop c rs1 body) ∧ illegal (.loopi c t body) ∧ illegal (.brk c rs1 sense level)

/-- R129, R132, R94: a load goes to its physical address and waits there as an outstanding access; a misaligned address takes
fault `MISALIGNED`. The rows differ in width and in sign extension. `LDL` goes to an offset of the own store; one that
is no multiple of 8 or lies outside the store or in the far half of a landing zone faults.

R129, R132, R133: a store enters the store buffer with the low bytes of rs2; a misaligned address takes fault
`MISALIGNED`. A store to the own cluster's `CLU_LANDZ` is taken by the landing zone instead (R271), once no register
access of the sequencer is outstanding. `STL` goes to an offset of the own store.

R134: an atomic goes to the double word at rs1 with operand rs2, and with rd as the value compared. -/
def Obligations.ScalarMemoryRows : Prop :=
  (∀ (s : State) (c : Nat) (rd rs1 : SReg) (imm : BitVec 16),
    let x := s.chip.cluster c
    let va : U64 := x.reg rs1 + imm.signExtend 64
    let row (i : Instr) (size : BitVec 2) (signed : Bool) : Prop :=
      (∀ k pa cached claim, s.chip.seqPlace c va (2 ^ size.toNat) .read = (k, .inr (pa, (cached, claim))) →
        k.roomFor c Ready.none = true →
        exec i s = s.goes (k.scalarDone c (.load size signed rd rs1 imm)
          (.access (.load signed) rd va pa (2 ^ size.toNat) cached x.space claim))) ∧
      (va.toNat % 2 ^ size.toNat ≠ 0 → exec i s = s.goes (s.chip.seqFault c 4 x.pc none))
    ScalarReady s c [rs1] → x.amoOut = false →
    row (.lb c rd rs1 imm) 0 true ∧ row (.lbu c rd rs1 imm) 0 false ∧
    row (.lh c rd rs1 imm) 1 true ∧ row (.lhu c rd rs1 imm) 1 false ∧
    row (.lw c rd rs1 imm) 2 true ∧ row (.lwu c rd rs1 imm) 2 false ∧
    row (.ld c rd rs1 imm) 3 true ∧
    exec (.ldl c rd rs1 imm) s =
      match x.offsetFault va with
      | some code => s.goes (s.chip.seqFault c code x.pc none)
      | none => s.goes (s.chip.scalarDone c (.ldl rd rs1 imm)
          (.access (.load true) rd va (s.chip.offsetPa c va.toNat) 8 false 0 (some va.toNat)))) ∧
  (∀ (s : State) (c : Nat) (rs2 rs1 : SReg) (imm : BitVec 16),
    let x := s.chip.cluster c
    let va : U64 := x.reg rs1 + imm.signExtend 64
    let v := x.reg rs2
    let row (i : Instr) (size : BitVec 2) : Prop :=
      let n := 2 ^ size.toNat
      (∀ k pa cached claim, s.chip.seqPlace c va n .write = (k, .inr (pa, (cached, claim))) →
        k.roomFor c Ready.none = true →
        let landz := if k.isReg pa then ownLandz c (paLocal pa) else none
        (landz = none → exec i s = s.goes (k.scalarDone c (.store size rs2 rs1 imm)
          (.store pa (toBytes n v.toNat) cached x.space claim))) ∧
        (∀ z, landz = some z → k.regOut c = false → exec i s = s.goes (k.scalarDone c (.store size rs2 rs1 imm)
          (.zone z (regWOf (paLocal pa) n v))))) ∧
      (va.toNat % n ≠ 0 → exec i s = s.goes (s.chip.seqFault c 4 x.pc none))
    ScalarReady s c [rs1, rs2] → x.amoOut = false →
    row (.sb c rs2 rs1 imm) 0 ∧ row (.sh c rs2 rs1 imm) 1 ∧ row (.sw c rs2 rs1 imm) 2 ∧ row (.sd c rs2 rs1 imm) 3 ∧
    exec (.stl c rs2 rs1 imm) s =
      match x.offsetFault va with
      | some code => s.goes (s.chip.seqFault c code x.pc none)
      | none => s.goes (s.chip.scalarDone c (.stl rs2 rs1 imm)
          (.store (s.chip.offsetPa c va.toNat) (toBytes 8 v.toNat) false 0 (some va.toNat)))) ∧
  (∀ (s : State) (c : Nat) (rd rs1 rs2 : SReg),
    let x := s.chip.cluster c
    let va := x.reg rs1
    let row (i : Instr) (op : AmoOp) : Prop :=
      (∀ k pa cached claim, s.chip.seqPlace c va 8 .atomic = (k, .inr (pa, (cached, claim))) →
        k.roomFor c Ready.none = true →
        exec i s = s.goes (k.scalarDone c (.amo op rd rs1 rs2)
          (.access (.amo op (x.reg rs2) (x.reg rd)) rd va pa 8 cached x.space claim))) ∧
      (va.toNat % 8 ≠ 0 → exec i s = s.goes (s.chip.seqFault c 4 x.pc none))
    x.amoOut = false →
    (ScalarReady s c [rs1, rs2] → row (.amoadd c rd rs1 rs2) .add ∧ row (.amoswap c rd rs1 rs2) .swap) ∧
    (ScalarReady s c [rs1, rs2, rd] → row (.amocas c rd rs1 rs2) .cas))

/-- R133, R311: with nothing outstanding and no claim on the bytes, `LDL` writes the eight bytes of the own store at its
offset to rd, as the cluster finds them (R273), and `STL` stores the eight bytes of rs2 there, which the cluster then finds; every
other byte of memory is as before. The address stored to is that of the offset as the landing zones redirect it (R272). -/
def Obligations.OwnStoreAccess : Prop :=
  ∀ (s : State) (c : Nat) (r rs1 : SReg) (imm : BitVec 16),
    let x := s.chip.cluster c
    let o : U64 := x.reg rs1 + imm.signExtend 64
    let la := paLocal (s.chip.placeOf c 0 (some o.toNat) (s.chip.offsetPa c o.toNat))
    x.quiet = true → x.claims = [] → x.offsetFault o = none → s.chip.inOwnStore c (s.chip.offsetPa c o.toNat) = true →
    (ScalarReady s c [rs1] → s.chip.poisoned (lineOf la) = false →
      ∃ t : State, exec (.ldl c r rs1 imm) s = .next t ∧
        (∀ i, (t.chip.cluster c).reg i = if i = r ∧ r ≠ 0 then BitVec.ofNat 64 (ofBytes (s.chip.ownBytes c la 8)) else x.reg i) ∧
        (∀ a, t.chip.byte a = s.chip.byte a) ∧ t.chip.poison = s.chip.poison ∧
        (∀ d, d ≠ c → t.chip.cluster d = s.chip.cluster d)) ∧
    (ScalarReady s c [rs1, r] →
      ∃ t : State, exec (.stl c r rs1 imm) s = .next t ∧
        (∀ a, t.chip.byte a = if la ≤ a ∧ a < la + 8 then BitVec.ofNat 8 ((x.reg r).toNat / 256 ^ (a - la)) else s.chip.byte a) ∧
        (∀ a, la ≤ a ∧ a < la + 8 → t.chip.ownByte c a = t.chip.byte a) ∧
        (∀ i, (t.chip.cluster c).reg i = x.reg i) ∧
        (∀ d, d ≠ c → t.chip.cluster d = s.chip.cluster d))

/-- R136, R360-R362: what each instruction of the line-cache group does once earlier stores have been written or sent. A way
form acts on the line in its way, and a way above 47 is illegal; an address form acts on its line where that is
cacheable memory of this module, and one that may send a message waits for one of the 16 transactions (R358). `LC.LOCK` answers 1
where the line ends locked, also where the line it asked for has arrived and been locked, and 0 where 32 others are locked; every other instruction of the group answers 0.

R361, R362: what an instruction of the line-cache group does to its line. A clean of a modified line sends it home
and keeps it; an invalidate drops it, a modified one without its data; a flush sends a modified line home and drops
it. Each message holds issue until its `WbAck`; a line in no such state sends nothing. The home can be reached. `LC.LOCK` and `LC.UNLOCK` set
and clear the lock of the line. -/
def Obligations.LineCacheOperations : Prop :=
  (∀ (s : State) (c : Nat) (rd rs1 : SReg),
    let k := s.chip.updCluster c (·.endStream)
    let v := (s.chip.cluster c).reg rs1
    let w := v.toNat % 64
    let entry := tblGet CLine.none (s.chip.cluster c).lcache w
    let ends (op : LcOp) (k1 : Chip) (a : SAct) : Out := s.goes (k1.scalarDone c (.lc op rd rs1) a)
    let ready (k1 : Chip) : Prop := k1.roomFor c Ready.none = true ∧ k1.storesVisible c (k1.cluster c).nextNo .cluster = true
    let wayRow (i : Instr) (op : LcOp) : Prop :=
      (47 < w → exec i s = s.goes (k.seqFault c 5 (s.chip.cluster c).pc none)) ∧
      (w ≤ 47 → ready k → entry.st = .i → exec i s = ends op k (.lc op rd none)) ∧
      (w ≤ 47 → ready k → entry.st ≠ .i → (k.cline (64 + c) entry.line).st.transient = false →
        (k.cluster c).lcPending < 16 → exec i s = ends op k (.lc op rd (some entry.line)))
    let addrRow (i : Instr) (op : LcOp) : Prop :=
      ∀ k1 e, k.lcTranslate c v op = (k1, .ok e) →
        let pa := e.phys v
        let line := lineOf (paLocal pa)
        let own := k1.isOwn pa && cacheable (paLocal pa)
        (own = false → k1.roomFor c Ready.none = true → exec i s = ends op k1 (.lc op rd none)) ∧
        (own = true → ready k1 → (k1.cline (64 + c) line).st.transient = false →
          (op ≠ .unlock → (k1.cluster c).lcPending < 16) → exec i s = ends op k1 (.lc op rd (some line)))
    ScalarReady s c [rs1] →
    wayRow (.lcCleanw c rd rs1) .cleanw ∧ wayRow (.lcInvalw c rd rs1) .invalw ∧ wayRow (.lcFlushw c rd rs1) .flushw ∧
    addrRow (.lcClean c rd rs1) .clean ∧ addrRow (.lcInval c rd rs1) .inval ∧ addrRow (.lcFlush c rd rs1) .flush ∧
    addrRow (.lcUnlock c rd rs1) .unlock ∧
    (∀ k1 e, k.lcTranslate c v .lock = (k1, .ok e) →
      let pa := e.phys v
      let line := lineOf (paLocal pa)
      let l := k1.cline (64 + c) line
      let locked := ((k1.cluster c).lcache.filter (fun e => e.2.locked)).length
      let own := k1.isOwn pa && cacheable (paLocal pa)
      (own = false → k1.roomFor c Ready.none = true → exec (.lcLock c rd rs1) s = ends .lock k1 (.lc .lock rd none)) ∧
      (own = true → k1.populated (paLocal pa) = true → ready k1 → l.st.readable = true → l.st.transient = false →
        (k1.cluster c).lockRead ≠ some (line, true) → (l.locked = true ∨ locked < 32) → exec (.lcLock c rd rs1) s = ends .lock k1 (.lc .lock rd (some line))) ∧
      (own = true → k1.populated (paLocal pa) = true → ready k1 → l.locked = false → 32 ≤ locked →
        (k1.cluster c).lockRead ≠ some (line, true) → exec (.lcLock c rd rs1) s = ends .lock k1 (.write rd 0)) ∧
      (own = true → k1.populated (paLocal pa) = true → ready k1 → (k1.cluster c).lockRead = some (line, true) →
        exec (.lcLock c rd rs1) s = ends .lock k1 (.write rd 1)))) ∧
  (∀ (k : Chip) (c line : Nat) (rd : SReg),
    let e := k.cline (64 + c) line
    let sends (op : LcOp) (kind : CohKind) (keep : Bool) : Prop :=
      ∃ m, (k.lcAct c op rd line).net = k.net ++ [m] ∧ m.kind = kind ∧ m.line = line ∧ m.src = 64 + c ∧
        m.dst = k.homeOf line ∧ (kind = .putM → m.keep = keep ∧ m.data = e.data ∧ m.poison = e.poison) ∧
        ((k.lcAct c op rd line).cluster c).lcHold = some { line := line, rd := rd }
    let same (op : LcOp) : Prop := k.lcAct c op rd line = k
    k.severed (64 + c) (k.homeOf line) = false →
    (∀ op, op = .clean ∨ op = .cleanw → (e.st = .m → sends op .putM true) ∧ (e.st ≠ .m → same op)) ∧
    (∀ op, op = .inval ∨ op = .invalw →
      (e.st = .m → sends op .putE false) ∧ (e.st = .e → sends op .putE false) ∧
      (e.st = .f → sends op .putF false) ∧ (e.st = .s → sends op .putS false) ∧ (e.st = .i → same op)) ∧
    (∀ op, op = .flush ∨ op = .flushw →
      (e.st = .m → sends op .putM false) ∧ (e.st = .e → sends op .putE false) ∧
      (e.st = .f → sends op .putF false) ∧ (e.st = .s → sends op .putS false) ∧ (e.st = .i → same op)) ∧
    k.lcAct c .lock rd line = k.updLine (64 + c) line (fun e => { e with locked := true }) ∧
    k.lcAct c .unlock rd line = k.updLine (64 + c) line (fun e => { e with locked := false }))

/-- R159, R286, R287, R291, R293, R299, R319: the sync operations. An addition, a set and a reset enter the hasp-operation
buffer with their hasp, value and scope once the buffer has room; a wait that the hasp has not reached becomes a gate,
or holds issue with `WH`; a wait with `WH` that has ended registers no more, whatever has become of its reference; a fence
holds issue. A reference that R286 refuses takes its fault instead.

R291, R293, R319: what a sync operation leaves at its sequencer: an entry at the end of the hasp-operation buffer, a
registered gate unless the hasp has reached the value, or a fence of its scope. -/
def Obligations.SyncOperations : Prop :=
  (∀ (s : State) (c : Nat) (rh rv : SReg) (sc : Scope),
    let k := s.chip
    let x := k.cluster c
    let ends (op : SyncOp) (wh : Bool) (o : SyncReady) : Out :=
      s.goes (k.slotDone c (sfuBundle (.sync op) wh) .none { preps := [], mov := none, sync := some o })
    let made (op : SyncOp) (d : Option (BitVec 6)) (h : BitVec 14) (v : U64) : SyncReady :=
      { op := op, dev := d, hasp := h, v := v, tmo := (x.reg rh).extractLsb' 24 4 }
    let fault (code : Nat) : Out := s.goes (k.seqFault c code x.pc none)
    let room : Prop := x.haspBuf.length < 16
    (ScalarReady s c [rh, rv] → room →
      (∀ d h, k.haspRef c (x.reg rh) false true = .ok (d, h) →
        exec (.haspAdd c rh rv sc) s = ends (.add rh rv sc) false (made (.add rh rv sc) d h (x.reg rv))) ∧
      (∀ d h, k.haspRef c (x.reg rh) false false = .ok (d, h) →
        exec (.haspSet c rh rv sc) s = ends (.set rh rv sc) false (made (.set rh rv sc) d h (x.reg rv))) ∧
      (∀ code, k.haspRef c (x.reg rh) false true = .error code → exec (.haspAdd c rh rv sc) s = fault code) ∧
      (∀ code, k.haspRef c (x.reg rh) false false = .error code → exec (.haspSet c rh rv sc) s = fault code)) ∧
    (ScalarReady s c [rh] → room →
      (∀ d h, k.haspRef c (x.reg rh) false false = .ok (d, h) →
        exec (.haspReset c rh sc) s = ends (.reset rh sc) false (made (.reset rh sc) d h 0)) ∧
      (∀ code, k.haspRef c (x.reg rh) false false = .error code → exec (.haspReset c rh sc) s = fault code)) ∧
    (ScalarReady s c [rh, rv] →
      (x.whEnded = true → exec (.haspWait c rh rv sc true) s =
        ends (.wait rh rv sc) true (made (.wait rh rv sc) none ((x.reg rh).extractLsb' 0 14) (x.reg rv))) ∧
      (∀ d h, k.haspRef c (x.reg rh) true false = .ok (d, h) →
        ((x.waits.filter (·.gate)).length < 4 →
          exec (.haspWait c rh rv sc false) s = ends (.wait rh rv sc) false (made (.wait rh rv sc) d h (x.reg rv))) ∧
        (x.whEnded = false → k.haspMet c h (x.reg rv) = true →
          exec (.haspWait c rh rv sc true) s = ends (.wait rh rv sc) true (made (.wait rh rv sc) d h (x.reg rv))) ∧
        (x.whEnded = false → k.haspMet c h (x.reg rv) = false →
          exec (.haspWait c rh rv sc true) s = s.goes ((k.updCluster c (fun x =>
            x.endStream.addWait false h (x.reg rv) sc ((x.reg rh).extractLsb' 24 4))).drainAll c))) ∧
      (∀ code, k.haspRef c (x.reg rh) true false = .error code → (x.waits.filter (·.gate)).length < 4 →
        exec (.haspWait c rh rv sc false) s = fault code)) ∧
    (ScalarReady s c [] →
      exec (.fenceC c) s = ends .fenceC false { op := .fenceC, dev := none, hasp := 0, v := 0, tmo := 0 } ∧
      exec (.fenceP c) s = ends .fenceP false { op := .fenceP, dev := none, hasp := 0, v := 0, tmo := 0 } ∧
      exec (.fenceS c) s = ends .fenceS false { op := .fenceS, dev := none, hasp := 0, v := 0, tmo := 0 })) ∧
  (∀ (k : Chip) (c no : Nat) (o : SyncReady) (rh rv : SReg) (sc : Scope),
    let x := k.cluster c
    let y (op : SyncOp) (wh : Bool) := (k.syncEffect c no wh { o with op := op }).cluster c
    let entry (a : HaspAct) : HaspOp :=
      { no := no, act := a, remote := o.dev, hasp := o.hasp, v := o.v.setWidth 48, scope := sc, err := false }
    (y (.add rh rv sc) false).haspBuf = x.haspBuf ++ [entry .add] ∧
    (y (.set rh rv sc) false).haspBuf = x.haspBuf ++ [entry .set] ∧
    (y (.reset rh sc) false).haspBuf = x.haspBuf ++ [entry .reset] ∧
    (y .fenceC false).fence = some .cluster ∧ (y .fenceP false).fence = some .package ∧
    (y .fenceS false).fence = some .system ∧
    (k.haspMet c o.hasp o.v = true → (y (.wait rh rv sc) false).waits = x.waits) ∧
    (k.haspMet c o.hasp o.v = false → (y (.wait rh rv sc) false).waits = x.waits ++
      [({ id := x.nextId, no := x.nextNo, gate := true, hasp := o.hasp, v := o.v.setWidth 48, scope := sc
          tmo := o.tmo } : HWait)]) ∧
    (∀ op wh, (k.syncEffect c no wh { o with op := op }).mem = k.mem ∧
      (k.syncEffect c no wh { o with op := op }).quads = k.quads ∧
      (∀ r, (y op wh).reg r = x.reg r) ∧ (∀ d, d ≠ c → (k.syncEffect c no wh { o with op := op }).cluster d = k.cluster d)))

/-- R81, R144-R150, R159: a matrix instruction that finds its queue and claim entries free and passes its operand checks takes
them, and runs to its end where nothing holds it; one that fails a check takes that fault.

R151-R153, R218: the same of every vector instruction, with the operation it stands for.

R156-R158, R237, R241: the same of the SFU functions and of the two table instructions. -/
def Obligations.EngineRows : Prop :=
  (∀ (s : State) (c : Nat) (mma mmac : MmaF) (dr : ZdrainF) (ld : ZloadF) (cfg : McfgF),
    let k := s.chip
    let row (i : Instr) (m : Matrix) : Prop :=
      k.slotReady c m.reads = true → m.legal = true → (k.cluster c).fits (slotNeeds (matrixBundle m)) none none false = true →
        (∀ p, (k.cluster c).prepMatrix m = .ok p →
          exec i s = s.goes (k.slotDone c (matrixBundle m) .none { preps := [p], mov := none, sync := none })) ∧
        (∀ code, (k.cluster c).prepMatrix m = .error code →
          exec i s = s.goes (k.seqFault c code (k.cluster c).pc none))
    row (.mma c mma) (.mma false mma) ∧ row (.mmac c mmac) (.mma true mmac) ∧ row (.zdrain c dr) (.zdrain dr) ∧
    row (.zload c ld) (.zload ld) ∧ row (.mcfg c cfg) (.mcfg cfg)) ∧
  (∀ (s : State) (c : Nat) (f : VecF),
    let k := s.chip
    let row (i : Instr) (op : VOp) : Prop :=
      k.slotReady c [f.rs, f.rs2] = true → vecLegal op f = true →
      (k.cluster c).fits (slotNeeds (vectorBundle op f)) none none false = true →
        (∀ p, (k.cluster c).prepVector op f = .ok p →
          exec i s = s.goes (k.slotDone c (vectorBundle op f) .none { preps := [p], mov := none, sync := none })) ∧
        (∀ code, (k.cluster c).prepVector op f = .error code →
          exec i s = s.goes (k.seqFault c code (k.cluster c).pc none))
    row (.vadd c f) .vadd ∧ row (.vsub c f) .vsub ∧ row (.vmul c f) .vmul ∧ row (.vfma c f) .vfma ∧
    row (.vfnma c f) .vfnma ∧ row (.vmin c f) .vmin ∧ row (.vmax c f) .vmax ∧ row (.vabs c f) .vabs ∧
    row (.vneg c f) .vneg ∧ row (.vadds c f) .vadds ∧ row (.vmuls c f) .vmuls ∧ row (.vfmas c f) .vfmas ∧
    row (.vand c f) .vand ∧ row (.vor c f) .vor ∧ row (.vxor c f) .vxor ∧ row (.vnot c f) .vnot ∧
    row (.vsll c f) .vsll ∧ row (.vsrl c f) .vsrl ∧ row (.vsra c f) .vsra ∧ row (.vcmp c f) .vcmp ∧
    row (.mand c f) .mand ∧ row (.mor c f) .mor ∧ row (.mxor c f) .mxor ∧ row (.mnot c f) .mnot ∧
    row (.vmov c f) .vmov ∧ row (.vbcast c f) .vbcast ∧ row (.cvt c f) .cvt ∧ row (.mxpack c f) .mxpack ∧
    row (.mxunpk c f) .mxunpk ∧ row (.redsum c f) .redsum ∧ row (.redmax c f) .redmax ∧
    row (.redmin c f) .redmin ∧ row (.smaxc c f) .smaxc ∧ row (.welf c f) .welf ∧ row (.wmerge c f) .wmerge ∧
    row (.vld c f) .vld ∧ row (.vst c f) .vst ∧ row (.vtrn c f) .vtrn ∧ row (.vtrnq c f) .vtrnq) ∧
  (∀ (s : State) (c : Nat) (f : SfuF) (vs : SReg),
    let k := s.chip
    let row (i : Instr) (u : Sfu) : Prop :=
      k.slotReady c u.reads = true → u.legal = true →
      (k.cluster c).fits (slotNeeds (sfuBundle u false)) none none false = true →
        (∀ p, (k.cluster c).prepSfu u = some (.ok p) →
          exec i s = s.goes (k.slotDone c (sfuBundle u false) .none { preps := [p], mov := none, sync := none })) ∧
        (∀ code, (k.cluster c).prepSfu u = some (.error code) →
          exec i s = s.goes (k.seqFault c code (k.cluster c).pc none))
    row (.exp2 c f) (.fn .exp2 f) ∧ row (.log2 c f) (.fn .log2 f) ∧ row (.rcp c f) (.fn .rcp f) ∧
    row (.rsq c f) (.fn .rsq f) ∧ row (.tanh c f) (.fn .tanh f) ∧ row (.sig c f) (.fn .sig f) ∧
    row (.erf c f) (.fn .erf f) ∧ row (.sin c f) (.fn .sin f) ∧ row (.cos c f) (.fn .cos f) ∧
    row (.lut c f) (.fn .lut f) ∧ row (.lutLd c vs) (.lutLd vs) ∧ row (.lutCommit c) .lutCommit)

/-- R81, R85-R88, R144-R150, R159, R175-R195: with no engine operation, access or wait of its cluster outstanding, a matrix
instruction whose operands pass every check of issue completes in its own step. `MMA` and `MMAC` leave tile, group count,
limit and flags of their unit as the products do, `ZLOAD` leaves the tile it read, `MCFG` its item; `ZDRAIN` takes the tile
as it stands and writes it to the store. Of the cluster nothing else changes but the sequencer, which goes on to its next
bundle.

R81, R85, R86, R159, R197-R222: with no engine operation, access or wait of its cluster outstanding, a vector instruction
completes in its own step: one on registers leaves its unit's registers, masks and flags as its operation does, `VLD` loads
from the store, `VST` writes to it, each where its operands pass the checks of issue. The sequencer goes on to its next
bundle.

R81, R85, R86, R159, R226-R242: with no engine operation, access or wait of its cluster outstanding, an SFU function
completes in its own step and leaves its vector unit's registers and flags as the function does, with the active bank for a
lookup; `LUT.LD`, where its operand passes the checks of issue, leaves the image it read in the inactive bank, and
`LUT.COMMIT` exchanges the banks. The sequencer goes on to its next bundle. -/
def Obligations.EngineCompletions : Prop :=
  (∀ (s : State) (c : Nat) (mma mmac : MmaF) (dr : ZdrainF) (ld : ZloadF) (cfg : McfgF),
    let k := s.chip
    let x := k.cluster c
    let v (r : SReg) : Nat := (x.reg r).toNat
    let done (i : Instr) (m : Matrix) (k2 : Chip) : Prop :=
      x.enginesFree = true → k.slotReady c m.reads = true → m.legal = true → x.matrixOk m = true →
        k.consumesPoison c (x.matrixPrep m).op = false → exec i s = s.goes k2
    let product (i : Instr) (complex : Bool) (f : MmaF) : Prop :=
      done i (.mma complex f) (k.updCluster c (fun y =>
        (if f.acc then y.issued else y.issued.updMUnit f.unit.toNat (fun u => { u with seqComplex := complex })).updMUnit
          f.unit.toNat (fun u => u.afterMma (k.storeByte c) (mmaArgs u (x.matrixPrep (.mma complex f)).op))))
    let u := x.munit dr.unit.toNat
    let d : DrainBuf :=
      { no := x.nextNo, dfmt := dr.dfmt.toNat, rm := if dr.rm = 0 then .nearest else .zero, sat := dr.sat, off := v dr.rd
        str := v dr.rds, sc := v dr.rsc, tile := u.tile, complex := u.complex, mult := u.item2 }
    product (.mma c mma) false mma ∧ product (.mmac c mmac) true mmac ∧
    (u.drain = none → done (.zdrain c dr) (.zdrain dr) ((k.updCluster c (fun y =>
      { (y.issued.updMUnit dr.unit.toNat (fun m => { m with drain := some d })) with
        claims := (x.matrixPrep (.zdrain dr)).claims y.nextNo })).writeDrain c dr.unit.toNat d)) ∧
    done (.zload c ld) (.zload ld) (k.updCluster c (fun y => y.issued.updMUnit ld.unit.toNat (fun u =>
      { u with seqComplex := false }.afterZload (k.storeByte c) ld.sfmt.toNat (v ld.rs) (v ld.rss)))) ∧
    done (.mcfg c cfg) (.mcfg cfg) (k.updCluster c (fun y => y.issued.updMUnit cfg.unit.toNat
      (·.afterMcfg cfg.item.toNat ((x.reg cfg.rv).extractLsb' 0 32))))) ∧
  (∀ (s : State) (c : Nat) (f : VecF),
    let k := s.chip
    let x := k.cluster c
    let rs := x.reg f.rs
    let ready (op : VOp) : Prop :=
      x.enginesFree = true ∧ k.slotReady c [f.rs, f.rs2] = true ∧ vecLegal op f = true
    let row (i : Instr) (op : VOp) : Prop :=
      ready op → exec i s = s.goes (k.updCluster c (fun y =>
        y.issued.updVUnit f.unit.toNat (fun u => u.after (vecRun u.v u.m op f rs))))
    row (.vadd c f) .vadd ∧ row (.vsub c f) .vsub ∧ row (.vmul c f) .vmul ∧ row (.vfma c f) .vfma ∧
    row (.vfnma c f) .vfnma ∧ row (.vmin c f) .vmin ∧ row (.vmax c f) .vmax ∧ row (.vabs c f) .vabs ∧
    row (.vneg c f) .vneg ∧ row (.vadds c f) .vadds ∧ row (.vmuls c f) .vmuls ∧ row (.vfmas c f) .vfmas ∧
    row (.vand c f) .vand ∧ row (.vor c f) .vor ∧ row (.vxor c f) .vxor ∧ row (.vnot c f) .vnot ∧
    row (.vsll c f) .vsll ∧ row (.vsrl c f) .vsrl ∧ row (.vsra c f) .vsra ∧ row (.vcmp c f) .vcmp ∧
    row (.mand c f) .mand ∧ row (.mor c f) .mor ∧ row (.mxor c f) .mxor ∧ row (.mnot c f) .mnot ∧
    row (.vmov c f) .vmov ∧ row (.vbcast c f) .vbcast ∧ row (.cvt c f) .cvt ∧ row (.mxpack c f) .mxpack ∧
    row (.mxunpk c f) .mxunpk ∧ row (.redsum c f) .redsum ∧ row (.redmax c f) .redmax ∧
    row (.redmin c f) .redmin ∧ row (.smaxc c f) .smaxc ∧ row (.welf c f) .welf ∧ row (.wmerge c f) .wmerge ∧
    row (.vtrn c f) .vtrn ∧ row (.vtrnq c f) .vtrnq ∧
    (ready .vld → x.vectorOk .vld f = true → k.consumesPoison c (x.vectorPrep .vld f).op = false →
      exec (.vld c f) s = s.goes (k.updCluster c (fun y => y.issued.updVUnit f.unit.toNat (fun u =>
        u.after (vldRun (k.storeByte c) u.v u.m f rs.toNat (x.reg f.rs2).toNat))))) ∧
    (ready .vst → x.vectorOk .vst f = true →
      exec (.vst c f) s = s.goes (((k.updCluster c (·.holding (x.vectorPrep .vst f))).runVst c f rs.toNat
        (x.reg f.rs2).toNat).updCluster c (·.ended x.nextNo (4 + f.unit.toNat))))) ∧
  (∀ (s : State) (c : Nat) (f : SfuF) (vs : SReg),
    let k := s.chip
    let x := k.cluster c
    let ready (u : Sfu) : Prop := x.enginesFree = true ∧ k.slotReady c u.reads = true ∧ u.legal = true
    let row (i : Instr) (op : SfuOp) : Prop :=
      ready (.fn op f) → exec i s = s.goes (k.updCluster c (fun y =>
        y.issued.updVUnit f.unit.toNat (fun u => u.after (sfuRun u.v u.m op f x.lut.activeBank))))
    row (.exp2 c f) .exp2 ∧ row (.log2 c f) .log2 ∧ row (.rcp c f) .rcp ∧ row (.rsq c f) .rsq ∧
    row (.tanh c f) .tanh ∧ row (.sig c f) .sig ∧ row (.erf c f) .erf ∧ row (.sin c f) .sin ∧
    row (.cos c f) .cos ∧ row (.lut c f) .lut ∧
    (ready (.lutLd vs) → x.lutOk vs = true → k.consumesPoison c (x.lutPrep vs).op = false →
      exec (.lutLd c vs) s = s.goes (k.updCluster c (fun y =>
        { y.issued with lut := y.lut.load (lutImage (k.storeByte c) (x.reg vs).toNat) }))) ∧
    (ready .lutCommit →
      exec (.lutCommit c) s = s.goes (k.updCluster c (fun y => { y.issued with lut := y.lut.commit }))))

/-- R85, R88, R535: the operation at the head of an engine's queue that may start runs to its end: its effect is had, it leaves
its queue, and its claims go, but for those of a captured drain. One that consumes poison stays, and the error is
contained at the cluster.

R202: an element-wise operation gives each active element its result, and keeps each inactive element, or clears it
where the mask zeroes; one statement for every container width. -/
def Obligations.EngineOperationEnds : Prop :=
  (∀ (s : State) (c e : Nat) (o : EngEnt) (r : List EngEnt),
    let k := s.chip
    e < 7 → k.clusterPresent c = true → tblGet [] (k.cluster c).queues e = o :: r → (k.cluster c).errored = false →
    k.mayStart c e o = true →
    (k.consumesPoison c o.op = false →
      exec (.engineOperationEnd c e) s = s.goes (((k.runOp c e o).updCluster c (fun x =>
        let y := { x with queues := tblMod [] x.queues e (fun q => q.drop 1) }
        match o.op with
        | .zdrain _ _ _ _ _ _ => y
        | _ => y.release o.no e)).drainAll c)) ∧
    (k.consumesPoison c o.op = true →
      exec (.engineOperationEnd c e) s = s.goes ((k.clusterError c (e + 1) 3).drainAll c))) ∧
  (∀ (c n e : Nat) (act : Nat → Bool) (mz : Bool) (old op : Nat → Elem),
    c ∈ [4, 8, 16, 32] → n = 2048 / c → e < n →
    rowElem c (ewRow c n act mz old op).1 e =
      (if act e then (op e).1 else if mz then 0 else (old e).1) % 2 ^ c)

/-- R81, R154, R250-R254: a `MOV` that finds a place in its mover's queue reads its 64-byte descriptor, waits for it and for
its claim entries, and puts a command into its mover; one whose descriptor cannot be read makes a command that ends with
that status. With no access, claim or read outstanding, a descriptor in the own store is read at once, with buffered stores
laid over it.

R250, R277, R279: the command of a `MOV` goes to the end of its mover's queue under the bundle's number, unless a
pre-issued command is the same and no byte of its descriptor has been written since (`kept`), which is then confirmed in
its place. -/
def Obligations.MovRows : Prop :=
  (∀ (s : State) (c : Nat) (f : MovF),
    let x := s.chip.cluster c
    let streamless (k : Chip) : Chip := k.updCluster c (·.endStream)
    let k := streamless s.chip
    let made (k : Chip) (d : Except Nat Desc) : Ready := { preps := [], mov := some (f, k.makeCmd c f d), sync := none }
    let read (k k1 : Chip) (d : Except Nat Desc) : Prop :=
      (∃ bs, k.readDesc c f = (k1, .got bs) ∧ d = .ok (decodeDesc (ofBytes bs))) ∨
      (∃ st, k.readDesc c f = (k1, .failed st) ∧ d = .error st)
    let issued (k : Chip) (d : Except Nat Desc) : Out := s.goes (k.slotDone c (moverBundle f) .none (made k d))
    let a := (x.reg f.rdesc).toNat
    let la := paLocal (k.offsetPa c a)
    s.chip.slotReady c [f.rdesc] = true → x.fits [] (some (f.mover.toNat, 0)) none false = true →
    (∀ k1 d k2 d2, read k k1 d → k1.roomFor c (made k1 d) = true → read (streamless k1) k2 d2 →
      k2.roomFor c (made k2 d2) = true → exec (.mov c f) s = issued k2 d2) ∧
    (∀ k1, k.readDesc c f = (k1, .wait) → exec (.mov c f) s = s.goes (k1.drainAll c)) ∧
    (f.dloc = false → a % 64 = 0 → a < 2 ^ 22 → x.zoneRefuses a (a + 64) = false → x.descRead = none → x.loads = [] →
      x.claims = [] → k.poisoned (lineOf la) = false →
      exec (.mov c f) s = issued k (.ok (decodeDesc (ofBytes
        (overlay (k.offsetPa c a) (k.ownBytes c la 64) (k.olderStores c x.nextId))))))) ∧
  (∀ (x : Cluster) (kept : Prepared → Bool) (pc : U64) (no : Nat) (f : MovF) (d : MovCmd),
    let y := x.takeMov kept pc no f d
    let m := f.mover.toNat
    (x.toConfirm kept pc f d = none →
      (y.mover m).cmds = (x.mover m).cmds ++ [{ d with id := x.nextId, no := no }] ∧ y.nextId = x.nextId + 1) ∧
    (∀ e, x.toConfirm kept pc f d = some e →
      (y.mover m).cmds = (x.mover m).cmds.map (fun o => if o.id = e.id then { o with confirmed := true, no := no } else o) ∧
      y.nextId = x.nextId) ∧
    (∀ n, n ≠ m → (y.mover n).cmds = (x.mover n).cmds) ∧
    y.regs = x.regs ∧ y.claims = x.claims ∧ y.queues = x.queues ∧ y.vunits = x.vunits ∧ y.munits = x.munits)

/-- R85, R89, R253-R262: a mover starts the first queued command when no gate, claim or store holds it and fewer than 64
are in their data phase. A command with an early status, a null command and one whose pass fails end, a failed remote one with
its destination kept for the addition it owes; any other begins its data phase with the pieces of its pass, read in order
where its source is side-effect, the flash pieces asked for.

R261-R264, R280, R281, R263, R266, R279: the answer to a data request of a command in its data phase moves its piece
on, unless the request must wait its turn; that of a discarded command ends the piece without a trace. A command that has
ended completes, once the destination addition that it owes has been sent and answered; one that can reach no destination
is recorded as lost and completes. -/
def Obligations.MoverCommands : Prop :=
  (∀ (s : State) (c m : Nat) (d : MovCmd),
    let k := s.chip
    let x := k.cluster c
    let ends (k1 : Chip) (st : Nat) (f : Option (Bool × (Nat × U64))) : Out :=
      s.goes (k1.updCmd c m d.id (fun d => { d with
        phase := .done, status := st, failSeg := f
        ddev := if st = 0 then none else (k1.destDev c d).map (BitVec.ofNat 6) }))
    (x.mover m).cmds.find? (fun d => d.phase = .queued) = some d →
    ((x.mover m).cmds.filter (fun d => d.phase = .data && !d.speculative)).length < 64 →
    x.gated d.no = false →
    (∀ st, d.early = some st → exec (.moverCommandStart c m) s = ends k st none) ∧
    (d.early = none → d.desc.isNull = true → exec (.moverCommandStart c m) s = ends k 0 none) ∧
    (d.early = none → d.desc.isNull = false → x.claimBlocked d.no (7 + m) = false →
      k.storeBlocked c d.no (7 + m) = false → k.storesVisible c d.no .cluster = true →
      (∀ k1 st f ps, k.pass c d = (k1, some (some (st, f), ps)) →
        exec (.moverCommandStart c m) s = ends k1 st (some f)) ∧
      (∀ k1 ps, k.pass c d = (k1, some (none, ps)) → exec (.moverCommandStart c m) s =
        s.goes ((k1.updCmd c m d.id (fun d => { d with
          phase := .data, pieces := ps, inOrder := k1.sideSource c d ps
          ddev := if d.desc.remote then (k1.destDev c d).map (BitVec.ofNat 6) else none })).askFlash c m)))) ∧
  (∀ (s : State) (c m id piece : Nat) (d : MovCmd),
    let k := s.chip
    (k.cluster c).cmd m id = some d →
    (∀ p, d.pieces.find? (fun p => p.id = piece && p.open') = some p →
      (d.phase = .data → exec (.moverDataResponse c m id piece) s =
        s.goes (if k.pieceHeld c d p then k else k.pieceRespond c m d p)) ∧
      (d.phase = .drain → exec (.moverDataResponse c m id piece) s =
        s.goes ((k.updCmd c m id (·.updPiece piece Piece.drop)).zoneReady c m id))) ∧
    (d.ended = true → d.speculative = false → d.phase ≠ .drain →
      (d.confirmed = true → (k.cluster c).claimBlocked d.no (7 + m) = false) →
      k.fabric.reqs.any (fun r => r.owner = .moverHasp c m d.id) = false →
      (d.owes = none → exec (.moverCommandComplete c m id) s = s.goes (k.completeCmd c m d)) ∧
      (∀ v err, d.owes = some (v, err) →
        (∀ dev, d.ddev = some dev → dev ≠ k.fabric.devnum → exec (.moverCommandComplete c m id) s =
          s.goes ((k.updCmd c m d.id (fun d => { d with dsent := true })).sendHaspAdd (some (c / 24)) dev d.desc.dhasp
            (BitVec.ofNat 48 v) err (.moverHasp c m d.id))) ∧
        (d.ddev = none ∨ d.ddev = some k.fabric.devnum →
          exec (.moverCommandComplete c m id) s = s.goes ((k.destLost c m d).completeCmd c m d)))))

/-- R271: a write to `CLU_LANDZ` by the cluster's own sequencer is held until every earlier operation has ended; any other
write takes effect at once while the cluster does not run, and is ignored while it does. A zone is enabled only with a
legal size and a window that meets no other enabled zone's. -/
def Obligations.LandingZoneWrites : Prop :=
  ∀ (s : State) (ag : Agent) (c z : Nat) (w : RegW),
    let k := s.chip
    let x := k.cluster c
    k.clusterPresent c = true →
    (ag = .seq c → x.st = .running → x.zoneHeld = none → exec (.cluLandzWrite ag c z w) s =
      s.goes (k.updCluster c (fun x => { x with zoneHeld := some (x.nextNo, (z, w)) }))) ∧
    (x.st = .idle ∨ x.st = .gated ∨ x.st = .reset → exec (.cluLandzWrite ag c z w) s =
      s.goes (k.updCluster c (·.writeZone z w))) ∧
    (ag ≠ .seq c → x.st = .running ∨ x.st = .stopping → exec (.cluLandzWrite ag c z w) s = s.goes k) ∧
    (∀ no, x.zoneHeld = some (no, (z, w)) → x.allEnded no = true → exec (.landzWriteApply c) s =
      s.goes (k.updCluster c (fun x => { x with zoneHeld := none }.writeZone z w))) ∧
    (let o := (x.writeZone z w).zone z
     o.st = .idle ∧ o.arch = false ∧
       (o.en = true → 1 ≤ o.hsize.toNat ∧ o.hsize.toNat ≤ 256 ∧ o.window + 2 * o.half ≤ 2 ^ 22))

/-- R80-R84, R94, R160, R161: a sequencer that may issue and has no access outstanding fetches the bundle at its next address.
It waits for the line, takes the fault of the fetch, takes fault `ILLEGAL` for a word that is no legal bundle, stands while its
wait has not ended or an entry it takes is not free, takes the fault of its first slot that has one before any slot has an
effect, and otherwise every slot of the bundle takes effect. -/
def Obligations.BundleIssueRow : Prop :=
  ∀ (s : State) (c : Nat),
    let k := s.chip
    let x := k.cluster c
    k.clusterPresent c = true → x.canIssue = true → x.loads = [] → x.stores = [] →
    (∀ k1, k.fetchBundle c = (k1, .wait) → exec (.bundleIssue c) s = s.goes k1) ∧
    (∀ k1 code pa, k.fetchBundle c = (k1, .fault code pa) → code ≠ 6 →
      exec (.bundleIssue c) s = s.goes (k1.seqFault c code (k1.cluster c).pc pa)) ∧
    (∀ k1 pa, k.fetchBundle c = (k1, .fault 6 pa) →
      ∃ t : State, exec (.bundleIssue c) s = .next t ∧ t.chip.cluster c = (k1.cluster c).takeFault 6 (k1.cluster c).pc ∧
        (∀ d, d ≠ c → t.chip.cluster d = k1.cluster d) ∧ (∀ a, t.chip.byte a = k1.byte a)) ∧
    (∀ k1 w, k.fetchBundle c = (k1, .got w) →
      let y := k1.cluster c
      (decodeBundle w = none → exec (.bundleIssue c) s = s.goes (k1.seqFault c 5 y.pc none)) ∧
      (∀ b, decodeBundle w = some b → y.canIssue = true → (b.pred = 0 ∨ y.awaits [predReg b.pred] = false) →
        let on := decide (b.pred = 0) || decide (y.reg (predReg b.pred) ≠ 0)
        y.awaits (b.reads on) = false →
        (∀ k2, k1.holdWh c b on = (k2, false) → exec (.bundleIssue c) s = s.goes k2) ∧
        ∀ k2, k1.holdWh c b on = (k2, true) →
          (∀ k3, k2.stageI c b on = (k3, false) → exec (.bundleIssue c) s = s.goes k3) ∧
          ∀ k3 k4, k2.stageI c b on = (k3, true) →
            (∀ code pa, k3.scalarX c y.pc b.scalar = (k4, .fault code pa) →
              exec (.bundleIssue c) s = s.goes (k4.seqFault c code y.pc pa)) ∧
            (∀ a, k3.scalarX c y.pc b.scalar = (k4, .act a) →
              (∀ k5 code, k4.prepAll c b on = (k5, .fault code) →
                exec (.bundleIssue c) s = s.goes (k5.seqFault c code y.pc none)) ∧
              (∀ k5 r, k4.prepAll c b on = (k5, .ok r) → (k5.cluster c).hasRoom r (on && b.wh) = true →
                exec (.bundleIssue c) s = s.goes (k5.commitBundle c b a r)))))

/-- R94, R95: what a precise fault of a sequencer is: the code and the address of the bundle are kept, the run-ahead state
and the registered waits go, and no register, no memory, no hasp and no other cluster changes. A second fault
changes nothing. -/
def Obligations.SequencerFault : Prop :=
  ∀ (k : Chip) (c code : Nat) (pc : U64),
    let x := k.cluster c
    let y := (k.seqFault c code pc none).cluster c
    (x.faulted = none → y.faulted = some (code, pc) ∧ y.waits = [] ∧ y.prepared = [] ∧ y.canIssue = false ∧
      (∀ m, m < 2 → ∀ d, d ∈ (y.mover m).cmds → d.speculative = false)) ∧
    (x.faulted ≠ none → y = x) ∧
    (∀ r, y.reg r = x.reg r) ∧ y.pc = x.pc ∧ y.loops = x.loops ∧ y.queues = x.queues ∧ y.claims = x.claims ∧
    y.stores = x.stores ∧ y.loads = x.loads ∧ y.haspBuf = x.haspBuf ∧
    (∀ d, d ≠ c → (k.seqFault c code pc none).cluster d = k.cluster d) ∧
    k.seqFault c code pc none = { k with clusters := (k.seqFault c code pc none).clusters }

/-- R274-R278, R363: the front end follows its path to the first `MOV` at an address that has no preparation of use, reads its
descriptor ahead and keeps it with the pieces of its translation pass, or drops what it may not read; it pre-issues the
command of a prepared one whose conditions hold: the zone fills, the command takes the pieces of the shadow half and the
counter of R278 rises. A write to `CLU_LCCTL` sets `NOSTREAM`, which ends streaming at once. -/
def Obligations.FrontEndRows : Prop :=
  ∀ (s : State) (c : Nat) (va : U64),
    let k := s.chip
    let x := k.cluster c
    k.clusterPresent c = true →
    (k.mayRunAhead c = true → ∀ k1 w b f, k.follow c (k.unprepared c va) = (k1, some (w, b)) → b.mover = some f →
      let a := (w.reg f.rdesc).getD 0
      (∀ k2, k1.peekDesc c f a = (k2, none) → exec (.frontEndPrepare c va) s = s.goes k2) ∧
      (∀ k2 d pa, k1.peekDesc c f a = (k2, some (d, pa)) → d.isNull = false →
        d.refused (k2.mayName (k2.cluster c).space) = false →
        let p : Prepared := { pc := va, rdesc := a, desc := d, pa := pa, pieces := none }
        ∀ k3 ps, k2.pass c (k2.earlyCmd c f p) = (k3, some (none, ps)) →
          exec (.frontEndPrepare c va) s = s.goes (k3.keepPrepared c { p with pieces := some ps }))) ∧
    (k.mayRunAhead c = true → ∀ k1 w b f p z ps,
      k.follow c (fun w b => x.prepared.any (fun p => x.unissued va p && prepAt p w b)) = (k1, some (w, b)) →
      b.mover = some f → x.prepared.find? (fun p => x.unissued va p && prepAt p w b) = some p →
      let y1 := k1.cluster c
      y1.fillZone p.desc = some z → k1.earlyPieces c (k1.earlyCmd c f p) p = some ps → k1.barred c w b f p.desc = false →
      k1.descKept c p = true → k1.allPlain c (k1.earlyCmd c f p) ps = true →
      ∃ t : State, exec (.preIssue c va) s = .next t ∧
        (let y := t.chip.cluster c
        (y.zone z).st = .filling ∧ (∀ i, i ≠ z → y.zone i = y1.zone i) ∧
        (y.mover f.mover.toNat).cmds = (y1.mover f.mover.toNat).cmds ++ [{ k1.earlyCmd c f p with
          phase := .data, pieces := ps.map (y1.zone z).shadowPiece, zone := some z }] ∧
        (y.mover f.mover.toNat).preissued = satAdd (y1.mover f.mover.toNat).preissued 1 ∧
        y.nextId = y1.nextId + 1 ∧ y.regs = y1.regs ∧ y.pc = y1.pc ∧ y.claims = y1.claims ∧
        (∀ a, t.chip.byte a = k1.byte a) ∧ (∀ d, d ≠ c → t.chip.cluster d = k1.cluster d))) ∧
    (k.mayRunAhead c = false → exec (.frontEndPrepare c va) s = s.goes k ∧ exec (.preIssue c va) s = s.goes k) ∧
    (x.loads = [] → x.stores = [] → ∀ v : U64,
      let y := { (if v.getLsbD 0 then x.endStream else x) with noStream := v.getLsbD 0 }
      exec (.cluLcctlWrite c { part := .full, val := v }) s = s.goes (k.updCluster c (fun _ => y)))

/-- R94, R314, R534: the answer to an outstanding scalar load or atomic. Good data ends it with its register written, poisoned
data ends it in the late fault `POISON`, and any other status in the late fault of that status. Register space and memory
of this module answer at their own target, in the order of R314 and R78. The
sequencer has nothing that it can perform by itself, which it otherwise does first.

R94, R132, R311, R534: a load that ends writes its register, sign- or zero-extended at its width, with the bytes of
earlier stores that are still in the buffer laid over the data of an ordered location; poisoned data and a bad answer write no register and take
their fault on the load's own bundle.

R317, R333, R334, R76, R78: the acknowledgement of a store in its turn: a store to register space is the write of its
register, a store to memory that is on its way is written, and one whose target cannot be reached is recorded in
`CLU_STERR` and marks the hasp operations that waited for it. The
sequencer has nothing that it can perform by itself, which it otherwise does first. -/
def Obligations.ScalarAccessEnds : Prop :=
  (∀ (s : State) (c id : Nat) (a : ScAcc),
    let k := s.chip
    let ends (k1 : Chip) : Out := s.goes (k1.drainAll c)
    let la := paLocal a.pa
    k.drainAll c = k → (k.cluster c).loads.find? (fun a => a.id = id) = some a →
    (∀ st v, a.answer = some (st, v) →
      exec (.scalarLoadReturn c id) s =
        if st = 0 then ends (k.finishLoad c a (toBytes a.size v.toNat) false)
        else if st = 4 then ends (k.finishLoad c a [] true)
        else ends (k.faultLoad c a st)) ∧
    (a.answer = none → k.isOwn a.pa = true →
      (if k.ordered c a.pa then k.loadsBefore c a.id else k.behind c a.id a.pa) = false →
      (k.isReg a.pa = true →
        (∀ l, s.regCheck (some (c / 24)) la a.size = .ok l → exec (.scalarLoadReturn c id) s =
          ends (k.finishLoad c a (toBytes a.size (s.regRead (.seq c) l la a.size).toNat) false)) ∧
        (s.regCheck (some (c / 24)) la a.size = .lost → exec (.scalarLoadReturn c id) s = ends (k.faultLoad c a 6))) ∧
      (k.isReg a.pa = false → k.inOwnStore c a.pa = false →
        (k.reachMem (some (c / 24)) la ≠ 0 →
          exec (.scalarLoadReturn c id) s = ends (k.faultLoad c a (k.reachMem (some (c / 24)) la))) ∧
        (k.reachMem (some (c / 24)) la = 0 →
          (∀ sg, a.kind = .load sg → a.cached = false →
            exec (.scalarLoadReturn c id) s =
              ends ((k.cohRead la a.size).1.finishLoad c a (k.cohRead la a.size).2.1 (k.cohRead la a.size).2.2)) ∧
          (∀ op v w, a.kind = .amo op v w → (k.cluster c).stores.any (fun s => s.id < a.id && k.ordered c s.pa) = false →
            exec (.scalarLoadReturn c id) s =
              let r := k.cohAtomic la op v w
              ends (r.1.finishLoad c a (toBytes 8 r.2.1.toNat) r.2.2)))))) ∧
  (∀ (k : Chip) (c : Nat) (a : ScAcc) (bs : Bytes) (st : Nat),
    let x := k.cluster c
    let good := (k.finishLoad c a bs false).cluster c
    let bad := (k.finishLoad c a bs true).cluster c
    let late := (k.faultLoad c a st).cluster c
    (∀ r, good.reg r = if r = a.rd ∧ a.rd ≠ 0 then (match a.kind with
        | .load signed => extend a.size signed (if k.ordered c a.pa then overlay a.pa bs (k.olderStores c a.id) else bs)
        | .amo _ _ _ => BitVec.ofNat 64 (ofBytes bs)) else x.reg r) ∧
    good.loads = x.loads.filter (·.id ≠ a.id) ∧ good.faulted = x.faulted ∧
    good = { x with regs := good.regs, loads := good.loads } ∧
    (x.faulted = none → bad.faulted = some (6, a.pc) ∧ late.faulted = some (faultOf st, a.pc)) ∧
    (x.faulted ≠ none → bad.faulted = x.faulted ∧ late.faulted = x.faulted) ∧
    (∀ r, bad.reg r = x.reg r ∧ late.reg r = x.reg r) ∧
    bad.loads = x.loads.filter (·.id ≠ a.id) ∧ late.loads = x.loads.filter (·.id ≠ a.id) ∧
    (∀ b p, (k.finishLoad c a bs p).byte b = k.byte b ∧ (k.faultLoad c a st).byte b = k.byte b ∧
      (k.finishLoad c a bs p).poison = k.poison) ∧
    (∀ d, d ≠ c → (k.finishLoad c a bs true).cluster d = k.cluster d ∧ (k.finishLoad c a bs false).cluster d = k.cluster d ∧
      (k.faultLoad c a st).cluster d = k.cluster d)) ∧
  (∀ (s : State) (c id : Nat) (x : StoreEnt),
    let k := s.chip
    let la := paLocal x.pa
    let st := k.reachMem (some (c / 24)) la
    let failed (st : Nat) : Prop := ∃ k1 : Chip, exec (.storeAcknowledged c id) s = s.goes (k1.drainAll c) ∧
      k1.cluster c = (let y := k.cluster c
        { y with
          stores := y.stores.filter (·.id ≠ x.id), stCount := satAdd y.stCount 1, stFailed := true
          stOverrun := y.stFailed || y.stOverrun
          stCause := if y.stFailed then y.stCause else BitVec.ofNat 8 st
          stAddr := if y.stFailed then y.stAddr else BitVec.ofNat 56 x.pa
          haspBuf := y.haspBuf.map (fun o =>
            if x.no ≤ o.no && (o.scope = .system || o.scope = .package || (o.scope = .cluster && !x.sent)) then
              { o with err := true } else o) }) ∧
      (∀ d, d ≠ c → k1.cluster d = k.cluster d) ∧ k1.mem = k.mem ∧ k1.poison = k.poison
    k.drainAll c = k → (k.cluster c).stores.find? (fun x => x.id = id) = some x → k.isOwn x.pa = true → k.storeTurn c x = true →
    (k.isReg x.pa = true →
      (∀ l, s.regCheck (some (c / 24)) la x.data.length = .ok l → exec (.storeAcknowledged c id) s =
        .next (({ s with chip := k.dropStore c x.id }.regWrite (.seq c) l x.data.length
          (BitVec.ofNat 64 (ofBytes x.data))).onChip (fun k => k.drainAll c))) ∧
      (s.regCheck (some (c / 24)) la x.data.length = .lost → failed 6)) ∧
    (k.isReg x.pa = false → k.inOwnStore c x.pa = false →
      (st ≠ 0 → failed st) ∧
      (st = 0 → x.sent = true → exec (.storeAcknowledged c id) s =
        s.goes ((((k.dropStore c x.id).cohWrite la x.data false).spoilZones (some c) la x.data.length).drainAll c))))

/-- R98, R100-R102, R114, R118: the dispatcher registers, each in a bank that runs. `DSP_CTL` takes its two bits, `ENABLE` not
while the quadrant is orphaned. `DSP_QCFG` enables a queue of legal size with its three indices at zero, which launches of
its earlier ring move no more, disables it only when nothing of it is unread or running, and clears the flags written with 1. A doorbell within the bounds of R102
moves `TAIL`; another sets `DB_OVERRUN`. `DSP_ABORT` keeps the result of the abort. `DSP_CRST` puts the named idle or gated
clusters into reset. -/
def Obligations.DispatcherRegisters : Prop :=
  ∀ (s : State) (q n : Nat) (v : U64),
    let k := s.chip
    let full : RegW := { part := .full, val := v }
    let w := (k.quad q).queue n
    k.bankUp q = true →
    exec (.dspCtlWrite q full) s =
      s.goes (k.updQuad q (fun d => { d with enable := v.getLsbD 0 && !d.orphaned, pgate := v.getLsbD 1 })) ∧
    (n < 256 → exec (.dspQcfgWrite q n full) s = s.goes (k.updQuad q (·.writeQcfg n full)) ∧
      let e := (k.quad q).writeQcfg n full
      let y := e.queue n
      (∀ m, m ≠ n → e.queue m = (k.quad q).queue m) ∧ y.stale = (w.stale && !v.getLsbD 5) ∧ y.overrun = (w.overrun && !v.getLsbD 6) ∧ y.ringErr = (w.ringErr && !v.getLsbD 7) ∧
      y.base = w.base ∧
      (w.enable = true → y.log2 = w.log2 ∧ y.head = w.head ∧ y.tail = w.tail ∧ y.retired = w.retired ∧
        (y.enable = true ↔ v.getLsbD 0 = true ∨ w.head ≠ w.tail ∨ (k.quad q).live n = true)) ∧
      (w.enable = false → y.log2 = v.extractLsb' 1 4 ∧
        (y.enable = true ↔ v.getLsbD 0 = true ∧ 4 ≤ (v.extractLsb' 1 4).toNat ∧ (v.extractLsb' 1 4).toNat ≤ 12) ∧
        (y.enable = true → y.head = 0 ∧ y.tail = 0 ∧ y.retired = 0 ∧ y.next = w.next ∧
          e.launches = (k.quad q).launches.map (fun l => if l.queue = n then { l with late := true } else l)))) ∧
    (n < 256 → exec (.dspQdb q n full) s = s.goes (k.updQuad q (·.updQueue n (fun w =>
      let t : BitVec 16 := v.extractLsb' 0 16
      if w.enable = false then w
      else if (w.tail - w.retired).toNat ≤ (t - w.retired).toNat ∧ (t - w.retired).toNat ≤ w.size then
        { w with tail := t, stopped := w.stopped && w.ringErr }
      else { w with overrun := true })))) ∧
    ((k.quad q).abtBusy = false → ∀ k1 r, k.abort q (v.toNat % 256) (v.extractLsb' 16 16) = (k1, r) →
      exec (.dspAbort q full) s = s.goes (k1.updQuad q (fun d => { d with abtResult := BitVec.ofNat 3 r }))) ∧
    (∃ t : State, exec (.dspCrst q full) s = .next t ∧
      (∀ c, t.chip.cluster c =
        if c / 24 = q ∧ v.getLsbD (c % 24) = true ∧ ((k.cluster c).st = .idle ∨ (k.cluster c).st = .gated) then
          { k.cluster c with st := .reset }
        else k.cluster c) ∧
      t = { s with chip := { k with clusters := t.chip.clusters } })

/-- R115, R116: the result of an abort, by where the record stands, and what the abort of a record that has not
completed leaves. -/
def Obligations.AbortResults : Prop :=
  ∀ (k : Chip) (q n : Nat) (i : BitVec 16),
    let d := k.quad q
    let w := d.queue n
    let at' := (i - w.retired).toNat
    ((w.tail - w.retired).toNat ≤ at' → k.abort q n i = (k, 3)) ∧
    (at' < (w.tail - w.retired).toNat → (w.head - w.retired).toNat ≤ at' →
      (i ∈ w.aborts → k.abort q n i = (k, 2)) ∧
      (i ∉ w.aborts → k.abort q n i = (k.updQuad q (·.updQueue n (fun w => { w with aborts := w.aborts ++ [i] })), 1))) ∧
    (at' < (w.tail - w.retired).toNat → at' < (w.head - w.retired).toNat →
      (∀ r, w.next = some r → r.seq = i → w.nextLate = false → r.abortable = false → k.abort q n i = (k, 4)) ∧
      (∀ r, w.next = some r → r.seq = i → w.nextLate = false → r.abortable = true →
        (k.abort q n i).2 = 1 ∧ (((k.abort q n i).1.quad q).queue n).next = none ∧
        ((k.abort q n i).1.quad q).launches.map (fun l => l.outcome) =
          d.launches.map (fun l => l.outcome) ++ [some (2, (0xFF, (0, 0)))]) ∧
      ((∀ r, w.next = some r → r.seq = i → w.nextLate = true) →
        (d.launches.find? (fun l => l.queue = n && l.rec'.seq = i && !l.late) = none → k.abort q n i = (k, 2)) ∧
        (∀ l, d.launches.find? (fun l => l.queue = n && l.rec'.seq = i && !l.late) = some l →
          (l.outcome ≠ none → k.abort q n i = (k, 2)) ∧
          (l.outcome = none → l.rec'.abortable = false → k.abort q n i = (k, 4)) ∧
          (l.outcome = none → l.rec'.abortable = true → k.abort q n i = (k.fixOutcome q l (2, (0xFF, (0, 0))), 1)))))

/-- R103, R105, R115, R530: the dispatcher reads the record at `HEAD` of a queue with one below `TAIL`. A read that fails stops the
queue with `RING_ERR`; a record of another `SEQ` changes no queue and is read again; otherwise `HEAD` moves on, and the
record is rejected, aborted, or becomes the next to start. A queue whose record has stayed stale is read once more, and stops
with `QUEUE_STALE` where that leaves the same record awaited.

R108: the dispatcher gathers clusters for one record at a time and starts it once it has all it needs; a gathering record
that still lacks clusters keeps those it has, and another record may start on clusters it cannot use.

R110, R111, R530: a launch none of whose clusters runs reaches its commit point: the completion area is written as R111 lays
it out, `RETIRED` moves on, unless its queue has been enabled again since, and the addition to `COMP_HASP` is sent, with the error flag for every status but `COMPLETE`. While
the quadrant is orphaned an area in LPDDR is held instead. -/
def Obligations.LaunchRows : Prop :=
  (∀ (s : State) (q n : Nat),
    let k := s.chip
    let d := k.quad q
    let w := d.queue n
    let pa := w.slotAddr w.head
    let la := paLocal pa
    let readable := k.isOwn pa && cacheable la && decide (k.reachMem (some q) la = 0)
    let ringErr (k : Chip) : Chip := k.updQuad q (·.updQueue n (fun w => { w with ringErr := true, stopped := true }))
    k.bankUp q = true → n < 256 → k.recordAwaited q n = true →
    (∀ k1, exec (.launchRecordRead q n) s = s.goes k1 → exec (.queueStale q n) s = s.goes (
      if k1.recordAwaited q n = true ∧ ((k1.quad q).queue n).head = w.head then
        k1.updQuad q (·.updQueue n (fun w => { w with stale := true, stopped := true }))
      else k1)) ∧
    (readable = false → exec (.launchRecordRead q n) s = s.goes (ringErr k)) ∧
    (readable = true → ∀ k1 bs poison, k.cohRead la 128 = (k1, (bs, poison)) →
      let r := decodeRecord la (ofBytes bs)
      let k2 := k1.updQuad q (·.updQueue n (fun w => { w with
        head := w.head + 1, nextLate := false, aborts := w.aborts.filter (· ≠ r.seq) }))
      (poison = true → exec (.launchRecordRead q n) s = s.goes (ringErr k1)) ∧
      (poison = false → r.seq ≠ w.head → exec (.launchRecordRead q n) s = s.goes k1) ∧
      (poison = false → r.seq = w.head → exec (.launchRecordRead q n) s = s.goes (
        if k2.recordBad q r then k2.emptyLaunch q n r 5
        else if r.seq ∈ w.aborts ∧ r.abortable = true then k2.emptyLaunch q n r 2
        else k2.updQuad q (·.updQueue n (fun w => { w with next := some r })))))) ∧
  (∀ (s : State) (q : Nat),
    let k1 := s.chip.updQuad q Quad.choose
    let d := k1.quad q
    s.chip.bankUp q = true → (s.chip.quad q).enable = true → (s.chip.quad q).orphaned = false →
    (d.gathering = none → exec (.launchStart q) s = s.goes k1) ∧
    (∀ n r, d.gathering = some n → (d.queue n).next = some r →
      let kept := d.gathered.filter k1.freeCluster
      let avail := (quadClusters q).filter (fun c => k1.freeCluster c && !kept.contains c)
      ∀ more k2, k1.pick q r avail (r.need q - kept.length) = (more, k2) →
        (r.need q ≤ (kept ++ more).length → exec (.launchStart q) s =
          s.goes ((k2.startLaunch q n r (kept ++ more)).updQuad q (fun d => { d with
            gathering := none, gathered := [], rr := n }))) ∧
        ((kept ++ more).length < r.need q → exec (.launchStart q) s =
          s.goes ((k2.updQuad q (fun d => { d with gathered := kept ++ more })).startOther q n r)))) ∧
  (∀ (s : State) (q id : Nat) (l : Launch),
    let k := s.chip
    let d := k.quad q
    let o := l.outcome.getD (1, (0xFF, (0, 0)))
    let la := l.rec'.addr + 96
    let area : Bytes := toBytes 4 (o.1 + 256 * o.2.1 + 65536 * o.2.2.1) ++ toBytes 4 l.rec'.seq.toNat ++
      toBytes 8 o.2.2.2.toNat ++ toBytes 8 (if l.all.isEmpty then 0 else l.stopAt / 600 - l.startAt / 600) ++ toBytes 8 0
    let gone : Chip := k.updQuad q (fun d => { d with launches := d.launches.filter (fun x => x.id ≠ id) })
    let h : HeldComp := { addr := la, area := area, hasp := l.rec'.compHasp, inc := l.rec'.compInc, err := decide (o.1 ≠ 1),
                          noAdd := l.noAdd, late := l.late, queue := l.queue, seq := l.rec'.seq }
    k.bankUp q = true → d.launches.find? (fun l => l.id = id) = some l → l.running = [] →
    (d.orphaned = true → areaOf la = .lpddr → d.held.length < 24 →
      exec (.launchCompletion q id) s = s.goes (gone.updQuad q (fun d => { d with held := d.held ++ [h] }))) ∧
    ((d.orphaned = false ∨ areaOf la ≠ .lpddr) → k.reachMem (some q) la = 0 →
      exec (.launchCompletion q id) s = s.goes (
        let k1 := (gone.cohWrite la area false).updQuad q (·.updQueue l.queue (fun w =>
          if l.late then w else WQueue.advance 4096 { w with done := w.done ++ [l.rec'.seq] }))
        if l.noAdd then k1 else k1.toBank (some q) none .add l.rec'.compHasp l.rec'.compInc (decide (o.1 ≠ 1)))))

/-- R106, R107: what the start of a launch leaves at each of its clusters: it runs at `ENTRY` in space `SPACE`; `s1` to `s4`
hold the argument, the rank in the order of cluster numbers, their count and the cluster's number, and every other scalar
register zero; nothing is queued or outstanding, and vector registers, tiles and tables are kept, as is every
byte of memory and every other cluster. The launch is live with no outcome, and its queue has no next record. -/
def Obligations.LaunchBegins : Prop :=
  ∀ (k : Chip) (q n : Nat) (r : LaunchRec) (cs : List Nat),
    let sorted := (quadClusters q).filter cs.contains
    let k1 := k.startLaunch q n r cs
    (∀ i c, sorted[i]? = some c →
      let x := k.cluster c
      let y := k1.cluster c
      y.st = .running ∧ y.pc = r.entry ∧ y.space = r.space.toNat ∧ y.seq = r.seq ∧ y.queue = BitVec.ofNat 10 (q * 256 + n) ∧
      (∀ g : SReg, y.reg g = if g = 1 then r.arg else if g = 2 then BitVec.ofNat 64 i
        else if g = 3 then BitVec.ofNat 64 sorted.length else if g = 4 then BitVec.ofNat 64 c else 0) ∧
      y.loops = [] ∧ y.loads = [] ∧ y.stores = [] ∧ y.queues = [] ∧ y.claims = [] ∧ y.waits = [] ∧ y.haspBuf = [] ∧
      y.faulted = none ∧ y.stopIssued = false ∧ y.canIssue = true ∧
      y.vunits = x.vunits ∧ y.munits = x.munits ∧ y.lut = x.lut ∧ y.movers = x.movers ∧ y.lcache = x.lcache) ∧
    (∀ c, c ∉ sorted → k1.cluster c = k.cluster c) ∧
    (∀ a, k1.byte a = k.byte a) ∧ (∀ p, p ≠ q → k1.quad p = k.quad p) ∧
    ((k1.quad q).queue n).next = none ∧
    (k1.quad q).launches.map (fun l => (l.queue, (l.rec', (l.running, l.outcome)))) =
      (k.quad q).launches.map (fun l => (l.queue, (l.rec', (l.running, l.outcome)))) ++ [(n, (r, (sorted, none)))]

/-- R96, R110, R117, R118, R119, R535: how a cluster leaves its launch. A cluster that has issued a stop bundle, or is stopping,
halts once everything it issued has finished. A fault is reported once the cluster has halted, and fixes the outcome
`FAULTED`; an error contained at it fixes `ERROR`, and resets a cluster without a launch. A cluster that does not stop in
time is reset. An idle cluster is gated.

R118, R524: a cluster reset, once every mover command has completed, drains the stores of the cluster and ends when none is
left: the cluster is `IDLE` with every register, unit,
table, queue, claim, zone and line of its cache in the reset state, its translation state and the fields of `DSP_CLST`
kept, and its whole store holds zero; the same for a cluster of any launch, which it leaves. -/
def Obligations.ClusterRows : Prop :=
  (∀ (s : State) (c : Nat),
    let k := s.chip
    let x := k.cluster c
    let q := c / 24
    let left : Chip := (k.leaveLaunch c).updCluster c Cluster.retire
    (k.finished c = true →
      ((x.st = .running ∧ x.stopIssued = true ∧ x.faulted = none ∧ x.errored = false) ∨ x.st = .stopping) →
      exec (.clusterHalt c) s = s.goes left) ∧
    (∀ l, (k.quad q).launchOf c = some l →
      (x.errored = true → exec (.clusterFaultReport c) s = s.goes (k.fixOutcome q l (4, (c % 24, (0, 0))))) ∧
      (∀ code addr, x.errored = false → x.faulted = some (code, addr) → x.st = .running → k.finished c = true →
        exec (.clusterFaultReport c) s =
          s.goes (left.fixOutcome q { l with running := l.running.filter (· ≠ c) } (3, (c % 24, (code, addr)))))) ∧
    ((k.quad q).launchOf c = none → x.errored = true → x.st = .idle ∨ x.st = .gated →
      exec (.clusterFaultReport c) s = s.goes (k.updCluster c (fun x => { x with st := .reset }))) ∧
    (x.st = .stopping → exec (.clusterStopTimeout c) s = s.goes (k.updCluster c (fun x => { x with st := .reset }))) ∧
    ((k.quad q).pgate = true → x.st = .idle →
      exec (.clusterPowerGate c) s = s.goes (k.updCluster c (fun x => { x with st := .gated }))) ∧
    (let y := left.cluster c
     y.st = (if x.errored then .reset else .idle) ∧ y.waits = [] ∧ y.regs = x.regs ∧ y.vunits = x.vunits ∧
     y.munits = x.munits ∧ y.lcache = x.lcache ∧
     (∀ l ∈ (left.quad q).launches, c ∉ l.running) ∧
     (left.quad q).launches.map (fun l => (l.id, l.outcome)) = (k.quad q).launches.map (fun l => (l.id, l.outcome)) ∧
     (∀ d, d ≠ c → left.cluster d = k.cluster d) ∧ (∀ a, left.byte a = k.byte a))) ∧
  (∀ (s : State) (c : Nat),
    let k := s.chip
    let x := k.cluster c
    x.st = .reset → (∀ m, m < 2 → ∀ d ∈ (x.mover m).cmds, d.phase = .drain) →
    (let t := s.drainStores c
     ((t.chip.cluster c).stores = [] →
       exec (.clusterReset c) s = .next (t.onChip (fun k => (k.leaveLaunch c).resetCluster c))) ∧
     ((t.chip.cluster c).stores ≠ [] → exec (.clusterReset c) s = .next t)) ∧
    (∀ j : Chip,
      let p := j.purgeCache c
      let y := (j.resetCluster c).cluster c
      y = { Cluster.reset with
        st := .idle, queue := (p.cluster c).queue, seq := (p.cluster c).seq, nextNo := (p.cluster c).nextNo
        nextId := (p.cluster c).nextId, ranges := (p.cluster c).ranges } ∧
      (∀ a, (j.resetCluster c).byte a =
        if storeAddr c 0 ≤ a ∧ a < storeAddr c 0 + 2 ^ 22 then 0 else p.byte a) ∧
      (∀ d, d ≠ c → (j.resetCluster c).cluster d = p.cluster d) ∧
      (∀ i h, ((j.resetCluster c).quad i).hasp h = (p.quad i).hasp h)))

/-- R116, R117: a fixed outcome never changes; fixing one other than `COMPLETE` stops every cluster that still runs: its waits,
its fence, its run-ahead state and its engine queues go, the claims of its engines are released, and each queued
mover command ends with `ABORTED` and its count to add, while a command in its data phase goes on. -/
def Obligations.OutcomeFixed : Prop :=
  ∀ (k : Chip) (q : Nat) (l : Launch) (o : Nat × (Nat × (Nat × U64))),
    (l.outcome ≠ none → k.fixOutcome q l o = k) ∧
    (l.outcome = none → ∀ c, l.running = [c] → (k.cluster c).st = .running → (k.cluster c).stores = [] →
      (k.cluster c).loads = [] →
      let x := k.cluster c
      let y := (k.fixOutcome q l o).cluster c
      (∀ m ∈ ((k.fixOutcome q l o).quad q).launches, m.id = l.id → m.outcome = some o) ∧
      y.st = .stopping ∧ y.waits = [] ∧ y.fence = none ∧ y.queues = [] ∧ y.prepared = [] ∧
      (∀ a ∈ y.claims, 7 ≤ a.eng) ∧ (∀ a ∈ x.claims, 7 ≤ a.eng → a ∈ y.claims) ∧
      (∀ m, m < 2 → (∀ d ∈ (y.mover m).cmds, d.phase ≠ .queued) ∧
        (∀ d ∈ (x.mover m).cmds, d.speculative = false →
          (d.phase = .queued → ({ d with phase := .done, status := 8, failSeg := none } : MovCmd) ∈ (y.mover m).cmds) ∧
          (d.phase ≠ .queued → d ∈ (y.mover m).cmds))))

/-- R284, R287, R293, R308: what a bank does with an operation, indivisibly. An addition that passes 2⁴⁸ − 1 leaves the counter there
with `SAT`, and never lowers it; a set keeps the flags, a reset clears them; `err` sets the error flag in the same
operation. Every registered wait of the hasp that the new count satisfies ends, where its sequencer has issued no operation to
the hasp before it that is yet to be applied, every notifier of the hasp whose
condition holds then fires, and no other hasp, no register and no byte of memory changes. -/
def Obligations.HaspOperation : Prop :=
  ∀ (k : Chip) (q i : Nat) (act : HaspAct) (v : BitVec 48) (err : Bool), q < 4 → i < 4096 →
    let h := (k.quad q).hasp i
    let k1 := k.bankApply q i act v err
    let g := (k1.quad q).hasp i
    let id : BitVec 14 := BitVec.ofNat 14 (q * 4096 + i)
    (act = .add → g.count.toNat = min (h.count.toNat + v.toNat) (2 ^ 48 - 1) ∧
      g.sat = (h.sat || decide (2 ^ 48 ≤ h.count.toNat + v.toNat)) ∧ g.err = (h.err || err) ∧ h.count.toNat ≤ g.count.toNat) ∧
    (act = .set → g.count = v ∧ g.sat = h.sat ∧ g.err = (h.err || err)) ∧
    (act = .reset → g.count = 0 ∧ g.sat = false ∧ g.err = err) ∧
    (∀ r j, (r, j) ≠ (q, i) → (k1.quad r).hasp j = (k.quad r).hasp j) ∧
    (∀ n, n < 64 →
      let x := tblGet Notifier.reset (k.quad q).notifiers n
      tblGet Notifier.reset (k1.quad q).notifiers n =
        if x.index.toNat = i ∧ x.en = true ∧ (x.thresh.toNat ≤ g.count.toNat ∨ (x.onErr = true ∧ g.err = true)) then
          { x with fired := true }
        else x) ∧
    (∀ c, (k1.cluster c).waits = (k.cluster c).waits.filter (fun w =>
        !(w.hasp = id && decide (w.v.toNat ≤ g.count.toNat) && !k.haspBehind c id w.no)) ∧
      (k1.cluster c).whEnded = ((k.cluster c).whEnded ||
        (k.cluster c).waits.any (fun w =>
          w.hasp = id && decide (w.v.toNat ≤ g.count.toNat) && !k.haspBehind c id w.no && !w.gate)) ∧
      k1.cluster c = { k.cluster c with waits := (k1.cluster c).waits, whEnded := (k1.cluster c).whEnded }) ∧
    (∀ a, k1.byte a = k.byte a) ∧ k1.harts = k.harts ∧ k1.mgmt = k.mgmt

/-- R288, R291, R292, R294, R299, R305, R306, R308: the commands of the hasp banks. The operation at the head of a cluster's buffer
leaves it once its scope allows, to its bank or as a `HASP_ADD` packet. A bank applies an operation that has reached it
unless an earlier one of the same sequencer for the same hasp waits. A wait with a bound ends by its timeout with
`LAST_HASP`. The `HSP_OP` forms act at once. `HSP_ROP` sends an addition, or sets `ROPERR`. A write of a notifier register
evaluates the notifier. -/
def Obligations.HaspRows : Prop :=
  ∀ (s : State) (c q i n : Nat) (index : BitVec 12) (v : BitVec 48) (ag : Agent) (h : BitVec 14) (dev : BitVec 6)
    (v42 : BitVec 42) (w : U64),
    let k := s.chip
    let x := k.cluster c
    let full : RegW := { part := .full, val := w }
    (∀ o rest, x.haspBuf = o :: rest → k.mayRelease c o = true →
      let k1 := k.updCluster c (fun x => { x with haspBuf := rest })
      exec (.haspOpRelease c) s = s.goes ((match o.remote with
        | none => k1.toBank (some (c / 24)) (some (c, o.no)) o.act o.hasp o.v o.err
        | some d => k1.sendHaspAdd (some (c / 24)) d o.hasp o.v o.err (.haspAdd c)).releaseHasps c rest.length)) ∧
    (∀ o, (k.quad q).inbox[i]? = some o →
      ((k.quad q).inbox.take i).any (fun p => p.src.isSome && p.src.map (·.1) = o.src.map (·.1) && p.index = o.index) = false →
      exec (.haspBankApply q i) s = s.goes ((k.updQuad q (fun d => { d with
        inbox := (k.quad q).inbox.eraseIdx i })).bankApply q o.index o.act o.v o.err)) ∧
    (∀ y, x.waits.find? (fun y => y.id = i) = some y → y.tmo ≠ 0 →
      exec (.haspWaitTimeout c i) s = s.goes (k.updCluster c (fun x => { x with
        waits := x.waits.filter (·.id ≠ y.id), whEnded := x.whEnded || !y.gate, hwTmo := true, lastHasp := y.hasp }))) ∧
    (k.bankUp q = true →
      exec (.hspOpAdd q index v) s = s.goes (k.bankApply q index.toNat .add v false) ∧
      exec (.hspOpSet q index v) s = s.goes (k.bankApply q index.toNat .set v false) ∧
      exec (.hspOpReset q index) s = s.goes (k.bankApply q index.toNat .reset 0 false) ∧
      ((dev = k.fabric.devnum ∨ k.fabric.podMember = false ∨ (k.fabric.route dev.toNat).valid = false) →
        exec (.hspRop ag q h dev v42) s = s.goes (k.updQuad q (fun d => { d with ropErr := true }))) ∧
      (dev ≠ k.fabric.devnum → k.fabric.podMember = true → (k.fabric.route dev.toNat).valid = true →
        exec (.hspRop ag q h dev v42) s =
          s.goes (k.sendHaspAdd (some q) dev h (v42.setWidth 48) false (.rop ag h (BitVec.ofNat 6 q)))) ∧
      (n < 64 →
        let o := tblGet Notifier.reset (k.quad q).notifiers n
        let met (m : Notifier) : Bool := m.en && (decide (m.thresh.toNat ≤ ((k.quad q).hasp m.index.toNat).count.toNat) ||
          (m.onErr && ((k.quad q).hasp m.index.toNat).err))
        let a : Notifier := { o with
          index := w.extractLsb' 0 12, en := w.getLsbD 16, onErr := w.getLsbD 17, fired := o.fired && !w.getLsbD 18 }
        let b : Notifier := { o with thresh := w.extractLsb' 0 48 }
        (∃ t : State, exec (.hspNcfgWrite q n full) s = .next t ∧
          tblGet Notifier.reset (t.chip.quad q).notifiers n = { a with fired := a.fired || met a } ∧
          (∀ m, m ≠ n → tblGet Notifier.reset (t.chip.quad q).notifiers m = tblGet Notifier.reset (k.quad q).notifiers m) ∧
          t.chip = k.updQuad q (fun d => { d with notifiers := (t.chip.quad q).notifiers })) ∧
        (∃ t : State, exec (.hspNthrWrite q n full) s = .next t ∧
          tblGet Notifier.reset (t.chip.quad q).notifiers n = { b with fired := b.fired || met b } ∧
          (∀ m, m ≠ n → tblGet Notifier.reset (t.chip.quad q).notifiers m = tblGet Notifier.reset (k.quad q).notifiers m) ∧
          t.chip = k.updQuad q (fun d => { d with notifiers := (t.chip.quad q).notifiers }))))

/-- R27, R30-R35, R40, R46, R47, R50, R52: messages and flits at a hinge. A message takes the hinge that its destination gives,
goes out on an active one, is held while the hinge trains or its seat on the way is in reset, and is lost when there is
none. On an active side a flit whose CRC fails is counted and answered with `REPLAY`; any other is acknowledged first, and
then a `MSG` flit in sequence joins its message, which its `TAIL` delivers, or sends on from the seat it passes through; a
`DISC` flit in sequence is kept as the peer's record; `REPLAY` sends the unacknowledged flits again before any new one;
`RETRAIN` is noted; a
sequenced flit out of sequence asks for a retrain, unless flits are being discarded. The limits of R35 ask for a
retrain too.

R36-R45, R51, R57, R58: the training of a hinge. An attempt that is due takes both sides to `CLOCK`; the lock takes them to
`DESKEW` and the deskew to `PATTERN`. The test settles a width, or fails the attempt; a state that lasts too long
fails it as well, and the third consecutive failure fails the hinge. In `CONFIRM` an equal statement makes a side active
and another fails the attempt. The failure count clears, `DISC` flits go out, and `HNG_CTL` acts as its two bits say. -/
def Obligations.HingeRows : Prop :=
  (∀ (s : State) (n b : Nat) (m : NetMsg) (f : Flit),
    let l := s.links
    let x := l.side n
    let ends (l : Links) : Out := .next { s with links := l }
    let bad : Out := ends (({ l with wire := dropWire n b l.wire }.updSide n (fun s =>
      { s.updBundle b (fun bu => { bu with discarding := true }) with
        crcErr := satAdd s.crcErr 1, replays := satAdd s.replays 1 })).emitPlain n b 5 0)
    let l0 := { l with wire := dropWire n b l.wire }
    let l1 := l0.takeAck n b (flitAck f)
    let bu := (l1.side n).bundle b
    let retrain (l : Links) : Links := (l.updSide n (fun s => { s with wanted := true })).emitPlain n b 4 0
    let inSeq := flitSeq f = bu.rxSeq + 1
    (∀ e, s.chip.route (dieOf n) m.dst = .side e →
      let st := l.hingeState (hingeOf e)
      (st = .active → exec (.hingeMessageSend n m) s =
        ends (l.queueFlits e (bundleFor (hingeOf e) (l.side e).half m.key) (msgFlits m))) ∧
      (st = .failed → exec (.hingeMessageSend n m) s = ends { l with lost := l.lost ++ [m] }) ∧
      (st ≠ .active → st ≠ .failed →
        exec (.hingeMessageSend n m) s = ends (l.updSide e (fun s => { s with held := s.held ++ [m] })))) ∧
    (s.chip.route (dieOf n) m.dst = .hold →
      exec (.hingeMessageSend n m) s = ends { l with diag := l.diag ++ [(dieOf n, m)] }) ∧
    (s.chip.route (dieOf n) m.dst = .lost → exec (.hingeMessageSend n m) s = ends { l with lost := l.lost ++ [m] }) ∧
    (s.chip.route (dieOf n) m.dst = .here → exec (.hingeMessageSend n m) s = .next s) ∧
    (x.st = .active → flitGood f = false → exec (.msgFlit n b f) s = bad ∧ exec (.idleFlit n b f) s = bad ∧
      exec (.replayFlit n b f) s = bad ∧ exec (.retrainFlit n b f) s = bad ∧ exec (.discFlit n b f) s = bad) ∧
    (x.st = .active → flitGood f = true →
      (flitType f = 1 → inSeq →
        let part := (if flitHead f then [] else bu.part) ++ [f.data]
        let l2 := l1.updSide n (·.updBundle b (fun bu =>
          { bu with rxSeq := flitSeq f, discarding := false, part := if flitTail f then [] else part }))
        (flitTail f = false → exec (.msgFlit n b f) s = ends l2) ∧
        (flitTail f = true → l.passing n b f = none → exec (.msgFlit n b f) s =
          ends { l2 with mesh := l1.mesh ++ [{ side := n, cls := flitClass f, body := part }] }) ∧
        (∀ p, flitTail f = true → l.passing n b f = some p → exec (.msgFlit n b f) s =
          .next ({ s with links := { l2 with mesh := l.mesh } }.sendFrom (dieOf n) p))) ∧
      (flitType f = 2 → inSeq → ∃ t : State, exec (.discFlit n b f) s = .next t ∧
        (t.links.side n).peer = some f.data ∧ ((t.links.side n).bundle b).rxSeq = flitSeq f ∧ t.links.mesh = l1.mesh) ∧
      (¬ inSeq → bu.discarding = true →
        (flitType f = 1 → exec (.msgFlit n b f) s = ends l1) ∧ (flitType f = 2 → exec (.discFlit n b f) s = ends l1)) ∧
      (¬ inSeq → bu.discarding = false → (l1.side n).st = .active →
        (flitType f = 1 → exec (.msgFlit n b f) s = ends (retrain l1)) ∧
        (flitType f = 2 → exec (.discFlit n b f) s = ends (retrain l1))) ∧
      (flitType f = 0 → exec (.idleFlit n b f) s = ends l1) ∧
      (flitType f = 4 → exec (.retrainFlit n b f) s = ends (l1.updSide n (fun s => { s with wanted := true }))) ∧
      (flitType f = 5 →
        let l2 := l0.updSide n (·.updBundle b (·.ack (flitAck f)))
        exec (.replayFlit n b f) s =
          ends ((l2.emit n b ((((l2.side n).bundle b).replay.filter (fun t => !t.acked)).map (·.flit))).pumpBundle n b)) ∧
      (6 ≤ (flitType f).toNat → (l1.side n).st = .active → exec (.msgFlit n b f) s = ends (retrain l1))) ∧
    (x.st = .active → exec (.forwardedClockLoss n b) s = ends (retrain l) ∧
      ((x.bundle b).discarding = true → exec (.replayLimit n b) s = ends (retrain l)) ∧
      ((x.bundle b).unacked ≠ 0 → exec (.flitAckTimeout n b) s = ends (retrain l)))) ∧
  (∀ (s : State) (h n b q i die : Nat) (pa pb : BitVec 16) (f : Flit),
    let l := s.links
    let a := l.side (authSide h)
    let c := l.side (subSide h)
    let ends (l : Links) : Out := .next { s with links := l }
    (s.attemptDue h = true → exec (.hingeAttemptStart h) s = ends (l.startAttempt h)) ∧
    (a.st = .clock → c.st = .clock → a.waiting = false →
      exec (.hingeClockLock h) s = ends (l.updHinge h (fun s => { s with st := .deskew }))) ∧
    (a.st = .deskew → c.st = .deskew → a.waiting = false →
      exec (.hingeDeskewDone h) s = ends (l.updHinge h (fun s => { s with st := .pattern }))) ∧
    (a.st = .pattern → c.st = .pattern →
      exec (.hingePatternDone h pa pb) s = .next (s.onHinge h (fun l => l.patternDone h pa pb))) ∧
    (l.inAttempt h = true → exec (.hingeStateTimeout h) s = .next (s.onHinge h (fun l => l.failAttempt h false))) ∧
    ((l.side n).st = .confirm → flitGood f = true → flitType f = 3 → f.data.getLsbD 1 = true →
      exec (.widthFlit n b f) s = .next (s.onHinge (hingeOf n) (fun l =>
        let l := { l with wire := dropWire n b l.wire }
        if f.data.getLsbD 0 = (l.side n).half then l.goActive n else l.failAttempt (hingeOf n) true))) ∧
    ((l.side n).st = .widthSet → flitGood f = true → flitType f = 3 → f.data.getLsbD 1 = false →
      exec (.widthFlit n b f) s = .next (s.onHinge (hingeOf n) (fun l =>
        { l with wire := dropWire n b l.wire }.widthSetFlit n f.data))) ∧
    (l.hingeState h = .active → exec (.hingeFailcountReset h) s = ends (l.updHinge h (fun x => { x with failCount := 0 }))) ∧
    (let d := s.chip.quad q
     d.up = true → d.unusable = false → d.orphaned = false → d.underReset = false → d.asleep = false →
     l.hingeState q ≠ .active → l.hingeState q ≠ .failed → l.hingeState q ≠ .off →
      exec (.hostLossTimeout q) s = s.goes (s.chip.hostLoss q false)) ∧
    (l.discOpen = true ∨ l.rediscover ≠ [] → exec (.discSendTimer die) s = ends (l.sendDisc die)) ∧
    ((l.side (baseSide q i)).st ≠ .off → (l.side (baseSide q i)).st ≠ .failed →
      exec (.hngClrCnt q i) s =
        ends (l.updSide (baseSide q i) (fun x => { x with crcErr := 0, replays := 0, retrains := 0 }))) ∧
    (let e := baseSide q i
     let full := l.updHinge (hingeOf e) (fun x => { x with forceFull := true })
     (l.hingeState (hingeOf e) = .active → exec (.hngRetrain q i) s = ends (full.wantRetrain e 0)) ∧
     (l.hingeState (hingeOf e) ≠ .active → (l.side e).waiting = true → exec (.hngRetrain q i) s = ends full) ∧
     (l.hingeState (hingeOf e) ≠ .active → (l.side e).waiting = false → exec (.hngRetrain q i) s = ends l)) ∧
    (h < 8 →
      let t := l.failAttempt h false
      (a.failCount ≠ 2 → ∀ m, m = authSide h ∨ m = subSide h →
        (t.side m).st = .clock ∧ (t.side m).waiting = true ∧ (t.side m).failCount = (l.side m).failCount + 1) ∧
      (a.failCount = 2 → ∀ m, m = authSide h ∨ m = subSide h →
        (t.side m).st = .failed ∧ (t.side m).held = [] ∧ ∀ y ∈ (l.side m).held, y ∈ t.lost)))

/-- R342, R346-R350: requests at a home, as the oldest message of the network. A request for a line that is busy, or waited
for, or that finds the home full, waits. Otherwise it starts, by the state of its directory entry: `GetS` is granted `E`
from `DI` and `F` from `DS`, and forwarded from `DF` and `DX`; `GetM` is granted from `DI` and to a sole holder, forwarded
from `DX`, and invalidates the other holders otherwise; a put of a holder is acknowledged and removes it, and `PutM` of
the owner writes its line; `ReadOnce` reads memory or the owner; `WriteFull` and `Atomic` invalidate every holder
first. Every request that starts uses its line in the memory-side cache of its home (R395, R441). A waiting request
starts once its line is free.

R345, R349: a put that reaches its home is acknowledged. The clean put of the sole owner, and a `PutM`, free
the entry, the latter once its line is in memory; a put of another holder removes that agent alone; a put of an agent
that holds nothing changes nothing. -/
def Obligations.CoherenceRequests : Prop :=
  (∀ (s : State) (a line : Nat) (r : List CohMsg) (keep po : Bool) (d : LineData) (mask : BitVec 128) (op : AmoOp)
    (v w : U64),
    let k := s.chip
    let home := k.homeOf line
    let k1 := { k with net := r }
    let h := k.home home
    let e := h.entry line
    let idle : Prop := h.isBusy line = false ∧ h.waiting.any (fun w => w.1 = line) = false ∧ h.busy.length < homeCap home
    let atHome (kind : CohKind) : Prop := k.net = mkMsg kind a home line :: r
    let waits (k : Chip) (q : HReq) : Chip := k.updHome home (fun h => { h with waiting := h.waiting ++ [(line, q)] })
    let owner := e.holders.headD 0xFF
    let rd (k : Chip) : Chip := k.cacheUse line false false
    let wr (k : Chip) : Chip := k.cacheUse line true false
    k.homeServes line = true →
    (k.agentPresent a = true →
      (atHome .getS → (¬ idle → exec (.gets a line) s = s.goes (waits k1 (.getS a))) ∧
        (idle → (e.dstate = dsFree → (k1.roomAt home line).2 = true →
            let k2 := (k1.roomAt home line).1
            exec (.gets a line) s = s.goes (rd ((k2.sendLine .dataE home a line).setDir home line (ownerEnt a (k2.home home).nextAge)))) ∧
          (e.dstate = dsFree → (k1.roomAt home line).2 = false →
            exec (.gets a line) s = s.goes (waits (k1.roomAt home line).1 (.getS a))) ∧
          (e.dstate = dsS → exec (.gets a line) s = s.goes (rd ((k1.sendLine .dataF home a line).setDir home line
            { e with sharers := e.sharers ||| agentBit a, fidx := BitVec.ofNat 8 a, dstate := dsF }))) ∧
          (e.dstate = dsF ∨ e.dstate = dsX →
            let t := if e.dstate = dsF then e.fidx.toNat else owner
            exec (.gets a line) s = s.goes (rd ((k1.send { mkMsg .fwdGetS home t line with req := a }).setBusy home line .bFS
              (some (.getS a)) [t]))))) ∧
      (atHome .getM → (¬ idle → exec (.getm a line) s = s.goes (waits k1 (.getM a))) ∧
        (idle → (e.dstate = dsFree → (k1.roomAt home line).2 = true →
            let k2 := (k1.roomAt home line).1
            exec (.getm a line) s = s.goes (rd ((k2.sendLine .dataE home a line).setDir home line (ownerEnt a (k2.home home).nextAge)))) ∧
          (e.dstate = dsX → exec (.getm a line) s = s.goes (rd ((k1.send { mkMsg .fwdGetM home owner line with req := a }).setBusy
            home line .bFM (some (.getM a)) [owner]))) ∧
          (e.dstate = dsS ∨ e.dstate = dsF →
            let as := e.holders.filter (· ≠ a)
            exec (.getm a line) s = s.goes (rd (
              if as = [] then (k1.sendLine .dataE home a line).setDir home line (ownerEnt a e.age)
              else (k1.snoopAll .inv home line as).setBusy home line .bInv (some (.getM a)) as))))) ∧
      (idle → (atHome .putS → exec (.puts a line) s = s.goes (rd (k1.homePut home line a false none))) ∧
        (atHome .putF → exec (.putf a line) s = s.goes (rd (k1.homePut home line a false none))) ∧
        (atHome .putE → exec (.pute a line) s = s.goes (rd (k1.homePut home line a true none))) ∧
        (k.net = { mkDataMsg .putM a home line d po with keep := keep } :: r →
          exec (.putm a line keep d po) s = s.goes (wr (k1.homePut home line a false (some (keep, (d, po))))))) ∧
      (¬ idle → (atHome .putS → exec (.puts a line) s = s.goes (waits k1 (.putS a))) ∧
        (atHome .putF → exec (.putf a line) s = s.goes (waits k1 (.putF a))) ∧
        (atHome .putE → exec (.pute a line) s = s.goes (waits k1 (.putE a))) ∧
        (k.net = { mkDataMsg .putM a home line d po with keep := keep } :: r →
          exec (.putm a line keep d po) s = s.goes (waits k1 (.putM a keep d po))))) ∧
    (idle →
      (exec (.readonce a line) s = s.goes (rd (if e.dstate = dsX then
        (k.send { mkMsg .fwdGetS home owner line with req := a, once := true }).setBusy home line .bOnce
          (some (.readOnce a)) [owner] else k.sendLine .data home a line))) ∧
      (exec (.writefull a line mask d po) s = s.goes (wr (if e.dstate = dsFree then
          (k.mergeLine line mask d po).send (mkMsg .wbAck home a line)
        else (k.snoopAll .inv home line e.holders).setBusy home line .bInv (some (.writeFull a mask d po)) e.holders))) ∧
      (∀ i, i < 16 → exec (.atomic a (line * 128 + 8 * i) op v w) s = s.goes (wr (if e.dstate = dsFree then
          k.homeAtomic home line a (line * 128 + 8 * i) op v w
        else (k.snoopAll .inv home line e.holders).setBusy home line .bInv (some (.atomic a (line * 128 + 8 * i) op v w))
          e.holders)))) ∧
    (¬ idle → exec (.readonce a line) s = s.goes (waits k (.readOnce a)) ∧
      exec (.writefull a line mask d po) s = s.goes (waits k (.writeFull a mask d po))) ∧
    (∀ q l k2, h.waiting.find? (fun w => w.1 = line) = some (l, q) → h.isBusy line = false → h.busy.length < homeCap home →
      (k.homeStart home line q = (k2, true) → exec (.homeRequestResume home line) s =
        s.goes ((k2.updHome home (fun h => { h with waiting := dropFirst (fun w => w.1 = line) h.waiting })).cacheUse line q.writes false)) ∧
      (k.homeStart home line q = (k2, false) → exec (.homeRequestResume home line) s = s.goes k2))) ∧
  (∀ (k : Chip) (home line p : Nat) (d : LineData) (po : Bool),
    let e := (k.home home).entry line
    let rest := e.sharers &&& ~~~agentBit p
    let sole := e.dstate = dsX ∧ e.sharers = agentBit p
    let ack (k : Chip) : Chip := k.send (mkMsg .wbAck home p line)
    let shrunk : Chip := if rest = 0 then k.setDir home line DirEnt.free
      else k.setDir home line { e with
        sharers := rest
        fidx := if e.fidx = BitVec.ofNat 8 p then 0xFF else e.fidx
        dstate := if e.fidx = BitVec.ofNat 8 p ∨ e.fidx = 0xFF then dsS else dsF }
    (sole → k.homePut home line p true none = ack (k.setDir home line DirEnt.free) ∧
      k.homePut home line p false (some (false, (d, po))) = ack ((k.writeLine line d po).setDir home line DirEnt.free) ∧
      k.homePut home line p false (some (true, (d, po))) = ack (k.writeLine line d po)) ∧
    (¬ sole → e.sharers.getLsbD p = true → k.homePut home line p true none = ack shrunk ∧
      k.homePut home line p false none = ack shrunk ∧ k.homePut home line p false (some (false, (d, po))) = ack shrunk) ∧
    (¬ sole → e.sharers.getLsbD p = false → k.homePut home line p true none = ack k ∧
      k.homePut home line p false none = ack k ∧ k.homePut home line p false (some (false, (d, po))) = ack k))

/-- R348, R351-R353, R355, R363: snoops, grants and acknowledgements at a cache, and answers at a home, as the oldest message of the
network. A snoop is held while the line waits for its data; otherwise the cell of R351 gives the next state, what the
requester gets and what the home gets, and a cell marked × is answered with `InvAck` and recorded; every
`BackInv` received is counted. A grant gives the line
its state and data, after which the reads of issue and the accesses that wait are performed and a held snoop is handled. `WbAck` ends a put. An
answer ends a transaction of the home with the last of those it waits for.

R351, R352: the snoop cells of a line in a stable state and in the states that wait for an acknowledgement, and which snoops
wait. Every cell is the one of the table; a line in I or in II_A answers no snoop. -/
def Obligations.CoherenceMessages : Prop :=
  (∀ (s : State) (a q line : Nat) (r : List CohMsg) (once po : Bool) (d : LineData),
    let k := s.chip
    let home := k.homeOf line
    let k1 := { k with net := r }
    let e := k.cline a line
    let row (i : Instr) (m : CohMsg) (z : SnoopKind) : Prop := k.net = m :: r →
      let kb := k1.countBack a m
      (defers e.st z = true → exec i s = s.goes (kb.updLine a line (fun e => { e with snoop := some m }))) ∧
      (defers e.st z = false → snoopRow e.st z = none →
        exec i s = s.goes ((kb.send (mkMsg .invAck a (k1.homeOf line) line)).protocolError a line m.kind)) ∧
      (∀ st toReq toHome, defers e.st z = false → snoopRow e.st z = some (st, (toReq, toHome)) → exec i s = s.goes (
        let k2 := (kb.updLine a line (fun e => { e with st := st })).countInv a m.kind e.locked
        let k3 := if st = .i ∨ st = .imD ∨ st = .iiA then k2.dropReservation a line else k2
        let k4 := match toReq with
          | some kind => k3.send (mkDataMsg kind a m.req line e.data e.poison)
          | none => k3
        k4.send (if toHome = .data then mkDataMsg .data a (k4.homeOf line) line e.data e.poison
          else mkMsg .invAck a (k4.homeOf line) line)))
    let grant (i : Instr) (kind : CohKind) (st : Option CState) : Prop := k.net = mkDataMsg kind home a line d po :: r →
      (∀ y, st = some y → exec i s = s.goes
        (((((k1.updLine a line (fun e => { e with st := y, data := d, poison := po })).catchLine a line d po).drainAgent a).heldSnoop
          a line).drainAgent a)) ∧
      (st = none → exec i s = s.goes (k1.protocolError a line kind))
    k.homeServes line = true → k.agentPresent a = true →
    row (.fwdgets a line q once) { mkMsg .fwdGetS home a line with req := q, once := once } (if once then .once else .getS) ∧
    row (.fwdgetm a line q) { mkMsg .fwdGetM home a line with req := q } .getM ∧
    row (.inv a line) (mkMsg .inv home a line) .inv ∧
    row (.backinv a line) (mkMsg .backInv home a line) .inv ∧
    grant (.datae a line d po) .dataE (match e.st with
      | .isD => some .e | .imD => some .m | .smD => some .m | .fmD => some .m | _ => none) ∧
    grant (.dataf a line d po) .dataF (match e.st with | .isD => some .f | _ => none) ∧
    (k.net = mkMsg .wbAck home a line :: r → a < 160 →
      exec (.wback a line) s = s.goes (k1.takeWbAck a line)) ∧
    (k.net = mkMsg .invAck a home line :: r → exec (.invack a line) s = s.goes (k1.homeAnswer home line a none)) ∧
    (k.net = mkDataMsg .data a home line d po :: r → 160 ≤ home → home < 165 →
      exec (.data a home line d po) s = s.goes (k1.homeAnswer home line a (some (d, po)))) ∧
    (let m := mkDataMsg .data a q line d po
     k.net = m :: r → 165 ≤ q → exec (.data a q line d po) s = s.goes { k1 with answers := k1.answers ++ [m] })) ∧
  (∀ (k : Chip) (a line : Nat) (b : Busy) (d : LineData) (po : Bool),
    (snoopRow .m .getS = some (.s, (some .dataF, .data)) ∧ snoopRow .m .once = some (.m, (some .data, .invAck)) ∧
      snoopRow .m .getM = some (.i, (some .dataE, .invAck)) ∧ snoopRow .m .inv = some (.i, (none, .data))) ∧
    (snoopRow .e .getS = some (.s, (some .dataF, .invAck)) ∧ snoopRow .e .once = some (.e, (some .data, .invAck)) ∧
      snoopRow .e .getM = some (.i, (some .dataE, .invAck)) ∧ snoopRow .e .inv = some (.i, (none, .invAck))) ∧
    (snoopRow .f .getS = some (.s, (some .dataF, .invAck)) ∧ snoopRow .f .inv = some (.i, (none, .invAck)) ∧
      snoopRow .s .inv = some (.i, (none, .invAck))) ∧
    (snoopRow .smD .inv = some (.imD, (none, .invAck)) ∧ snoopRow .fmD .getS = some (.smD, (some .dataF, .invAck)) ∧
      snoopRow .fmD .inv = some (.imD, (none, .invAck))) ∧
    (snoopRow .miA .getS = some (.siA, (some .dataF, .data)) ∧ snoopRow .miA .once = some (.miA, (some .data, .invAck)) ∧
      snoopRow .miA .getM = some (.iiA, (some .dataE, .invAck)) ∧ snoopRow .miA .inv = some (.iiA, (none, .data))) ∧
    (snoopRow .eiA .getS = some (.siA, (some .dataF, .invAck)) ∧ snoopRow .eiA .once = some (.eiA, (some .data, .invAck)) ∧
      snoopRow .eiA .getM = some (.iiA, (some .dataE, .invAck)) ∧ snoopRow .eiA .inv = some (.iiA, (none, .invAck))) ∧
    (snoopRow .fiA .getS = some (.siA, (some .dataF, .invAck)) ∧ snoopRow .fiA .inv = some (.iiA, (none, .invAck)) ∧
      snoopRow .siA .inv = some (.iiA, (none, .invAck))) ∧
    (∀ st, st = .s ∨ st = .f ∨ st = .smD ∨ st = .fmD ∨ st = .fiA ∨ st = .siA →
      snoopRow st .once = none ∧ snoopRow st .getM = none ∧ (st = .s ∨ st = .smD ∨ st = .siA → snoopRow st .getS = none)) ∧
    (∀ z, snoopRow .i z = none ∧ snoopRow .iiA z = none) ∧ (∀ z, defers .imD z = true) ∧
    (∀ z, defers .isD z = true ↔ z = .getS ∨ z = .inv) ∧
    (∀ st z, defers st z = true → st = .isD ∨ st = .imD) ∧
    (let home := k.homeOf line
     let h := k.home home
     (h.busy.find? (fun b => b.line = line && b.waits.contains a) = none → k.homeAnswer home line a none = k) ∧
     (h.busy.find? (fun b => b.line = line && b.waits.contains a) = some b →
       (b.waits.erase a ≠ [] → k.homeAnswer home line a (some (d, po)) = ((k.writeLine line d po).cacheUse line true false).updHome home (fun h => { h with
         busy := h.busy.map (fun x => if x = b then { b with waits := b.waits.erase a } else x) })))))

/-- R371, R374, R375: the range a translation ends with. An uncovered address, or one of space 0 or of a space not enabled,
is a `TRANSLATION` failure; an address of a space under invalidation waits; a cached range answers by its permissions, with
`SEALED` forbidding writes and atomics, at `PSTART` plus the offset into the range.

R371, R374, R376, R378, R379, R382: the commands of the translation blocks. A step of a walk halves its candidates, ends it
with the range, or ends it with none where the entry does not cover the address, is not valid or is malformed; a read
that fails sets `WALKERR`. A write to `XLT_INVAL_SPACE` starts an invalidation, or is dropped with its flag; every
cached range, walk and transfer of the space is dealt with at its start, and it completes once its transfers have
ended. -/
def Obligations.TranslationRows : Prop :=
  (∀ (k : Chip) (c space : Nat) (va : U64) (kind : XKind),
    (k.invalidating space = true → k.translate c space va kind = (k, .wait)) ∧
    (k.invalidating space = false →
      (space = 0 ∨ (k.space space).en = false ∨ 2 ^ 57 ≤ va.toNat) → k.translate c space va kind = (k, .fail 1)) ∧
    (k.invalidating space = false → space ≠ 0 → (k.space space).en = true → va.toNat < 2 ^ 57 →
      ∀ x, findRange (k.cluster c).ranges space va = some x →
        (k.translate c space va kind).2 = (if (match kind with
          | .read => x.ent.r
          | .write => x.ent.w && !x.ent.sealed
          | .atomic => x.ent.r && x.ent.w && !x.ent.sealed) = true then .ok x.ent else .fail 2) ∧
        x.ent.vstart.toNat * 65536 ≤ va.toNat ∧ va.toNat < (x.ent.vstart.toNat + x.ent.len.toNat) * 65536 ∧
        x.ent.phys va = x.ent.pstart.toNat * 65536 + (va.toNat - x.ent.vstart.toNat * 65536))) ∧
  (∀ (s : State) (q space id : Nat) (va v : U64),
    let k := s.chip
    (∀ w k1 e st, (k.quad q).walking.find? (fun w => w.space = space && w.va = va) = some w → w.lo < w.hi →
      k.readEntry q w.space ((w.lo + w.hi - 1) / 2) = (k1, (e, st)) →
      let goesOn (w' : Walk) : Out := s.goes (k1.updQuad q (fun d => { d with
        walking := d.walking.map (fun x => if x = w then w' else x) }))
      (st ≠ 0 → exec (.walkEntryRead q space va) s = s.goes ((k1.walkFailed q w.space w.va st).endWalk q w (.failed st))) ∧
      (st = 0 → w.va.toNat < e.vstart.toNat * 65536 →
        exec (.walkEntryRead q space va) s = goesOn { w with hi := (w.lo + w.hi - 1) / 2 }) ∧
      (st = 0 → (e.vstart.toNat + e.len.toNat) * 65536 ≤ w.va.toNat → e.vstart.toNat * 65536 ≤ w.va.toNat →
        exec (.walkEntryRead q space va) s = goesOn { w with lo := (w.lo + w.hi - 1) / 2 + 1 }) ∧
      (st = 0 → e.covers w.va = true →
        (e.v = false → exec (.walkEntryRead q space va) s = s.goes (k1.endWalk q w .none)) ∧
        (e.v = true → e.malformed = true →
          exec (.walkEntryRead q space va) s = s.goes ((k1.noteMalformed q w.space w.va).endWalk q w .none)) ∧
        (e.v = true → e.malformed = false → exec (.walkEntryRead q space va) s = s.goes (k1.endWalk q w (.found e))))) ∧
    (∀ w, (k.quad q).walking.find? (fun w => w.space = space && w.va = va) = some w → w.hi ≤ w.lo →
      exec (.walkEntryRead q space va) s = s.goes (k.endWalk q w .none)) ∧
    (k.bankUp q = true →
      let sp := v.toNat % 4096
      let hasp : BitVec 14 := v.extractLsb' 16 14
      exec (.xltInvalSpace q { part := .full, val := v }) s =
        if (k.quad q).invBusy = true ∨ sp = 0 ∨ (v.getLsbD 12 = true ∧ k.bankUp (haspQuad hasp) = false) then
          s.goes (k.updQuad q (fun d => { d with invDropped := true }))
        else s.goes ((k.updQuad q (fun d => { d with invBusy := true })).startInval sp
          (.register q (v.getLsbD 12) hasp))) ∧
    (∀ i, k.invals.find? (fun i => i.id = id) = some i → i.waits.any k.inFlight = false →
      (∀ r, k.relocating = some r → r.inval = id → exec (.invalidationComplete id) s = s.goes (k.relocateOn r)) ∧
      ((∀ r, k.relocating = some r → r.inval ≠ id) → exec (.invalidationComplete id) s =
        s.goes ({ k with invals := k.invals.filter (fun i => i.id ≠ id) }.invalDone i.origin))) ∧
    (∀ o, let t := k.startInval space o
      (∀ c, ∀ r ∈ (t.cluster c).ranges, r.space ≠ space) ∧ (∀ p, ∀ w ∈ (t.quad p).walking, w.space ≠ space) ∧
      t.invalidating space = true ∧ (∀ c r, (t.cluster c).reg r = (k.cluster c).reg r) ∧ (∀ a, t.byte a = k.byte a)))

/-- R403, R404, R406-R410, R563: the flash tier. A read is served by a step of R404, with its counter, while the host hinge of its
quadrant is active, or fails with `TIER_ERROR` and damages the image; while the hinge is not active neither an answer nor
the time of a read passes. A block is relocated, a forced one before every other and due ones in their order, or scrubbed; the counters
are saved; a deferral ends; an erase completes once no mover command holds the image. -/
def Obligations.FlashRows : Prop :=
  ∀ (s : State) (id b : Nat) (bad : Bool),
    let k := s.chip
    let onF (k : Chip) (f : Flash → Flash) : Chip := k.onFlash f
    (∀ r, k.flash.reqs.find? (fun r => r.id = id) = some r →
      let k1 := k.takeFlash r
      (s.links.hingeState (r.cluster / 24) = .active →
        exec (.flashRead id .hard) s = s.goes (k1.flashAnswer r true) ∧
        exec (.flashRead id .shifted) s = s.goes ((onF k1 (fun f => { f with retried := satAdd f.retried 1 })).flashAnswer r true) ∧
        exec (.flashRead id .soft) s = s.goes ((onF k1 (fun f => { f with retried := satAdd f.retried 1 })).flashAnswer r true) ∧
        exec (.flashRead id .rebuilt) s = s.goes ((onF k1 (fun f => { f with
          retried := satAdd f.retried 1, rebuilt := satAdd f.rebuilt 1 })).flashAnswer r true) ∧
        exec (.flashRead id .failed) s = s.goes (((onF k1 (fun f => { f with
          retried := satAdd f.retried 1, uncorr := satAdd f.uncorr 1 })).flashAnswer r false).damage r.cluster r.mover r.off) ∧
        exec (.flashReadTimeout id) s = s.goes (((onF k1 (fun f => { f with timeout := satAdd f.timeout 1 })).flashAnswer r
          false).damage r.cluster r.mover r.off)) ∧
      (s.links.hingeState (r.cluster / 24) ≠ .active →
        (∀ z, exec (.flashRead id z) s = .next s) ∧ exec (.flashReadTimeout id) s = .next s) ∧
      k1.flash.reqs = k.flash.reqs.filter (fun x => x.id ≠ r.id) ∧
      (k1.flash.block (r.off / blockBytes)).reads = (k.flash.block (r.off / blockBytes)).reads + 1) ∧
    (let forced := 90000 ≤ (k.flash.block b).reads
     let waiting := k.flash.anyForced = false ∧ k.flash.defer = none ∧
       (k.flash.dueOrder.contains b = false ∨ k.flash.dueOrder.head? = some b)
     (¬ (k.flash.ready = true ∧ (forced ∨ waiting)) → exec (.flashBackgroundRelocate b) s = .next s) ∧
     (k.flash.ready = true → (forced ∨ waiting) → ∃ t : State, exec (.flashBackgroundRelocate b) s = .next t ∧
        t.chip.flash.block b = { reads := 0, erases := (k.flash.block b).erases + 1, due := false } ∧
        t.chip.flash.data = k.flash.data ∧ t.chip.flash.images = k.flash.images ∧ (∀ a, t.chip.byte a = k.byte a))) ∧
    (k.flash.ready = true → k.flash.defer = none →
      ∃ t : State, exec (.flashScrub b bad) s = .next t ∧
        (t.chip.flash.block b).reads = (k.flash.block b).reads + blockPages ∧
        ((t.chip.flash.block b).due = true ↔ (k.flash.block b).due = true ∨ bad = true ∨
          60000 ≤ (k.flash.block b).reads + blockPages)) ∧
    (s.tumblerUp = true → exec .flashCounterSave s = s.goes { k with flash := { k.flash with saved := k.flash.blocks } }) ∧
    (∀ x y, k.flash.defer = some (x, y) → ∃ t : State, exec .flashDeferEnd s = .next t ∧
      t.chip.flash.defer = none ∧ t.chip.flash.deferNot = y + (y - x)) ∧
    (∀ i, k.flash.image id = some i → i.st = .erasing → k.imageHeld id = false →
      ∃ t : State, exec (.imageEraseDone id) s = .next t ∧ t.chip.flash.image id = none ∧
        t.chip.flash.images = k.flash.images.filter (fun x => x.id ≠ id) ∧
        (∀ o, i.offset ≤ o → o < i.offset + i.span → tblGet 0 t.chip.flash.data o = 0))

/-- R532-R535, R540, R541: errors by the structure they are found in. A corrected error is counted and recorded, but on the
hinges, the fabric and the flash tier; one of an HBM row counts against it. An uncorrectable one is contained: a dirty
line of a cache or a line of memory is poisoned, a cluster stops for its report, a tag or directory error stops the hart,
the quadrant or the package, a corrupt hasp reads all ones with its flags, and an entry of a range cache or
of the loop predictor is dropped. A
patrol scrub reports what it finds of a line. An uncorrectable FEC codeword of a fabric port is counted (92.md). -/
def Obligations.ErrorRows : Prop :=
  ∀ (s : State) (e : ErrInfo) (line : Nat),
    let k := s.chip
    let la := paLocal e.paddr.toNat
    (e.struct = 9 ∨ e.struct = 10 → exec (.correctedError e) s = s.goes k) ∧
    (e.struct = 10 ∨ (e.struct = 9 ∧ e.agent ≠ 15) → exec (.uncorrectableError e) s = s.goes k) ∧
    (∀ n, n < 12 → e.struct = 9 → e.agent = 15 → e.detail = BitVec.ofNat 64 (256 * n) → k.fabPresent n = true →
      exec (.uncorrectableError e) s = s.goes (k.onFabric (fun f => f.updPort n (fun p =>
        { p with fecUncorr := satAdd p.fecUncorr 1 })))) ∧
    (e.struct ≠ 7 → e.struct ≠ 9 → e.struct ≠ 10 →
      exec (.correctedError e) s = s.goes ((k.countCe e).onMgmt (·.corrected { e with cls := 1, level := 0 }))) ∧
    (e.struct = 7 → exec (.correctedError e) s =
      s.goes (((k.countCe e).onMgmt (·.corrected { e with cls := 1, level := 0 })).rowError la)) ∧
    (e.struct = 1 → exec (.uncorrectableError e) s = s.goes ((k.cacheData e).ueRecord 1 0 e)) ∧
    (e.struct = 2 ∨ e.struct = 8 → k.populated la = true →
      exec (.uncorrectableError e) s = s.goes ((k.setPoison (lineOf la) true).ueRecord 1 0 e)) ∧
    (e.struct = 3 → k.clusterPresent e.cluster.toNat = true → exec (.uncorrectableError e) s =
      s.goes ((k.updCluster e.cluster.toNat (fun x => { x with errored := true })).ueRecord 1 2 e)) ∧
    (e.struct = 4 → e.agent = 13 → e.hart.toNat < 64 → exec (.uncorrectableError e) s =
      s.goes ((k.updHart e.hart.toNat (fun x => { x with stopped := true })).ueRecord 2 0 e)) ∧
    (e.struct = 4 → e.agent ≠ 13 → e.quad.toNat < 4 → exec (.uncorrectableError e) s =
      .next (State.makeUnusable { s with chip := k.ueRecord 2 3 e } e.quad.toNat)) ∧
    (e.struct = 4 → e.agent ≠ 13 → 4 ≤ e.quad.toNat → exec (.uncorrectableError e) s =
      .next (State.packageError { s with chip := k.ueRecord 2 4 e })) ∧
    (e.struct = 5 → k.quadPresent e.quad.toNat = true → ∃ t : State, exec (.uncorrectableError e) s = .next t ∧
      (t.chip.quad e.quad.toNat).hasp (e.detail.toNat % 4096) = { count := BitVec.allOnes 48, err := true, sat := true } ∧
      (∀ a, t.chip.byte a = k.byte a)) ∧
    (e.struct = 6 → k.clusterPresent e.cluster.toNat = true → ∃ t : State, exec (.uncorrectableError e) s = .next t ∧
      (∀ r ∈ (t.chip.cluster e.cluster.toNat).ranges, r.space = e.space.toNat → r.ent.covers e.vaddr = false) ∧
      ∀ p ∈ (t.chip.cluster e.cluster.toNat).preds, p.pc ≠ e.vaddr) ∧
    (e.struct = 7 → k.populated la = true → exec (.uncorrectableError e) s =
      s.goes (((k.setPoison (lineOf la) true).ueRecord 1 0 e).repairRow la)) ∧
    (10 < e.struct.toNat → exec (.uncorrectableError e) s = s.goes (k.ueRecord 1 e.level.toNat e)) ∧
    (cacheable (line * 128) = true → k.populated (line * 128) = true →
      exec (.patrolScrub line .clean) s = s.goes k ∧
      exec (.patrolScrub line .corrected) s = exec (.correctedError (k.scrubInfo line)) s ∧
      exec (.patrolScrub line .uncorrectable) s = exec (.uncorrectableError (k.scrubInfo line)) s)

/-- R538, R539, R540: the error bank never holds more than 1,024 records, whatever is reported; a full bank gives up its oldest
corrected record, and drops the new one, with `OVERFLOW`, when it holds none; each record takes the next index, which
only rises. -/
def Obligations.ErrorBank : Prop :=
  ∀ (m : Mgmt) (sev n : Nat) (e : ErrInfo), m.bank.length ≤ 1024 →
    let r := errRecord m.errNext sev e (BitVec.ofNat 32 n) m.now
    let t := m.record sev e n
    t.bank.length ≤ 1024 ∧ (m.corrected e).bank.length ≤ 1024 ∧ t.errNext = m.errNext + 1 ∧
    (m.bank.length < 1024 → t.bank = m.bank ++ [r] ∧ t.errOverflow = m.errOverflow) ∧
    (m.bank.length = 1024 → (∀ x ∈ m.bank, recSeverity x ≠ 0) → t.bank = m.bank ∧ t.errOverflow = true) ∧
    (m.bank.length = 1024 → (∃ x ∈ m.bank, recSeverity x = 0) →
      t.bank.length = 1024 ∧ t.bank.getLast? = some r ∧ t.errOverflow = m.errOverflow ∧
      (∀ x ∈ m.bank, recSeverity x ≠ 0 → x ∈ t.bank)) ∧
    (sev ≠ 0 → t.log = m.log ++ [r])

/-- R414-R417, R422, R430, R432, R434: the ports of the fabric. A frame whose CRC fails is counted and answered with `NAK`, at
once or once the replay buffer has room; one out of its order is discarded; a
good one acknowledges and returns credits, and its units join those of the packets when it is in sequence. A port that
trains reaches `LINK`, or is `DOWN`; a limit of R414 takes it `DOWN`; one whose peer agrees joins its group once every packet
queued on the other ports of the group has been acknowledged. `HELLO` is kept, and sent with the module's own items. The bits of `FAB_PCTL` act. -/
def Obligations.FabricLinkRows : Prop :=
  ∀ (s : State) (n : Nat) (fr : Frame) (i : HelloInfo),
    let k := s.chip
    let f := k.fabric
    let p := f.port n
    let trained (k : Chip) : Chip := k.onFabric (fun f => f.updPort n (fun p =>
      { p.restart with st := .training, retrains := satAdd p.retrains 1 }))
    (p.st = .link ∨ p.st = .active →
      exec (.fabricFrameReceive n fr) s = s.goes (k.onFabric (fun f => (f.receiveFrame n fr).rejoin n)) ∧
      exec (.fecLockLoss n) s = s.goes (k.portDown n) ∧
      exec (.helloTimer n) s = s.goes (k.onFabric (fun g => g.enqueue n (mkMgmt 0 f.devnum (helloBytes
        { serial := s.boot.record.serial, devnum := f.devnum, configured := f.podRec.isSome
          podId := match f.podRec with | some r => r.podId | none => 0
          port := BitVec.ofNat 4 n }))))) ∧
    (frameGood fr = false →
      let g := f.updPort n (fun p => { p with discarding := true, nakOwed := true, replaysReq := satAdd p.replaysReq 1 })
      f.receiveFrame n fr = if p.replay.length < 256 then
        (g.updPort n (fun p => { p with nakOwed := false })).sendFrame n [] true else g) ∧
    (frameGood fr = true → trSeq fr ≠ p.rxSeq + 1 → f.receiveFrame n fr = f) ∧
    (p.st = .training →
      exec (.fabricPortTrain n true) s = s.goes (k.onFabric (fun f =>
        (f.updPort n (fun p => { p with st := .link })).serve n)) ∧
      exec (.fabricPortTrain n false) s = s.goes (k.portDown n)) ∧
    (p.st = .down → k.portPowered n = true → p.disable = false → exec (.fabricTrainRetry n) s = s.goes (trained k)) ∧
    (p.st = .active → (p.replay ≠ [] → exec (.frameAckTimeout n) s = s.goes (k.portDown n)) ∧
      (p.discarding = true → exec (.frameReplayLimit n) s = s.goes (k.portDown n))) ∧
    (∀ g, f.groupOf n = some g → p.st = .link → p.gvalid = true →
      let quiet := ∀ j ∈ f.live g, (f.port j).out = [] ∧ ∀ x ∈ (f.port j).replay, x.units = 0
      let joins (f : Fabric) : Fabric := f.updPort n (fun p => { p with joining := true })
      (quiet → exec (.linkGroupJoin n) s = s.goes (k.onFabric (fun f =>
        ((joins f).updPort n (fun p => { p with st := .active, joining := false })).refreshMember.release))) ∧
      (¬ quiet → exec (.linkGroupJoin n) s = s.goes (k.onFabric joins))) ∧
    (p.st = .link → (∀ x ∈ p.inq, ¬ (pkType x.pk = 6 ∧ mgKind x.pk = 1)) → ∃ t : State, exec (.hello n i) s = .next t ∧
      (t.chip.fabric.port n).hello = some i ∧ (t.chip.fabric.port n).peerDev = i.devnum ∧
      (t.chip.fabric.port n).peerPort = i.port ∧ (t.chip.fabric.port n).gvalid = f.peerAgrees k.variant n i ∧
      (t.chip.fabric.port n).st = .link ∧ ∀ m, m ≠ n → t.chip.fabric.port m = f.port m) ∧
    (p.st = .training ∨ p.st = .link ∨ p.st = .active → exec (.fabPctlRetrain n) s = s.goes (k.portDown n)) ∧
    exec (.fabPctlClrCnt n) s = s.goes (k.onFabric (fun f => f.updPort n (fun p =>
      { p with fecUncorr := 0, replaysReq := 0, creditStall := 0 }))) ∧
    (k.fabPresent n = true → p.disable = false → ∃ t : State, exec (.fabPctlDisable n true) s = .next t ∧
      (t.chip.fabric.port n).st = .off ∧ (t.chip.fabric.port n).disable = true ∧ (t.chip.fabric.port n).replay = [] ∧
      (t.chip.fabric.port n).out = [] ∧ (f.waiting = [] → ∀ m, m ≠ n → t.chip.fabric.port m = f.port m)) ∧
    (k.fabPresent n = true → p.disable = true → k.portPowered n = true → ∃ t : State,
      exec (.fabPctlDisable n false) s = .next t ∧ (t.chip.fabric.port n).st = .training ∧
      (t.chip.fabric.port n).disable = false) ∧
    (let t := (k.portDown n).fabric.port n
     t.st = .down ∧ t.replay = [] ∧ t.out = [] ∧ t.inq = [] ∧ t.hello = none ∧ t.credits = startCredits)

/-- R301, R356, R418-R421, R423, R426, R427: packets at a port. A malformed packet is discarded and counted, one that has lived too
long is counted as expired, one for another module goes on its way, and one that breaks a limit of R419 is discarded.
A request for this module is performed at its target, and its acknowledgement is sent with the status of R420; a
response ends its request, and so does the timeout of R427. -/
def Obligations.PacketRows : Prop :=
  ∀ (s : State) (n : Nat) (p : Packet) (tag : Nat),
    let k := s.chip
    let k1 := k.onFabric (fun f => f.consume n p)
    let qd := (k.fabric.port n).received p
    let life := pkLife p + qd.residence
    let q := n / 3
    let la := paLocal (pkAddr p)
    let bs := p.payload.take (pkLength p)
    let known := k1.fabric.reqs.any (fun r => r.tag = pkTag p)
    let row (i : Instr) (typ : Nat) (f : Chip) : Prop :=
      (pkMalformed p = true → exec i s = s.goes (k1.onFabric (fun f => { f with malformed := satAdd f.malformed 1 }))) ∧
      ((pkType p).toNat = typ →
      (pkMalformed p = false → 700 ≤ life →
        exec i s = s.goes (k1.onFabric (fun f => { f with expired := satAdd f.expired 1 }))) ∧
      (pkMalformed p = false → life < 700 → pkDst p ≠ k.fabric.devnum → exec i s = s.goes (k1.onFabric (fun g =>
        g.forward (k.fabric.arrival n) (k1.portReach (some q)) qd))) ∧
      (pkMalformed p = false → life < 700 → pkDst p = k.fabric.devnum →
        (pkRefused p known = true → exec i s = s.goes (k1.onFabric (fun f => { f with malformed := satAdd f.malformed 1 }))) ∧
        (pkRefused p known = false → exec i s = s.goes f)))
    let reach := if pkLength p = 0 then 0 else k1.ingressReach q (pkAddr p) (pkLength p)
    let bank := if pkCnt p then k1.ingressBank q (pkHasp p) else 0
    (k.fabric.port n).st = .active →
    ((k.fabric.port n).inq.any (fun x => x.pk = p) && keyBlocked (k.fabric.port n).inq p) = false →
    row (.writePacket n p) 1 (
      if bank ≠ 0 then k1.answer n p bank []
      else if reach ≠ 0 then k1.answer n p reach []
      else
        let k2 := (k1.cohWrite la bs false).spoilZones none la bs.length
        let k3 := if pkCnt p then
            k2.bankApply (haspQuad (pkHasp p)) (haspIndex (pkHasp p)) .add (BitVec.ofNat 48 (pkLength p)) false
          else k2
        k3.answer n p 0 []) ∧
    row (.readPacket n p) 2 (
      let st := k1.ingressReach q (pkAddr p) (pkLength p)
      if st ≠ 0 then k1.answer n p st []
      else
        let r := k1.cohRead la (pkLength p)
        r.1.answer n p (if r.2.2 then 4 else 0) r.2.1) ∧
    row (.atomicPacket n p) 5 (k1.performAtomic n p) ∧
    row (.haspAddPacket n p) 4 (
      let st := k1.ingressBank q (pkHasp p)
      if st ≠ 0 then k1.answer n p st []
      else (k1.bankApply (haspQuad (pkHasp p)) (haspIndex (pkHasp p)) .add (pkValue p) (pkErrf p)).answer n p 0 []) ∧
    row (.readResp n p) 3 (match k1.fabric.reqs.find? (fun r => r.tag = pkTag p) with
      | some r => k1.remoteEnd r (pkStatus p).toNat p.payload
      | none => k1) ∧
    (∀ r, k.fabric.reqs.find? (fun r => r.tag.toNat = tag) = some r → exec (.remoteTimeout tag) s =
      s.goes ((k.onFabric (fun f => { f with timeouts := satAdd f.timeouts 1 })).remoteEnd r 5 []))

/-- R418, R429, R431, R432, R521: management packets. A malformed one is discarded and counted; a directed one short of its path,
and a routed one for another module, go on their way; the others are served here. A `CONFIG` gives the module its record
and is acknowledged; a `CONFIG_ACK` ends what waits for it; a `PING` is answered with `POD_MEMBER`, or counted as a
reply, and the reply of the last silent module answers the pod check. A `RELAY_CMD` that has run before is ignored; one
of another owner, or for another mailbox, is answered `DENIED`, one without a free mailbox `BUSY`, and any other
stands in a mailbox of its class. A `RELAY_RSP` answers the relay; a relay without a reply goes out three times more and
then ends with `TIMEOUT`. -/
def Obligations.PodRows : Prop :=
  ∀ (s : State) (n : Nat) (p : Packet) (rec' : PodRecord) (ri : RelayInfo) (mseq : BitVec 32),
    let f := s.chip.fabric
    let f0 := f
    let s1 := s.onChip (fun k => k.onFabric (fun f => f.consume n p))
    let onFab (s : State) (g : Fabric → Fabric) : Out := .next (s.onChip (fun k => k.onFabric g))
    let row (i : Instr) (kind : Nat) (t : State) : Prop :=
      (pkMalformed p = true ∨ mgBad p = true →
        exec i s = onFab s1 (fun f => { f with malformed := satAdd f.malformed 1 })) ∧
      (mgKind p = kind → pkMalformed p = false → mgBad p = false →
        (mgDirected p = true → mgHops p < mgPathLen p →
          exec i s = onFab s1 (fun f => f.sendVia (mgHop p (mgHops p)) { (f0.port n).received p with pk := mgNextHop p })) ∧
        (mgDirected p = false → pkDst p ≠ f.devnum → exec i s = .next (s1.onChip (fun k => k.onFabric (fun f =>
          f.forward (f.arrival n) (k.portReach (some (n / 3))) ((f0.port n).received p))))) ∧
        ((mgDirected p = true ∧ mgPathLen p ≤ mgHops p) ∨ (mgDirected p = false ∧ pkDst p = f.devnum) →
          exec i s = .next t))
    ((f.port n).st = .link ∨ (f.port n).st = .active → pkType p = 6 →
      row (.config n p rec') 4 (s1.onChip (fun k => (k.configurePod rec').ackConfig n p)) ∧
      row (.configAck n p) 5 (s1.onChip (fun k => k.onFabric (fun f =>
        { f with awaited := f.awaited.filter (· ≠ mgSeq p) }))) ∧
      row (.ping n p) 6 (s1.onChip (fun k => k.takePing n p)) ∧
      row (.relayCmd n p ri) 2 (
        if s1.chip.fabric.executed.contains (ri.src, ri.mseq) then s1
        else if s1.chip.fabric.podRec.isNone || ri.owner ≠ s.boot.ownerId || (ri.mailbox ≠ 14 && 8 ≤ ri.mailbox) then
          s1.onChip (fun k => k.relayRefused ri mbDenied)
        else match s1.chip.relaySeat ri with
          | none => s1.onChip (fun k => k.relayRefused ri mbBusy)
          | some mb => s1.relayAccept ri mb) ∧
      row (.relayRsp n p) 3 (s1.onChip (fun k =>
        match k.fabric.relays.find? (fun x => x.mseq = mgSeq p && x.dst = pkSrc p) with
        | none => k
        | some x =>
          (k.onFabric (fun f => { f with relays := f.relays.filter (fun y => y.mseq ≠ x.mseq) })).answerCommand x.mb 0x0704
            (if (p.payload.drop 8).length ≤ (k.box x.mb).outRoom 1 then
              { mbResult mbDone [] with out := some (p.payload.drop 8) }
            else mbResult mbBadArg [])))) ∧
    (∀ x, f.relays.find? (fun x => x.mseq = mseq) = some x →
      (x.resent < 3 → exec (.relayResendTimer mseq) s = s.goes ((s.chip.onFabric (fun f => { f with
        relays := f.relays.map (fun y => if y.mseq = mseq then { y with resent := y.resent + 1 } else y) })).sendRelay
          2 x.dst mseq x.body)) ∧
      (3 ≤ x.resent → exec (.relayResendTimer mseq) s = s.goes ((s.chip.onFabric (fun f => { f with
        relays := f.relays.filter (fun y => y.mseq ≠ mseq) })).answerCommand x.mb 0x0704 (mbResult mbTimeout [])))) ∧
    (let g := (s.chip.configurePod rec').fabric
     g.podRec = some rec' ∧ g.devnum = rec'.devnum ∧ g.podMember = false ∧
     g.rt = buildRoutes rec'.topology rec'.devnum.toNat ∧
     g.lgrp = buildGroups rec'.topology s.chip.variantIx rec'.devnum.toNat s.chip.portList ∧
     ∀ m, m < 12 → (g.port m).st = .off ∨ (g.port m).st = .training)

/-- R314, R356, R437, R443, R447: what a hart access does by its target, once nothing holds it. A load or an atomic of main memory
stands outstanding until its lines are held; a shelf, a cluster store or a register is read or written at once; another
module is asked; a block of the host I/O range is read or written; any other target takes a precise access fault. An access
that is held changes nothing but what the hart can do by itself.

R320, R438, R439: fences and cache management of a hart. A `FENCE` whose predecessors are complete ends at once, and
otherwise stands; `FENCE.POD` waits for everything. A clean of a line in M sends it home and keeps it; a flush evicts
it and ends a reservation of it; `CBO.INVAL` does the same where `CBIE` allows it, and is illegal otherwise (13.md). -/
def Obligations.HartRows : Prop :=
  (∀ (s : State) (h : Nat) (a : HartLd) (b : HartSt) (m : HartAmoF) (pa : Nat) (va : U64),
    let k := s.chip.readyHart h
    let s0 : State := { s with chip := k }
    let la := 2 ^ a.size.toNat
    let lb := 2 ^ b.size.toNat
    let lm := if m.dword then 8 else 4
    (k.hartWaits h a.pa la a.page (loadClass a.page a.pa) 0 = true → exec (.hartLoad h a) s = s.goes k) ∧
    (k.hartWaits h a.pa la a.page (loadClass a.page a.pa) 0 = false → exec (.hartLoad h a) s =
      match k.hartSpot a.pa la a.page a.fetch false false with
      | .line => s.goes (k.hartLineLoad h a)
      | .mem => s.goes (k.hartMemLoad h a)
      | .reg => .next (s0.hartRegLoad h a)
      | .remote => s.goes (k.hartRemoteLoad h a)
      | .io => s.goes (k.hartIoLoad h a)
      | .refused r => s.goes (k.hartRefuse h (ldCause a) a.va a.pa r)) ∧
    (k.hartWaits h b.pa lb b.page (storeClass b.page b.pa) b.rs = true → exec (.hartStore h b) s = s.goes k) ∧
    (k.hartWaits h b.pa lb b.page (storeClass b.page b.pa) b.rs = false →
      let bs := toBytes lb ((k.hart h).reg b.rs).toNat
      exec (.hartStore h b) s =
      match k.hartSpot b.pa lb b.page false false false with
      | .line => s.goes (k.hartLineStore h b.pa bs)
      | .mem => s.goes (k.hartMemStore h b.pa bs)
      | .reg => .next (s0.hartRegStore h b.va b.pa bs)
      | .remote => s.goes (k.hartRemoteStore h b.pa bs)
      | .io => s.goes (k.hartIoStore b.pa bs)
      | .refused r => s.goes (k.hartRefuse h causeStore b.va b.pa r)) ∧
    (k.hartWaits h (pa / 64 * 64) 64 .pma (storeClass .pma pa) 0 = false →
      exec (.cboZero h pa va) s = s0.hartStore h va (pa / 64 * 64) .pma (List.replicate 64 0)) ∧
    (k.hartWaits h m.pa lm m.page (if m.page = .io then 12 else 3) m.rs = false → exec (.hartAmo h m) s =
      match k.hartSpot m.pa lm m.page false true (m.op = .lr || m.op = .sc) with
      | .line => s.goes (k.hartLineAmo h m)
      | .mem => s.goes (k.hartMemAmo h m)
      | .reg => s.goes (k.hartRefuse h (amoCause m) m.va m.pa (s0.amoRecorded m))
      | .remote => s.goes (k.hartRemoteAmo h m)
      | .refused r => s.goes (k.hartRefuse h (amoCause m) m.va m.pa r)
      | _ => s.goes (k.hartRefuse h (amoCause m) m.va m.pa false))) ∧
  (∀ (s : State) (h : Nat) (pred succ : BitVec 4) (pa : Nat) (va : U64),
    let k := s.chip.readyHart h
    let line := lineOf (paLocal pa)
    let e := k.cline h line
    let fenced (f : Option (Bool × (BitVec 4 × BitVec 4))) : Out := s.goes (k.updHart h (fun x => { x with fence := f }))
    let flushed : Out := s.goes ((k.evict h line).dropReservation h line)
    ((k.hart h).running = true → (k.hart h).stopped = false → (k.hart h).fence = none →
      exec (.hartFence h pred succ) s =
        fenced (if k.hartFenceDone h false pred then none else some (false, (pred, succ))) ∧
      exec (.fencePod h) s = fenced (if k.hartFenceDone h true 0xF then none else some (true, (0xF, 0xF)))) ∧
    (k.hartWaits h pa 1 .pma 3 0 = false →
      (k.hartOrdered pa = true → (∀ x ∈ (k.hart h).stores, lineOf (paLocal x.pa) ≠ line) →
        (∀ x ∈ (k.hart h).accs, line ∉ linesOf (paLocal x.pa) x.bytes) →
        (e.st = .m → exec (.cboClean h pa va) s = s.goes ((k.updLine h line (fun e => { e with st := .miA, keep := true })).send
          { mkDataMsg .putM h (k.homeOf line) line e.data e.poison with keep := true })) ∧
        (e.st ≠ .m → exec (.cboClean h pa va) s = s.goes k) ∧
        exec (.cboFlush h pa va) s = flushed ∧ exec (.cboInval h pa va true) s = flushed) ∧
      (k.hartOrdered pa = false → exec (.cboClean h pa va) s = s.goes k ∧ exec (.cboFlush h pa va) s = s.goes k ∧
        exec (.cboInval h pa va true) s = s.goes k) ∧
      exec (.cboInval h pa va false) s = s.goes (k.hartTrap h causeIllegal 0)) ∧
    (k.hartFenceDone h false pred = true ↔
      (∀ x ∈ (k.hart h).accs, k.isOwn x.pa = true → x.fenceBits &&& pred = 0) ∧
      (∀ x ∈ (k.hart h).stores, k.isOwn x.pa = true → storeClass .pma x.pa &&& pred = 0)) ∧
    (k.hartFenceDone h true pred = true ↔ (k.hart h).accs = [] ∧ (k.hart h).stores = []))

/-- R314, R354, R437, R534: a hart with nothing outstanding and its line held. A load writes the bytes of the L2, extended, to its
register; a poisoned line gives an access fault instead. A store puts its bytes into the line, which is then in M. An AMO
writes the old bytes to its register and its result to the line; `LR` sets the reservation, and `SC` stores and writes
0 with the reservation, or writes 1 without it, and ends it. Memory, the other harts and the clusters are as before. -/
def Obligations.HartCacheAccess : Prop :=
  ∀ (s : State) (h : Nat) (a : HartLd) (b : HartSt) (m : HartAmoF),
    let x := s.chip.hart h
    let frame (t : State) : Prop :=
      (∀ y, t.chip.byte y = s.chip.byte y) ∧ t.chip.clusters = s.chip.clusters ∧ t.chip.quads = s.chip.quads ∧
        t.chip.net = s.chip.net ∧ (∀ j, j ≠ h → t.chip.hart j = s.chip.hart j) ∧ (t.chip.hart h).mip24 = x.mip24
    h < 64 → x.quiet = true →
    (let n := 2 ^ a.size.toNat
     let la := paLocal a.pa
     s.chip.hartSpot a.pa n a.page a.fetch false false = .line →
     (linesOf la n).all (fun l => (s.chip.cline h l).st.readable) = true →
     ∃ t : State, exec (.hartLoad h a) s = .next t ∧ frame t ∧ (t.chip.hart h).l2 = x.l2 ∧ (t.chip.hart h).resv = x.resv ∧
       (s.chip.l2Poison h la n = false → (t.chip.hart h).trap = x.trap ∧ ∀ r, (t.chip.hart h).reg r =
         if r = a.rd ∧ a.rd ≠ 0 ∧ a.fetch = false then extend n a.signed (s.chip.l2Bytes h la n) else x.reg r) ∧
       (s.chip.l2Poison h la n = true → (t.chip.hart h).trap = some { cause := ldCause a, tval := a.va } ∧
         ∀ r, (t.chip.hart h).reg r = x.reg r)) ∧
    (let n := 2 ^ b.size.toNat
     let la := paLocal b.pa
     s.chip.hartSpot b.pa n b.page false false false = .line → la % 128 + n ≤ 128 →
     (s.chip.cline h (lineOf la)).st.writable = true →
     ∃ t : State, exec (.hartStore h b) s = .next t ∧ frame t ∧ (t.chip.hart h).trap = x.trap ∧
       (∀ r, (t.chip.hart h).reg r = x.reg r) ∧ (t.chip.hart h).resv = x.resv ∧
       t.chip.cline h (lineOf la) = { s.chip.cline h (lineOf la) with
         st := .m, data := linePut (s.chip.cline h (lineOf la)).data (la % 128) (toBytes n (x.reg b.rs).toNat) } ∧
       (∀ l, l ≠ lineOf la → t.chip.cline h l = s.chip.cline h l)) ∧
    (let n := if m.dword then 8 else 4
     let la := paLocal m.pa
     let old := s.chip.l2Bytes h la n
     let has := x.resv = some (m.pa, n)
     s.chip.hartSpot m.pa n m.page false true (m.op = .lr || m.op = .sc) = .line → linesOf la n = [lineOf la] →
     (let st := (s.chip.cline h (lineOf la)).st
      if m.op = .lr then st.readable = true else st.writable = true) → (s.chip.cline h (lineOf la)).poison = false →
     ∃ t : State, exec (.hartAmo h m) s = .next t ∧ frame t ∧ (t.chip.hart h).trap = x.trap ∧
       (∀ r, (t.chip.hart h).reg r = if r = m.rd ∧ m.rd ≠ 0 then
           (if m.op = .sc then (if has then 0 else 1)
            else if m.dword then BitVec.ofNat 64 (ofBytes old) else sext32 (ofBytes old))
         else x.reg r) ∧
       (t.chip.hart h).resv = (if m.op = .lr then some (m.pa, n) else if m.op = .sc then none else x.resv) ∧
       t.chip.cline h (lineOf la) = (if m.op = .lr ∨ (m.op = .sc ∧ ¬has) then s.chip.cline h (lineOf la) else
         { s.chip.cline h (lineOf la) with
           st := .m
           data := linePut (s.chip.cline h (lineOf la)).data (la % 128)
             (toBytes n (hartAmoResult m.op n (ofBytes old) (x.reg m.rs).toNat)) }) ∧
       (∀ l, l ≠ lineOf la → t.chip.cline h l = s.chip.cline h l))

/-- R330, R443-R449, R537: requests of PCIe functions, after the IOMMU. A write of memory that can be reached is performed; a
4-byte write of an interrupt file is delivered; anything else, or a refused translation, is discarded with a record of
class 0x09. A read of memory is completed with its data, with EP where it is poisoned; one that cannot be reached is
completed with an abort, and one that is refused with UR. A completion ends the hart load that waits for it, and a
failed one, or none in time, takes an access fault. The status codes are the model's choice (78.md).

R267, R331, R445, R452: requests of an open connection at an Ethernet port. A write whose every page is performed is
acknowledged, after its data; a read is answered with the data of its pages; one that is refused is answered with a NAK,
and the connection moves to ERR. A connection that is not open, and a frame above 9,600 bytes,
are taken by none (R450, 79.md). An outstanding write of a mover ends
when it is acknowledged or has waited too long, with `LINK_LOST` where the connection has left RTS. A change of a link is
an edge, and a link that goes down ends the writes on it with `LINK_LOST`. -/
def Obligations.DeviceRows : Prop :=
  (∀ (s : State) (f : PcieReq) (data : Bytes) (ro ep : Bool) (len h : Nat) (v : U64) (p i : Nat) (level : Bool),
    let k := s.chip
    let dev := pcieDev f
    let err (pa : Option Nat) : ErrInfo := devErr (some f.requester) f.addr pa
    let complete (k : Chip) (st : Nat) (bs : Bytes) : Out :=
      s.goes { k with io := { k.io with completions := k.io.completions ++ [(f.requester, (st, bs))] } }
    (Config.iommu dev f.pasid f.addr true = none →
      exec (.pcieWrite f data ro ep) s = s.goes (k.report 1 (err none) 1)) ∧
    (∀ pa, Config.iommu dev f.pasid f.addr true = some pa → exec (.pcieWrite f data ro ep) s =
      match k.devSpot pa data.length with
      | .memory => s.goes (k.cohWrite (paLocal pa) data ep)
      | .msi => s.goes { k with io := { k.io with msis := k.io.msis ++ [(paLocal pa, BitVec.ofNat 64 (ofBytes data))] } }
      | .unreachable => s.goes (k.report 1 (err (some pa)) 1)
      | .refused => s.goes (k.report 1 (err (some pa)) 1)) ∧
    (Config.iommu dev f.pasid f.addr false = none → exec (.pcieRead f len) s = complete (k.report 1 (err none) 1) 1 []) ∧
    (∀ pa, Config.iommu dev f.pasid f.addr false = some pa →
      (k.devSpot pa len = .memory → ∀ j bs bad, k.cohRead (paLocal pa) len = (j, (bs, bad)) →
        exec (.pcieRead f len) s =
          (if bad then complete (j.report 1 { err (some pa) with cls := 3 } 1) 256 bs else complete j 0 bs)) ∧
      (k.devSpot pa len = .unreachable → exec (.pcieRead f len) s = complete (k.report 1 (err (some pa)) 1) 4 []) ∧
      (k.devSpot pa len = .msi ∨ k.devSpot pa len = .refused →
        exec (.pcieRead f len) s = complete (k.report 1 (err (some pa)) 1) 1 [])) ∧
    (∀ a, (k.hart h).pcieAcc = some a →
      exec (.pcieCompletionTimeout h) s = s.goes (k.pcieFailed h a) ∧
      exec (.pcieCompletion h v false) s = s.goes (k.pcieFailed h a) ∧
      exec (.pcieCompletion h v true) s = s.goes (k.finishHart h a (toBytes a.bytes v.toNat) false) ∧
      ((k.pcieFailed h a).hart h).trap = some { cause := causeLoad, tval := a.va } ∧
      (∀ b ∈ ((k.pcieFailed h a).hart h).accs, b.id < a.id) ∧
      ((k.finishHart h a (toBytes a.bytes v.toNat) false).hart h).accs = (k.hart h).accs.filter (·.id ≠ a.id)) ∧
    (∃ t : State, exec (.intxPinChange p i level) s = .next t ∧ tblGet false t.chip.io.intx (4 * p + i) = level ∧
      (p < 2 → i < 4 → t.chip.aplicLevel (32 + (4 * p + i)) = level) ∧
      ∀ n, n ≠ 4 * p + i → tblGet false t.chip.io.intx n = tblGet false k.io.intx n)) ∧
  (∀ (s : State) (r : RdmaReq) (data : Bytes) (len id e : Nat) (up : Bool),
    let k := s.chip
    let answer (k : Chip) (x : Option Bytes) : Out := s.goes (k.rdmaAnswer r x)
    let pages := cuts 4096 (data.length + 1) r.addr.toNat data.length
    (k.rdmaOpen r = true ↔ (k.ethPort r.port).up = true ∧ r.frame.bytes ≤ 9600 ∧ 2 ≤ k.qpState r.port r.qpn.toNat ∧
      k.qpState r.port r.qpn.toNat ≤ 4) ∧
    (k.rdmaOpen r = false → exec (.rdmaWriteReceive r data) s = .next s ∧ exec (.rdmaReadReceive r len) s = .next s) ∧
    (k.rdmaOpen r = true →
      (∀ j, k.rdmaWritePages r data pages = (j, false) → exec (.rdmaWriteReceive r data) s = answer j (some [])) ∧
      (∀ j, k.rdmaWritePages r data pages = (j, true) →
        exec (.rdmaWriteReceive r data) s = s.goes ((j.rdmaAnswer r none).qpError r.port r.qpn.toNat)) ∧
      (∀ j bs, k.rdmaReadPages r (cuts 4096 (len + 1) r.addr.toNat len) = (j, some bs) →
        exec (.rdmaReadReceive r len) s = answer j (some bs)) ∧
      (∀ j, k.rdmaReadPages r (cuts 4096 (len + 1) r.addr.toNat len) = (j, none) →
        exec (.rdmaReadReceive r len) s = s.goes ((j.rdmaAnswer r none).qpError r.port r.qpn.toNat))) ∧
    (∀ w, k.io.rdma.find? (fun w => w.id = id) = some w →
      let inRts : Prop := k.qpState (epPort w.endpoint) (epQpn w.endpoint) = 3
      (inRts → exec (.rdmaAckReceive id) s = s.goes (k.rdmaEnd w stOk) ∧
        exec (.rdmaWriteTimeout id) s = s.goes (k.rdmaEnd w stTimeout)) ∧
      (¬inRts → exec (.rdmaAckReceive id) s = s.goes (k.rdmaEnd w stLinkLost) ∧
        exec (.rdmaWriteTimeout id) s = s.goes (k.rdmaEnd w stLinkLost))) ∧
    ((k.ethPort e).up = up → exec (.ethLinkChange e up) s = .next s) ∧
    ((k.ethPort e).up ≠ up →
      let k0 := k.updEth e (fun p => { p with up := up })
      let k1 : Chip := { k0 with io := { k0.io with edges := k.io.edges ++ [12 + e] } }
      (up = true → exec (.ethLinkChange e up) s = s.goes k1) ∧
      (up = false → exec (.ethLinkChange e up) s =
        s.goes ((k.io.rdma.filter (fun w => epPort w.endpoint = e)).foldl (fun k w => k.rdmaEnd w stLinkLost) k1))))

/-- R455, R460, R462, R466, R468, R469, R474: the registers and timers of a mailbox. A doorbell on a mailbox that is not open is
ignored; one in `CHECK` or `RUNNING` sets `DB_BUSY`; any other starts the check of the copied slot, which without
buffers ends at once in `RUNNING`, with progress 0 and the status of the first failing check if one fails, or waits while the tags
differ and then ends `DOORBELL_STALE`. A command with its answer ends; one that hardware has not answered in the time of
its class ends with `TIMEOUT`; class D has none, nor has a relay of a command of class D. A window write is taken under R462 or sets `WIN_ERR`. `CONS` is written, and one
`EVENT_LOST` event reports the events dropped.

R468: the response of a command. The response slot holds status, tag and results, `STATE` is `DONE`, a hasp named by `HEN` gets
an addition of one, with the error flag unless the command is done, and a `COMMAND_DONE` event is posted where the
mailbox's mask selects it.

R467: the checks of a command in their order; outside recovery the first that fails gives the status; a debug command is denied
before its unlock (R522). -/
def Obligations.MailboxRows : Prop :=
  (∀ (s : State) (ag : Agent) (mb : Nat) (v : U64),
    let k := s.chip
    let b := k.box mb
    let w : RegW := { part := .full, val := v }
    let upd (f : Mailbox → Mailbox) : Out := s.goes (k.updBox mb f)
    (mb < 16 → agentReaches ag mb = true →
      (b.opened = false → exec (.tmbDb ag mb w) s = .next s) ∧
      (b.opened = true → b.st = .check ∨ b.st = .running →
        exec (.tmbDb ag mb w) s = upd (fun b => { b with dbBusy := true })) ∧
      (b.opened = true → b.st = .idle ∨ b.st = .done →
        let u (f : Mailbox → Mailbox) : State := s.onChip (fun k => k.updBox mb (fun b => f { b with
          st := .check, copied := b.cmd, dbTag := v.extractLsb' 0 16, since := k.mgmt.now }))
        (slotTag b.cmd ≠ v.extractLsb' 0 16 → exec (.tmbDb ag mb w) s = .next (u id)) ∧
        (slotTag b.cmd = v.extractLsb' 0 16 → slotNbuf b.cmd = 0 → ∀ bad, ((u id).checkCommand mb).2 = bad →
          exec (.tmbDb ag mb w) s = .next ((u id).onChip (fun k => (k.setProgress mb 0).updBox mb (fun b => { b with
            st := .running, begun := false, result := bad.map (fun n => mbResult n []) }))))) ∧
      (boxClass mb = .l → b.wen = true ∨ b.st = .check ∨ b.st = .running →
        exec (.tmbWcfgWrite ag mb w) s = upd (fun b => { b with winErr := true })) ∧
      (boxClass mb = .l → b.wen = false → b.st = .idle ∨ b.st = .done →
        let b1 : Mailbox := { b with nbufs := v.extractLsb' 0 13, log2sz := v.extractLsb' 16 4, wen := false }
        exec (.tmbWcfgWrite ag mb w) s = upd (fun _ =>
          if v.getLsbD 20 then (if k.windowOk b1 then { b1 with wen := true } else { b1 with winErr := true }) else b1)) ∧
      (boxClass mb = .g → exec (.tmbWcfgWrite ag mb w) s = .next s) ∧
      (∃ t : State, exec (.tmbEvptrWrite ag mb w) s = .next t ∧
        let c := t.chip.box mb
        let full : Prop := 32 ≤ (b.prod - v.extractLsb' 16 16).toNat
        c.cons = v.extractLsb' 16 16 ∧ c.st = b.st ∧
        (b.lost = 0 ∨ full → c.prod = b.prod ∧ c.lost = b.lost ∧ c.evq = b.evq) ∧
        (b.lost ≠ 0 → ¬full → c.prod = b.prod + 1 ∧ c.lost = 0 ∧
          tblGet 0 c.evq (b.prod.toNat % 32) = eventRecord 0x0002 k.mgmt.evseq 1 7 k.mgmt.now (eventDetail [b.lost.toNat])))) ∧
    (b.st = .check → slotTag b.cmd ≠ b.dbTag → mb ≠ 14 → exec (.doorbellStale mb) s =
      s.goes ((k.updBox mb (fun b => { b with copied := b.cmd })).respondBox mb (mbResult mbStale []))) ∧
    (∀ r, b.st = .running → b.result = some r → exec (.commandComplete mb) s = .next (s.endCommand mb r) ∧
      (mb < 14 → slotBufs b.copied = [] → s.endCommand mb r = { s with
        chip := (k.endSplit mb).respondBox mb r
        boot := { s.boot with staging := s.boot.staging.filter (fun x => x.1 ≠ mb) } })) ∧
    (∀ c, b.st = .running → b.result = none → cmdInfo (slotOp b.copied) = some c →
      let inner (x : RelayOut) : Prop := x.mb = mb ∧ ∃ i, cmdInfo (ofBytes ((x.body.drop 16).take 2)) = some i ∧ i.slow = true
      (c.slow = true ∨ (∃ x ∈ k.fabric.relays, inner x) → exec (.commandTimeout mb) s = .next s) ∧
      (c.slow = false → (∀ x ∈ k.fabric.relays, ¬ inner x) → c.op ≠ 0x0703 → ∃ t : State, exec (.commandTimeout mb) s = .next t ∧
        t.chip.box mb = { b with result := some (mbResult mbTimeout []) } ∧
        (∀ n, n ≠ mb → t.chip.box n = k.box n) ∧ (∀ x ∈ t.chip.fabric.relays, x.mb ≠ mb) ∧
        (∀ a, t.chip.byte a = k.byte a)))) ∧
  (∀ (k : Chip) (mb : Nat) (r : MbResult),
    let b := k.box mb
    let c := b.copied
    let st := r.status.toNat
    let t := k.respondBox mb r
    (t.box mb).rsp = rspSlot st (slotTag c) (finalProgress c st) r.res ∧ (t.box mb).st = .done ∧
    (t.box mb).result = none ∧ (t.box mb).inl = b.inl ∧ (∀ a, t.byte a = k.byte a) ∧
    (slotHen c = true → k.bankUp (haspQuad (slotHasp c)) = true →
      (t.quad (haspQuad (slotHasp c))).inbox = (k.quad (haspQuad (slotHasp c))).inbox ++
        [({ quad := none, src := none, act := .add, index := haspIndex (slotHasp c), v := 1, err := decide (st ≠ 0 ∧ st ≠ 7) } : BankOp)]) ∧
    (slotHen c = false → b.mask.getLsbD 0 = false → t = k.updBox mb (fun b => { b with
      rsp := rspSlot st (slotTag c) (finalProgress c st) r.res, st := .done, result := none, begun := false })) ∧
    (slotHen c = false → mb < 16 → b.mask.getLsbD 0 = true → b.held < 32 →
      (t.box mb).prod = b.prod + 1 ∧ tblGet 0 (t.box mb).evq (b.prod.toNat % 32) =
        eventRecord 1 k.mgmt.evseq 0 7 k.mgmt.now (eventDetail [mb, (slotTag c).toNat, st]) ∧
      t.mgmt.evseq = k.mgmt.evseq + 1)) ∧
  (∀ (s : State) (mb : Nat),
    let b := s.chip.box mb
    let op := slotOp b.copied
    (∀ why, s.boot.phase ≠ .recovery why) →
    (cmdInfo op = none → (s.checkCommand mb).2 = some 2) ∧
    (∀ c, cmdInfo op = some c →
      let may : Prop := b.mayIssue mb c = true ∧ (op / 256 = 0x0F → s.boot.debugLevel.getLsbD 1 = true)
      (¬ may → (s.checkCommand mb).2 = some 4) ∧
      (may → s.chip.unitsThere c b.copied = false → (s.checkCommand mb).2 = some 6) ∧
      (may → s.chip.unitsThere c b.copied = true →
        (slotReserved b.copied = true ∨ slotNbuf b.copied ≠ c.nIn + c.nOut ∨
          (∃ j, j < min 4 (slotNbuf b.copied) ∧ b.bufSpot (slotBuf b.copied j) = none) ∨
          (∃ i, c.nArgs ≤ i ∧ i < 6 ∧ slotArg b.copied i ≠ 0) →
          (s.checkCommand mb).2 = some 3) ∧
        (slotReserved b.copied = false → slotNbuf b.copied = 0 → c.nIn + c.nOut = 0 →
          (∀ i, c.nArgs ≤ i → i < 6 → slotArg b.copied i = 0) → (s.checkCommand mb).2 = none))))

/-- R463: the buffers that an index names. `0xFFFF` names the inline buffer, whose ownership word lies at offset 0x100 and whose 1,664
data bytes lie from 0x180 on; any other index names a buffer where the window is enabled and the index is below `NBUFS`. -/
def Obligations.BufferIndices : Prop :=
  ∀ (k : Chip) (mb i : Nat),
    let b := k.box mb
    b.bufSpot 0xFFFF = some .inline ∧ BufSpot.inline.room = 1664 ∧
    (k.readOwn mb .inline).2 = some (b.word 0x100) ∧
    (∀ n, n < 1664 / 8 → ∃ d, (k.bufRead mb .inline (128 + 8 * n) 8).2 = some d ∧
      b.word (0x180 + 8 * n) = BitVec.ofNat 64 (ofBytes d)) ∧
    (i ≠ 0xFFFF → (b.bufSpot i ≠ none ↔ b.wen = true ∧ i < b.nbufs.toNat))

/-- R473, R481-R491, R115: the commands of families 0x01 to 0x04, at a mailbox that runs them. Each answers with its results, or
with the status of its own check; `SET_FIXED_FREQ` and a return from D2 answer when the hardware is there. Device
states and stores of the settings are as their rules say, a cap being in force from the next power window; record layouts are the model's choice (66.md). -/
def Obligations.InformationAndPowerCommands : Prop :=
  ∀ (s : State) (mb : Nat),
    let k := s.chip
    let p := s.power
    let b := k.box mb
    let arg (i : Nat) : Nat := (slotArg b.copied i).toNat
    let done (t : State) (res : List U64) : Out := t.answers mb (some (mbResult 0 res))
    let output (bs : Bytes) : Out :=
      if bs.length ≤ b.outRoom 0 then s.answers mb (some { mbResult 0 [] with out := some bs }) else s.refuses mb 3
    (s.commandRuns mb 0x0101 → (∀ why, s.boot.phase ≠ .recovery why) → exec (.getCaps mb) s = done s
      [k.capUnits, k.capHarts, k.hbmMapWord, if s.boot.record.valid then s.boot.record.serial else 0,
        match s.boot.tumbler.image with | some i => i.version | none => 0,
        match s.boot.hart.image with | some i => i.version | none => 0]) ∧
    (s.commandRuns mb 0x0102 → exec (.getTopology mb) s =
      output ((presentSides k.seats).flatMap s.topologyRecord)) ∧
    (s.commandRuns mb 0x0103 → exec (.getStatus mb) s = done s [p.dstate.setWidth 64,
      packW ((List.range 4).map (fun q => (4 * q, (4, k.quadStatus q)))), if k.flashPresent then k.flash.statWord else 0]) ∧
    (s.commandRuns mb 0x0201 →
      (∀ st, (b.begun = false ∨ arg 0 = 3) → s.dstateRefusal (arg 0) = some st → exec (.setDstate mb) s = s.refuses mb st) ∧
      (s.dstateRefusal (arg 0) = none →
        (b.begun = false → arg 0 = 1 → exec (.setDstate mb) s = done s.enterD1 []) ∧
        (b.begun = false → arg 0 = 2 → exec (.setDstate mb) s = done s.enterD2 []) ∧
        (b.begun = false → arg 0 = 0 → p.dstate = 1 → exec (.setDstate mb) s = done s.leaveD1 []) ∧
        (b.begun = false → arg 0 = 0 → p.dstate = 2 → s.leaveD2.links.rediscover ≠ [] →
          exec (.setDstate mb) s = s.leaveD2.answers mb none) ∧
        (arg 0 = 3 → exec (.setDstate mb) s = .next (s.endCommand mb (mbResult 0 [])).powerDown)) ∧
      (b.begun = true → arg 0 ≠ 3 → p.moving = true → s.links.rediscover = [] →
        exec (.setDstate mb) s = done { s with power := { p with moving := false } } [])) ∧
    (s.commandRuns mb 0x0202 →
      (arg 0 ≠ 0 → arg 0 < capFloor k.variantIx → exec (.setPowerCap mb) s = s.refuses mb 3) ∧
      (arg 0 = 0 → exec (.setPowerCap mb) s =
        done { s with power := { p with capSet := none } } [BitVec.ofNat 64 (tdpOf k.variantIx)]) ∧
      (arg 0 ≠ 0 → capFloor k.variantIx ≤ arg 0 → exec (.setPowerCap mb) s =
        done { s with power := { p with capSet := some (arg 0) } } [BitVec.ofNat 64 (min (arg 0) (tdpOf k.variantIx))])) ∧
    (s.commandRuns mb 0x0203 →
      (4096 ≤ arg 0 ∨ 4 ≤ arg 1 → exec (.setRampTable mb) s = s.refuses mb 3) ∧
      (arg 0 < 4096 → arg 1 < 4 → ∃ t : State, exec (.setRampTable mb) s = .next t ∧
        (t.chip.box mb).result = some (mbResult 0 []) ∧ ∀ r, r < 12 → t.power.region r =
          (if bitOf (arg 0) r then { p.region r with table := BitVec.ofNat 2 (arg 1) } else p.region r))) ∧
    (s.commandRuns mb 0x0204 →
      (k.pkgAllowed = false → exec (.setHbmMap mb) s = s.refuses mb 4) ∧
      (k.pkgAllowed = true → 2 ≤ arg 0 → exec (.setHbmMap mb) s = s.refuses mb 3) ∧
      (k.pkgAllowed = true → arg 0 < 2 →
        exec (.setHbmMap mb) s = done { s with chip := { k with storedPkg := decide (arg 0 = 1) } } [])) ∧
    (s.commandRuns mb 0x0205 →
      (4 ≤ arg 0 ∨ 13 ≤ arg 1 → exec (.setShelfSplit mb) s = s.refuses mb 3) ∧
      (arg 0 < 4 → arg 1 < 13 → k.bankUp (arg 0) = false → exec (.setShelfSplit mb) s = s.refuses mb 9) ∧
      (arg 0 < 4 → arg 1 < 13 → k.bankUp (arg 0) = true →
        ((k.quad (arg 0)).splitBy ≠ none → exec (.setShelfSplit mb) s = s.refuses mb 1) ∧
        ((k.quad (arg 0)).splitBy = none →
          exec (.setShelfSplit mb) s = done { s with chip := k.splitShelf mb (arg 0) (arg 1) } []))) ∧
    (s.commandRuns mb 0x0206 →
      (4 ≤ arg 0 ∨ 3 ≤ arg 1 → exec (.setScPolicy mb) s = s.refuses mb 3) ∧
      (arg 0 < 4 → arg 1 < 3 → exec (.setScPolicy mb) s = done { s with chip := k.updQuad (arg 0) (fun d =>
        { d with policy := if arg 1 = 0 then .auto else if arg 1 = 1 then .all else .none }) } [])) ∧
    (s.commandRuns mb 0x0207 →
      (2 ≤ arg 0 ∨ 3 ≤ arg 1 → exec (.setPcieWidth mb) s = s.refuses mb 3) ∧
      (arg 0 < 2 → arg 1 < 3 → exec (.setPcieWidth mb) s = done { s with chip := { k with io := { k.io with
        widthStored := tblPut 0 k.io.widthStored (arg 0) (arg 1) } } } [])) ∧
    (s.commandRuns mb 0x0301 → exec (.getClocks mb) s = done s
      [BitVec.ofNat 64 p.root, packW [(0, (1, boolNat p.fixed)), (1, (1, boolNat p.boost))]]) ∧
    (s.commandRuns mb 0x0302 →
      (arg 0 % 100 ≠ 0 ∨ arg 0 < 2600 ∨ 8400 < arg 0 → exec (.setFixedFreq mb) s = s.refuses mb 3) ∧
      (arg 0 % 100 = 0 → 2600 ≤ arg 0 → arg 0 ≤ 8400 →
        (b.begun = false → exec (.setFixedFreq mb) s = if p.root = arg 0 then
            done { s with power := p.fix (arg 0) } [BitVec.ofNat 64 p.root]
          else State.answers { s with power := p.fix (arg 0) } mb none) ∧
        (b.begun = true → exec (.setFixedFreq mb) s =
          if p.root = arg 0 ∨ (p.limiter ≠ 0 ∧ p.target < arg 0) then done s [BitVec.ofNat 64 p.root]
          else s.answers mb none))) ∧
    (s.commandRuns mb 0x0303 →
      (p.fixed = false → exec (.clearFixedFreq mb) s = s.refuses mb 7) ∧
      (p.fixed = true → exec (.clearFixedFreq mb) s =
        done { s with power := { p with fixed := false, requested := 7800, boost := p.savedBoost } } [])) ∧
    (s.commandRuns mb 0x0304 →
      (2 ≤ arg 0 → exec (.setBoost mb) s = s.refuses mb 3) ∧
      (arg 0 < 2 → exec (.setBoost mb) s = done { s with power :=
        if p.fixed then { p with savedBoost := decide (arg 0 = 1) } else { p with boost := decide (arg 0 = 1) } } [])) ∧
    (s.commandRuns mb 0x0401 →
      (4 ≤ arg 0 ∨ 256 ≤ arg 1 ∨ 65536 ≤ arg 2 → exec (.wqAbort mb) s = s.refuses mb 3) ∧
      (arg 0 < 4 → arg 1 < 256 → arg 2 < 65536 →
        (k.bankUp (arg 0) = false → exec (.wqAbort mb) s = s.refuses mb 9) ∧
        (k.bankUp (arg 0) = true → ∀ j r, k.abort (arg 0) (arg 1) (BitVec.ofNat 16 (arg 2)) = (j, r) →
          exec (.wqAbort mb) s = State.refuses { s with chip := j } mb (abortStatus r)))) ∧
    (s.commandRuns mb 0x0402 →
      (4 ≤ arg 0 ∨ 256 ≤ arg 1 → exec (.wqStatus mb) s = s.refuses mb 3) ∧
      (arg 0 < 4 → arg 1 < 256 → exec (.wqStatus mb) s =
        done s [((k.quad (arg 0)).queue (arg 1)).cfgWord, ((k.quad (arg 0)).queue (arg 1)).headWord]))

/-- R364-R366, R377, R389-R391, R473: the commands of family 0x05. A record is set, and a change of an enabled space answers once
its invalidation has completed; `SPACE_GET` answers a record; `RELOCATE` checks the entry and begins its invalidation,
whose completion copies the span, rewrites the entry and answers with its size.

R399-R403, R408, R410, R473: the commands of family 0x06. An image is created in free units with a free identifier, written
while `WRITING`, sealed with the digest of its bytes unless they cannot be read, and erased; its
span holds nothing of an earlier image; a read of a poisoned source leaves free bytes and
answers `HW_FAULT`; a deferral starts, or ends early. Which units and which identifier are taken is the model's choice
(16.md), and the layout of the list (66.md). -/
def Obligations.SpaceAndFlashCommands : Prop :=
  (∀ (s : State) (mb : Nat),
    let k := s.chip
    let b := k.box mb
    let arg (i : Nat) : Nat := (slotArg b.copied i).toNat
    let t := arg 0
    let old := k.space t
    let r : SpaceRec := { en := decide (arg 1 = 1), domain := BitVec.ofNat 8 (arg 2), count := BitVec.ofNat 17 (arg 3),
                          tbase := BitVec.ofNat 44 (arg 4) }
    let k1 : Chip := { k with spaces := tblPut SpaceRec.reset k.spaces t r }
    b.begun = false →
    (s.commandRuns mb 0x0501 →
      (t = 0 ∨ 4096 ≤ t ∨ 2 ≤ arg 1 ∨ 256 ≤ arg 2 ∨ 65536 < arg 3 ∨ 2 ^ 44 ≤ arg 4 ∨ k.tableOk r = false →
        exec (.spaceSet mb) s = s.refuses mb 3) ∧
      (t ≠ 0 → t < 4096 → arg 1 < 2 → arg 2 < 256 → arg 3 ≤ 65536 → arg 4 < 2 ^ 44 → k.tableOk r = true →
        (old.en = false ∨ old = r →
          exec (.spaceSet mb) s = State.answers { s with chip := k1 } mb (some (mbResult 0 []))) ∧
        (old.en = true → old ≠ r →
          exec (.spaceSet mb) s = State.answers { s with chip := k1.startInval t (.command mb) } mb none))) ∧
    (s.commandRuns mb 0x0502 →
      (t = 0 ∨ 4096 ≤ t → exec (.spaceInval mb) s = s.refuses mb 3) ∧
      (t ≠ 0 → t < 4096 →
        exec (.spaceInval mb) s = State.answers { s with chip := k.startInval t (.command mb) } mb none)) ∧
    (s.commandRuns mb 0x0503 →
      (4096 ≤ t → exec (.spaceGet mb) s = s.refuses mb 3) ∧
      (t < 4096 → exec (.spaceGet mb) s = s.answers mb (some (mbResult 0
        [(boolBit old.en).setWidth 64, old.domain.setWidth 64, old.count.setWidth 64, old.tbase.setWidth 64])))) ∧
    (s.commandRuns mb 0x0504 →
      (t = 0 ∨ 4096 ≤ t ∨ 2 ^ 40 ≤ arg 2 ∨ 2 < arg 3 ∨ 2 ≤ arg 4 ∨ old.en = false ∨ old.count.toNat ≤ arg 1 →
        exec (.relocate mb) s = s.refuses mb 3) ∧
      (t ≠ 0 → t < 4096 → arg 2 < 2 ^ 40 → arg 3 ≤ 2 → arg 4 < 2 → old.en = true → arg 1 < old.count.toNat →
        (k.relocating ≠ none → exec (.relocate mb) s = s.refuses mb 1) ∧
        (k.relocating = none → ∀ j x, k.tumblerEntry t (arg 1) = (j, x) →
          (x = none → exec (.relocate mb) s = State.refuses { s with chip := j } mb 9) ∧
          (∀ y, x = some y →
            let e := decodeRange y
            (j.movable e (arg 2) (arg 3) (arg 4 = 1) = false →
              exec (.relocate mb) s = State.refuses { s with chip := j } mb 3) ∧
            (j.movable e (arg 2) (arg 3) (arg 4 = 1) = true → exec (.relocate mb) s =
              State.answers { s with chip := { j with relocating := some ({
                mb := mb, space := t, index := arg 1, pstart := arg 2, tier := arg 3, coh := decide (arg 4 = 1),
                oldStart := e.pstart.toNat, len := e.len.toNat, oldLpddr := inLpddr e.first,
                inval := j.nextInv, copied := 0 } : Relocation) }.startInval t (.command mb) } mb none)))))) ∧
  (∀ (s : State) (mb : Nat),
    let k := s.chip
    let f := k.flash
    let b := k.box mb
    let now := k.mgmt.now
    let arg (i : Nat) : Nat := (slotArg b.copied i).toNat
    let list := f.images.flatMap Image.record
    let onF (g : Flash → Flash) : State := { s with chip := k.onFlash g }
    let done (t : State) (res : List U64) : Out := t.answers mb (some (mbResult 0 res))
    (s.commandRuns mb 0x0601 →
      (b.outRoom 0 < list.length → exec (.imgList mb) s =
        s.answers mb (some (mbResult 3 [BitVec.ofNat 64 list.length]))) ∧
      (list.length ≤ b.outRoom 0 → exec (.imgList mb) s =
        s.answers mb (some { mbResult 0 [BitVec.ofNat 64 list.length] with out := some list }))) ∧
    (s.commandRuns mb 0x0602 →
      let n := (arg 0 + 65535) / 65536
      (arg 0 = 0 → exec (.imgCreate mb) s = s.refuses mb 3) ∧
      (arg 0 ≠ 0 → f.sparePct.toNat < 2 ∨ userUnits < f.used + n → exec (.imgCreate mb) s = s.refuses mb 4) ∧
      (arg 0 ≠ 0 → 2 ≤ f.sparePct.toNat → f.used + n ≤ userUnits → ∀ i o, f.freeId = some i → f.place (n * 65536) = some o →
        exec (.imgCreate mb) s = done (onF (fun f => { f.dropData o (n * 65536) with images := f.images ++
          [({ id := i, st := .writing, offset := o, length := arg 0, digest := 0, damaged := false } : Image)] }))
          [BitVec.ofNat 64 i, BitVec.ofNat 64 o])) ∧
    (s.commandRuns mb 0x0603 → ∀ j inp, k.cmdInput mb = (j, inp) →
      let s1 : State := { s with chip := j }
      let n := j.inputLength mb
      (j.flash.image (arg 0) = none → exec (.imgWrite mb) s = s1.refuses mb 3) ∧
      (∀ i, j.flash.image (arg 0) = some i →
        (i.st ≠ .writing → exec (.imgWrite mb) s = s1.refuses mb 4) ∧
        (i.st = .writing → arg 1 % 512 ≠ 0 ∨ i.length < arg 1 + n → exec (.imgWrite mb) s = s1.refuses mb 3) ∧
        (i.st = .writing → arg 1 % 512 = 0 → arg 1 + n ≤ i.length →
          (∀ bs, inp = some bs →
            let l := j.onFlash (fun f => { f with data := putBytes f.data (i.offset + arg 1) bs })
            exec (.imgWrite mb) s = done { s with chip := l } [BitVec.ofNat 64 bs.length]) ∧
          (inp = none → ∀ bs l, j.freshBytes n = (bs, l) →
            let l1 := l.onFlash (fun f => { f with data := putBytes f.data (i.offset + arg 1) bs })
            exec (.imgWrite mb) s = State.refuses { s with chip := l1 } mb 9)))) ∧
    (s.commandRuns mb 0x0604 → ∀ i, f.image (arg 0) = some i →
      let bad := Config.freeBits k.free
      let j : Chip := { k with free := k.free + 1 }
      (i.st ≠ .writing → exec (.imgSeal mb) s = s.refuses mb 4) ∧
      (i.st = .writing → b.outRoom 0 < 64 → exec (.imgSeal mb) s = s.refuses mb 3) ∧
      (i.st = .writing → 64 ≤ b.outRoom 0 → bad.getLsbD 0 = true → exec (.imgSeal mb) s = State.refuses { s with chip := j } mb 9) ∧
      (i.st = .writing → 64 ≤ b.outRoom 0 → bad.getLsbD 0 = false →
        let d := sha512 (f.imageBytes i)
        exec (.imgSeal mb) s = State.answers { s with chip := j.onFlash (fun f => f.updImage i.id (fun i => { i with st := .sealed, digest := d })) } mb
          (some { mbResult 0 (digestWords d) with out := some (toBytes 64 d.toNat) }))) ∧
    (s.commandRuns mb 0x0605 → b.begun = false →
      (f.image (arg 0) = none → exec (.imgErase mb) s = s.refuses mb 3) ∧
      (∀ i, f.image (arg 0) = some i →
        (i.st = .erasing → exec (.imgErase mb) s = s.refuses mb 4) ∧
        (i.st ≠ .erasing → exec (.imgErase mb) s =
          (onF (fun f => f.updImage i.id (fun i => { i with st := .erasing }))).answers mb none))) ∧
    (s.commandRuns mb 0x0606 →
      (60 < arg 0 → exec (.fltDefer mb) s = s.refuses mb 3) ∧
      (arg 0 = 0 → f.defer = none → exec (.fltDefer mb) s = done s [0]) ∧
      (arg 0 = 0 → ∀ x y, f.defer = some (x, y) → exec (.fltDefer mb) s =
        done (onF (fun f => { f with defer := none, deferNot := now + (now - x) }.refresh)) [0]) ∧
      (0 < arg 0 → arg 0 ≤ 60 →
        (f.defer ≠ none ∨ now < f.deferNot → exec (.fltDefer mb) s = s.refuses mb 4) ∧
        (f.defer = none → f.deferNot ≤ now → exec (.fltDefer mb) s =
          done (onF (fun f => { f with defer := some (now, now + arg 0 * refclkSecond) }.refresh)) [BitVec.ofNat 64 (arg 0)]))))

/-- R431, R432, R473: the commands of family 0x07. `POD_NEIGHBOURS` lists the neighbours' reports; `POD_CONFIGURE` checks the
list, sends it along its paths and, when every module has acknowledged, configures this module; `POD_CHECK` asks every
other module of the pod; `POD_RELAY` sends a command to another module. The layouts are the model's choice (65.md).

R504, R505, R514-R519, R522, R523, R455, R462, R473: the commands of family 0x08. Measurements and quotes are answered; an
enrolment record that R518 and R519 accept becomes pending and advances the counter; firmware is staged into the slot
that neither runs nor is preferred, in two parts, and a valid slot is made preferred; a challenge is 32 free bytes; a
challenge serves one unlock, which extends M3; `MB_ASSIGN` opens a class G mailbox. Layouts that the spec does not
give are the model's choice (66.md). -/
def Obligations.PodAndSecurityCommands : Prop :=
  (∀ (s : State) (mb : Nat),
    let k := s.chip
    let b := k.box mb
    let arg (i : Nat) : Nat := (slotArg b.copied i).toNat
    let near := (List.range 12).flatMap (fun n => match (k.fabric.port n).hello with
      | some i => helloRecord n i
      | none => [])
    let podId : U64 := BitVec.ofNat 64 (arg 0)
    (s.commandRuns mb 0x0701 → exec (.podNeighbours mb) s =
      if near.length ≤ b.outRoom 0 then s.answers mb (some { mbResult 0 [] with out := some near }) else s.refuses mb 3) ∧
    (s.commandRuns mb 0x0702 → ∀ j bs, k.cmdInput mb = (j, some bs) →
      let s1 : State := { s with chip := j }
      let es := podEntries (bs.length / 16) bs
      (podTopology (arg 1) es.length j.portList.length = none → exec (.podConfigure mb) s = s1.refuses mb 3) ∧
      (∀ t, podTopology (arg 1) es.length j.portList.length = some t →
        (b.begun = false →
          (bs.length % 16 ≠ 0 ∨ s1.podListOk es = false → exec (.podConfigure mb) s = s1.refuses mb 3) ∧
          (bs.length % 16 = 0 → s1.podListOk es = true →
            (j.fabric.awaited ≠ [] → exec (.podConfigure mb) s = s1.refuses mb 1) ∧
            (j.fabric.awaited = [] → exec (.podConfigure mb) s = State.answers { s with chip := j.onFabric (fun f =>
              (es.filter (fun e => !e.path.isEmpty)).foldl (fun f e => f.sendConfig podId t es e) f) } mb none))) ∧
        (b.begun = true →
          (j.fabric.awaited ≠ [] → exec (.podConfigure mb) s = s1.answers mb none) ∧
          (j.fabric.awaited = [] → ∀ e, es.find? (fun e => e.path.isEmpty) = some e → exec (.podConfigure mb) s =
            State.answers { s with chip := j.configurePod (j.podRecordOf podId t e.dev es) } mb (some (mbResult 0 [])))))) ∧
    (s.commandRuns mb 0x0703 →
      (b.begun = false → k.checker ≠ none → ∃ t : State, exec (.podCheck mb) s = .next t ∧
        (t.chip.box mb).result = some (mbResult 1 [])) ∧
      (b.begun = false → k.checker = none →
        let t : State := { s with chip := k.pingAll }
        exec (.podCheck mb) s =
          t.answers mb (if t.chip.fabric.podSilent = [] then some t.chip.fabric.podAnswer else none)) ∧
      (b.begun = true → exec (.podCheck mb) s =
        s.answers mb (if k.fabric.podSilent = [] then some k.fabric.podAnswer else none))) ∧
    (s.commandRuns mb 0x0704 → b.begun = false → ∀ j bs, k.cmdInput mb = (j, some bs) →
      let s1 : State := { s with chip := j }
      (64 ≤ arg 0 ∨ arg 0 = j.fabric.devnum.toNat → exec (.podRelay mb) s = s1.refuses mb 3) ∧
      (arg 0 < 64 → arg 0 ≠ j.fabric.devnum.toNat →
        (bs.length < 64 ∨ 1728 < bs.length → exec (.podRelay mb) s = s1.refuses mb 3) ∧
        (64 ≤ bs.length → bs.length ≤ 1728 →
          let seq := j.fabric.mseq + 1
          let dst : BitVec 6 := BitVec.ofNat 6 (arg 0)
          let body := toBytes 8 s.boot.ownerId.toNat ++ [BitVec.ofNat 8 (relayBox mb), 0, 0, 0, 0, 0, 0, 0] ++ bs
          let out : RelayOut := { mseq := seq, dst := dst, mb := mb, body := body, resent := 0 }
          let k1 := (j.onFabric (fun f => { f with mseq := seq, relays := f.relays ++ [out] })).sendRelay 2 dst seq body
          exec (.podRelay mb) s = State.answers { s with chip := k1 } mb none)))) ∧
  (∀ (s : State) (mb : Nat),
    let k := s.chip
    let b := k.box mb
    let x := s.boot
    let arg (i : Nat) : Nat := (slotArg b.copied i).toNat
    let done (t : State) (res : List U64) : Out := t.answers mb (some (mbResult 0 res))
    let output (res : List U64) (out : Bytes) : Out :=
      if out.length ≤ b.outRoom 0 then s.answers mb (some { mbResult 0 res with out := some out }) else s.refuses mb 3
    (s.commandRuns mb 0x0801 →
      let n := min x.mlog.length ((b.outRoom 0 - 576) / 128)
      exec (.getMeasurements mb) s = output [BitVec.ofNat 64 x.mlog.length]
        (toBytes 4 n ++ [0, 0, 0, 0] ++ toBytes 8 x.bootCount.toNat ++ List.replicate 48 0 ++ x.mBytes ++
          (x.mlog.take n).flatMap LogEntry.bytes)) ∧
    (s.commandRuns mb 0x0802 →
      let body := s.quoteBody ((List.range 4).map (slotArg b.copied))
      exec (.attestQuote mb) s = output [] (body ++ toBytes 132 (Config.identitySign body).toNat ++
        List.replicate 252 0 ++ Config.identityCert)) ∧
    (s.commandRuns mb 0x0803 → ∀ j inp, k.cmdInput mb = (j, inp) →
      let s1 : State := { s with chip := j }
      (inp = none → exec (.ownerEnroll mb) s = s1.refuses mb 9) ∧
      (∀ bs, inp = some bs →
        (x.enrolOk bs = true → exec (.ownerEnroll mb) s = done { s1 with boot := { x with
          counter := x.counter + 1, pendingOwner := some (enrolment bs) } } []) ∧
        (x.enrolOk bs = false → exec (.ownerEnroll mb) s = s1.refuses mb 4))) ∧
    (s.commandRuns mb 0x0804 → ∀ j inp, k.cmdInput mb = (j, inp) →
      let s1 : State := { s with chip := j }
      let kind := arg 1
      let slotB : Bool := decide (arg 0 = 1)
      (2 ≤ arg 0 ∨ kind = 0 ∨ 3 ≤ kind → exec (.fwStage mb) s = s1.refuses mb 3) ∧
      (arg 0 < 2 → kind ≠ 0 → kind < 3 →
        (inp = none → exec (.fwStage mb) s = s1.refuses mb 9) ∧
        (∀ bs, inp = some bs →
          let sl := stagedSlot (x.parseImage kind bs)
          (b.begun = true → exec (.fwStage mb) s = done { s with
            boot := x.updKind kind (fun k => k.updSlot slotB (fun _ => sl)), chip := j.fwEvent slotB 1 } []) ∧
          (b.begun = false →
            ((x.kind kind).running = some slotB ∨ (x.kind kind).preferred = slotB →
              exec (.fwStage mb) s = s1.refuses mb 4) ∧
            ((x.kind kind).running ≠ some slotB → (x.kind kind).preferred ≠ slotB →
              (x.kindBusy mb kind = true → exec (.fwStage mb) s = s1.refuses mb 1) ∧
              (x.kindBusy mb kind = false → x.slotOk kind sl = false → exec (.fwStage mb) s = s1.refuses mb 3) ∧
              (x.kindBusy mb kind = false → x.slotOk kind sl = true → exec (.fwStage mb) s = State.answers { s1 with
                boot := { x.updKind kind (fun k => k.updSlot slotB (fun _ => emptySlot)) with
                  staging := x.staging ++ [(mb, kind)] } } mb none)))))) ∧
    (s.commandRuns mb 0x0805 →
      let kind := arg 1
      let slotB : Bool := decide (arg 0 = 1)
      (2 ≤ arg 0 ∨ kind = 0 ∨ 3 ≤ kind → exec (.fwActivate mb) s = s.refuses mb 3) ∧
      (arg 0 < 2 → kind ≠ 0 → kind < 3 →
        (x.kindBusy mb kind = true → exec (.fwActivate mb) s = s.refuses mb 1) ∧
        (x.kindBusy mb kind = false → x.slotOk kind ((x.kind kind).slot slotB) = false →
          exec (.fwActivate mb) s = s.refuses mb 4) ∧
        (x.kindBusy mb kind = false → x.slotOk kind ((x.kind kind).slot slotB) = true →
          exec (.fwActivate mb) s = done { s with
            boot := { x.updKind kind (fun k => { k with preferred := slotB }) with staging := x.staging ++ [(mb, kind)] }
            chip := k.fwEvent slotB 2 } []))) ∧
    (s.commandRuns mb 0x0806 → ∀ rs j, k.freshBytes 32 = (rs, j) →
      let v : BitVec 256 := BitVec.ofNat 256 (ofBytes rs)
      exec (.debugChallenge mb) s = done { s with chip := j, boot := { x with challenge := some (v, k.mgmt.now) } }
        ((List.range 4).map (fun i => v.extractLsb' (64 * i) 64))) ∧
    (s.commandRuns mb 0x0807 → ∀ j bs, k.cmdInput mb = (j, some bs) →
      let x1 : Boot := { x with challenge := none }
      (State.unlockOk { s with chip := j } bs = true →
        exec (.debugUnlock mb) s = done { s with chip := j, boot := x1.unlock bs } []) ∧
      (State.unlockOk { s with chip := j } bs = false →
        exec (.debugUnlock mb) s = State.refuses { s with chip := j, boot := x1 } mb 4)) ∧
    (s.commandRuns mb 0x0810 → ∀ j bs, k.cmdInput mb = (j, some bs) →
      let s1 : State := { s with chip := j }
      (guestLists bs = none → exec (.mbAssign mb) s = s1.refuses mb 3) ∧
      (∀ l, guestLists bs = some l →
        let g := j.box (arg 0)
        let w := j.setWindow { g with winErr := false } (slotArg b.copied 1) (slotArg b.copied 2)
        (arg 0 < 8 ∨ 12 ≤ arg 0 ∨ g.st = .check ∨ g.st = .running ∨ w.winErr = true →
          exec (.mbAssign mb) s = s1.refuses mb 3) ∧
        (8 ≤ arg 0 → arg 0 < 12 → g.st = .idle ∨ g.st = .done → w.winErr = false →
          exec (.mbAssign mb) s = done { s with chip := j.updBox (arg 0) (fun b => { b with
            opened := true, wbase := w.wbase, nbufs := w.nbufs, log2sz := w.log2sz, wen := w.wen, guest := l }) } []))))

/-- R473, R498-R501, R522-R526, R531, R538, R539, R453, R471, R344: the commands of families 0x09, 0x0A, 0x0B and 0x0F. Error records
are read and retired, and the log is read; a reset answers before it begins; a quadrant is given back to its host;
counters, sensors and the event mask are read or set; a directory entry or a register is read. (A command of family 0x0F
is denied before its unlock by the checks of R467.) A quadrant or device reset lets the stores of the clusters drain
first (114.md). -/
def Obligations.ManagementCommands : Prop :=
  ∀ (s : State) (mb : Nat),
    let k := s.chip
    let b := k.box mb
    let arg (i : Nat) : Nat := (slotArg b.copied i).toNat
    let pa := arg 0
    let la := paLocal pa
    let done (t : State) (res : List U64) : Out := t.answers mb (some (mbResult 0 res))
    let output (res : List U64) (out : Bytes) : Out :=
      if out.length ≤ b.outRoom 0 then s.answers mb (some { mbResult 0 res with out := some out }) else s.refuses mb 3
    let ended := s.endCommand mb (mbResult 0 [])
    (s.commandRuns mb 0x0901 →
      let rs := (k.mgmt.bank.filter (fun r => arg 0 ≤ recIndex r)).take (b.outRoom 0 / 64)
      exec (.errRead mb) s = s.answers mb (some { mbResult 0 [match rs.getLast? with
        | some r => BitVec.ofNat 64 (recIndex r + 1)
        | none => slotArg b.copied 0] with out := some (rs.flatMap (fun r => toBytes 64 r.toNat)) })) ∧
    (s.commandRuns mb 0x0902 → exec (.errClear mb) s = done { s with chip := k.onMgmt (fun m =>
      { m with bank := m.bank.filter (fun r => arg 0 ≤ recIndex r) }) } []) ∧
    (s.commandRuns mb 0x0903 → exec (.logRead mb) s = s.answers mb (some { mbResult 0 [] with
      out := some (((k.mgmt.log.flatMap (fun r => toBytes 64 r.toNat)).drop (arg 0)).take (b.outRoom 0)) })) ∧
    (s.commandRuns mb 0x0A01 → exec (.resetDevice mb) s = .next ended.commandedReset) ∧
    (s.commandRuns mb 0x0A02 → exec (.resetHost mb) s = .next ended.hostReset) ∧
    (s.commandRuns mb 0x0A03 → (4 ≤ arg 0 → exec (.resetQuadrant mb) s = s.refuses mb 3) ∧
      (arg 0 < 4 → exec (.resetQuadrant mb) s = .next ((ended.drainQuad (arg 0)).quadReset (arg 0)))) ∧
    (s.commandRuns mb 0x0A04 →
      (4 ≤ arg 0 → exec (.reattach mb) s = s.refuses mb 3) ∧
      (arg 0 < 4 →
        ((k.quad (arg 0)).orphaned = false → exec (.reattach mb) s = s.refuses mb 7) ∧
        ((k.quad (arg 0)).orphaned = true →
          (s.links.hingeState (arg 0) ≠ .active ∨ k.hostOpen = false → exec (.reattach mb) s = s.refuses mb 9) ∧
          (s.links.hingeState (arg 0) = .active → k.hostOpen = true →
            exec (.reattach mb) s = done { s with chip :=
              ((k.quad (arg 0)).held.foldl (fun k h => k.writeCompletion (arg 0) h) k).updQuad (arg 0) (fun d =>
                { d with held := [], orphaned := false, enable := false }) } [])))) ∧
    (s.commandRuns mb 0x0B01 →
      let ns := if boxClass mb = .g then b.guest.counters.filter (fun n => n < 1038) else List.range 1038
      exec (.energyRead mb) s = output []
        ((ns.take (b.outRoom 0 / 8)).flatMap (fun n => toBytes 8 (s.power.energy n).toNat))) ∧
    (s.commandRuns mb 0x0B02 → exec (.telemRead mb) s = output []
      (((List.range 23).map (fun n => (s.power.sensor n).word) ++ [s.pwrWord, s.clkWord, s.power.intvWord] ++
        s.power.history.flatMap (fun x => [BitVec.ofNat 64 x.1, BitVec.ofNat 64 x.2])).flatMap (fun w => toBytes 8 w.toNat))) ∧
    (s.commandRuns mb 0x0B03 →
      (0x10000 ≤ arg 0 → exec (.eventMask mb) s = s.refuses mb 3) ∧
      (arg 0 < 0x10000 → exec (.eventMask mb) s = s.goes (k.updBox mb (fun b => { b with
        mask := BitVec.ofNat 16 (arg 0), result := some (mbResult 0 []), begun := true })))) ∧
    (s.commandRuns mb 0x0F01 →
      (k.isOwn pa = false ∨ (areaOf la ≠ .lpddr ∧ areaOf la ≠ .hbm) ∨ k.populated la = false →
        exec (.dirRead mb) s = s.refuses mb 3) ∧
      (k.isOwn pa = true → areaOf la = .lpddr ∨ areaOf la = .hbm → k.populated la = true →
        (k.tmbReach la ≠ stOk → exec (.dirRead mb) s = s.refuses mb 9) ∧
        (k.tmbReach la = stOk → exec (.dirRead mb) s = done s ((List.range 4).map (fun i =>
          (((k.home (k.homeOf (la / 128))).entry (la / 128)).bits (la / 128)).extractLsb' (64 * i) 64))))) ∧
    (s.commandRuns mb 0x0F02 →
      (k.isOwn pa = false → exec (.regPeek mb) s = s.refuses mb 3) ∧
      (k.isOwn pa = true → ∀ l, s.regCheck none la 8 = .ok l →
        exec (.regPeek mb) s = done s [s.regRead .tumbler l la 8]))

/-- R520, R553-R555: the remote session of `MB14` and the SMBus target. A session opens where its conditions hold; a request puts
its slot and data into `MB14` and rings it, or only sets `DB_BUSY` while a command runs there (82.md). A transaction
without a right PEC, or outside the target's commands, is NACKed and changes nothing else; a Write Word sets the
pointer, a Block Write writes ascending double words, a Process Call reads them, and both move the pointer past them; the
alert response answers the target's address while it asserts the line (80.md). -/
def Obligations.RemoteRows : Prop :=
  ∀ (s : State) (slot : BitVec 512) (body data : Bytes) (word : BitVec 16) (n : Nat) (pec : Bool),
    let k := s.chip
    let b := k.box 14
    let opened : Out := .next { s with boot := { s.boot with session := true } }
    let nack : Out := .next { s with pins := { s.pins with smbNack := true, smbData := [] } }
    let up : Prop := s.pins.pgood = true ∧ s.boot.phase ≠ .off
    let room (n : Nat) : Prop := 8 ≤ n ∧ n ≤ 32 ∧ n % 8 = 0 ∧ s.pins.smbOff.toNat + n ≤ 0x1000
    let bx := if s.pins.smbSel then 13 else 12
    let o := s.pins.smbOff.toNat
    (s.tumblerUp = true → s.boot.session = false → b.opened = true → (k.ethPort 0).up = true →
      exec (.remoteSessionOpen true) s = opened) ∧
    exec (.remoteSessionOpen false) s = .next s ∧
    (s.boot.session = true → body.length ≤ 1664 →
      (b.st = .check ∨ b.st = .running → b.opened = true → exec (.remoteSessionRequest slot body) s =
        s.goes (k.updBox 14 (fun b => { b with dbBusy := true }))) ∧
      (b.st = .idle ∨ b.st = .done → exec (.remoteSessionRequest slot body) s =
        .next ((s.onChip (fun k => k.updBox 14 (fun b => b.takeRequest slot body))).ringDoorbell 14 (slotTag slot)))) ∧
    exec .remoteSessionTimeout s = .next { s with boot := { s.boot with session := false } } ∧
    (¬up ∨ pec = false → exec (.smbWriteWord word pec) s = nack ∧ exec (.smbBlockWrite data pec) s = nack ∧
      exec (.smbProcessCall n pec) s = nack) ∧
    (up → pec = true →
      (word.extractLsb' 12 3 = 0 → word.extractLsb' 0 3 = 0 → exec (.smbWriteWord word pec) s = .next { s with
        pins := { s.pins with smbSel := word.getLsbD 15, smbOff := (word.extractLsb' 0 12).setWidth 13,
                              smbNack := false, smbData := [] } }) ∧
      (word.extractLsb' 12 3 ≠ 0 ∨ word.extractLsb' 0 3 ≠ 0 → exec (.smbWriteWord word pec) s = nack) ∧
      (¬room data.length → exec (.smbBlockWrite data pec) s = nack) ∧
      (room data.length → ∃ t : State, exec (.smbBlockWrite data pec) s = .next t ∧ t.pins.smbNack = false ∧
        t.pins.smbSel = s.pins.smbSel ∧ t.pins.smbOff.toNat = o + data.length ∧
        (data.length = 8 → t.chip = (s.boxWrite .tumbler bx o 8 (BitVec.ofNat 64 (ofBytes data))).chip)) ∧
      (¬room n → exec (.smbProcessCall n pec) s = nack) ∧
      (room n → exec (.smbProcessCall n pec) s = .next { s with pins := { s.pins with
        smbNack := false, smbOff := s.pins.smbOff + BitVec.ofNat 13 n
        smbData := (List.range (n / 8)).flatMap (fun i => toBytes 8 ((k.box bx).word (o + 8 * i)).toNat) } })) ∧
    (up → (k.box 12).prod ≠ (k.box 12).cons ∨ (k.box 13).prod ≠ (k.box 13).cons →
      exec .smbAlertResponse s = .next { s with pins := { s.pins with
        smbNack := false, smbData := [(0x60 + s.pins.smbAddr.setWidth 8) <<< 1] } }) ∧
    ((k.box 12).prod = (k.box 12).cons → (k.box 13).prod = (k.box 13).cons → exec .smbAlertResponse s = nack)

/-- R477, R486-R490, R492, R494, R495, R497, R498: clocks, limiters and energy. A slew begins where the root differs from its target
and no hinge trains, and ends at the target; a power window sets the limiters, and the target is the smallest of the
limits in force; the first calibrated readings end the estimator's limit; a droop detector and a rail limit act on their
region or quadrant; the transient peak trips; energy counters count up, each queue's share within its quadrant's, of clusters that ran a launch charging it.

R393, R491, R493-R495, R501: regions and sensors. The activity of a region moves towards the demand, within its ceiling and a
rail's limit, by at most the step of its table; a sensor holds its reading, its largest since it was cleared, and
whether it throttles; `THERM_N` is low while a sensor of a die throttles; a sensor at its trip temperature trips.

R480-R485: device states. In D1 every quadrant that can run sleeps with its caches written back and its activity at zero; in D2 every hinge but a failed one and every port is off, its rails down and its state gone; a return from D1 wakes it, and one from D2 begins
its training and discovery; D3 drains the stores of the clusters, takes every rail down and leaves what is not volatile. -/
def Obligations.PowerRows : Prop :=
  (∀ (s : State) (r : WindowReading) (region q : Nat) (e : EnergyReading),
    let k := s.chip
    let p := s.power
    let power (p : Power) : Out := .next { s with power := p }
    let clocked : Prop := region < 12 ∧ quadClocked (k.quad (region / 3)) = true
    (s.pins.pgood = true → p.root ≠ p.target → s.links.training = false →
      exec .rootSlewStart s = power { p with slewing := true }) ∧
    (s.links.training = true → exec .rootSlewStart s = .next s) ∧
    (p.slewing = true → exec .rootSlewEnd s = power { p with root := p.target, slewing := false }) ∧
    (s.tumblerUp = true → ∃ t : State, exec (.powerWindow r) s = .next t ∧
      let limit := p.limit k.variantIx
      let w := r.inputW.toNat
      let u := t.power
      u.inputW = r.inputW ∧ u.root = p.root ∧ u.cap = p.capSet ∧
      u.capLim = (if limit < w then max 2600 (min p.capLim p.target - 100 * max 1 ((w - limit) / 50))
        else if 100 * w < 97 * limit then min 8400 (p.capLim + 100) else p.capLim) ∧
      u.ocLim = (if inputLimitOf k.variantIx < r.inputA.toNat then max 2600 (min p.ocLim p.target - 200)
        else if 10 * r.inputA.toNat < 9 * inputLimitOf k.variantIx then min 8400 (p.ocLim + 100) else p.ocLim) ∧
      u.target ≤ u.requested ∧ u.target ≤ u.capLim ∧ u.target ≤ u.throtLim ∧ u.target ≤ u.ocLim ∧
      (∀ x, u.estLim = some x → u.target ≤ x) ∧
      (u.limiter = 0 ∧ u.target = u.requested ∨ u.limiter = 1 ∧ u.target = u.capLim ∨
        u.limiter = 2 ∧ u.target = u.throtLim ∨ u.limiter = 3 ∧ u.target = u.ocLim ∨
        u.limiter = 4 ∧ u.estLim = some u.target) ∧
      (p.fixed = true → u.requested = p.requested) ∧ t.chip.quads = k.quads ∧ t.pins = s.pins) ∧
    (∀ x, p.estLim = some x →
      exec .estimatorCalibrated s = power { p with estLim := none, capLim := min p.capLim x }) ∧
    (clocked → exec (.droopDetect region) s =
      power ((p.updRegion region (fun g => { g with droop := true })).act 1)) ∧
    (region < 12 → exec (.droopRecover region) s = power (p.updRegion region (fun g => { g with droop := false }))) ∧
    ((k.quad q).up = true → ∃ t : State, exec (.railOvercurrent q) s = .next t ∧ q ∈ t.power.railCap ∧
      (∀ i, i ∈ t.power.railCap ↔ i = q ∨ i ∈ p.railCap) ∧ 2 ∈ t.power.acted ∧ t.chip = k) ∧
    exec (.railOvercurrentRelease q) s = power { p with railCap := p.railCap.filter (· ≠ q) } ∧
    (s.pins.pgood = true → exec .vinPeakTimeout s = .next (s.trip .peak)) ∧
    (s.tumblerUp = true → ∃ t : State, exec (.energyUpdate e) s = .next t ∧ t.chip.mem = k.mem ∧ t.links = s.links ∧
      (∀ i, i < 4 → (t.chip.quad i).charged = (k.quad i).charging ∧ (t.chip.quad i).launches = (k.quad i).launches) ∧
      t.power.hostEnergy = p.hostEnergy + BitVec.ofNat 64 e.hostDie ∧
      t.power.modEnergy = p.modEnergy + BitVec.ofNat 64 e.module ∧
      (∀ i x, e.core = [(i, x)] → k.quadPresent i = true →
        tblGet 0 t.power.qEnergy i = tblGet 0 p.qEnergy i + BitVec.ofNat 64 x ∧
        (∀ c n y, e.share = [(c, (n, y))] → c / 24 = i → tblGet 0 t.power.wqEnergy n = tblGet 0 p.wqEnergy n +
          (if (c, n) ∈ (k.quad i).charged then BitVec.ofNat 64 (min y x) else 0))) ∧
      (∀ i x, e.stack = [(i, x)] → k.stackPresent i = true →
        tblGet 0 t.power.hbmEnergy i = tblGet 0 p.hbmEnergy i + BitVec.ofNat 64 x))) ∧
  (∀ (s : State) (region n : Nat) (demand : BitVec 8) (temp : BitVec 12) (w : U64),
    let k := s.chip
    let p := s.power
    let x := p.sensor n
    let g := p.region region
    (region < 12 → quadClocked (k.quad (region / 3)) = true → ∃ t : State, exec (.rampWindow region demand) s = .next t ∧
      let a := (t.power.region region).activity.toNat
      let goal := min demand.toNat (min g.ceiling.toNat (if p.railCap.contains (region / 3) then 128 else 255))
      (g.activity.toNat ≤ goal → g.activity.toNat ≤ a ∧ a ≤ goal ∧ a ≤ g.activity.toNat + rampStep g.table ∧
        (a = goal ∨ a = g.activity.toNat + rampStep g.table)) ∧
      (goal ≤ g.activity.toNat → goal ≤ a ∧ a ≤ g.activity.toNat ∧ g.activity.toNat ≤ a + rampStep g.table ∧
        (a = goal ∨ a + rampStep g.table = g.activity.toNat)) ∧
      (t.power.region region).ceiling = g.ceiling ∧ (t.power.region region).table = g.table ∧
      (∀ i, i ≠ region → t.power.region i = p.region i) ∧ t.chip = k) ∧
    (s.tumblerUp = true → k.junctions.contains n = true ∨ n = 21 ∨ n = 22 →
      ∃ t : State, exec (.thermalSensorReading n temp) s = .next t ∧
        let y := t.power.sensor n
        y.temp = temp ∧ y.valid = true ∧
        (y.throt = true ↔ (n < 12 ∨ n = 20) ∧ 840 ≤ temp.toInt ∨ 12 ≤ n ∧ n < 20 ∧ 760 ≤ temp.toInt) ∧
        y.maxT = (if x.valid = false ∨ x.maxT.toInt < temp.toInt then temp else x.maxT) ∧
        (t.pins.thermN = false ↔ ∃ m, m < 21 ∧ (t.power.sensor m).throt = true) ∧
        (∀ m, m ≠ n → t.power.sensor m = p.sensor m) ∧ t.chip.quads = k.quads ∧ t.power.root = p.root) ∧
    (∀ a, tripAt n = some a → x.valid = true → (a : Int) ≤ x.temp.toInt → s.pins.pgood = true →
      ∃ t : State, exec (.thermalTrip n) s = .next t ∧ t.pins.faultN = false ∧ t.pins.pgood = false ∧ t.pins.rails = []) ∧
    (tripAt n = some 960 ↔ n < 12 ∨ n = 20) ∧ (tripAt n = some 840 ↔ 12 ≤ n ∧ n < 20) ∧
    (w.getLsbD 28 = true → ∃ t : State, exec (.thmClrMax n { part := .full, val := w }) s = .next t ∧
      t.power.sensor n = { x with maxT := x.temp } ∧ (∀ m, m ≠ n → t.power.sensor m = p.sensor m)) ∧
    (w.getLsbD 28 = false → exec (.thmClrMax n { part := .full, val := w }) s = .next s)) ∧
  (∀ (s : State),
    let seat (q : Nat) : Prop := q ∈ s.chip.runSeats
    let d := s.drainModule
    (s.enterD1.power.dstate = 1 ∧ (∀ q, seat q → (s.enterD1.chip.quad q).asleep = true) ∧
      (∀ r, (s.enterD1.power.region r).activity = 0) ∧ s.enterD1.pins = s.pins ∧ s.enterD1.boot = s.boot) ∧
    (s.enterD2.power.dstate = 2 ∧ (∀ q, seat q → (s.enterD2.chip.quad q).asleep = true ∧
        (s.enterD2.chip.quad q).launches = []) ∧ (∀ n, n < 12 → (s.enterD2.chip.fabric.port n).st = .off) ∧
      (∀ q ∈ s.chip.seats, ∀ h ∈ seatHinges q, s.enterD2.links.hingeState h = .off ∨ s.enterD2.links.hingeState h = .failed) ∧
      (∀ r, r ∈ s.enterD2.pins.rails ↔ r ∈ s.pins.rails ∧ (r < 3 ∨ 5 < r)) ∧ s.enterD2.boot = s.boot) ∧
    (s.leaveD1.power.dstate = 0 ∧ (∀ q, seat q → (s.leaveD1.chip.quad q).asleep = false) ∧
      (∀ q, ¬seat q → s.leaveD1.chip.quad q = s.chip.quad q) ∧ (∀ a, s.leaveD1.chip.byte a = s.chip.byte a)) ∧
    (s.leaveD2.power.dstate = 0 ∧ s.leaveD2.power.moving = true ∧ s.leaveD2.pins.rails = [1, 2, 3, 4, 5, 6, 7] ∧
      (∀ q, seat q → q ∈ s.leaveD2.links.rediscover ∧ (s.leaveD2.chip.quad q).underReset = true)) ∧
    (s.powerDown.pins.pgood = false ∧ s.powerDown.pins.rails = [] ∧ s.powerDown.boot.phase = .off ∧
      (∀ a, s.powerDown.chip.byte a = 0) ∧ s.powerDown.boot.counter = d.boot.counter ∧
      s.powerDown.boot.owner = d.boot.owner ∧ s.powerDown.boot.tumbler.floor = d.boot.tumbler.floor ∧
      s.powerDown.chip.fabric.podRec = d.chip.fabric.podRec ∧ s.powerDown.chip.mgmt.log = d.chip.mgmt.log))

/-- R54, R55, R507-R509, R524, R547, R548, R550-R552: boot and the pins. A pin that goes low takes the rails down and releases
`FAULT_N`; one that comes back starts a power-on sequence where all conditions hold; a dip below 30 V or a loss takes the
rails down and keeps `FAULT_N`; an overvoltage, a lost REFCLK or a rail out of regulation trips. Discovery closes at
boot, or for the quadrants that repeat it; the boot watchdog resets the device; hart firmware confirms its slot within
300 s, which raises its floor. After a loss of VSB the sideband outputs are free. -/
def Obligations.BootAndPinRows : Prop :=
  ∀ (s : State) (mv rail : Nat),
    let p := s.pins
    let down (t : State) : State := if p.pgood then t.depower else t
    let onPins (t : State) (f : Pins → Pins) : Out := .next { t with pins := f t.pins }
    let try' (t : State) : Out := .next (if t.mayPower && !p.pgood then t.powerOn else t)
    (s.links.discOpen = true ∨ s.links.rediscover ≠ [] → exec .discoveryClose s = .next s.closeDiscovery) ∧
    (s.boot.watchdog = true → exec .bootWatchdog s = .next (s.deviceReset false)) ∧
    (s.boot.watchdog = false → exec .bootWatchdog s = .next s) ∧
    (∀ t, s.boot.releasedAt = some t → s.chip.mgmt.now ≤ t + 300 * refclkSecond → ∀ b, s.boot.hart.running = some b →
      ∀ i, (s.boot.hart.slot b).image = some i → ∃ u : State, exec .hartFwConfirm s = .next u ∧
        u.boot.hart.floor = max s.boot.hart.floor (min i.svn 256) ∧ u.boot.releasedAt = none ∧
        (u.boot.hart.slot b).confirmed = true ∧ (u.boot.hart.slot b).trials = 0 ∧
        (u.boot.hart.slot b).image = some i ∧ u.boot.hart.slot (!b) = s.boot.hart.slot (!b) ∧
        u.boot.tumbler = s.boot.tumbler) ∧
    (p.pwrEn = false → exec .pwrEnRise s = try' { s with
      pins := { p with pwrEn := true, needEdge := false, vsbOk := true, refclk := true } }) ∧
    exec .pwrEnFall s = onPins (down { s with pins := { p with pwrEn := false } }) (fun p => { p with faultN := true }) ∧
    exec .modRstNFall s = onPins (down { s with pins := { p with modRstN := false } }) (fun p => { p with faultN := true }) ∧
    (p.modRstN = false → exec .modRstNRise s = try' { s with pins := { p with modRstN := true } }) ∧
    exec .vinRise s = try' { s with pins := { p with vinOk := true, needEdge := p.needEdge || !p.vsbOk } } ∧
    (mv < 30000 → exec (.vinDip mv) s = onPins (down s) (fun p => { p with vinOk := false })) ∧
    (30000 ≤ mv → exec (.vinDip mv) s = .next s) ∧
    exec .vinLoss s = onPins (down s) (fun p => { p with vinOk := false }) ∧
    exec .vinOvervoltage s = .next (s.trip .overvoltage) ∧
    (p.pgood = true → exec .refclkLoss s = onPins (s.trip .refclk) (fun p => { p with refclk := false })) ∧
    (p.rails.contains rail = true → exec (.railOutOfRegulation rail) s = .next (s.trip (.rail rail))) ∧
    (p.rails.contains rail = false → exec (.railOutOfRegulation rail) s = .next s) ∧
    (p.vinOk = true → p.pgood = true → ∃ t : State, exec .vsbLoss s = .next t ∧ t.pins.vsbOk = false ∧
      t.pins.pgood = false ∧ t.pins.rails = [] ∧ ∀ a, t.chip.byte a = 0)

/-- R485, R503, R518, R524, R528, R550: what is lost and what is kept when the rails fall or the device is reset. Memory reads
zero, no mailbox holds a command, no quadrant is up, and no hart runs; the SVN floors, the enrolment counter, the owner,
the module record, the pod record, the log and the images in the flash tier that are sealed are kept. A trip drives
`FAULT_N` low, and logs a record of severity 2 unless the sequencer holds its cause. -/
def Obligations.RailsFall : Prop :=
  ∀ (s : State) (c : TripCause),
    let kept (t : State) : Prop :=
      t.boot.tumbler.floor = s.boot.tumbler.floor ∧ t.boot.hart.floor = s.boot.hart.floor ∧
      t.boot.counter = s.boot.counter ∧ t.boot.record = s.boot.record ∧ t.boot.bootCount = s.boot.bootCount ∧
      t.boot.tumbler.a = s.boot.tumbler.a ∧ t.boot.tumbler.b = s.boot.tumbler.b ∧ t.boot.owner = s.boot.owner ∧
      t.chip.fabric.podRec = s.chip.fabric.podRec ∧ t.chip.storedPkg = s.chip.storedPkg ∧
      t.chip.flash.images = s.chip.flash.images.filter (fun i => i.st ≠ .erasing)
    let lost (t : State) : Prop :=
      (∀ a, t.chip.byte a = 0) ∧ (∀ mb, t.chip.box mb = Mailbox.reset) ∧ (∀ q, t.chip.quad q = Quad.reset) ∧
      (∀ h, (t.chip.hart h).running = false) ∧ t.boot.phase = .off ∧ t.boot.mlog = [] ∧ t.boot.challenge = none ∧
      t.boot.debugLevel = 0 ∧ t.pins.pgood = false ∧ t.pins.rails = [] ∧ t.pins.thermN = true ∧ t.chip.mgmt.now = 0
    kept s.depower ∧ lost s.depower ∧ s.depower.chip.mgmt.log = s.chip.mgmt.log ∧
    (s.pins.pgood = false → s.trip c = s) ∧
    (s.pins.pgood = true → kept (s.trip c) ∧ lost (s.trip c) ∧ (s.trip c).pins.faultN = false ∧
      ((∀ r, c ≠ .rail r) → c ≠ .refclk → (s.trip c).pins.cause = none) ∧
      ((∃ r, c = .rail r) ∨ c = .refclk → (s.trip c).pins.cause = some c ∧ (s.trip c).chip.mgmt.log = s.chip.mgmt.log))

/-- R71, R72, R76, R77, R333: a register write. An agent that does not run makes none; an address that is no register, or a size
or alignment that R76 does not allow, is refused, with an access fault or store fault of the agent; one whose quadrant cannot
be reached is lost; any other takes effect. A register with a command of its own does what that command does; W1C bits
written as 1 clear; read-only and unassigned places keep their content; a command slot and the inline buffer take the
bytes written. -/
def Obligations.RegisterWrites : Prop :=
  ∀ (s : State) (ag : Agent) (addr size : Nat) (v : U64),
    let k := s.chip
    let la := paLocal addr
    let w : RegW := { part := .full, val := v }
    (s.agentRuns ag = false → exec (.registerWrite ag addr size v) s = .next s) ∧
    (s.agentRuns ag = true →
      (k.isOwn addr = false ∨ areaOf la ≠ .regs → exec (.registerWrite ag addr size v) s = .next (s.regRefused ag addr ftNothing)) ∧
      (k.isOwn addr = true → areaOf la = .regs →
        (k.regLoc la = none → exec (.registerWrite ag addr size v) s = .next (s.regRefused ag addr ftNothing)) ∧
        (∀ l, k.regLoc la = some l →
          let allowed : Prop := la % size = 0 ∧ (size = 4 ∨ size = 8 ∨ l.dataArea = true ∧ (size = 1 ∨ size = 2))
          let shut : Prop := ∃ q, l.quadOf = some q ∧ s.regShut (agentQuad ag) q = true
          (¬allowed → exec (.registerWrite ag addr size v) s = .next (s.regRefused ag addr ftMisaligned)) ∧
          (allowed → shut → exec (.registerWrite ag addr size v) s = .next (s.regLost ag addr (toBytes size v.toNat))) ∧
          (allowed → ¬shut → exec (.registerWrite ag addr size v) s = .next (s.regWrite ag l size v))))) ∧
    (∀ c, (let t := s.regRefused (.seq c) addr 4
      t = { s with chip := k.seqFault c 4 (k.cluster c).pc (some addr) })) ∧
    (∀ h, (let t := s.regRefused (.hart h) addr 4
      (t.chip.hart h).trap = some { cause := 7, tval := BitVec.ofNat 64 addr } ∧
      (∀ r, (t.chip.hart h).reg r = (k.hart h).reg r) ∧ ∀ a, t.chip.byte a = k.byte a)) ∧
    (∀ q c n, n < 256 →
      exec (.dspCtlWrite q w) s = .next (s.regWrite ag (.quad q 0) 8 v) ∧
      exec (.dspAbort q w) s = .next (s.regWrite ag (.quad q 8) 8 v) ∧
      exec (.dspCrst q w) s = .next (s.regWrite ag (.quad q 0x18) 8 v) ∧
      exec (.dspQcfgWrite q n w) s = .next (s.regWrite ag (.quad q (0x1008 + 32 * n)) 8 v) ∧
      exec (.dspQdb q n w) s = .next (s.regWrite ag (.quad q (0x1010 + 32 * n)) 8 v) ∧
      exec (.xltInvalSpace q w) s = .next (s.regWrite ag (.quad q 0x20000) 8 v) ∧
      exec (.cluLcctlWrite c w) s = .next (s.regWrite ag (.cluster c 0x298) 8 v) ∧
      (n < 64 → exec (.hspNcfgWrite q n w) s = .next (s.regWrite ag (.quad q (0x19000 + 16 * n)) 8 v) ∧
        exec (.hspNthrWrite q n w) s = .next (s.regWrite ag (.quad q (0x19008 + 16 * n)) 8 v)) ∧
      (n < 3 → exec (.thmClrMax (20 + n) w) s = .next (s.regWrite ag (.thm (8 * n)) 8 v))) ∧
    (∀ mb, mb < 16 → agentReaches ag mb = true →
      exec (.tmbDb ag mb w) s = .next (s.regWrite ag (.tmb mb 0x80) 8 v) ∧
      exec (.tmbWcfgWrite ag mb w) s = .next (s.regWrite ag (.tmb mb 0x98) 8 v) ∧
      exec (.tmbEvptrWrite ag mb w) s = .next (s.regWrite ag (.tmb mb 0xA0) 8 v) ∧
      s.regWrite ag (.tmb mb 0x88) 8 v = { s with chip := k.updBox mb (fun b => { b with
        dbBusy := b.dbBusy && !v.getLsbD 2, winErr := b.winErr && !v.getLsbD 3 }) } ∧
      (∀ i, i < 0x700 / 8 → s.regWrite ag (.tmb mb (0x100 + 8 * i)) 8 v = { s with chip := k.updBox mb (fun b =>
        { b with inl := putBytes b.inl (8 * i) (toBytes 8 v.toNat) }) }) ∧
      (∀ i, i < 8 → ∀ j, j < 8 → slotPut (k.box mb).cmd (8 * i) 8 v = ((s.regWrite ag (.tmb mb (8 * i)) 8 v).chip.box mb).cmd ∧
        (slotPut (k.box mb).cmd (8 * i) 8 v).extractLsb' (64 * j) 64 =
          if j = i then v else (k.box mb).cmd.extractLsb' (64 * j) 64)) ∧
    (∀ mb, agentReaches ag mb = false → ∀ o, s.regWrite ag (.tmb mb o) size v = s) ∧
    (∀ c, s.regWrite ag (.cluster c 0x280) 8 v = { s with chip := k.updCluster c (fun x => { x with
        hwTmo := x.hwTmo && !v.getLsbD 0, hwLost := x.hwLost && !v.getLsbD 1, raddFail := x.raddFail && !v.getLsbD 2 }) } ∧
      s.regWrite ag (.cluster c 0x288) 8 v = { s with chip := k.updCluster c (fun x => { x with
        stFailed := x.stFailed && !v.getLsbD 0, stOverrun := x.stOverrun && !v.getLsbD 1 }) }) ∧
    (∀ o, s.regWrite ag (.cap o) size v = s ∧ s.regWrite ag (.clk o) size v = s ∧ s.regWrite ag (.pwr o) size v = s ∧
      s.regWrite ag (.fab o) size v = s ∧ s.regWrite ag (.flt o) size v = s) ∧
    (∀ q, let i : BitVec 12 := v.extractLsb' 0 12
      v.extractLsb' 14 2 = 0 →
      (v.extractLsb' 12 2 = 0 → exec (.hspOpAdd q i (v.extractLsb' 16 48)) s = .next (s.regWrite ag (.quad q 0x18000) 8 v)) ∧
      (v.extractLsb' 12 2 = 1 → exec (.hspOpSet q i (v.extractLsb' 16 48)) s = .next (s.regWrite ag (.quad q 0x18000) 8 v)) ∧
      (v.extractLsb' 12 2 = 2 → v.extractLsb' 16 48 = 0 →
        exec (.hspOpReset q i) s = .next (s.regWrite ag (.quad q 0x18000) 8 v)) ∧
      (v.extractLsb' 12 2 = 3 → s.regWrite ag (.quad q 0x18000) 8 v = s))
end

