-- ==== Sys2Proof/Laws/Table.lean ====
section
/-! SUPPORT. Laws of the sparse tables: what a read finds after a write, and that writes keep the canonical
form. -/

namespace Sys2Proof.Machine

section
variable {α : Type}

@[simp] theorem tblGet_nil (d : α) (k : Nat) : tblGet d [] k = d := rfl

theorem tblGet_del_self (d : α) (m : SMap α) (k : Nat) : tblGet d (tblDel m k) k = d := by
  induction m with
  | nil => rfl
  | cons e r ih =>
    obtain ⟨j, w⟩ := e
    by_cases h : j = k <;> simp [tblDel, tblGet, h, ih]

theorem tblGet_del_ne (d : α) (m : SMap α) {k i : Nat} (h : i ≠ k) : tblGet d (tblDel m k) i = tblGet d m i := by
  induction m with
  | nil => rfl
  | cons e r ih =>
    obtain ⟨j, w⟩ := e
    by_cases hj : j = k
    · have : j ≠ i := fun e => h (e ▸ hj)
      simp [tblDel, tblGet, hj, ih, hj ▸ this]
    · by_cases hi : j = i
      · subst hi; simp [tblDel, tblGet, h]
      · simp [tblDel, tblGet, hj, hi, ih]

theorem tblGet_ins (d : α) (m : SMap α) (k : Nat) (v : α) (h : ∀ e ∈ m, e.1 ≠ k) (i : Nat) :
    tblGet d (tblIns m k v) i = if i = k then v else tblGet d m i := by
  induction m with
  | nil => by_cases hi : k = i <;> simp [tblIns, tblGet, hi, eq_comm]
  | cons e r ih =>
    obtain ⟨j, w⟩ := e
    have hj : j ≠ k := h (j, w) (by simp)
    have ih := ih (fun e he => h e (by simp [he]))
    by_cases hlt : k < j
    · by_cases hi : k = i
      · subst hi; simp [tblIns, hlt, tblGet]
      · have hi' : ¬ i = k := fun e => hi e.symm
        simp [tblIns, hlt, tblGet, hi, hi']
    · by_cases hi : j = i
      · subst hi; simp [tblIns, hlt, tblGet, hj]
      · simp [tblIns, hlt, tblGet, hi, ih]

theorem tblDel_keys (m : SMap α) (k : Nat) : ∀ e ∈ tblDel m k, e.1 ≠ k := by
  induction m with
  | nil => simp [tblDel]
  | cons e r ih =>
    obtain ⟨j, w⟩ := e
    by_cases hj : j = k
    · simpa [tblDel, hj] using ih
    · intro x hx
      simp [tblDel, hj] at hx
      rcases hx with rfl | hx
      · exact hj
      · exact ih x hx

theorem tblDel_of_absent (m : SMap α) (k : Nat) (h : ∀ e ∈ m, e.1 ≠ k) : tblDel m k = m := by
  induction m with
  | nil => rfl
  | cons e r ih =>
    obtain ⟨j, w⟩ := e
    have hj : j ≠ k := h (j, w) (by simp)
    simp [tblDel, hj, ih (fun e he => h e (by simp [he]))]

theorem tblDel_ins (m : SMap α) (k : Nat) (v : α) (h : ∀ e ∈ m, e.1 ≠ k) : tblDel (tblIns m k v) k = m := by
  induction m with
  | nil => simp [tblIns, tblDel]
  | cons e r ih =>
    obtain ⟨j, w⟩ := e
    have hj : j ≠ k := h (j, w) (by simp)
    by_cases hlt : k < j
    · simp [tblIns, hlt, tblDel, hj, tblDel_of_absent r k (fun e he => h e (by simp [he]))]
    · simp [tblIns, hlt, tblDel, hj, ih (fun e he => h e (by simp [he]))]

variable [DecidableEq α]

/-- What a read finds after a write. -/
theorem tblGet_put (d : α) (m : SMap α) (k : Nat) (v : α) (i : Nat) :
    tblGet d (tblPut d m k v) i = if i = k then v else tblGet d m i := by
  unfold tblPut
  by_cases hv : v = d
  · by_cases hi : i = k
    · simp [hv, hi, tblGet_del_self]
    · simp [hv, hi, tblGet_del_ne d m hi]
  · rw [if_neg hv, tblGet_ins d _ k v (tblDel_keys m k)]
    by_cases hi : i = k
    · simp [hi]
    · simp [hi, tblGet_del_ne d m hi]

@[simp] theorem tblGet_put_self (d : α) (m : SMap α) (k : Nat) (v : α) : tblGet d (tblPut d m k v) k = v := by
  simp [tblGet_put]

theorem tblGet_put_ne (d : α) (m : SMap α) {k i : Nat} (v : α) (h : i ≠ k) :
    tblGet d (tblPut d m k v) i = tblGet d m i := by simp [tblGet_put, h]

@[simp] theorem tblGet_mod_self (d : α) (m : SMap α) (k : Nat) (f : α → α) :
    tblGet d (tblMod d m k f) k = f (tblGet d m k) := by simp [tblMod]

theorem tblGet_mod_ne (d : α) (m : SMap α) {k i : Nat} (f : α → α) (h : i ≠ k) :
    tblGet d (tblMod d m k f) i = tblGet d m i := tblGet_put_ne d m _ h

/-- A second write under the same key leaves only its own value. -/
@[simp] theorem tblPut_put (d : α) (m : SMap α) (k : Nat) (v w : α) :
    tblPut d (tblPut d m k v) k w = tblPut d m k w := by
  have hd : tblDel (tblPut d m k v) k = tblDel m k := by
    unfold tblPut
    by_cases hv : v = d
    · simp [hv, tblDel_of_absent _ k (tblDel_keys m k)]
    · simp [hv, tblDel_ins _ k v (tblDel_keys m k)]
  unfold tblPut at hd ⊢
  rw [hd]

@[simp] theorem tblMod_mod (d : α) (m : SMap α) (k : Nat) (f g : α → α) :
    tblMod d (tblMod d m k f) k g = tblMod d m k (fun x => g (f x)) := by simp [tblMod]

/-! ## Canonical form -/

theorem tblWfFrom_mono (d : α) {lo lo' : Nat} (m : SMap α) (h : lo' ≤ lo) (hw : tblWfFrom d lo m) :
    tblWfFrom d lo' m := by
  cases m with
  | nil => rfl
  | cons e r =>
    obtain ⟨j, w⟩ := e
    simp only [tblWfFrom, Bool.and_eq_true, decide_eq_true_eq] at hw ⊢
    exact ⟨h.trans hw.1, hw.2⟩

theorem tblWfFrom_del (d : α) (lo : Nat) (m : SMap α) (k : Nat) (hw : tblWfFrom d lo m) :
    tblWfFrom d lo (tblDel m k) := by
  induction m generalizing lo with
  | nil => rfl
  | cons e r ih =>
    obtain ⟨j, w⟩ := e
    simp only [tblWfFrom, Bool.and_eq_true, decide_eq_true_eq] at hw
    by_cases hj : j = k
    · simpa [tblDel, hj] using tblWfFrom_mono d _ (by omega : lo ≤ j + 1) (ih _ hw.2.2)
    · simp [tblDel, hj, tblWfFrom, hw.1, hw.2.1, ih _ hw.2.2]

theorem tblWfFrom_ins (d : α) (lo : Nat) (m : SMap α) (k : Nat) (v : α) (hv : v ≠ d) (hk : ∀ e ∈ m, e.1 ≠ k)
    (hlo : lo ≤ k) (hw : tblWfFrom d lo m) : tblWfFrom d lo (tblIns m k v) := by
  induction m generalizing lo with
  | nil => simp [tblIns, tblWfFrom, hv, hlo]
  | cons e r ih =>
    obtain ⟨j, w⟩ := e
    simp only [tblWfFrom, Bool.and_eq_true, decide_eq_true_eq] at hw
    have hj : j ≠ k := hk (j, w) (by simp)
    by_cases hlt : k < j
    · simp [tblIns, hlt, tblWfFrom, hv, hlo, hw.2.1, hw.2.2]
    · have := ih (j + 1) (fun e he => hk e (by simp [he])) (by omega) hw.2.2
      simp [tblIns, hlt, tblWfFrom, hw.1, hw.2.1, this]

/-- A write keeps the canonical form. -/
theorem tblWf_put (d : α) (m : SMap α) (k : Nat) (v : α) (hw : tblWf d m) : tblWf d (tblPut d m k v) := by
  unfold tblWf tblPut at *
  have hd := tblWfFrom_del d 0 m k hw
  by_cases hv : v = d
  · simpa [hv] using hd
  · simpa [hv] using tblWfFrom_ins d 0 _ k v hv (tblDel_keys m k) (Nat.zero_le k) hd

theorem tblWf_mod (d : α) (m : SMap α) (k : Nat) (f : α → α) (hw : tblWf d m) : tblWf d (tblMod d m k f) :=
  tblWf_put d m k _ hw

/-- Entries left out keep the canonical form. -/
theorem tblWfFrom_filter (d : α) (lo : Nat) (m : SMap α) (p : Nat × α → Bool) (hw : tblWfFrom d lo m) :
    tblWfFrom d lo (m.filter p) := by
  induction m generalizing lo with
  | nil => rfl
  | cons e r ih =>
    obtain ⟨j, w⟩ := e
    simp only [tblWfFrom, Bool.and_eq_true, decide_eq_true_eq] at hw
    by_cases hp : p (j, w)
    · simp [List.filter, hp, tblWfFrom, hw.1, hw.2.1, ih _ hw.2.2]
    · simpa [List.filter, hp] using tblWfFrom_mono d _ (by omega : lo ≤ j + 1) (ih _ hw.2.2)

theorem tblWf_filter (d : α) (m : SMap α) (p : Nat × α → Bool) (hw : tblWf d m) : tblWf d (m.filter p) :=
  tblWfFrom_filter d 0 m p hw

end

/-- A table with every value changed by a function that keeps the default. -/
theorem tblGet_map {α : Type} (d : α) (f : α → α) (h : f d = d) (m : SMap α) (k : Nat) :
    tblGet d (m.map (fun e => (e.1, f e.2))) k = f (tblGet d m k) := by
  induction m with
  | nil => simp [tblGet, h]
  | cons e m ih => by_cases he : e.1 = k <;> simp_all [tblGet]

/-! ## Register writes -/

/-- A write of all eight bytes leaves its data. -/
@[simp] theorem regMerge_full (old v : U64) : regMerge old { part := .full, val := v } = v := by
  have h : (0xFFFFFFFFFFFFFFFF : U64) = BitVec.allOnes 64 := by decide
  simp only [regMerge, regMask, regBits, h, BitVec.and_allOnes, BitVec.not_allOnes, BitVec.and_zero, BitVec.zero_or]

@[simp] theorem regSets_full (v : U64) (i : Nat) : regSets { part := .full, val := v } i = v.getLsbD i := by
  have h : (0xFFFFFFFFFFFFFFFF : U64) = BitVec.allOnes 64 := by decide
  simp only [regSets, regMask, regBits, h, BitVec.and_allOnes]

end Sys2Proof.Machine
end

