-- ==== Sys2Proof/Laws/State.lean ====
section
/-! SUPPORT. Reading the state after an update, said once for each accessor. -/

namespace Sys2Proof.Machine

/-! ## Updates of a part of the state -/

section Updates

variable (s : State) (g : Chip → Chip) (k : Chip) (c : Nat) (fc : Cluster → Cluster) (q : Nat) (fq : Quad → Quad)
  (h : Nat) (fh : Hart → Hart) (fm : Mgmt → Mgmt) (ff : Fabric → Fabric)

@[simp] theorem State.onChip_chip : (s.onChip g).chip = g s.chip := rfl
@[simp] theorem State.onChip_pending : (s.onChip g).pending = s.pending := rfl
@[simp] theorem Chip.onMgmt_clusters : (k.onMgmt fm).clusters = k.clusters := rfl
@[simp] theorem Chip.updQuad_clusters : (k.updQuad q fq).clusters = k.clusters := rfl
@[simp] theorem Chip.onFabric_clusters : (k.onFabric ff).clusters = k.clusters := rfl
@[simp] theorem Chip.updHart_clusters : (k.updHart h fh).clusters = k.clusters := rfl
@[simp] theorem Chip.updCluster_quads : (k.updCluster c fc).quads = k.quads := rfl
@[simp] theorem Chip.onMgmt_quads : (k.onMgmt fm).quads = k.quads := rfl
@[simp] theorem Chip.onFabric_quads : (k.onFabric ff).quads = k.quads := rfl
@[simp] theorem Chip.updHart_quads : (k.updHart h fh).quads = k.quads := rfl
@[simp] theorem Chip.updCluster_mem : (k.updCluster c fc).mem = k.mem := rfl
@[simp] theorem Chip.onMgmt_mem : (k.onMgmt fm).mem = k.mem := rfl
@[simp] theorem Chip.updQuad_mem : (k.updQuad q fq).mem = k.mem := rfl
@[simp] theorem Chip.onFabric_mem : (k.onFabric ff).mem = k.mem := rfl
@[simp] theorem Chip.updHart_mem : (k.updHart h fh).mem = k.mem := rfl
@[simp] theorem Chip.updCluster_poison : (k.updCluster c fc).poison = k.poison := rfl
@[simp] theorem Chip.onMgmt_poison : (k.onMgmt fm).poison = k.poison := rfl
@[simp] theorem Chip.updQuad_poison : (k.updQuad q fq).poison = k.poison := rfl
@[simp] theorem Chip.onFabric_poison : (k.onFabric ff).poison = k.poison := rfl
@[simp] theorem Chip.updHart_poison : (k.updHart h fh).poison = k.poison := rfl
@[simp] theorem Chip.updCluster_l3 : (k.updCluster c fc).l3 = k.l3 := rfl
@[simp] theorem Chip.onMgmt_l3 : (k.onMgmt fm).l3 = k.l3 := rfl
@[simp] theorem Chip.updQuad_l3 : (k.updQuad q fq).l3 = k.l3 := rfl
@[simp] theorem Chip.onFabric_l3 : (k.onFabric ff).l3 = k.l3 := rfl
@[simp] theorem Chip.updHart_l3 : (k.updHart h fh).l3 = k.l3 := rfl
@[simp] theorem State.onChip_links : (s.onChip g).links = s.links := rfl
@[simp] theorem Chip.updCluster_homes : (k.updCluster c fc).homes = k.homes := rfl
@[simp] theorem Chip.onMgmt_homes : (k.onMgmt fm).homes = k.homes := rfl
@[simp] theorem Chip.updQuad_homes : (k.updQuad q fq).homes = k.homes := rfl
@[simp] theorem Chip.onFabric_homes : (k.onFabric ff).homes = k.homes := rfl
@[simp] theorem Chip.updHart_homes : (k.updHart h fh).homes = k.homes := rfl
@[simp] theorem Chip.updCluster_net : (k.updCluster c fc).net = k.net := rfl
@[simp] theorem Chip.onMgmt_net : (k.onMgmt fm).net = k.net := rfl
@[simp] theorem Chip.updQuad_net : (k.updQuad q fq).net = k.net := rfl
@[simp] theorem Chip.onFabric_net : (k.onFabric ff).net = k.net := rfl
@[simp] theorem Chip.updHart_net : (k.updHart h fh).net = k.net := rfl
@[simp] theorem Chip.updCluster_answers : (k.updCluster c fc).answers = k.answers := rfl
@[simp] theorem Chip.onMgmt_answers : (k.onMgmt fm).answers = k.answers := rfl
@[simp] theorem Chip.updQuad_answers : (k.updQuad q fq).answers = k.answers := rfl
@[simp] theorem Chip.onFabric_answers : (k.onFabric ff).answers = k.answers := rfl
@[simp] theorem Chip.updHart_answers : (k.updHart h fh).answers = k.answers := rfl
@[simp] theorem Chip.updCluster_hostOpen : (k.updCluster c fc).hostOpen = k.hostOpen := rfl
@[simp] theorem Chip.onMgmt_hostOpen : (k.onMgmt fm).hostOpen = k.hostOpen := rfl
@[simp] theorem Chip.updQuad_hostOpen : (k.updQuad q fq).hostOpen = k.hostOpen := rfl
@[simp] theorem Chip.onFabric_hostOpen : (k.onFabric ff).hostOpen = k.hostOpen := rfl
@[simp] theorem Chip.updHart_hostOpen : (k.updHart h fh).hostOpen = k.hostOpen := rfl
@[simp] theorem Chip.updCluster_harts : (k.updCluster c fc).harts = k.harts := rfl
@[simp] theorem Chip.onMgmt_harts : (k.onMgmt fm).harts = k.harts := rfl
@[simp] theorem Chip.updQuad_harts : (k.updQuad q fq).harts = k.harts := rfl
@[simp] theorem Chip.onFabric_harts : (k.onFabric ff).harts = k.harts := rfl
@[simp] theorem State.onChip_power : (s.onChip g).power = s.power := rfl
@[simp] theorem Chip.updCluster_spaces : (k.updCluster c fc).spaces = k.spaces := rfl
@[simp] theorem Chip.onMgmt_spaces : (k.onMgmt fm).spaces = k.spaces := rfl
@[simp] theorem Chip.updQuad_spaces : (k.updQuad q fq).spaces = k.spaces := rfl
@[simp] theorem Chip.onFabric_spaces : (k.onFabric ff).spaces = k.spaces := rfl
@[simp] theorem Chip.updHart_spaces : (k.updHart h fh).spaces = k.spaces := rfl
@[simp] theorem Chip.updCluster_invals : (k.updCluster c fc).invals = k.invals := rfl
@[simp] theorem Chip.onMgmt_invals : (k.onMgmt fm).invals = k.invals := rfl
@[simp] theorem Chip.updQuad_invals : (k.updQuad q fq).invals = k.invals := rfl
@[simp] theorem Chip.onFabric_invals : (k.onFabric ff).invals = k.invals := rfl
@[simp] theorem Chip.updHart_invals : (k.updHart h fh).invals = k.invals := rfl
@[simp] theorem Chip.updCluster_nextInv : (k.updCluster c fc).nextInv = k.nextInv := rfl
@[simp] theorem Chip.onMgmt_nextInv : (k.onMgmt fm).nextInv = k.nextInv := rfl
@[simp] theorem Chip.updQuad_nextInv : (k.updQuad q fq).nextInv = k.nextInv := rfl
@[simp] theorem Chip.onFabric_nextInv : (k.onFabric ff).nextInv = k.nextInv := rfl
@[simp] theorem Chip.updHart_nextInv : (k.updHart h fh).nextInv = k.nextInv := rfl
@[simp] theorem Chip.updCluster_relocating : (k.updCluster c fc).relocating = k.relocating := rfl
@[simp] theorem Chip.onMgmt_relocating : (k.onMgmt fm).relocating = k.relocating := rfl
@[simp] theorem Chip.updQuad_relocating : (k.updQuad q fq).relocating = k.relocating := rfl
@[simp] theorem Chip.onFabric_relocating : (k.onFabric ff).relocating = k.relocating := rfl
@[simp] theorem Chip.updHart_relocating : (k.updHart h fh).relocating = k.relocating := rfl
@[simp] theorem Chip.updCluster_partitions : (k.updCluster c fc).partitions = k.partitions := rfl
@[simp] theorem Chip.onMgmt_partitions : (k.onMgmt fm).partitions = k.partitions := rfl
@[simp] theorem Chip.updQuad_partitions : (k.updQuad q fq).partitions = k.partitions := rfl
@[simp] theorem Chip.onFabric_partitions : (k.onFabric ff).partitions = k.partitions := rfl
@[simp] theorem Chip.updHart_partitions : (k.updHart h fh).partitions = k.partitions := rfl
@[simp] theorem State.onChip_boot : (s.onChip g).boot = s.boot := rfl
@[simp] theorem Chip.updCluster_flash : (k.updCluster c fc).flash = k.flash := rfl
@[simp] theorem Chip.onMgmt_flash : (k.onMgmt fm).flash = k.flash := rfl
@[simp] theorem Chip.updQuad_flash : (k.updQuad q fq).flash = k.flash := rfl
@[simp] theorem Chip.onFabric_flash : (k.onFabric ff).flash = k.flash := rfl
@[simp] theorem Chip.updHart_flash : (k.updHart h fh).flash = k.flash := rfl
@[simp] theorem Chip.updCluster_fabric : (k.updCluster c fc).fabric = k.fabric := rfl
@[simp] theorem Chip.onMgmt_fabric : (k.onMgmt fm).fabric = k.fabric := rfl
@[simp] theorem Chip.updQuad_fabric : (k.updQuad q fq).fabric = k.fabric := rfl
@[simp] theorem Chip.onFabric_fabric : (k.onFabric ff).fabric = ff k.fabric := rfl
@[simp] theorem Chip.updHart_fabric : (k.updHart h fh).fabric = k.fabric := rfl
@[simp] theorem Chip.updCluster_io : (k.updCluster c fc).io = k.io := rfl
@[simp] theorem Chip.onMgmt_io : (k.onMgmt fm).io = k.io := rfl
@[simp] theorem Chip.updQuad_io : (k.updQuad q fq).io = k.io := rfl
@[simp] theorem Chip.onFabric_io : (k.onFabric ff).io = k.io := rfl
@[simp] theorem Chip.updHart_io : (k.updHart h fh).io = k.io := rfl
@[simp] theorem Chip.updCluster_mgmt : (k.updCluster c fc).mgmt = k.mgmt := rfl
@[simp] theorem Chip.onMgmt_mgmt : (k.onMgmt fm).mgmt = fm k.mgmt := rfl
@[simp] theorem Chip.updQuad_mgmt : (k.updQuad q fq).mgmt = k.mgmt := rfl
@[simp] theorem Chip.onFabric_mgmt : (k.onFabric ff).mgmt = k.mgmt := rfl
@[simp] theorem Chip.updHart_mgmt : (k.updHart h fh).mgmt = k.mgmt := rfl
@[simp] theorem Chip.updCluster_capUnits : (k.updCluster c fc).capUnits = k.capUnits := rfl
@[simp] theorem Chip.onMgmt_capUnits : (k.onMgmt fm).capUnits = k.capUnits := rfl
@[simp] theorem Chip.updQuad_capUnits : (k.updQuad q fq).capUnits = k.capUnits := rfl
@[simp] theorem Chip.onFabric_capUnits : (k.onFabric ff).capUnits = k.capUnits := rfl
@[simp] theorem Chip.updHart_capUnits : (k.updHart h fh).capUnits = k.capUnits := rfl
@[simp] theorem State.onChip_pins : (s.onChip g).pins = s.pins := rfl
@[simp] theorem Chip.updCluster_capHarts : (k.updCluster c fc).capHarts = k.capHarts := rfl
@[simp] theorem Chip.onMgmt_capHarts : (k.onMgmt fm).capHarts = k.capHarts := rfl
@[simp] theorem Chip.updQuad_capHarts : (k.updQuad q fq).capHarts = k.capHarts := rfl
@[simp] theorem Chip.onFabric_capHarts : (k.onFabric ff).capHarts = k.capHarts := rfl
@[simp] theorem Chip.updHart_capHarts : (k.updHart h fh).capHarts = k.capHarts := rfl
@[simp] theorem Chip.updCluster_hbmPkg : (k.updCluster c fc).hbmPkg = k.hbmPkg := rfl
@[simp] theorem Chip.onMgmt_hbmPkg : (k.onMgmt fm).hbmPkg = k.hbmPkg := rfl
@[simp] theorem Chip.updQuad_hbmPkg : (k.updQuad q fq).hbmPkg = k.hbmPkg := rfl
@[simp] theorem Chip.onFabric_hbmPkg : (k.onFabric ff).hbmPkg = k.hbmPkg := rfl
@[simp] theorem Chip.updHart_hbmPkg : (k.updHart h fh).hbmPkg = k.hbmPkg := rfl
@[simp] theorem Chip.updCluster_pkgAllowed : (k.updCluster c fc).pkgAllowed = k.pkgAllowed := rfl
@[simp] theorem Chip.onMgmt_pkgAllowed : (k.onMgmt fm).pkgAllowed = k.pkgAllowed := rfl
@[simp] theorem Chip.updQuad_pkgAllowed : (k.updQuad q fq).pkgAllowed = k.pkgAllowed := rfl
@[simp] theorem Chip.onFabric_pkgAllowed : (k.onFabric ff).pkgAllowed = k.pkgAllowed := rfl
@[simp] theorem Chip.updHart_pkgAllowed : (k.updHart h fh).pkgAllowed = k.pkgAllowed := rfl
@[simp] theorem Chip.updCluster_storedPkg : (k.updCluster c fc).storedPkg = k.storedPkg := rfl
@[simp] theorem Chip.onMgmt_storedPkg : (k.onMgmt fm).storedPkg = k.storedPkg := rfl
@[simp] theorem Chip.updQuad_storedPkg : (k.updQuad q fq).storedPkg = k.storedPkg := rfl
@[simp] theorem Chip.onFabric_storedPkg : (k.onFabric ff).storedPkg = k.storedPkg := rfl
@[simp] theorem Chip.updHart_storedPkg : (k.updHart h fh).storedPkg = k.storedPkg := rfl
@[simp] theorem Chip.updCluster_watch : (k.updCluster c fc).watch = k.watch := rfl
@[simp] theorem Chip.onMgmt_watch : (k.onMgmt fm).watch = k.watch := rfl
@[simp] theorem Chip.updQuad_watch : (k.updQuad q fq).watch = k.watch := rfl
@[simp] theorem Chip.onFabric_watch : (k.onFabric ff).watch = k.watch := rfl
@[simp] theorem Chip.updHart_watch : (k.updHart h fh).watch = k.watch := rfl
@[simp] theorem Chip.updCluster_free : (k.updCluster c fc).free = k.free := rfl
@[simp] theorem Chip.onMgmt_free : (k.onMgmt fm).free = k.free := rfl
@[simp] theorem Chip.updQuad_free : (k.updQuad q fq).free = k.free := rfl
@[simp] theorem Chip.onFabric_free : (k.onFabric ff).free = k.free := rfl
@[simp] theorem Chip.updHart_free : (k.updHart h fh).free = k.free := rfl

end Updates

/-! ## Memory after an update of a unit -/

@[simp] theorem Chip.byte_updCluster (k : Chip) (c : Nat) (f : Cluster → Cluster) (a : Nat) :
    (k.updCluster c f).byte a = k.byte a := by unfold Chip.byte; rw [Chip.updCluster_mem]
@[simp] theorem Chip.byte_updQuad (k : Chip) (q : Nat) (f : Quad → Quad) (a : Nat) :
    (k.updQuad q f).byte a = k.byte a := by unfold Chip.byte; rw [Chip.updQuad_mem]
@[simp] theorem Chip.byte_updHart (k : Chip) (h : Nat) (f : Hart → Hart) (a : Nat) :
    (k.updHart h f).byte a = k.byte a := by unfold Chip.byte; rw [Chip.updHart_mem]
@[simp] theorem Chip.byte_onMgmt (k : Chip) (f : Mgmt → Mgmt) (a : Nat) : (k.onMgmt f).byte a = k.byte a := by
  unfold Chip.byte; rw [Chip.onMgmt_mem]
@[simp] theorem Chip.byte_onFabric (k : Chip) (f : Fabric → Fabric) (a : Nat) : (k.onFabric f).byte a = k.byte a := by
  unfold Chip.byte; rw [Chip.onFabric_mem]

/-! ## Units after an update -/

@[simp] theorem Chip.cluster_upd_self (k : Chip) (c : Nat) (f : Cluster → Cluster) :
    (k.updCluster c f).cluster c = f (k.cluster c) := by simp [Chip.cluster, Chip.updCluster]

theorem Chip.cluster_upd_ne (k : Chip) {c d : Nat} (f : Cluster → Cluster) (h : d ≠ c) :
    (k.updCluster c f).cluster d = k.cluster d := by simp [Chip.cluster, Chip.updCluster, tblGet_mod_ne _ _ _ h]

@[simp] theorem Chip.updCluster_upd (k : Chip) (c : Nat) (f g : Cluster → Cluster) :
    (k.updCluster c f).updCluster c g = k.updCluster c (fun x => g (f x)) := by simp [Chip.updCluster]

/-- An update depends on the cluster it changes only. -/
theorem Chip.updCluster_congr {k : Chip} {c : Nat} {f g : Cluster → Cluster} (h : f (k.cluster c) = g (k.cluster c)) :
    k.updCluster c f = k.updCluster c g := by
  unfold Chip.updCluster tblMod; unfold Chip.cluster at h; rw [h]

@[simp] theorem Chip.quad_upd_self (k : Chip) (q : Nat) (f : Quad → Quad) :
    (k.updQuad q f).quad q = f (k.quad q) := by simp [Chip.quad, Chip.updQuad]

theorem Chip.quad_upd_ne (k : Chip) {q r : Nat} (f : Quad → Quad) (h : r ≠ q) :
    (k.updQuad q f).quad r = k.quad r := by simp [Chip.quad, Chip.updQuad, tblGet_mod_ne _ _ _ h]

@[simp] theorem Chip.updQuad_upd (k : Chip) (q : Nat) (f g : Quad → Quad) :
    (k.updQuad q f).updQuad q g = k.updQuad q (fun x => g (f x)) := by simp [Chip.updQuad]

@[simp] theorem Chip.hart_upd_self (k : Chip) (h : Nat) (f : Hart → Hart) :
    (k.updHart h f).hart h = f (k.hart h) := by simp [Chip.hart, Chip.updHart]

theorem Chip.hart_upd_ne (k : Chip) {h i : Nat} (f : Hart → Hart) (n : i ≠ h) :
    (k.updHart h f).hart i = k.hart i := by simp [Chip.hart, Chip.updHart, tblGet_mod_ne _ _ _ n]

@[simp] theorem Chip.updHart_upd (k : Chip) (h : Nat) (f g : Hart → Hart) :
    (k.updHart h f).updHart h g = k.updHart h (fun x => g (f x)) := by simp [Chip.updHart]

@[simp] theorem Cluster.mover_upd_self (x : Cluster) (n : Nat) (f : Mover → Mover) :
    (x.updMover n f).mover n = f (x.mover n) := by simp [Cluster.mover, Cluster.updMover]

theorem Cluster.mover_upd_ne (x : Cluster) {n m : Nat} (f : Mover → Mover) (h : m ≠ n) :
    (x.updMover n f).mover m = x.mover m := by simp [Cluster.mover, Cluster.updMover, tblGet_mod_ne _ _ _ h]

theorem Cluster.updMover_eq (x : Cluster) (n : Nat) (f : Mover → Mover) :
    x.updMover n f = { x with movers := (x.updMover n f).movers } := rfl

/-! ## Registers -/

/-- A register write changes the register table only. -/
theorem Cluster.setReg_eq (x : Cluster) (r : SReg) (v : U64) :
    x.setReg r v = { x with regs := if r = 0 then x.regs else tblPut 0 x.regs r.toNat v } := by
  unfold Cluster.setReg; split <;> rfl

/-- Reading a register after a write: register 0 reads as zero and ignores a write. -/
theorem Cluster.reg_setReg (x : Cluster) (rd r : SReg) (v : U64) :
    (x.setReg rd v).reg r = if r = rd ∧ rd ≠ 0 then v else x.reg r := by
  rw [Cluster.setReg_eq]
  unfold Cluster.reg
  by_cases h0 : rd = 0
  · rw [if_pos h0, if_neg (fun h : r = rd ∧ rd ≠ 0 => h.2 h0)]
  · rw [if_neg h0]
    by_cases h : r = rd
    · subst h; rw [if_neg h0, tblGet_put_self, if_pos ⟨rfl, h0⟩]
    · rw [if_neg (fun e : r = rd ∧ rd ≠ 0 => h e.1), tblGet_put_ne _ _ _ (fun e => h (BitVec.eq_of_toNat_eq e))]

/-- A register write changes the register table only. -/
theorem Hart.setReg_eq (x : Hart) (r : SReg) (v : U64) :
    x.setReg r v = { x with x := if r = 0 then x.x else tblPut 0 x.x r.toNat v } := by
  unfold Hart.setReg; split <;> rfl

/-- Reading a register after a write: register 0 reads as zero and ignores a write. -/
theorem Hart.reg_setReg (x : Hart) (rd r : SReg) (v : U64) :
    (x.setReg rd v).reg r = if r = rd ∧ rd ≠ 0 then v else x.reg r := by
  rw [Hart.setReg_eq]
  unfold Hart.reg
  by_cases h0 : rd = 0
  · rw [if_pos h0, if_neg (fun h : r = rd ∧ rd ≠ 0 => h.2 h0)]
  · rw [if_neg h0]
    by_cases h : r = rd
    · subst h; rw [if_neg h0, tblGet_put_self, if_pos ⟨rfl, h0⟩]
    · rw [if_neg (fun e : r = rd ∧ rd ≠ 0 => h e.1), tblGet_put_ne _ _ _ (fun e => h (BitVec.eq_of_toNat_eq e))]

end Sys2Proof.Machine
end

