-- ==== Sys2Proof/Laws/Coherence.lean ====
section
/-! SUPPORT. What the operations on the lines of caching agents and on the coherence network leave unchanged. -/

namespace Sys2Proof.Machine

/-- A change of a line touches the clusters and the harts only. -/
theorem Chip.updLine_eq (k : Chip) (a line : Nat) (f : CLine → CLine) :
    k.updLine a line f = { k with
      clusters := (k.updLine a line f).clusters, harts := (k.updLine a line f).harts } := by
  unfold Chip.updLine
  split
  · rfl
  · split <;> rfl

/-- A message touches the network only. -/
theorem Chip.send_eq (k : Chip) (m : CohMsg) : k.send m = { k with net := (k.send m).net } := by
  unfold Chip.send; split <;> rfl

section Frames

variable (k : Chip) (a line : Nat) (f : CLine → CLine) (m : CohMsg)

@[simp] theorem Chip.updLine_mem : (k.updLine a line f).mem = k.mem := by rw [Chip.updLine_eq]
@[simp] theorem Chip.send_mem : (k.send m).mem = k.mem := by rw [Chip.send_eq]
@[simp] theorem Chip.updLine_net : (k.updLine a line f).net = k.net := by rw [Chip.updLine_eq]
@[simp] theorem Chip.updLine_poison : (k.updLine a line f).poison = k.poison := by rw [Chip.updLine_eq]
@[simp] theorem Chip.send_poison : (k.send m).poison = k.poison := by rw [Chip.send_eq]
@[simp] theorem Chip.updLine_quads : (k.updLine a line f).quads = k.quads := by rw [Chip.updLine_eq]
@[simp] theorem Chip.send_quads : (k.send m).quads = k.quads := by rw [Chip.send_eq]
@[simp] theorem Chip.send_clusters : (k.send m).clusters = k.clusters := by rw [Chip.send_eq]
@[simp] theorem Chip.updLine_homes : (k.updLine a line f).homes = k.homes := by rw [Chip.updLine_eq]
@[simp] theorem Chip.send_homes : (k.send m).homes = k.homes := by rw [Chip.send_eq]
@[simp] theorem Chip.send_harts : (k.send m).harts = k.harts := by rw [Chip.send_eq]
@[simp] theorem Chip.updLine_fabric : (k.updLine a line f).fabric = k.fabric := by rw [Chip.updLine_eq]
@[simp] theorem Chip.send_fabric : (k.send m).fabric = k.fabric := by rw [Chip.send_eq]
@[simp] theorem Chip.updLine_mgmt : (k.updLine a line f).mgmt = k.mgmt := by rw [Chip.updLine_eq]
@[simp] theorem Chip.send_mgmt : (k.send m).mgmt = k.mgmt := by rw [Chip.send_eq]

end Frames

/-- Whether two ends are severed depends on the quadrants and the partitions only. -/
theorem Chip.severed_congr {k l : Chip} (hq : k.quads = l.quads) (hp : k.partitions = l.partitions) (a b : Nat) :
    k.severed a b = l.severed a b := by
  unfold Chip.severed Chip.parted Chip.quad; rw [hq, hp]

@[simp] theorem Chip.severed_updLine (k : Chip) (a line : Nat) (f : CLine → CLine) (x y : Nat) :
    (k.updLine a line f).severed x y = k.severed x y :=
  Chip.severed_congr (by rw [Chip.updLine_eq]) (by rw [Chip.updLine_eq]) x y

/-- A message between ends that reach one another is put on the network. -/
theorem Chip.send_of_reached {k : Chip} {m : CohMsg} (h : k.severed m.src m.dst = false) :
    k.send m = { k with net := k.net ++ [m] } := by unfold Chip.send; rw [h]; rfl

@[simp] theorem Chip.byte_updLine (k : Chip) (x line : Nat) (f : CLine → CLine) (a : Nat) :
    (k.updLine x line f).byte a = k.byte a := by unfold Chip.byte; rw [Chip.updLine_mem]
@[simp] theorem Chip.byte_send (k : Chip) (m : CohMsg) (a : Nat) : (k.send m).byte a = k.byte a := by
  unfold Chip.byte; rw [Chip.send_mem]

end Sys2Proof.Machine
end

