-- ==== Sys2Proof/Laws/Issue.lean ====
section
/-! SUPPORT. Issue of a bundle of one slot, said once: when nothing holds it, it ends as `Chip.slotDone` says. -/

namespace Sys2Proof.Machine

/-! ## Issue -/

theorem Cluster.fence_of_canIssue {x : Cluster} (h : x.canIssue = true) : x.fence = none := by
  simp only [Cluster.canIssue, Bool.and_eq_true] at h
  exact Option.isNone_iff_eq_none.mp h.1.1.1.2

theorem Chip.endFence_of_canIssue {k : Chip} {c : Nat} (h : (k.cluster c).canIssue = true) : k.endFence c = k := by
  simp [Chip.endFence, Cluster.fence_of_canIssue h]

/-- A bundle without a `MOV` leaves stage I when the entries it takes are free (R81). -/
theorem Chip.stageI_of_fits {k : Chip} {c : Nat} {b : Bundle256} (hm : b.mover = none)
    (hf : (k.cluster c).fits (slotNeeds b) none (syncOf b) b.wh = true) : k.stageI c b true = (k, true) := by
  simp [Chip.stageI, hm, hf, Chip.prepMover]

/-- A bundle without a predicate that nothing holds takes effect. -/
theorem Chip.issueSlot_of_ready {k k1 j k2 k3 : Chip} {c : Nat} {b : Bundle256} {a : SAct} {r : Ready}
    (hl : b.legal = true) (hp : b.pred = 0) (hr : k.slotReady c (b.reads true) = true)
    (hw : k.holdWh c b true = (k1, true)) (hst : k1.stageI c b true = (j, true))
    (hx : j.scalarX c (k.cluster c).pc b.scalar = (k2, .act a))
    (hs : k2.prepAll c b true = (k3, .ok r)) (hroom : (k3.cluster c).hasRoom r b.wh = true) :
    k.issueSlot c b = k3.slotDone c b a r := by
  simp only [Chip.slotReady, Bool.and_eq_true, Bool.not_eq_true'] at hr
  obtain ⟨⟨hc, hi⟩, ha⟩ := hr
  have hf := Chip.endFence_of_canIssue hi
  simp [Chip.issueSlot, Chip.issue, hf, hc, hi, hl, hp, ha, hw, hst, hx, hs, hroom, Chip.slotDone]

/-- A bundle without a predicate whose engine slots take a fault has no effect of its own. -/
theorem Chip.issueSlot_slot_fault {k k1 j k2 k3 : Chip} {c code : Nat} {b : Bundle256} {a : SAct} (hl : b.legal = true)
    (hp : b.pred = 0) (hr : k.slotReady c (b.reads true) = true) (hw : k.holdWh c b true = (k1, true))
    (hst : k1.stageI c b true = (j, true)) (hx : j.scalarX c (k.cluster c).pc b.scalar = (k2, .act a)) (hs : k2.prepAll c b true = (k3, .fault code)) :
    k.issueSlot c b = k3.seqFault c code (k.cluster c).pc none := by
  simp only [Chip.slotReady, Bool.and_eq_true, Bool.not_eq_true'] at hr
  obtain ⟨⟨hc, hi⟩, ha⟩ := hr
  have hf := Chip.endFence_of_canIssue hi
  simp [Chip.issueSlot, Chip.issue, hf, hc, hi, hl, hp, ha, hw, hst, hx, hs]

/-- A bundle without a predicate whose wait has not ended holds issue. -/
theorem Chip.issueSlot_held {k k1 : Chip} {c : Nat} {b : Bundle256} (hl : b.legal = true) (hp : b.pred = 0)
    (hr : k.slotReady c (b.reads true) = true) (hw : k.holdWh c b true = (k1, false)) : k.issueSlot c b = k1 := by
  simp only [Chip.slotReady, Bool.and_eq_true, Bool.not_eq_true'] at hr
  obtain ⟨⟨hc, hi⟩, ha⟩ := hr
  have hf := Chip.endFence_of_canIssue hi
  simp [Chip.issueSlot, Chip.issue, hf, hc, hi, hl, hp, ha, hw]

/-- A bundle of one engine slot, without a `MOV`, that nothing holds takes effect. -/
theorem Chip.issueSlot_engine {k : Chip} {c : Nat} {b : Bundle256} {r : Ready} (hl : b.legal = true) (hp : b.pred = 0)
    (hn : b.scalar = .nop) (hm : b.mover = none) (hr : k.slotReady c (b.reads true) = true)
    (hw : k.holdWh c b true = (k, true)) (hf : (k.cluster c).fits (slotNeeds b) none (syncOf b) b.wh = true)
    (hs : k.prepAll c b true = (k, .ok r)) (hroom : (k.cluster c).hasRoom r b.wh = true) :
    k.issueSlot c b = k.slotDone c b .none r :=
  Chip.issueSlot_of_ready hl hp hr hw (Chip.stageI_of_fits hm hf) (by rw [hn]; rfl) hs hroom

/-- A bundle of one engine slot, without a `MOV`, whose slot takes a fault has no effect of its own. -/
theorem Chip.issueSlot_engine_fault {k : Chip} {c code : Nat} {b : Bundle256} (hl : b.legal = true) (hp : b.pred = 0)
    (hn : b.scalar = .nop) (hm : b.mover = none) (hr : k.slotReady c (b.reads true) = true)
    (hw : k.holdWh c b true = (k, true)) (hf : (k.cluster c).fits (slotNeeds b) none (syncOf b) b.wh = true)
    (hs : k.prepAll c b true = (k, .fault code)) :
    k.issueSlot c b = k.seqFault c code (k.cluster c).pc none :=
  Chip.issueSlot_slot_fault (a := .none) hl hp hr hw (Chip.stageI_of_fits hm hf) (by rw [hn]; rfl) hs

/-- A bundle with nothing but a scalar slot. -/
theorem Chip.issueSlot_scalar {k k2 : Chip} {c : Nat} {i : Scalar} {a : SAct}
    (hl : i.legal = true) (hr : k.slotReady c i.reads = true) (hfit : k.roomFor c Ready.none = true)
    (hx : k.scalarX c (k.cluster c).pc i = (k2, .act a)) (hroom : k2.roomFor c Ready.none = true) :
    k.issueSlot c (scalarBundle i) = k2.scalarDone c i a := by
  have hb : (scalarBundle i).legal = true := by simp [Bundle256.legal, scalarBundle, nopBundle, hl]
  have hst : k.stageI c (scalarBundle i) true = (k, true) := Chip.stageI_of_fits rfl hfit
  refine Chip.issueSlot_of_ready (k1 := k) (j := k) hb rfl ?_ rfl hst hx rfl hroom
  simpa [Bundle256.reads, scalarBundle, nopBundle] using hr

/-- A bundle with nothing but a scalar slot, as a step of the module. -/
theorem State.scalarSlot_of_ready {s : State} {c : Nat} {i : Scalar} {a : SAct} (hl : i.legal = true)
    (h : ScalarReady s c i.reads) (hx : s.chip.scalarX c (s.chip.cluster c).pc i = (s.chip, .act a)) :
    s.scalarSlot c i = s.goes (s.chip.scalarDone c i a) :=
  congrArg s.goes (Chip.issueSlot_scalar hl h.1 h.2 hx h.2)

/-- A bundle whose scalar slot takes a fault has no other effect. -/
theorem Chip.issueSlot_fault {k k2 : Chip} {c : Nat} {i : Scalar} {code : Nat} {pa : Option Nat} (hl : i.legal = true)
    (hr : k.slotReady c i.reads = true) (hfit : k.roomFor c Ready.none = true)
    (hx : k.scalarX c (k.cluster c).pc i = (k2, .fault code pa)) :
    k.issueSlot c (scalarBundle i) = k2.seqFault c code (k.cluster c).pc pa := by
  have hb : (scalarBundle i).legal = true := by simp [Bundle256.legal, scalarBundle, nopBundle, hl]
  have hb' : (scalarBundle i).reads true = i.reads := by simp [Bundle256.reads, scalarBundle, nopBundle]
  have hp : (scalarBundle i).pred = 0 := rfl
  have hw : k.holdWh c (scalarBundle i) true = (k, true) := rfl
  have hs : (scalarBundle i).scalar = i := rfl
  have hst : k.stageI c (scalarBundle i) true = (k, true) := Chip.stageI_of_fits rfl hfit
  simp only [Chip.slotReady, Bool.and_eq_true, Bool.not_eq_true'] at hr
  obtain ⟨⟨hc, hi⟩, ha⟩ := hr
  have hf := Chip.endFence_of_canIssue hi
  simp [Chip.issueSlot, Chip.issue, hf, hc, hi, hb, hb', hp, hw, hst, hs, ha, hx]

/-- A bundle whose scalar slot takes a fault, as a step of the module. -/
theorem State.scalarSlot_fault {s : State} {c : Nat} {i : Scalar} {k2 : Chip} {code : Nat} {pa : Option Nat}
    (hl : i.legal = true) (h : ScalarReady s c i.reads)
    (hx : s.chip.scalarX c (s.chip.cluster c).pc i = (k2, .fault code pa)) :
    s.scalarSlot c i = s.goes (k2.seqFault c code (s.chip.cluster c).pc pa) :=
  congrArg s.goes (Chip.issueSlot_fault hl h.1 h.2 hx)

/-! ## A sequencer with nothing outstanding -/

/-- With no load and no store outstanding nothing leaves for another module. -/
theorem Chip.sendRemote_of_empty {k : Chip} {c : Nat} (hl : (k.cluster c).loads = []) (hs : (k.cluster c).stores = []) :
    k.sendRemote c = k := by simp [Chip.sendRemote, hl, hs]

/-- With no load and no store outstanding there is nothing to perform. -/
theorem Chip.drain_of_empty {k : Chip} {c : Nat} (hl : (k.cluster c).loads = []) (hs : (k.cluster c).stores = [])
    (n : Nat) : k.drain c n = k := by
  cases n with
  | zero => rfl
  | succ n => simp [Chip.drain, Chip.sendRemote_of_empty, hl, hs]

theorem Chip.drainAll_of_empty {k : Chip} {c : Nat} (hl : (k.cluster c).loads = []) (hs : (k.cluster c).stores = []) :
    k.drainAll c = k := Chip.drain_of_empty hl hs _

/-- With no pre-issued command there is nothing to discard. -/
theorem Chip.dropOffPath_of_none {k : Chip} {c : Nat}
    (h : ([0, 1] : List Nat).any (fun m => ((k.cluster c).mover m).cmds.any (·.speculative)) = false) :
    k.dropOffPath c = k := by simp only [Chip.dropOffPath, h]; simp

theorem Cluster.any_speculative_of_quiet {x : Cluster} (h : x.quiet = true) :
    ([0, 1] : List Nat).any (fun m => (x.mover m).cmds.any (·.speculative)) = false := by
  simp only [Cluster.quiet, Bool.and_eq_true] at h
  have hm := h.2
  simp only [List.any_cons, List.any_nil, List.all_cons, List.all_nil, Bool.and_true, Bool.or_false,
    Bool.and_eq_true] at hm ⊢
  simp only [List.all_eq_true, Bool.not_eq_true'] at hm
  simp only [Bool.or_eq_false_iff, List.any_eq_false, Bool.not_eq_true]
  exact hm

theorem Cluster.loads_of_quiet {x : Cluster} (h : x.quiet = true) : x.loads = [] := by
  simp only [Cluster.quiet, Bool.and_eq_true, List.isEmpty_iff] at h; exact h.1.1

theorem Cluster.stores_of_quiet {x : Cluster} (h : x.quiet = true) : x.stores = [] := by
  simp only [Cluster.quiet, Bool.and_eq_true, List.isEmpty_iff] at h; exact h.1.2

theorem Cluster.forgetLoad_of_quiet {x : Cluster} (h : x.quiet = true) (rd : SReg) : x.forgetLoad rd = x := by
  have hl := Cluster.loads_of_quiet h
  unfold Cluster.forgetLoad; rw [hl, List.map_nil, ← hl]

end Sys2Proof.Machine
end

