-- ==== Sys2Proof/Laws/Engine.lean ====
section
/-! SUPPORT. An engine operation issued at a cluster whose engines are free: it starts at once and runs to its end. -/

namespace Sys2Proof.Machine

theorem Cluster.enginesFree_iff {x : Cluster} : x.enginesFree = true ↔
    x.quiet = true ∧ x.queues = [] ∧ x.claims = [] ∧ x.waits = [] := by
  simp only [Cluster.enginesFree, Bool.and_eq_true, List.isEmpty_iff, and_assoc]

theorem Cluster.noteMode_eq (x : Cluster) (p : Prep) : x.noteMode p = { x with munits := (x.noteMode p).munits } := by
  unfold Cluster.noteMode
  split
  · split <;> rfl
  · rfl
  · rfl

/-- The bundle takes effect: its operation stands alone in its queue. -/
theorem Chip.commit_engine {k : Chip} {c : Nat} {b : Bundle256} {p : Prep} (hb : b.stop = false) (hn : b.scalar = .nop)
    (hf : (k.cluster c).enginesFree = true) :
    k.commitBundle c b .none { preps := [p], mov := none, sync := none } = k.updCluster c (·.holding p) := by
  obtain ⟨hq, hqs, hcl, hws⟩ := Cluster.enginesFree_iff.mp hf
  have hl := Cluster.loads_of_quiet hq
  have hs := Cluster.stores_of_quiet hq
  have hm := Cluster.noteMode_eq (k.cluster c) p
  have hput : tblMod [] [] p.eng (fun q => q ++ [({ no := (k.cluster c).nextNo, op := p.op } : EngEnt)]) =
      [(p.eng, [({ no := (k.cluster c).nextNo, op := p.op } : EngEnt)])] := by
    simp [tblMod, tblPut, tblDel, tblIns]
  have e1 : k.commitBundle c b .none { preps := [p], mov := none, sync := none } =
      ((k.updCluster c (·.holding p)).drainAll c).dropOffPath c := by
    unfold Chip.commitBundle Chip.scalarEffect
    simp only [List.foldl_cons, List.foldl_nil, Chip.updCluster_upd, hb, hn, Bool.false_eq_true, if_false]
    refine congrArg (fun z => (Chip.drainAll z c).dropOffPath c) ?_
    apply Chip.updCluster_congr
    unfold Cluster.enqueue Cluster.holding
    rw [hm]
    simp only [Cluster.goOn, Ready.claims, List.flatMap_cons, List.flatMap_nil, List.append_nil, hqs, hcl, hput,
      List.nil_append, Cluster.issued]
  have hq2 : ((k.cluster c).holding p).quiet = true := by
    unfold Cluster.holding; rw [hm]; exact hq
  rw [e1, Chip.drainAll_of_empty, Chip.dropOffPath_of_none]
  · rw [Chip.cluster_upd_self]; exact Cluster.any_speculative_of_quiet hq2
  · rw [Chip.cluster_upd_self]; exact Cluster.loads_of_quiet hq2
  · rw [Chip.cluster_upd_self]; exact Cluster.stores_of_quiet hq2

/-- It may start: nothing is before it. -/
theorem Chip.mayStart_holding {k : Chip} {c : Nat} {p : Prep} (hf : (k.cluster c).enginesFree = true)
    (hd : (match p.op with | .zdrain _ _ _ _ _ _ => ((k.cluster c).munit p.eng).drain.isNone | _ => true) = true) :
    (k.updCluster c (·.holding p)).mayStart c p.eng { no := (k.cluster c).nextNo, op := p.op } = true := by
  obtain ⟨hq, hqs, hcl, hws⟩ := Cluster.enginesFree_iff.mp hf
  have hs := Cluster.stores_of_quiet hq
  have hm := Cluster.noteMode_eq (k.cluster c) p
  have hno : ∀ a ∈ p.claims (k.cluster c).nextNo, a.no = (k.cluster c).nextNo ∧ a.eng = p.eng := by
    intro a ha
    obtain ⟨e, -, rfl⟩ := List.mem_map.mp ha
    exact ⟨rfl, rfl⟩
  unfold Chip.mayStart
  simp only [Chip.cluster_upd_self, Bool.and_eq_true, Bool.not_eq_true']
  refine ⟨⟨⟨⟨?_, ?_⟩, ?_⟩, ?_⟩, ?_⟩
  · unfold Cluster.gated Cluster.holding; rw [hm]; simp [Cluster.issued, hws]
  · unfold Cluster.claimBlocked
    rw [List.any_eq_false]
    intro a ha
    have hb : ((k.cluster c).holding p).claims = p.claims (k.cluster c).nextNo := rfl
    simp only [hb, Bool.not_eq_true, List.any_eq_false]
    intro b hb2
    obtain ⟨h1, h2⟩ := hno b hb2
    simp [h1, h2]
  · unfold Chip.storeBlocked
    rw [List.any_eq_false]
    intro a ha
    rw [Chip.cluster_upd_self]
    have hst : ((k.cluster c).holding p).stores = [] := by unfold Cluster.holding; rw [hm]; exact hs
    simp [hst]
  · unfold Cluster.regBlocked
    split
    · rfl
    · rw [List.any_eq_false]
      intro e' he'
      have hqq : ((k.cluster c).holding p).queues = [(p.eng, [({ no := (k.cluster c).nextNo, op := p.op } : EngEnt)])] := rfl
      rw [hqq]
      by_cases h : e' = p.eng
      · simp [h]
      · have h2 : ¬ p.eng = e' := fun h' => h h'.symm
        simp [tblGet, h, h2]
  · split
    · rename_i h; rw [h] at hd
      have : ((k.cluster c).holding p).munits = (k.cluster c).munits := by
        unfold Cluster.holding Cluster.noteMode; rw [h]; rfl
      rw [this]; exact hd
    · rfl

/-- The cluster after its one operation has left its queue and its claims have gone. -/
theorem Cluster.free_again {x : Cluster} {p : Prep} {y : Cluster} (hq : x.queues = []) (hc : x.claims = [])
    (h1 : y.queues = [(p.eng, [({ no := x.nextNo, op := p.op } : EngEnt)])]) (h2 : y.claims = p.claims x.nextNo) :
    ({ y with queues := tblMod [] y.queues p.eng (fun q => q.drop 1) } : Cluster).release x.nextNo p.eng =
      { y with queues := x.queues, claims := x.claims } := by
  have hr : (p.claims x.nextNo).filter (fun a => !(a.no = x.nextNo && a.eng = p.eng)) = [] := by
    rw [List.filter_eq_nil_iff]
    intro a ha
    obtain ⟨e, -, rfl⟩ := List.mem_map.mp ha
    simp [mkClaim]
  unfold Cluster.release
  simp only [h1, h2, hr, hq, hc]
  simp [tblMod, tblPut, tblGet, tblDel]

/-! ## Operands that pass -/

theorem Cluster.prepMatrix_of_ok {x : Cluster} {m : Matrix} (h : x.matrixOk m = true) : x.prepMatrix m = .ok (x.matrixPrep m) := by
  cases m with
  | mma cx f =>
    simp only [Cluster.matrixOk, Bool.and_eq_true, Bool.or_eq_true, Bool.not_eq_true', decide_eq_true_eq] at h
    obtain ⟨⟨⟨⟨h1, h2⟩, h3⟩, h4, h5, h6⟩, h7⟩ := h
    have e2 : (mxScaled f.fmtA.toNat && !(splitRsc (x.reg f.rsc)).2.2) = false := by
      rcases h2 with h2 | h2 <;> simp [h2]
    have e5 : ¬ 65536 < (x.reg f.rk).toNat := by omega
    have e4 : (x.reg f.rk).toNat ≠ 0 := by omega
    simp only [Cluster.prepMatrix, h1, e2, h3, h6, e4, e5]
    rcases h7 with h7 | h7 <;> simp [h7]
  | zdrain f =>
    simp only [Cluster.matrixOk, Bool.and_eq_true, Bool.not_eq_true'] at h
    obtain ⟨⟨h1, h2⟩, h3⟩ := h
    simp only [Cluster.prepMatrix, List.cons_append, List.nil_append, h1, h2, h3]
    simp
  | zload f =>
    simp only [Cluster.matrixOk, Bool.and_eq_true] at h
    simp [Cluster.prepMatrix, h.1, h.2]
  | mcfg f => rfl

theorem Cluster.prepVector_of_ok {x : Cluster} {op : VOp} {f : VecF} (h : x.vectorOk op f = true) :
    x.prepVector op f = .ok (x.vectorPrep op f) := by
  simp only [Cluster.vectorOk, Bool.or_eq_true, Bool.not_eq_true', Bool.and_eq_true] at h
  rcases h with h | ⟨h1, h2⟩
  · simp [Cluster.prepVector, h]
  · simp [Cluster.prepVector, h1, h2]

theorem Cluster.prepLut_of_ok {x : Cluster} {vs : SReg} (h : x.lutOk vs = true) :
    x.prepSfu (.lutLd vs) = some (.ok (x.lutPrep vs)) := by
  simp only [Cluster.lutOk, Bool.and_eq_true] at h
  simp [Cluster.prepSfu, h.1, h.2]

/-! ## What an engine finds -/

theorem Cluster.holding_movers (x : Cluster) (p : Prep) : (x.holding p).movers = x.movers := by
  unfold Cluster.holding; rw [Cluster.noteMode_eq]; rfl

theorem Cluster.holding_vunits (x : Cluster) (p : Prep) : (x.holding p).vunits = x.vunits := by
  unfold Cluster.holding; rw [Cluster.noteMode_eq]; rfl

theorem Cluster.holding_rest (x : Cluster) (p : Prep) :
    (x.holding p).zones = x.zones ∧ (x.holding p).dim = x.dim ∧ (x.holding p).lut = x.lut := by
  unfold Cluster.holding; rw [Cluster.noteMode_eq]; exact ⟨rfl, rfl, rfl⟩

theorem Cluster.redirect_holding (x : Cluster) (p : Prep) (o : Nat) : (x.holding p).redirect o = x.redirect o := by
  unfold Cluster.redirect Cluster.zone; rw [(Cluster.holding_rest x p).1]

theorem Chip.storeByte_holding (k : Chip) (c : Nat) (p : Prep) (a : Nat) :
    (k.updCluster c (·.holding p)).storeByte c a = k.storeByte c a := by
  unfold Chip.storeByte Chip.ownByte
  rw [Chip.cluster_upd_self, Cluster.redirect_holding, (Cluster.holding_rest (k.cluster c) p).2.1, Chip.byte_updCluster]

theorem Chip.consumesPoison_holding (k : Chip) (c : Nat) (p : Prep) (op : EngOp) :
    (k.updCluster c (·.holding p)).consumesPoison c op = k.consumesPoison c op := by
  have hr : ∀ o n, (k.updCluster c (·.holding p)).runPoison c o n = k.runPoison c o n := by
    intro o n
    simp [Chip.runPoison, Chip.storePoison, Chip.poisoned, Cluster.redirect_holding]
  have hv : ∀ u, ((k.updCluster c (·.holding p)).cluster c).vunit u = (k.cluster c).vunit u := by
    intro u; rw [Chip.cluster_upd_self]; unfold Cluster.vunit; rw [Cluster.holding_vunits]
  unfold Chip.consumesPoison
  simp only [hr, hv]

/-! ## From issue to the end -/

theorem Chip.errored_holding {k : Chip} {c : Nat} {p : Prep} (he : (k.cluster c).errored = false) :
    ((k.cluster c).holding p).errored = false := by
  unfold Cluster.holding; rw [Cluster.noteMode_eq]; exact he

/-- An operation other than a drain runs to its end in the bundle's own step. -/
theorem Chip.slotDone_engine {k : Chip} {c : Nat} {b : Bundle256} {p : Prep} (hb : b.stop = false)
    (hn : b.scalar = .nop) (hf : (k.cluster c).enginesFree = true) (he : (k.cluster c).errored = false)
    (hz : ∀ a b c d e f, p.op ≠ .zdrain a b c d e f) (hp : k.consumesPoison c p.op = false) :
    k.slotDone c b .none { preps := [p], mov := none, sync := none } =
      ((k.updCluster c (·.holding p)).runOp c p.eng { no := (k.cluster c).nextNo, op := p.op }).updCluster c
        (·.ended (k.cluster c).nextNo p.eng) := by
  have hms := Chip.mayStart_holding (p := p) hf (by
    split
    · rename_i h; exact absurd h (hz _ _ _ _ _ _)
    · rfl)
  have hqq : ((k.cluster c).holding p).queues = [(p.eng, [({ no := (k.cluster c).nextNo, op := p.op } : EngEnt)])] := rfl
  simp only [Chip.slotDone, List.foldl_cons, List.foldl_nil]
  rw [Chip.commit_engine hb hn hf]
  unfold Chip.runSlot Chip.endOp
  rw [Chip.cluster_upd_self, hqq]
  simp only [tblGet, if_true, List.length_cons, List.length_nil, Chip.errored_holding he, hms, Bool.not_true, Bool.or_self,
    Bool.false_eq_true, if_false, Chip.consumesPoison_holding, hp]
  rfl

/-- An operation that acts on its cluster alone. -/
theorem Chip.slotDone_local {k : Chip} {c : Nat} {b : Bundle256} {p : Prep} {f g : Cluster → Cluster} (hb : b.stop = false)
    (hn : b.scalar = .nop) (hf : (k.cluster c).enginesFree = true) (he : (k.cluster c).errored = false)
    (hz : ∀ a b c d e f, p.op ≠ .zdrain a b c d e f) (hp : k.consumesPoison c p.op = false)
    (hr : (k.updCluster c (·.holding p)).runOp c p.eng { no := (k.cluster c).nextNo, op := p.op } =
      (k.updCluster c (·.holding p)).updCluster c f)
    (hg : f ((k.cluster c).holding p) =
      { g (k.cluster c) with queues := ((k.cluster c).holding p).queues, claims := ((k.cluster c).holding p).claims })
    (hq : (g (k.cluster c)).queues = (k.cluster c).queues) (hc : (g (k.cluster c)).claims = (k.cluster c).claims) :
    k.slotDone c b .none { preps := [p], mov := none, sync := none } = k.updCluster c g := by
  obtain ⟨-, hqs, hcl, -⟩ := Cluster.enginesFree_iff.mp hf
  rw [Chip.slotDone_engine hb hn hf he hz hp, hr, Chip.updCluster_upd, Chip.updCluster_upd]
  apply Chip.updCluster_congr
  show Cluster.ended (f _) _ _ = _
  unfold Cluster.ended
  rw [Cluster.free_again (x := k.cluster c) (p := p) hqs hcl (by rw [hg]; rfl) (by rw [hg]; rfl), hg]
  conv_rhs => rw [show g (k.cluster c) = { g (k.cluster c) with queues := (g (k.cluster c)).queues, claims := (g (k.cluster c)).claims } from rfl]
  rw [hq, hc]

/-- A drain is captured and written in the bundle's own step. -/
theorem Chip.slotDone_drain {k : Chip} {c : Nat} {b : Bundle256} {p : Prep} {dfmt : Nat} {rm : RMode} {sat : Bool} {off str sc : Nat}
    (hb : b.stop = false) (hn : b.scalar = .nop) (hf : (k.cluster c).enginesFree = true) (he : (k.cluster c).errored = false)
    (ho : p.op = .zdrain dfmt rm sat off str sc) (hd : ((k.cluster c).munit p.eng).drain = none) :
    let u := (k.cluster c).munit p.eng
    let d : DrainBuf := { no := (k.cluster c).nextNo, dfmt := dfmt, rm := rm, sat := sat, off := off, str := str, sc := sc,
                          tile := u.tile, complex := u.complex, mult := u.item2 }
    k.slotDone c b .none { preps := [p], mov := none, sync := none } =
      (k.updCluster c (fun y => { (y.issued.updMUnit p.eng (fun m => { m with drain := some d })) with
        claims := p.claims y.nextNo })).writeDrain c p.eng d := by
  intro u d
  obtain ⟨-, hqs, hcl, -⟩ := Cluster.enginesFree_iff.mp hf
  have hms := Chip.mayStart_holding (p := p) hf (by rw [ho]; simp only [hd]; rfl)
  have hqq : ((k.cluster c).holding p).queues = [(p.eng, [({ no := (k.cluster c).nextNo, op := p.op } : EngEnt)])] := rfl
  have hpo : k.consumesPoison c p.op = false := by rw [ho]; rfl
  simp only [Chip.slotDone, List.foldl_cons, List.foldl_nil]
  rw [Chip.commit_engine hb hn hf]
  have hend : (k.updCluster c (·.holding p)).endOp c p.eng =
      k.updCluster c (fun y => { (y.issued.updMUnit p.eng (fun m => { m with drain := some d })) with
        claims := p.claims y.nextNo }) := by
    unfold Chip.endOp
    rw [Chip.cluster_upd_self, hqq]
    simp only [tblGet, if_true, Chip.errored_holding he, hms, Bool.not_true, Bool.or_self, Bool.false_eq_true, if_false,
      Chip.consumesPoison_holding, hpo]
    rw [ho]
    simp only [Chip.runOp, Chip.updCluster_upd]
    apply Chip.updCluster_congr
    have hh : (k.cluster c).noteMode p = k.cluster c := by unfold Cluster.noteMode; rw [ho]
    unfold Cluster.holding
    rw [hh, ho]
    simp only [Cluster.updMUnit, Cluster.issued, tblMod, tblGet, if_true, List.drop_succ_cons, List.drop_zero]
    rw [show tblPut [] [(p.eng, [({ no := (k.cluster c).nextNo, op := EngOp.zdrain dfmt rm sat off str sc } : EngEnt)])] p.eng [] =
      (k.cluster c).queues by simp [tblPut, tblDel, hqs]]
    rfl
  unfold Chip.runSlot
  rw [Chip.cluster_upd_self, hqq, hend, ho]
  simp only [tblGet, if_true, List.length_cons, List.length_nil]
  unfold Chip.endDrain
  rw [Chip.cluster_upd_self]
  have hdr : ((({ ((k.cluster c).issued.updMUnit p.eng (fun m => { m with drain := some d })) with
      claims := p.claims (k.cluster c).nextNo } : Cluster).munit p.eng).drain) = some d := by
    simp [Cluster.munit, Cluster.updMUnit, Cluster.issued]
  rw [hdr]
  exact if_neg (by show ¬ (k.cluster c).errored = true; simp [he])

/-! ## One lemma for each kind of operation -/

section kinds
variable {k : Chip} {c : Nat} {b : Bundle256} {p : Prep} (hb : b.stop = false) (hn : b.scalar = .nop)
  (hf : (k.cluster c).enginesFree = true) (he : (k.cluster c).errored = false)
include hb hn hf he

theorem Chip.slotDone_mma {cx acc : Bool} {fa fb oa sa ob sb n ca cb : Nat}
    (ho : p.op = .mma cx acc fa fb oa sa ob sb n ca cb) (hp : k.consumesPoison c p.op = false) :
    k.slotDone c b .none { preps := [p], mov := none, sync := none } = k.updCluster c (fun y =>
      (if acc then y.issued else y.issued.updMUnit p.eng (fun u => { u with seqComplex := cx })).updMUnit p.eng
        (fun u => u.afterMma (k.storeByte c) (mmaArgs u p.op))) := by
  refine Chip.slotDone_local (f := fun y => y.updMUnit p.eng (fun u => u.afterMma (k.storeByte c) (mmaArgs u p.op)))
    hb hn hf he (by rw [ho]; intros; exact EngOp.noConfusion) hp ?_ ?_ ?_ ?_
  · have hs : (k.updCluster c (·.holding p)).storeByte c = k.storeByte c := funext (Chip.storeByte_holding k c p)
    unfold Chip.runOp
    rw [hs, ho]
  · have hm : (k.cluster c).noteMode p =
        if acc then k.cluster c else (k.cluster c).updMUnit p.eng (fun u => { u with seqComplex := cx }) := by
      unfold Cluster.noteMode; rw [ho]
    unfold Cluster.holding; rw [hm]; cases acc <;> rfl
  · cases acc <;> rfl
  · cases acc <;> rfl

theorem Chip.slotDone_zload {sfmt off str : Nat} (ho : p.op = .zload sfmt off str) (hp : k.consumesPoison c p.op = false) :
    k.slotDone c b .none { preps := [p], mov := none, sync := none } = k.updCluster c (fun y =>
      y.issued.updMUnit p.eng (fun u => { u with seqComplex := false }.afterZload (k.storeByte c) sfmt off str)) := by
  refine Chip.slotDone_local (f := fun y => y.updMUnit p.eng (·.afterZload (k.storeByte c) sfmt off str))
    hb hn hf he (by rw [ho]; intros; exact EngOp.noConfusion) hp ?_ ?_ rfl rfl
  · have hs : (k.updCluster c (·.holding p)).storeByte c = k.storeByte c := funext (Chip.storeByte_holding k c p)
    unfold Chip.runOp
    rw [hs, ho]
  · have hm : (k.cluster c).noteMode p = (k.cluster c).updMUnit p.eng (fun u => { u with seqComplex := false }) := by
      unfold Cluster.noteMode; rw [ho]
    unfold Cluster.holding; rw [hm]; simp [Cluster.updMUnit, Cluster.issued]

/-- An operation that changes no matrix unit's mode at issue, and acts on its cluster alone. -/
theorem Chip.slotDone_plain {g : Cluster → Cluster} (hm : (k.cluster c).noteMode p = k.cluster c)
    (hz : ∀ a b c d e f, p.op ≠ .zdrain a b c d e f) (hp : k.consumesPoison c p.op = false)
    (hr : (k.updCluster c (·.holding p)).runOp c p.eng { no := (k.cluster c).nextNo, op := p.op } =
      (k.updCluster c (·.holding p)).updCluster c g)
    (hg : g { (k.cluster c).issued with
        queues := ((k.cluster c).holding p).queues, claims := ((k.cluster c).holding p).claims } =
      { g (k.cluster c).issued with
        queues := ((k.cluster c).holding p).queues, claims := ((k.cluster c).holding p).claims })
    (hq : (g (k.cluster c).issued).queues = (k.cluster c).queues)
    (hc : (g (k.cluster c).issued).claims = (k.cluster c).claims) :
    k.slotDone c b .none { preps := [p], mov := none, sync := none } = k.updCluster c (fun y => g y.issued) := by
  refine Chip.slotDone_local hb hn hf he hz hp hr ?_ hq hc
  have h : (k.cluster c).holding p = { (k.cluster c).issued with
      queues := ((k.cluster c).holding p).queues, claims := ((k.cluster c).holding p).claims } := by
    unfold Cluster.holding; rw [hm]
  conv_lhs => rw [h]
  exact hg

theorem Chip.slotDone_mcfg {item : Nat} {v : BitVec 32} (ho : p.op = .mcfg item v) :
    k.slotDone c b .none { preps := [p], mov := none, sync := none } =
      k.updCluster c (fun y => y.issued.updMUnit p.eng (·.afterMcfg item v)) := by
  refine Chip.slotDone_plain (g := fun y => y.updMUnit p.eng (·.afterMcfg item v)) hb hn hf he
    (by unfold Cluster.noteMode; rw [ho]) (by rw [ho]; intros; exact EngOp.noConfusion) (by rw [ho]; unfold Chip.consumesPoison; rfl) ?_ rfl rfl rfl
  unfold Chip.runOp; rw [ho]

theorem Chip.slotDone_vec {op : VOp} {f : VecF} {rs rs2 : U64} (hm : memOp op = false) (ho : p.op = .vec op f rs rs2) :
    k.slotDone c b .none { preps := [p], mov := none, sync := none } = k.updCluster c (fun y =>
      y.issued.updVUnit f.unit.toNat (fun u => u.after (vecRun u.v u.m op f rs))) := by
  have h1 : op ≠ .vld := by rintro rfl; simp [memOp] at hm
  have h2 : op ≠ .vst := by rintro rfl; simp [memOp] at hm
  refine Chip.slotDone_plain (g := fun y => y.updVUnit f.unit.toNat (fun u => u.after (vecRun u.v u.m op f rs))) hb hn hf he
    (by unfold Cluster.noteMode; rw [ho]) (by rw [ho]; intros; exact EngOp.noConfusion) ?_ ?_ rfl rfl rfl
  · rw [ho]; unfold Chip.consumesPoison
    split <;> first | rfl | (rename_i h; cases h; exact absurd rfl h1) | (rename_i h; cases h)
  · unfold Chip.runOp; rw [ho]
    cases op <;> first | rfl | exact absurd rfl h1 | exact absurd rfl h2

theorem Chip.slotDone_vld {f : VecF} {off str : U64} (ho : p.op = .vec .vld f off str) (hp : k.consumesPoison c p.op = false) :
    k.slotDone c b .none { preps := [p], mov := none, sync := none } = k.updCluster c (fun y =>
      y.issued.updVUnit f.unit.toNat (fun u => u.after (vldRun (k.storeByte c) u.v u.m f off.toNat str.toNat))) := by
  refine Chip.slotDone_plain
    (g := fun y => y.updVUnit f.unit.toNat (fun u => u.after (vldRun (k.storeByte c) u.v u.m f off.toNat str.toNat))) hb hn hf he
    (by unfold Cluster.noteMode; rw [ho]) (by rw [ho]; intros; exact EngOp.noConfusion) hp ?_ rfl rfl rfl
  have hs : (k.updCluster c (·.holding p)).storeByte c = k.storeByte c := funext (Chip.storeByte_holding k c p)
  unfold Chip.runOp; rw [hs, ho]

theorem Chip.slotDone_vst {f : VecF} {off str : U64} (ho : p.op = .vec .vst f off str) :
    k.slotDone c b .none { preps := [p], mov := none, sync := none } =
      ((k.updCluster c (·.holding p)).runVst c f off.toNat str.toNat).updCluster c (·.ended (k.cluster c).nextNo p.eng) := by
  rw [Chip.slotDone_engine hb hn hf he (by rw [ho]; intros; exact EngOp.noConfusion) (by rw [ho]; rfl)]
  unfold Chip.runOp; rw [ho]

theorem Chip.slotDone_sfu {op : SfuOp} {f : SfuF} {bk : LutBank} (ho : p.op = .sfu op f) (hbk : (k.cluster c).lut.activeBank = bk) :
    k.slotDone c b .none { preps := [p], mov := none, sync := none } = k.updCluster c (fun y =>
      y.issued.updVUnit f.unit.toNat (fun u => u.after (sfuRun u.v u.m op f bk))) := by
  refine Chip.slotDone_plain (g := fun y => y.updVUnit f.unit.toNat (fun u => u.after (sfuRun u.v u.m op f bk))) hb hn hf he
    (by unfold Cluster.noteMode; rw [ho]) (by rw [ho]; intros; exact EngOp.noConfusion)
    (by rw [ho]; unfold Chip.consumesPoison; rfl) ?_ ?_ ?_ ?_
  · unfold Chip.runOp; dsimp only; rw [ho, Chip.cluster_upd_self]
    dsimp only; rw [(Cluster.holding_rest (k.cluster c) p).2.2, hbk]
  · simp only [Cluster.updVUnit]
  · rfl
  · rfl

theorem Chip.slotDone_lutLd {off : Nat} (ho : p.op = .lutLd off) (hp : k.consumesPoison c p.op = false) :
    k.slotDone c b .none { preps := [p], mov := none, sync := none } = k.updCluster c (fun y =>
      { y.issued with lut := y.lut.load (lutImage (k.storeByte c) off) }) := by
  refine Chip.slotDone_plain (g := fun y => { y with lut := y.lut.load (lutImage (k.storeByte c) off) }) hb hn hf he
    (by unfold Cluster.noteMode; rw [ho]) (by rw [ho]; intros; exact EngOp.noConfusion) hp ?_ rfl rfl rfl
  have hs : (k.updCluster c (·.holding p)).storeByte c = k.storeByte c := funext (Chip.storeByte_holding k c p)
  unfold Chip.runOp; rw [hs, ho]

theorem Chip.slotDone_lutCommit (ho : p.op = .lutCommit) :
    k.slotDone c b .none { preps := [p], mov := none, sync := none } =
      k.updCluster c (fun y => { y.issued with lut := y.lut.commit }) := by
  refine Chip.slotDone_plain (g := fun y => { y with lut := y.lut.commit }) hb hn hf he
    (by unfold Cluster.noteMode; rw [ho]) (by rw [ho]; intros; exact EngOp.noConfusion) (by rw [ho]; unfold Chip.consumesPoison; rfl) ?_ rfl rfl rfl
  unfold Chip.runOp; rw [ho]

end kinds

end Sys2Proof.Machine
end

