-- ==== Sys2Proof/Laws/Mailbox.lean ====
section
/-! SUPPORT. Lemmas about the mailboxes and about the rows that work on a running command. -/

namespace Sys2Proof.Machine

@[simp] theorem Mgmt.box_upd (m : Mgmt) (n : Nat) (f : Mailbox → Mailbox) : (m.updBox n f).box n = f (m.box n) := by
  simp [Mgmt.box, Mgmt.updBox]

@[simp] theorem Chip.box_upd (k : Chip) (n : Nat) (f : Mailbox → Mailbox) : (k.updBox n f).box n = f (k.box n) := by
  simp [Chip.box, Chip.updBox, Chip.onMgmt]

@[simp] theorem Chip.updBox_upd (k : Chip) (n : Nat) (f g : Mailbox → Mailbox) :
    (k.updBox n f).updBox n g = k.updBox n (fun b => g (f b)) := by
  simp [Chip.updBox, Chip.onMgmt, Mgmt.updBox]

theorem Chip.updBox_congr {k : Chip} {n : Nat} {f g : Mailbox → Mailbox} (h : f (k.box n) = g (k.box n)) :
    k.updBox n f = k.updBox n g := by
  unfold Chip.box Mgmt.box at h
  simp [Chip.updBox, Chip.onMgmt, Mgmt.updBox, tblMod, h]

/-- A row whose mailbox runs its command, of an opcode without input. -/
theorem State.runRow_of_noInput {s : State} {mb op : Nat} {f : State → CmdCtx → CmdEnd} {c : CmdInfo}
    (h : s.commandRuns mb op) (hc : cmdInfo op = some c) (hn : c.nIn = 0) :
    s.runRow mb op f =
      let b := s.chip.box mb
      let r := f s { mb := mb, slot := b.copied, begun := b.begun, input := some [], room := b.outRoom 0 }
      r.1.onChip (fun k => k.updBox mb (fun b => { b with result := r.2, begun := true })) := by
  obtain ⟨h1, h2, h3⟩ := h
  have hr : s.recheck mb = s := by simp [State.recheck, h1]
  simp [State.runRow, hr, h1, h2, h3, hc, hn]

/-- A row whose mailbox runs its command, of an opcode with an input buffer. -/
theorem State.runRow_of_input {s : State} {mb op : Nat} {f : State → CmdCtx → CmdEnd} {c : CmdInfo} {j : Chip} {inp : Option Bytes}
    (h : s.commandRuns mb op) (hc : cmdInfo op = some c) (hn : c.nIn ≠ 0) (hb : s.chip.cmdInput mb = (j, inp)) :
    s.runRow mb op f =
      let b := s.chip.box mb
      let r := f { s with chip := j } { mb := mb, slot := b.copied, begun := b.begun, input := inp, room := b.outRoom c.nIn }
      r.1.onChip (fun k => k.updBox mb (fun b => { b with result := r.2, begun := true })) := by
  obtain ⟨h1, h2, h3⟩ := h
  have hr : s.recheck mb = s := by simp [State.recheck, h1]
  simp [State.runRow, hr, h1, h2, h3, hc, hn, hb]

end Sys2Proof.Machine
end

