-- ==== Sys2Proof/Laws/Memory.lean ====
section
/-! SUPPORT. Memory: what a read finds after a write, and that every write keeps the canonical form. -/

namespace Sys2Proof.Machine

/-! ## Bytes of a number -/

@[simp] theorem toBytes_length (n x : Nat) : (toBytes n x).length = n := by
  induction n generalizing x with
  | zero => rfl
  | succ n ih => simp [toBytes, ih]

theorem toBytes_getD (n x i : Nat) (h : i < n) : (toBytes n x).getD i 0 = BitVec.ofNat 8 (x / 256 ^ i) := by
  induction n generalizing x i with
  | zero => omega
  | succ n ih =>
    cases i with
    | zero => simp [toBytes]
    | succ i =>
      have := ih (x / 256) i (by omega)
      simp only [toBytes, List.getD_cons_succ, this, Nat.div_div_eq_div_mul, Nat.pow_succ, Nat.mul_comm]

/-! ## A read after a write -/

theorem tblGet_putBytes (m : SMap Byte) (la : Nat) (bs : Bytes) (a : Nat) :
    tblGet 0 (putBytes m la bs) a = if la ≤ a ∧ a < la + bs.length then bs.getD (a - la) 0 else tblGet 0 m a := by
  induction bs generalizing m la with
  | nil => simp only [putBytes, List.length_nil]; rw [if_neg (by omega)]
  | cons b bs ih =>
    rw [putBytes, ih, List.length_cons]
    by_cases h : la + 1 ≤ a ∧ a < la + 1 + bs.length
    · rw [if_pos h, if_pos (by omega)]
      have : a - la = (a - (la + 1)) + 1 := by omega
      rw [this, List.getD_cons_succ]
    · rw [if_neg h, tblGet_put]
      by_cases he : a = la
      · rw [if_pos he, if_pos (by omega)]; subst he; simp
      · rw [if_neg he, if_neg (by omega)]

/-- A byte of memory after a run of bytes is stored. -/
theorem Chip.byte_poke (k : Chip) (la : Nat) (bs : Bytes) (a : Nat) :
    (k.poke la bs).byte a = if la ≤ a ∧ a < la + bs.length then bs.getD (a - la) 0 else k.byte a :=
  tblGet_putBytes k.mem la bs a

@[simp] theorem Chip.byte_setPoison (k : Chip) (l : Nat) (p : Bool) (a : Nat) : (k.setPoison l p).byte a = k.byte a := rfl

theorem Chip.foldl_setPoison_mem (ls : List Nat) (f : Chip → Nat → Bool) (k : Chip) :
    (ls.foldl (fun k l => k.setPoison l (f k l)) k).mem = k.mem := by
  induction ls generalizing k with
  | nil => rfl
  | cons l ls ih => exact (ih _).trans rfl

/-- A byte of memory after a write by any agent. -/
theorem Chip.byte_writeMem (k : Chip) (la : Nat) (bs : Bytes) (p : Bool) (a : Nat) :
    (k.writeMem la bs p).byte a = if la ≤ a ∧ a < la + bs.length then bs.getD (a - la) 0 else k.byte a := by
  have h : (k.writeMem la bs p).mem = (k.poke la bs).mem := Chip.foldl_setPoison_mem _ _ _
  unfold Chip.byte; rw [h]; exact Chip.byte_poke k la bs a

/-- A byte of memory after a number is stored, lowest byte first. -/
theorem Chip.byte_writeNat (k : Chip) (la n v : Nat) (p : Bool) (a : Nat) :
    (k.writeMem la (toBytes n v) p).byte a =
      if la ≤ a ∧ a < la + n then BitVec.ofNat 8 (v / 256 ^ (a - la)) else k.byte a := by
  rw [Chip.byte_writeMem, toBytes_length]
  split
  · rw [toBytes_getD _ _ _ (by omega)]
  · rfl

theorem Chip.foldl_setPoison_eq (ls : List Nat) (f : Chip → Nat → Bool) (k : Chip) :
    ls.foldl (fun k l => k.setPoison l (f k l)) k =
      { k with poison := (ls.foldl (fun k l => k.setPoison l (f k l)) k).poison } := by
  induction ls generalizing k with
  | nil => rfl
  | cons l ls ih => simp only [List.foldl_cons]; rw [ih]; rfl

/-- A write by any agent changes memory bytes and poison only, and notes the write at prepared descriptors. -/
theorem Chip.writeMem_eq (k : Chip) (la : Nat) (bs : Bytes) (p : Bool) :
    k.writeMem la bs p = { k with
      mem := putBytes k.mem la bs, poison := (k.writeMem la bs p).poison,
      watch := k.watch.map (·.note la bs.length) } := by
  unfold Chip.writeMem
  exact Chip.foldl_setPoison_eq _ _ _

/-! ## Canonical form -/

/-- The canonical form of the bytes and the poison of memory. -/
def Chip.memWf (k : Chip) : Bool := tblWf 0 k.mem && tblWf false k.poison

theorem tblWf_putBytes (m : SMap Byte) (la : Nat) (bs : Bytes) (h : tblWf 0 m = true) :
    tblWf 0 (putBytes m la bs) = true := by
  induction bs generalizing m la with
  | nil => exact h
  | cons b bs ih => exact ih _ _ (tblWf_put 0 m la b h)

theorem Chip.memWf_poke (k : Chip) (la : Nat) (bs : Bytes) (h : k.memWf = true) : (k.poke la bs).memWf = true := by
  simp only [Chip.memWf, Bool.and_eq_true] at h ⊢
  exact ⟨tblWf_putBytes _ _ _ h.1, h.2⟩

theorem Chip.memWf_setPoison (k : Chip) (l : Nat) (p : Bool) (h : k.memWf = true) : (k.setPoison l p).memWf = true := by
  simp only [Chip.memWf, Bool.and_eq_true] at h ⊢
  exact ⟨h.1, tblWf_put false _ _ _ h.2⟩

theorem Chip.memWf_foldl_setPoison (ls : List Nat) (f : Chip → Nat → Bool) (k : Chip) (h : k.memWf = true) :
    (ls.foldl (fun k l => k.setPoison l (f k l)) k).memWf = true := by
  induction ls generalizing k with
  | nil => exact h
  | cons l ls ih => exact ih _ (Chip.memWf_setPoison _ _ _ h)

theorem Chip.memWf_writeMem (k : Chip) (la : Nat) (bs : Bytes) (p : Bool) (h : k.memWf = true) :
    (k.writeMem la bs p).memWf = true := Chip.memWf_foldl_setPoison _ _ _ (Chip.memWf_poke _ _ _ h)

theorem Chip.memWf_writeLine (k : Chip) (l : Nat) (d : LineData) (p : Bool) (h : k.memWf = true) :
    (k.writeLine l d p).memWf = true := Chip.memWf_setPoison _ _ _ (Chip.memWf_poke _ _ _ h)

theorem Chip.memWf_mergeLine (k : Chip) (l : Nat) (m : BitVec 128) (d : LineData) (p : Bool) (h : k.memWf = true) :
    (k.mergeLine l m d p).memWf = true := by
  unfold Chip.mergeLine
  refine Chip.memWf_setPoison _ _ _ ?_
  generalize List.range 128 = is
  induction is generalizing k with
  | nil => exact h
  | cons i is ih =>
    refine ih _ ?_
    beta_reduce
    split
    · exact Chip.memWf_poke _ _ _ h
    · exact h

theorem Chip.memWf_reset : Chip.reset.memWf = true := rfl

end Sys2Proof.Machine
end

