-- ==== Sys2Proof/Laws/OwnStore.lean ====
section
/-! SUPPORT. A load and a store of a sequencer to its own store, with nothing else outstanding. -/

namespace Sys2Proof.Machine

/-- The own store is an ordered location of this module. -/
theorem Chip.ordered_of_inOwnStore {k : Chip} {c pa : Nat} (h : k.inOwnStore c pa = true) : k.ordered c pa = true ∧ k.isOwn pa = true := by
  simp only [Chip.inOwnStore, Bool.and_eq_true] at h
  simp only [Chip.ordered, h.1.1, h.1.2, h.2, Bool.and_self, Bool.or_true, and_self]
/-- The note that a cluster has written bytes of its own store touches that cluster's list of unseen bytes only. -/
theorem Chip.ownWritten_cluster (k : Chip) (c la n d : Nat) :
    (k.ownWritten c la n).cluster d = { k.cluster d with dim := ((k.ownWritten c la n).cluster d).dim } := by
  unfold Chip.ownWritten
  split
  · rfl
  · by_cases h : d = c
    · subst h; rw [Chip.cluster_upd_self]
    · rw [Chip.cluster_upd_ne _ _ h]
theorem Chip.ownWritten_ne (k : Chip) {c d : Nat} (la n : Nat) (h : d ≠ c) : (k.ownWritten c la n).cluster d = k.cluster d := by
  unfold Chip.ownWritten; split
  · rfl
  · exact Chip.cluster_upd_ne _ _ h
@[simp] theorem Chip.byte_ownWritten (k : Chip) (c la n a : Nat) : (k.ownWritten c la n).byte a = k.byte a := by
  unfold Chip.ownWritten; split
  · rfl
  · exact Chip.byte_updCluster _ _ _ _
/-- A cluster finds the bytes that it has written itself (08_movers_and_run_ahead.md R273). -/
theorem Chip.ownByte_ownWritten (k : Chip) {c la n a : Nat} (h : la ≤ a ∧ a < la + n) :
    (k.ownWritten c la n).ownByte c a = k.byte a := by
  have hd : tblGet none ((k.ownWritten c la n).cluster c).dim a = none := by
    unfold Chip.ownWritten
    split
    · rename_i e; rw [e]; rfl
    · rw [Chip.cluster_upd_self]
      generalize (k.cluster c).dim = l
      show tblGet none (l.filter _) a = none
      induction l with
      | nil => rfl
      | cons e es ih =>
        by_cases he : la ≤ e.1 ∧ e.1 < la + n
        · rw [List.filter_cons_of_neg (by simp [he])]; exact ih
        · rw [List.filter_cons_of_pos (by simp; omega), tblGet]
          split
          · rename_i h2; exact absurd h (h2 ▸ he)
          · exact ih
  unfold Chip.ownByte; rw [hd]; exact Chip.byte_ownWritten _ _ _ _ _

/-- Eight bytes extend to themselves. -/
theorem extend_eight (bs : Bytes) : extend 8 true bs = BitVec.ofNat 64 (ofBytes bs) := by
  simp only [extend]
  split
  · apply BitVec.eq_of_toNat_eq; simp
  · rfl
/-- A mover after its pre-issued commands are discarded, where it has none. -/
def Mover.keepAll (p : MovCmd → Bool) (v : Mover) : Mover := { v with cmds := v.cmds.filterMap (fun m => if m.speculative && p m then m.discard else some m), discarded := satAdd v.discarded 0 }
theorem Mover.keepAll_cmds (p : MovCmd → Bool) (v : Mover) (hl : ∀ d ∈ v.cmds, d.speculative = false) : (Mover.keepAll p v).cmds = v.cmds := by
  show v.cmds.filterMap _ = v.cmds
  generalize v.cmds = l at hl
  induction l with
  | nil => rfl
  | cons d l ih => 
    rw [List.filterMap_cons, hl d (by simp)]; simp only [Bool.false_and, Bool.false_eq_true, if_false]; rw [ih (fun e he => hl e (by simp [he]))]
/-- A discard of a mover that holds no pre-issued command. -/
theorem Cluster.discardOf_of_none (y : Cluster) (n : Nat) (p : MovCmd → Bool) (hy : ∀ d ∈ (y.mover n).cmds, d.speculative = false) : y.discardOf n p = y.updMover n (Mover.keepAll p) := by
  have : (y.mover n).cmds.filter (fun m => m.speculative && p m) = [] := by
    rw [List.filter_eq_nil_iff]; intro d hd; simp [hy d hd]
  unfold Cluster.discardOf; rw [this]; rfl
/-- A discard where nothing is pre-issued changes the movers' counts at most. -/
theorem Cluster.discardIf_of_quiet {x : Cluster} (h : x.quiet = true) (p : MovCmd → Bool) :
   ∃ m, x.discardIf p = { x with movers := m } ∧ (x.discardIf p).quiet = true := by
  have hq := Cluster.any_speculative_of_quiet h
  simp only [List.any_cons, List.any_nil, Bool.or_false, Bool.or_eq_false_iff, List.any_eq_false, Bool.not_eq_true] at hq
  have e0 := Cluster.discardOf_of_none x 0 p hq.1
  have q1 : ∀ d ∈ ((x.updMover 0 (Mover.keepAll p)).mover 1).cmds, d.speculative = false := by
    rw [Cluster.mover_upd_ne _ _ (by omega)]; exact hq.2
  have e1 : x.discardIf p = (x.updMover 0 (Mover.keepAll p)).updMover 1 (Mover.keepAll p) := by
    unfold Cluster.discardIf; rw [e0]; exact Cluster.discardOf_of_none _ 1 p q1
  refine ⟨((x.updMover 0 (Mover.keepAll p)).updMover 1 (Mover.keepAll p)).movers, ?_, ?_⟩
  · rw [e1, Cluster.updMover_eq, Cluster.updMover_eq]
  · rw [e1]
    have hm0 : (((x.updMover 0 (Mover.keepAll p)).updMover 1 (Mover.keepAll p)).mover 0).cmds = (x.mover 0).cmds := by
      rw [Cluster.mover_upd_ne _ _ (by omega), Cluster.mover_upd_self, Mover.keepAll_cmds _ _ hq.1]
    have hm1 : (((x.updMover 0 (Mover.keepAll p)).updMover 1 (Mover.keepAll p)).mover 1).cmds = (x.mover 1).cmds := by
      rw [Cluster.mover_upd_self, Cluster.mover_upd_ne _ _ (by omega), Mover.keepAll_cmds _ _ hq.2]
    unfold Cluster.quiet at h ⊢
    have hl : ((x.updMover 0 (Mover.keepAll p)).updMover 1 (Mover.keepAll p)).loads = x.loads := rfl
    have hs : ((x.updMover 0 (Mover.keepAll p)).updMover 1 (Mover.keepAll p)).stores = x.stores := rfl
    simp only [List.all_cons, List.all_nil, hm0, hm1, hl, hs] at h ⊢
    exact h
/-- The one outstanding load of the own store is performed at once. -/
theorem Chip.drainAll_ownLoad {k : Chip} {c : Nat} {a : ScAcc} (hl : (k.cluster c).loads = [a]) (hs : (k.cluster c).stores = [])
    (hk : a.kind = .load true) (hz : a.size = 8) (hin : k.inOwnStore c a.pa = true) (hc : (k.cluster c).claims = [])
    (hp : k.poisoned (lineOf (paLocal (k.placeOf c a.space a.claim a.pa))) = false) :
    k.drainAll c = k.updCluster c (fun y => ({ y with loads := [] } : Cluster).setReg a.rd
      (BitVec.ofNat 64 (ofBytes (k.ownBytes c (paLocal (k.placeOf c a.space a.claim a.pa)) 8)))) := by
  obtain ⟨ho, hw⟩ := Chip.ordered_of_inOwnStore hin
  have hcl : (k.cluster c).claimWait a.no a.claim a.size false = false := by
    unfold Cluster.claimWait; split
    · rfl
    · rw [hc]; rfl
  have htry : k.tryLoad c a = k.updCluster c (fun y => ({ y with loads := [] } : Cluster).setReg a.rd
      (BitVec.ofNat 64 (ofBytes (k.ownBytes c (paLocal (k.placeOf c a.space a.claim a.pa)) 8)))) := by
    have hos : k.olderStores c a.id = [] := by
      unfold Chip.olderStores
      simp only [hs, List.filter_nil, List.map_nil]
    rw [hz] at hcl
    have hf : (k.cluster c).loads.filter (fun b => decide (b.id ≠ a.id)) = [] := by rw [hl]; simp
    unfold Chip.tryLoad Chip.finishLoad
    simp only [hk, hin, if_true, hcl, Bool.false_eq_true, if_false, hp, hz, hos, overlay, ite_self, extend_eight, Chip.updCluster_upd]
    apply Chip.updCluster_congr
    simp only [hf]
  generalize hv : BitVec.ofNat 64 (ofBytes (k.ownBytes c (paLocal (k.placeOf c a.space a.claim a.pa)) 8)) = v at htry ⊢
  have h2l : ((k.updCluster c (fun y => ({ y with loads := [] } : Cluster).setReg a.rd v)).cluster c).loads = [] := by
    rw [Chip.cluster_upd_self, Cluster.setReg_eq]
  have h2s : ((k.updCluster c (fun y => ({ y with loads := [] } : Cluster).setReg a.rd v)).cluster c).stores = [] := by
    rw [Chip.cluster_upd_self, Cluster.setReg_eq]; exact hs
  unfold Chip.drainAll
  rw [hl, hs]
  have hfind : (k.cluster c).loads.find? (fun a => k.ordered c a.pa) = some a := by rw [hl]; simp [List.find?, ho]
  simp only [List.length_cons, List.length_nil]
  rw [Chip.drain, hfind]
  simp only [htry, h2s, List.find?_nil, Chip.sendRemote_of_empty h2l h2s]
  split
  · rfl
  · exact Chip.drain_of_empty h2l h2s _
/-- The one buffered store to the own store is written at once. -/
theorem Chip.drainAll_ownStore {k : Chip} {c : Nat} {a : StoreEnt} (hl : (k.cluster c).loads = []) (hs : (k.cluster c).stores = [a])
    (hz : a.sent = false) (hin : k.inOwnStore c a.pa = true) (hc : (k.cluster c).claims = []) :
    k.drainAll c = ((k.writeMem (paLocal (k.placeOf c a.space a.claim a.pa)) a.data false).ownWritten c
      (paLocal (k.placeOf c a.space a.claim a.pa)) a.data.length).updCluster c (fun y => { y with stores := [] }) := by
  obtain ⟨ho, hw⟩ := Chip.ordered_of_inOwnStore hin
  have hcl : (k.cluster c).claimWait a.no a.claim a.data.length true = false := by
    unfold Cluster.claimWait; split
    · rfl
    · rw [hc]; rfl
  generalize hj : (k.writeMem (paLocal (k.placeOf c a.space a.claim a.pa)) a.data false).ownWritten c
    (paLocal (k.placeOf c a.space a.claim a.pa)) a.data.length = j
  have hjc : (j.cluster c).loads = (k.cluster c).loads ∧ (j.cluster c).stores = (k.cluster c).stores := by
    rw [← hj, Chip.writeMem_eq]
    unfold Chip.ownWritten
    split
    · exact ⟨rfl, rfl⟩
    · rw [Chip.cluster_upd_self]; exact ⟨rfl, rfl⟩
  have htry : k.tryStore c a = j.updCluster c (fun y => { y with stores := [] }) := by
    have hb : k.loadsBefore c a.id = false := by unfold Chip.loadsBefore; rw [hl]; rfl
    have hf : (j.cluster c).stores.filter (fun b => decide (b.id ≠ a.id)) = [] := by rw [hjc.2, hs]; simp
    unfold Chip.tryStore
    simp only [hb, hin, if_true, hcl, Bool.false_eq_true, if_false, hj]
    apply Chip.updCluster_congr
    simp only [hf]
  have h2l : ((j.updCluster c (fun y => { y with stores := [] })).cluster c).loads = [] := by
    rw [Chip.cluster_upd_self]; exact hjc.1.trans hl
  have h2s : ((j.updCluster c (fun y => { y with stores := [] })).cluster c).stores = [] := by
    rw [Chip.cluster_upd_self]
  unfold Chip.drainAll
  rw [hl, hs]
  have hfind : (k.cluster c).stores.find? (fun a => k.ordered c a.pa) = some a := by rw [hs]; simp [List.find?, ho]
  simp only [List.length_cons, List.length_nil]
  rw [Chip.drain, hl]
  simp only [List.find?_nil, hfind, hz, Bool.false_eq_true, if_false, htry, Chip.sendRemote_of_empty h2l h2s]
  split
  · rfl
  · exact Chip.drain_of_empty h2l h2s _

/-- What the pre-issued commands of a cluster are depends on its movers only. -/
theorem Cluster.any_speculative_congr {x y : Cluster} (h : y.movers = x.movers)
    (hx : ([0, 1] : List Nat).any (fun m => (x.mover m).cmds.any (·.speculative)) = false) :
    ([0, 1] : List Nat).any (fun m => (y.mover m).cmds.any (·.speculative)) = false := by
  have hm : ∀ m, y.mover m = x.mover m := fun m => by unfold Cluster.mover; rw [h]
  simp only [hm]; exact hx

theorem Chip.ownWritten_movers (k : Chip) (c la n d : Nat) : ((k.ownWritten c la n).cluster d).movers = (k.cluster d).movers := by
  rw [Chip.ownWritten_cluster]
theorem Chip.ownWritten_regs (k : Chip) (c la n d : Nat) : ((k.ownWritten c la n).cluster d).regs = (k.cluster d).regs := by
  rw [Chip.ownWritten_cluster]

/-- A store of a cluster to its own store discards nothing that is pre-issued where nothing is. -/
theorem Chip.dropOffPath_ownWritten {k : Chip} {c la n : Nat}
    (h : ([0, 1] : List Nat).any (fun m => ((k.cluster c).mover m).cmds.any (·.speculative)) = false) :
    ((k.ownWritten c la n).updCluster c (fun y => { y with stores := [] })).dropOffPath c =
      (k.ownWritten c la n).updCluster c (fun y => { y with stores := [] }) := by
  apply Chip.dropOffPath_of_none
  rw [Chip.cluster_upd_self]
  refine Cluster.any_speculative_congr ?_ h
  show ((k.ownWritten c la n).cluster c).movers = _
  exact Chip.ownWritten_movers k c la n c

/-- A load or atomic begins at a sequencer with nothing outstanding. -/
theorem Chip.scalarDone_access {k : Chip} {c : Nat} {i : Scalar} {kind : AccKind} {rd : SReg} {va : U64}
    {pa size : Nat} {cached : Bool} {space : Nat} {claim : Option Nat} (h : (k.cluster c).quiet = true) :
    ∃ (y : Cluster) (a : ScAcc), k.scalarDone c i (.access kind rd va pa size cached space claim) =
        ((k.updCluster c (fun _ => y)).drainAll c).dropOffPath c ∧
      y.loads = [a] ∧ a.rd = rd ∧ a.pa = pa ∧ a.size = size ∧ a.kind = kind ∧ a.cached = cached ∧ a.space = space ∧
      a.claim = claim ∧ a.no = (k.cluster c).nextNo ∧ y.stores = [] ∧ y.claims = (k.cluster c).claims ∧
      y.movers = (k.cluster c).movers ∧ y.zones = (k.cluster c).zones ∧ y.regs = (k.cluster c).regs ∧ y.dim = (k.cluster c).dim := by
  have hl := Cluster.loads_of_quiet h
  have hs := Cluster.stores_of_quiet h
  refine ⟨{ (k.cluster c).goOn (k.cluster c).pc i SAct.none with
    loads := [({ id := (k.cluster c).nextId, no := (k.cluster c).nextNo, rd := rd, pc := (k.cluster c).pc, va := va,
                 pa := pa, size := size, kind := kind, cached := cached, space := space, claim := claim,
                 answer := none } : ScAcc)]
    nextId := (k.cluster c).nextId + 1
    stream := Stream.reset
    nextNo := (k.cluster c).nextNo + 1
    whEnded := false, fetchRead := none, descRead := none, lockRead := none }, _, ?_, rfl, rfl, rfl, rfl, rfl, rfl, rfl, rfl, rfl, hs, rfl, rfl, rfl, rfl, rfl⟩
  simp only [Chip.scalarDone, Chip.slotDone, Ready.none, List.foldl_nil, Chip.commitBundle, scalarBundle, nopBundle,
    Chip.scalarEffect, Chip.beginAccess, Chip.updCluster_upd]
  refine congrArg (fun z => (Chip.drainAll z c).dropOffPath c) ?_
  apply Chip.updCluster_congr
  simp only [Cluster.goOn, Ready.claims, List.flatMap_nil, List.append_nil, Bool.false_eq_true, if_false,
    Cluster.forgetLoad_of_quiet h, Cluster.endStream, hl, List.nil_append]
  cases i <;> rfl

/-- A store that goes past the line cache begins at a sequencer with nothing outstanding. -/
theorem Chip.scalarDone_store {k : Chip} {c : Nat} {i : Scalar} {pa : Nat} {data : Bytes} {space : Nat}
    {claim : Option Nat} (h : (k.cluster c).quiet = true) (ho : k.isOwn pa = true) (hd : k.ordered c pa = true) :
    ∃ (y : Cluster) (a : StoreEnt), k.scalarDone c i (.store pa data false space claim) =
        ((k.updCluster c (fun _ => y)).drainAll c).dropOffPath c ∧
      y.stores = [a] ∧ a.pa = pa ∧ a.data = data ∧ a.cached = false ∧ a.space = space ∧ a.claim = claim ∧
      a.sent = false ∧ a.no = (k.cluster c).nextNo ∧ y.loads = [] ∧ y.claims = (k.cluster c).claims ∧
      ([0, 1] : List Nat).any (fun m => (y.mover m).cmds.any (·.speculative)) = false ∧
      y.zones = (k.cluster c).zones ∧ y.regs = (k.cluster c).regs ∧ y.dim = (k.cluster c).dim := by
  have hl := Cluster.loads_of_quiet h
  have hs := Cluster.stores_of_quiet h
  obtain ⟨m, hm, hq⟩ := Cluster.discardIf_of_quiet h (fun d => d.pieces.any (fun p => p.src / 128 = pa / 128))
  refine ⟨{ (k.cluster c).goOn (k.cluster c).pc i SAct.none with
    movers := m
    stores := [({ id := (k.cluster c).nextId, no := (k.cluster c).nextNo, pa := pa, data := data, cached := false,
                  sent := k.isOwn pa && !k.ordered c pa, space := space, claim := claim } : StoreEnt)]
    nextId := (k.cluster c).nextId + 1
    stream := Stream.reset
    nextNo := (k.cluster c).nextNo + 1
    whEnded := false, fetchRead := none, descRead := none, lockRead := none }, _, ?_, rfl, rfl, rfl, rfl, rfl, rfl, by simp only [ho, hd]; rfl, rfl, hl, rfl, ?_, rfl, rfl, rfl⟩
  · have he : k.beginStore c pa data false space claim = k.updCluster c (fun x =>
        let y := ({ x.discardIf (fun d => d.pieces.any (fun p => p.src / 128 = pa / 128)) with
          nextId := x.nextId + 1 } : Cluster).endStream
        { y with
          stores := y.stores ++ [({ id := (k.cluster c).nextId, no := (k.cluster c).nextNo, pa := pa, data := data,
                                    cached := false, sent := k.isOwn pa && !k.ordered c pa, space := space,
                                    claim := claim } : StoreEnt)] }) := by
      unfold Chip.beginStore
      simp only [Bool.false_eq_true, if_false, Chip.updCluster_upd]
    simp only [Chip.scalarDone, Chip.slotDone, Ready.none, List.foldl_nil, Chip.commitBundle, scalarBundle, nopBundle,
      Chip.scalarEffect, he, Chip.updCluster_upd]
    refine congrArg (fun z => (Chip.drainAll z c).dropOffPath c) ?_
    apply Chip.updCluster_congr
    simp only [hm, Cluster.goOn, Ready.claims, List.flatMap_nil, List.append_nil, Bool.false_eq_true, if_false,
      Cluster.endStream, hs, List.nil_append]
    cases i <;> rfl
  · refine Cluster.any_speculative_congr ?_ (Cluster.any_speculative_of_quiet hq)
    rw [hm]

/-- The place of an access depends on the landing zones and the device number only. -/
theorem Chip.placeOf_congr {k l : Chip} {c : Nat} (hz : (k.cluster c).zones = (l.cluster c).zones)
    (hf : k.fabric = l.fabric) (space : Nat) (claim : Option Nat) (pa : Nat) :
    k.placeOf c space claim pa = l.placeOf c space claim pa := by
  have hr : ∀ o, (k.cluster c).redirect o = (l.cluster c).redirect o := fun o => by
    unfold Cluster.redirect Cluster.zone; rw [hz]
  unfold Chip.placeOf; rw [hf]; simp only [hr]

end Sys2Proof.Machine
end

