-- ==== Sys2Proof/Laws/Report.lean ====
section
/-! SUPPORT. Lemmas about events and error records: what posting and recording change. -/

namespace Sys2Proof.Machine

theorem Mgmt.box_upd_ne (m : Mgmt) {n j : Nat} (f : Mailbox → Mailbox) (h : j ≠ n) : (m.updBox n f).box j = m.box j := by
  simp [Mgmt.box, Mgmt.updBox, tblGet_mod_ne _ _ _ h]

theorem Chip.box_upd_ne (k : Chip) {n j : Nat} (f : Mailbox → Mailbox) (h : j ≠ n) : (k.updBox n f).box j = k.box j :=
  Mgmt.box_upd_ne _ f h

/-- A run of mailboxes changed one by one: only the mailboxes differ. -/
theorem Mgmt.foldl_box (p : Mgmt → Nat → Bool) (f : Mailbox → Mailbox) (ns : List Nat) (m : Mgmt) :
    ∃ b, ns.foldl (fun m n => if p m n then m.updBox n f else m) m = { m with boxes := b } := by
  induction ns generalizing m with
  | nil => exact ⟨m.boxes, rfl⟩
  | cons n ns ih =>
    simp only [List.foldl_cons]
    split
    · obtain ⟨b, hb⟩ := ih (m.updBox n f)
      exact ⟨b, hb⟩
    · exact ih m

/-- Posting an event changes the mailboxes and takes the next sequence number. -/
theorem Mgmt.post_eq (m : Mgmt) (kind : BitVec 16) (sev unit : Nat) (d : List Nat) :
    ∃ b, m.post kind sev unit d = { m with boxes := b, evseq := m.evseq + 1 } := by
  obtain ⟨b, hb⟩ := Mgmt.foldl_box (fun m n => (m.box n).mask.getLsbD (eventGroup kind))
    (·.push (eventRecord kind m.evseq sev unit m.now (eventDetail d))) (List.range 16) m
  exact ⟨b, by simp only [Mgmt.post, hb]⟩

/-- An event leaves the time, the error bank, its index and flag, and the log as they are. -/
@[simp] theorem Mgmt.post_rest (m : Mgmt) (kind : BitVec 16) (sev unit : Nat) (d : List Nat) :
    (m.post kind sev unit d).bank = m.bank ∧ (m.post kind sev unit d).now = m.now ∧
    (m.post kind sev unit d).log = m.log ∧ (m.post kind sev unit d).errNext = m.errNext ∧
    (m.post kind sev unit d).errOverflow = m.errOverflow := by
  obtain ⟨b, h⟩ := m.post_eq kind sev unit d
  rw [h]; exact ⟨rfl, rfl, rfl, rfl, rfl⟩

/-- A mailbox whose mask selects the event gets the record, and no other changes. -/
theorem Mgmt.post_box (m : Mgmt) (kind : BitVec 16) (sev unit : Nat) (d : List Nat) (n : Nat) :
    (m.post kind sev unit d).box n =
      if n < 16 ∧ (m.box n).mask.getLsbD (eventGroup kind) = true then
        (m.box n).push (eventRecord kind m.evseq sev unit m.now (eventDetail d))
      else m.box n := by
  unfold Mgmt.post
  generalize eventRecord kind m.evseq sev unit m.now (eventDetail d) = r
  have key : ∀ (ns : List Nat) (m : Mgmt), ns.Nodup →
      (ns.foldl (fun m n => if (m.box n).mask.getLsbD (eventGroup kind) then m.updBox n (·.push r) else m) m).box n =
        if n ∈ ns ∧ (m.box n).mask.getLsbD (eventGroup kind) = true then (m.box n).push r else m.box n := by
    intro ns
    induction ns with
    | nil => simp
    | cons j ns ih =>
      intro m hd
      obtain ⟨hj, hd⟩ := List.nodup_cons.mp hd
      rw [List.foldl_cons, ih _ hd]
      by_cases hn : n = j
      · subst hn
        by_cases hm : (m.box n).mask.getLsbD (eventGroup kind) = true
        · simp [hm, hj]
        · simp [hm, hj]
      · have e : ((if (m.box j).mask.getLsbD (eventGroup kind) then m.updBox j (·.push r) else m) : Mgmt).box n = m.box n := by
          split
          · exact Mgmt.box_upd_ne _ _ hn
          · rfl
        rw [e]
        simp [hn]
  have := key (List.range 16) m List.nodup_range
  simp only [List.mem_range] at this
  exact this

/-- A record: the bank, the index, the overflow flag and the log. -/
theorem Mgmt.record_bank (m : Mgmt) (sev : Nat) (e : ErrInfo) (n : Nat) :
    (m.record sev e n).bank = (bankAdd m.bank (errRecord m.errNext sev e (BitVec.ofNat 32 n) m.now)).1 ∧
    (m.record sev e n).errNext = m.errNext + 1 ∧
    (m.record sev e n).errOverflow =
      (m.errOverflow || (bankAdd m.bank (errRecord m.errNext sev e (BitVec.ofNat 32 n) m.now)).2) ∧
    (m.record sev e n).log =
      (if logsNow m sev e then m.log ++ [errRecord m.errNext sev e (BitVec.ofNat 32 n) m.now] else m.log) ∧
    (m.record sev e n).now = m.now := by
  simp [Mgmt.record]

theorem dropCorrected_length (b : List (BitVec 512)) (h : b.any (fun x => recSeverity x = 0) = true) :
    (dropCorrected b).length + 1 = b.length := by
  induction b with
  | nil => simp at h
  | cons r rs ih =>
    by_cases hr : recSeverity r = 0
    · simp [dropCorrected, hr]
    · have h' : rs.any (fun x => recSeverity x = 0) = true := by simpa [hr] using h
      simp only [dropCorrected, hr, if_false, List.length_cons, ih h']

theorem mem_dropCorrected {b : List (BitVec 512)} {x : BitVec 512} (h : x ∈ b) (hx : recSeverity x ≠ 0) : x ∈ dropCorrected b := by
  induction b with
  | nil => exact absurd h List.not_mem_nil
  | cons r rs ih =>
    by_cases hr : recSeverity r = 0
    · rcases List.mem_cons.mp h with rfl | h
      · exact absurd hr hx
      · simpa [dropCorrected, hr] using h
    · simp only [dropCorrected, hr, if_false, List.mem_cons]
      rcases List.mem_cons.mp h with rfl | h
      · exact Or.inl rfl
      · exact Or.inr (ih h)

/-- The bank never holds more than 1,024 records. -/
theorem bankAdd_length (b : List (BitVec 512)) (r : BitVec 512) (h : b.length ≤ 1024) : (bankAdd b r).1.length ≤ 1024 := by
  unfold bankAdd
  split
  · simp only [List.length_append, List.length_cons, List.length_nil]; omega
  · split
    · rename_i h2
      have := dropCorrected_length b h2
      simp only [List.length_append, List.length_cons, List.length_nil]; omega
    · exact h

section Frames

variable (k : Chip) (sev : Nat) (e : ErrInfo) (n : Nat) (kind : BitVec 16) (u : Nat) (d : List Nat)

@[simp] theorem Chip.report_clusters : (k.report sev e n).clusters = k.clusters := rfl
@[simp] theorem Chip.post_clusters : (k.post kind sev u d).clusters = k.clusters := rfl
@[simp] theorem Chip.report_quads : (k.report sev e n).quads = k.quads := rfl
@[simp] theorem Chip.post_quads : (k.post kind sev u d).quads = k.quads := rfl
@[simp] theorem Chip.report_harts : (k.report sev e n).harts = k.harts := rfl
@[simp] theorem Chip.post_harts : (k.post kind sev u d).harts = k.harts := rfl
@[simp] theorem Chip.report_mem : (k.report sev e n).mem = k.mem := rfl
@[simp] theorem Chip.post_mem : (k.post kind sev u d).mem = k.mem := rfl
@[simp] theorem Chip.report_poison : (k.report sev e n).poison = k.poison := rfl
@[simp] theorem Chip.post_poison : (k.post kind sev u d).poison = k.poison := rfl
@[simp] theorem Chip.report_fabric : (k.report sev e n).fabric = k.fabric := rfl
@[simp] theorem Chip.post_fabric : (k.post kind sev u d).fabric = k.fabric := rfl
@[simp] theorem Chip.report_homes : (k.report sev e n).homes = k.homes := rfl
@[simp] theorem Chip.post_homes : (k.post kind sev u d).homes = k.homes := rfl
@[simp] theorem Chip.report_net : (k.report sev e n).net = k.net := rfl
@[simp] theorem Chip.post_net : (k.post kind sev u d).net = k.net := rfl

end Frames

@[simp] theorem Chip.byte_report (k : Chip) (sev : Nat) (e : ErrInfo) (n a : Nat) : (k.report sev e n).byte a = k.byte a := rfl
@[simp] theorem Chip.byte_post (k : Chip) (kind : BitVec 16) (sev u : Nat) (d : List Nat) (a : Nat) : (k.post kind sev u d).byte a = k.byte a := rfl

/-- Sizes and alignment that a register place takes (R76). -/
theorem State.regCheckAt_some (s : State) (src : Option Nat) (la size : Nat) (l : RegLoc) :
    s.regCheckAt src la size (some l) =
      if la % size = 0 ∧ (size = 4 ∨ size = 8 ∨ l.dataArea = true ∧ (size = 1 ∨ size = 2)) then
        match l.quadOf with
        | some q => if s.regShut src q then .lost else .ok l
        | none => .ok l
      else .misaligned := by
  have e : (decide (la % size ≠ 0) || !(decide (size = 4) || decide (size = 8) ||
      (l.dataArea && (decide (size = 1) || decide (size = 2))))) =
      !decide (la % size = 0 ∧ (size = 4 ∨ size = 8 ∨ l.dataArea = true ∧ (size = 1 ∨ size = 2))) := by
    simp [Bool.and_assoc]
  by_cases p : la % size = 0 ∧ (size = 4 ∨ size = 8 ∨ l.dataArea = true ∧ (size = 1 ∨ size = 2))
  · simp only [State.regCheckAt, e, if_pos p, decide_eq_true p, Bool.not_true, Bool.false_eq_true, if_false] <;>
      cases l.quadOf <;> rfl
  · simp only [State.regCheckAt, e, if_neg p, decide_eq_false p, Bool.not_false, if_true]

theorem State.regCheck_none {s : State} {src : Option Nat} {la size : Nat} (h : s.chip.regLoc la = none) :
    s.regCheck src la size = .nothing := by
  unfold State.regCheck; rw [h]; rfl

end Sys2Proof.Machine
end

