-- ==== Sys2Proof/WellFormed.lean ====
section
/-! DEFINITION. Which commands name units and numbers that exist on a full module: clusters 0-95,
quadrants 0-3, harts 0-63, hinges, sides, ports, mailboxes and so on (00_scope.md R1, R2). A command
that is not well-formed finds nothing to act on. -/

namespace Sys2Proof

def okCluster (c : Nat) : Bool := decide (c < 96)
def okQuad (q : Nat) : Bool := decide (q < 4)
def okHart (h : Nat) : Bool := decide (h < 64)
def okHinge (h : Nat) : Bool := decide (h < 8)
def okSide (s : Nat) : Bool := decide (s < 16)
/-- A bundle of a hinge side: 8 on a host hinge and 16 on a base hinge (R21). -/
def okBundle (s b : Nat) : Bool := okSide s && decide (b < (if s < 4 || s % 3 = 1 then 8 else 16))
def okBox (n : Nat) : Bool := decide (n < 16)
/-- Mailboxes that run commands: 0-15, and 16-31 for relayed commands (notes/assumptions/60.md). -/
def okCommandBox (n : Nat) : Bool := decide (n < 32)
def okPort (p : Nat) : Bool := decide (p < 12)
def okAgent (a : Nat) : Bool := decide (a < 160)
/-- A line number is a local physical address without its low seven bits. -/
def okLine (l : Nat) : Bool := decide (l < 2 ^ 43)
def okSize (n : Nat) : Bool := n = 1 || n = 2 || n = 4 || n = 8

/-- A PCIe request names a root port and crosses no 4 KiB boundary (15_host_die.md R447). -/
def okPcie (f : PcieReq) (n : Nat) : Bool :=
  decide (f.port < 2) && decide (1 ≤ n) && decide (f.addr.toNat % 4096 + n ≤ 4096)

/-- An RDMA request names an Ethernet port. -/
def okRdma (r : RdmaReq) (n : Nat) : Bool := decide (r.port < 2) && decide (r.addr.toNat + n ≤ 2 ^ 64)

/-- Well-formed commands. -/
def Instr.wf (i : Instr) : Bool :=
  match i with
  | .registerWrite _ _ size _ => okSize size
  | .hingeMessageSend side _ => okSide side
  | .msgFlit side b _ | .idleFlit side b _ | .replayFlit side b _ | .retrainFlit side b _
  | .discFlit side b _ | .widthFlit side b _ | .replayLimit side b | .flitAckTimeout side b
  | .forwardedClockLoss side b => okBundle side b
  | .hingeAttemptStart h | .hingeClockLock h | .hingeDeskewDone h | .hingePatternDone h _ _
  | .hingeStateTimeout h | .hingeFailcountReset h => okHinge h
  | .hostLossTimeout q | .dspCtlWrite q _ | .launchStart q | .launchCompletion q _ | .dspAbort q _
  | .dspCrst q _ | .haspBankApply q _ | .hspOpAdd q _ _ | .hspOpSet q _ _ | .hspOpReset q _
  | .hspRop _ q _ _ _ | .xltInvalSpace q _ | .railOvercurrent q | .railOvercurrentRelease q => okQuad q
  | .discSendTimer die => decide (die < 5)
  | .discoveryClose | .atomic _ _ _ _ _ | .invalidationComplete _ | .flashRead _ _ | .flashReadTimeout _
  | .flashBackgroundRelocate _ | .flashCounterSave | .flashScrub _ _ | .flashDeferEnd | .relayResendTimer _
  | .rdmaAckReceive _ | .rootSlewStart | .powerWindow _ | .vinPeakTimeout | .estimatorCalibrated
  | .energyUpdate _ | .bootWatchdog | .hartFwConfirm | .remoteSessionOpen _ | .remoteSessionTimeout
  | .correctedError _ | .uncorrectableError _ | .pwrEnRise | .pwrEnFall | .modRstNFall | .modRstNRise
  | .vinRise | .vinDip _ | .vinLoss | .vinOvervoltage | .vsbLoss | .refclkLoss | .smbWriteWord _ _
  | .smbBlockWrite _ _ | .smbAlertResponse | .rootSlewEnd | .rdmaWriteTimeout _ => true
  | .hngRetrain q h | .hngClrCnt q h => okQuad q && decide (h < 3)
  | .bundleIssue c | .scalarLoadReturn c _ | .clusterHalt c | .clusterFaultReport c | .clusterStopTimeout c
  | .clusterReset c | .clusterPowerGate c | .nop c | .add c _ _ _ | .sub c _ _ _ | .and c _ _ _
  | .or c _ _ _ | .xor c _ _ _ | .sll c _ _ _ | .srl c _ _ _ | .sra c _ _ _ | .slt c _ _ _ | .sltu c _ _ _
  | .mul c _ _ _ | .min c _ _ _ | .max c _ _ _ | .minu c _ _ _ | .maxu c _ _ _ | .addi c _ _ _
  | .andi c _ _ _ | .ori c _ _ _ | .xori c _ _ _ | .slti c _ _ _ | .sltiu c _ _ _ | .slli c _ _ _
  | .srli c _ _ _ | .srai c _ _ _ | .lui c _ _ | .lb c _ _ _ | .lbu c _ _ _ | .lh c _ _ _ | .lhu c _ _ _
  | .lw c _ _ _ | .lwu c _ _ _ | .ld c _ _ _ | .sb c _ _ _ | .sh c _ _ _ | .sw c _ _ _ | .sd c _ _ _
  | .ldl c _ _ _ | .stl c _ _ _ | .beq c _ _ _ | .bne c _ _ _ | .blt c _ _ _ | .bge c _ _ _ | .bltu c _ _ _
  | .bgeu c _ _ _ | .jal c _ _ | .jalr c _ _ _ | .loop c _ _ | .loopi c _ _ | .brk c _ _ _
  | .amoadd c _ _ _ | .amoswap c _ _ _ | .amocas c _ _ _ | .rdcyc c _ | .lidx c _ _ | .rdspace c _
  | .lcClean c _ _ | .lcInval c _ _ | .lcFlush c _ _ | .lcCleanw c _ _ | .lcInvalw c _ _ | .lcFlushw c _ _
  | .lcLock c _ _ | .lcUnlock c _ _ | .mma c _ | .mmac c _ | .zdrain c _ | .zload c _ | .mcfg c _
  | .vadd c _ | .vsub c _ | .vmul c _ | .vfma c _ | .vfnma c _ | .vmin c _ | .vmax c _ | .vabs c _
  | .vneg c _ | .vadds c _ | .vmuls c _ | .vfmas c _ | .vand c _ | .vor c _ | .vxor c _ | .vnot c _
  | .vsll c _ | .vsrl c _ | .vsra c _ | .vcmp c _ | .mand c _ | .mor c _ | .mxor c _ | .mnot c _
  | .vmov c _ | .vbcast c _ | .cvt c _ | .mxpack c _ | .mxunpk c _ | .redsum c _ | .redmax c _
  | .redmin c _ | .smaxc c _ | .welf c _ | .wmerge c _ | .vld c _ | .vst c _ | .vtrn c _ | .vtrnq c _
  | .exp2 c _ | .log2 c _ | .rcp c _ | .rsq c _ | .tanh c _ | .sig c _ | .erf c _ | .sin c _ | .cos c _
  | .lut c _ | .lutLd c _ | .lutCommit c | .mov c _ | .haspAdd c _ _ _ | .haspWait c _ _ _ _
  | .haspSet c _ _ _ | .haspReset c _ _ | .fenceC c | .fenceP c | .fenceS c | .frontEndPrepare c _
  | .preIssue c _ | .landzWriteApply c | .haspOpRelease c | .haspWaitTimeout c _ | .cluLcctlWrite c _
  | .storeAcknowledged c _ => okCluster c
  | .dspQcfgWrite q n _ | .dspQdb q n _ | .launchRecordRead q n | .queueStale q n => okQuad q && decide (n < 256)
  | .moverCommandStart c m | .moverDataResponse c m _ _ | .moverCommandComplete c m _ =>
    okCluster c && decide (m < 2)
  | .cluLandzWrite _ c z _ => okCluster c && decide (z < 8)
  | .hspNcfgWrite q n _ | .hspNthrWrite q n _ => okQuad q && decide (n < 64)
  | .hartLoad h _ | .hartStore h _ | .hartAmo h _ | .hartFence h _ _ | .fencePod h | .cboClean h _ _
  | .cboFlush h _ _ | .cboInval h _ _ _ | .cboZero h _ _ | .pcieCompletionTimeout h | .pcieCompletion h _ _ =>
    okHart h
  | .gets agent line | .getm agent line | .puts agent line | .putf agent line | .pute agent line
  | .putm agent line _ _ _ | .fwdgets agent line _ _ | .fwdgetm agent line _ | .inv agent line
  | .backinv agent line | .invack agent line | .wback agent line | .datae agent line _ _
  | .dataf agent line _ _ => okAgent agent && okLine line
  | .readonce _ line | .writefull _ line _ _ _ | .data _ _ line _ _ | .patrolScrub line _ => okLine line
  | .homeRequestResume home line => decide (160 ≤ home) && decide (home < 165) && okLine line
  | .walkEntryRead q space _ => okQuad q && decide (space < 4096)
  | .spaceSet mb | .spaceInval mb | .spaceGet mb | .relocate mb | .setShelfSplit mb | .setScPolicy mb
  | .commandComplete mb | .commandTimeout mb | .getCaps mb | .getTopology mb | .getStatus mb
  | .setDstate mb | .setPowerCap mb | .setRampTable mb | .setHbmMap mb | .setPcieWidth mb | .getClocks mb
  | .setFixedFreq mb | .clearFixedFreq mb | .setBoost mb | .wqAbort mb | .wqStatus mb | .imgList mb
  | .imgCreate mb | .imgWrite mb | .imgSeal mb | .imgErase mb | .fltDefer mb | .podNeighbours mb
  | .podConfigure mb | .podCheck mb | .podRelay mb | .getMeasurements mb | .attestQuote mb
  | .ownerEnroll mb | .fwStage mb | .fwActivate mb | .debugChallenge mb | .debugUnlock mb | .mbAssign mb
  | .errRead mb | .errClear mb | .logRead mb | .resetDevice mb | .resetHost mb | .resetQuadrant mb
  | .reattach mb | .energyRead mb | .telemRead mb | .eventMask mb | .dirRead mb | .regPeek mb => okCommandBox mb
  | .imageEraseDone image => decide (1 ≤ image) && decide (image ≤ 1024)
  | .fabricFrameReceive port _ | .fabricPortTrain port _ | .fabricTrainRetry port | .frameAckTimeout port
  | .frameReplayLimit port | .fecLockLoss port | .linkGroupJoin port | .writePacket port _
  | .readPacket port _ | .atomicPacket port _ | .haspAddPacket port _ | .readResp port _ | .hello port _
  | .helloTimer port | .relayCmd port _ _ | .relayRsp port _ | .config port _ _ | .configAck port _
  | .ping port _ | .fabPctlRetrain port | .fabPctlClrCnt port | .fabPctlDisable port _ => okPort port
  | .remoteTimeout tag => decide (tag < 65536)
  | .pcieWrite f bs _ _ => okPcie f bs.length && decide (bs.length ≤ 512)
  | .pcieRead f len => okPcie f len
  | .rdmaWriteReceive r bs => okRdma r bs.length
  | .ethLinkChange e _ => decide (e < 2)
  | .tmbDb _ mb _ | .doorbellStale mb | .tmbWcfgWrite _ mb _ | .tmbEvptrWrite _ mb _ => okBox mb
  | .rampWindow region _ | .droopDetect region | .droopRecover region => decide (region < 12)
  | .thermalSensorReading sensor _ | .thermalTrip sensor | .thmClrMax sensor _ => decide (sensor < 23)
  | .remoteSessionRequest _ body => decide (body.length ≤ 1664)
  | .railOutOfRegulation rail => decide (1 ≤ rail) && decide (rail ≤ 7)
  | .smbProcessCall n _ => decide (n < 256)
  | .engineOperationEnd c e => okCluster c && decide (e < 13)
  | .rdmaReadReceive r len => okRdma r len
  | .intxPinChange p i _ => decide (p < 2) && decide (i < 4)

end Sys2Proof
end

