-- ==== Sys2Proof/Tests/Slice0.lean ====
section
/-! SUPPORT. For every statement with hypotheses, a state and operands that meet them; and the checks of `Instr.wf`, each with a
command that it refuses. -/

set_option Elab.async false

namespace Sys2Proof.Tests
open Sys2Proof.Machine

/-- A running quadrant. -/
def quadA : Quad := { Quad.reset with up := true }

/-- A running cluster at bundle address 64 in space 1. -/
def seqA : Cluster := { Cluster.reset with st := .running, pc := 64, space := 1 }

/-- The dies of a full module with quadrants 0 and 1 up, and the given clusters. -/
def dies (cs : SMap Cluster) : Chip :=
  { Chip.reset with
    capUnits := 0xFF01FFFF, capHarts := 0xFFFFFFFFFFFFFFFF, hostOpen := true
    clusters := cs, quads := [(0, quadA), (1, quadA)] }

def withChip (k : Chip) : State := { State.reset with chip := k }

/-- Cluster 0 of quadrant 0 holds `x`. -/
def seqState (x : Cluster) : State := withChip (dies [(0, x)])

/-- Cached ranges of space 1: virtual 0 to LPDDR, and virtual `0x1000000` to the cluster registers. -/
def rangesA : List CachedRange :=
  let ent (v p n : Nat) : RangeEnt :=
    { vstart := BitVec.ofNat 41 v, pstart := BitVec.ofNat 40 p, len := BitVec.ofNat 34 n, v := true, r := true, w := true, tier := 0,
      coh := true, sealed := false, side := false, reserved := false }
  [{ space := 1, ent := ent 0 0 16 }, { space := 1, ent := ent 0x100 0x3001000 16 }]

def spaceA : SpaceRec := { en := true, domain := 0, count := 2, tbase := 0 }

/-- Cluster 0 with the cached ranges and register 2 as given. -/
def memState (v : U64) : State :=
  let k := dies [(0, { seqA with ranges := rangesA, regs := [(2, v)] })]
  withChip { k with spaces := [(1, spaceA)] }

/-- Operands of an `MMA` and an `MMAC` on unit 0 in format 2. -/
def mmaA : MmaF := { unit := 0, acc := false, fmtA := 2, fmtB := 2, ra := 5, ras := 7, rb := 6, rbs := 8, rk := 9, rsc := 0 }

/-- A command of 4 KiB from virtual `0x2000` to offset `0x10000` of the own store. -/
def descA : Desc :=
  { Desc.empty with src := 0x2000, dst := 0x10000, skind := 1, d0 := 4096, d1 := 1, d2 := 1, d3 := 1 }

/-- A `MOV` of a descriptor at the offset in register 2. -/
def movA : MovF := { mover := 0, rdesc := 2, dloc := false, hasp := 0, cnt := false, spec := true }

def cmdA : MovCmd := MovCmd.make 7 0 descA 0x8000 false 0 false 1

/-- Cluster 0 with one command in mover 0, and line 0 of LPDDR, which holds a bundle at address 64, in its line cache. -/
def movState (b : Bundle256) (x : Cluster → Cluster) : State :=
  let line : CLine := { CLine.none with st := .s, line := 0, data := (encodeBundle b).setWidth 1024 <<< 512 }
  let k := dies [(0, x { seqA with ranges := rangesA, regs := [(2, 0x8000)], lcache := [(0, line)] })]
  withChip { k with spaces := [(1, spaceA)] }

def withCmd (d : MovCmd) (x : Cluster) : Cluster := { x with movers := [(0, { Mover.reset with cmds := [d] })] }

/-- Links whose side `n` is `x`. -/
def sideState (n : Nat) (x : Side) : State := { State.reset with links := { Links.reset with sides := [(n, x)] } }

/-- Both sides of hinge 0 alike. -/
def hingeState (x : Side) : State := { State.reset with links := { Links.reset with sides := [(0, x), (4, x)] } }


theorem witness_EmptyQueueTicks :
    State.reset.pending = [] ∧ State.reset.pins.pgood = false ∧
    { State.reset with pins := { Pins.reset with pgood := true } }.pins.pgood = true := by decide

theorem witness_BootBoundsKept : Boot.bounded State.reset.boot = true ∧ ∃ t, step State.reset = .next t :=
  ⟨by decide, _, rfl⟩

theorem witness_BundleRoundTrip : nopBundle.legal = true := by decide

theorem witness_InvalidSlotsAreZero :
    decodeBundle 0 = some nopBundle ∧
    (∀ i ∈ [240, 241, 242, 243], (0 : BitVec 256).getLsbD i = false) ∧
    (1 <<< 32 : BitVec 256).extractLsb' 32 64 ≠ 0 ∧ (1 <<< 96 : BitVec 256).extractLsb' 96 64 ≠ 0 ∧
    (1 <<< 160 : BitVec 256).extractLsb' 160 48 ≠ 0 ∧ (1 <<< 208 : BitVec 256).extractLsb' 208 32 ≠ 0 := by decide

theorem witness_MatrixFormatPairs (complex : Bool) :
    decodeBundle (encodeBundle (matrixBundle (.mma complex mmaA))) = some (matrixBundle (.mma complex mmaA)) ∧
    (matrixBundle (.mma complex mmaA)).matrix = some (.mma complex mmaA) := by
  cases complex <;> decide

def loopA (n : Nat) : LoopEnt := { start := 0, stop := 64, trip := 3, index := n }

theorem witness_ScalarFrames :
    ((dies [(0, seqA)]).cluster 0).quiet = true ∧
    (loopA 0).stop ≠ 32 ∧ (loopA 0).index + 1 < (loopA 0).trip ∧ (loopA 2).trip ≤ (loopA 2).index + 1 := by decide

theorem witness_ScalarArithmeticRows : ScalarReady (seqState seqA) 0 [2, 3] ∧ ScalarReady (seqState seqA) 0 [] := by
  unfold ScalarReady; decide

theorem witness_ControlRows :
    let s := seqState { seqA with loops := [loopA 0] }
    let t := seqState seqA
    ScalarReady s 0 [2, 3] ∧ (s.chip.cluster 0).atLoopEnd (s.chip.cluster 0).pc = true ∧
    ScalarReady t 0 [2, 3] ∧ ScalarReady t 0 [2] ∧ ScalarReady t 0 [] ∧
    (t.chip.cluster 0).atLoopEnd (t.chip.cluster 0).pc = false := by
  unfold ScalarReady; decide

theorem witness_LoopEndHoldsNoTransfer :
    let s := seqState { seqA with loops := [loopA 0] }
    (∃ e ∈ (s.chip.cluster 0).loops, e.stop = (s.chip.cluster 0).pc) ∧ ScalarReady s 0 [2, 3] ∧
    (1 : BitVec 16) ≠ 0 ∧ (1 : BitVec 10) ≠ 0 := by
  unfold ScalarReady; decide

theorem witness_ScalarMemoryRows :
    let s := memState 8
    let u := memState 0x1000300
    let room (k : Chip) : Prop := k.roomFor 0 Ready.none = true
    (∀ kind ∈ [XKind.read, XKind.write, XKind.atomic], ∃ k pa cached claim,
      s.chip.seqPlace 0 8 8 kind = (k, .inr (pa, (cached, claim))) ∧ room k ∧ k.isReg pa = false) ∧
    (∃ k pa cached claim, u.chip.seqPlace 0 0x1000300 8 .write = (k, .inr (pa, (cached, claim))) ∧ room k ∧
      k.isReg pa = true ∧ ownLandz 0 (paLocal pa) = some 0 ∧ k.regOut 0 = false) ∧
    s.chip.slotReady 0 [2, 3, 1] = true ∧ s.chip.slotReady 0 [2, 3] = true ∧ s.chip.slotReady 0 [2] = true ∧
    (s.chip.cluster 0).amoOut = false ∧ room s.chip ∧ (7 : U64).toNat % 8 ≠ 0 := by
  refine ⟨?_, ⟨_, _, _, _, rfl, by decide, by decide, by decide, by decide⟩, by decide, by decide, by decide, by decide, by decide, by decide⟩
  intro kind hk
  fin_cases hk <;> exact ⟨_, _, _, _, rfl, by decide, by decide⟩

theorem witness_OwnStoreAccess :
    let s := memState 8
    let x := s.chip.cluster 0
    let la := paLocal (s.chip.placeOf 0 0 (some 8) (s.chip.offsetPa 0 8))
    x.quiet = true ∧ x.claims = [] ∧ x.offsetFault 8 = none ∧ s.chip.inOwnStore 0 (s.chip.offsetPa 0 8) = true ∧
    s.chip.slotReady 0 [2] = true ∧ s.chip.slotReady 0 [2, 1] = true ∧ s.chip.roomFor 0 Ready.none = true ∧
    s.chip.poisoned (lineOf la) = false := by decide

/-- A line of the line cache of cluster 0 in way 0, in a given state. -/
def lineA (st : CState) (locked : Bool) : CLine := { CLine.none with st := st, line := 0, locked := locked }

def lineState (st : CState) (n : Nat) : State :=
  let locked := (List.range n).map (fun i => (i + 1, { lineA .s true with line := i + 1 }))
  let k := dies [(0, { seqA with ranges := rangesA, lcache := (0, lineA st false) :: locked })]
  withChip { k with spaces := [(1, spaceA)] }

theorem witness_LineCacheOperations :
    let k (st : CState) (n : Nat) := (lineState st n).chip.updCluster 0 (·.endStream)
    let ready (k1 : Chip) : Prop := k1.roomFor 0 Ready.none = true ∧ k1.storesVisible 0 (k1.cluster 0).nextNo .cluster = true
    (lineState .m 0).chip.slotReady 0 [2] = true ∧ ready (k .m 0) ∧
    (tblGet CLine.none ((lineState .m 0).chip.cluster 0).lcache 0).st ≠ .i ∧
    (tblGet CLine.none ((lineState .m 0).chip.cluster 0).lcache 1).st = .i ∧
    ((k .m 0).cline 64 0).st.transient = false ∧
    (∀ op ∈ [LcOp.clean, .inval, .flush, .lock, .unlock], ∃ k1 e, (k .m 0).lcTranslate 0 0 op = (k1, .ok e) ∧
      (k1.isOwn (e.phys 0) && cacheable (paLocal (e.phys 0))) = true ∧ ready k1 ∧
      (k1.cline 64 (lineOf (paLocal (e.phys 0)))).st.transient = false ∧
      (k1.cline 64 (lineOf (paLocal (e.phys 0)))).st.readable = true ∧ k1.populated (paLocal (e.phys 0)) = true) ∧
    (∃ k1 e, (k .m 0).lcTranslate 0 0x1000000 .lock = (k1, .ok e) ∧
      (k1.isOwn (e.phys 0x1000000) && cacheable (paLocal (e.phys 0x1000000))) = false ∧ k1.roomFor 0 Ready.none = true) ∧
    (∃ k1 e, (k .m 32).lcTranslate 0 0 .lock = (k1, .ok e) ∧ (k1.cline 64 0).locked = false ∧
      32 ≤ ((k1.cluster 0).lcache.filter (fun e => e.2.locked)).length) ∧
    (dies []).severed 64 ((dies []).homeOf 0) = false ∧
    (∀ st ∈ [CState.m, .e, .f, .s, .i], ((lineState st 0).chip.cline 64 0).st = st) := by
  refine ⟨by decide, by decide, by decide, by decide, by decide, ?_, ⟨_, _, rfl, by decide, by decide⟩,
    ⟨_, _, rfl, by decide, by decide⟩, by decide, by decide⟩
  intro op h
  fin_cases h <;> exact ⟨_, _, rfl, by decide, by decide, by decide, by decide, by decide⟩

/-- Cluster 0 with register 2 naming a hasp, and registered waits or fences as given. -/
def haspState (v : U64) (full : Bool) : State := seqState { seqA with regs := [(2, v)], whEnded := full }

theorem witness_SyncOperations :
    let s := haspState 5 false
    let k := s.chip
    k.slotReady 0 [2, 3] = true ∧ k.slotReady 0 [2] = true ∧ k.slotReady 0 [] = true ∧ k.roomFor 0 Ready.none = true ∧
    (k.cluster 0).haspBuf.length < 16 ∧
    k.haspRef 0 5 false true = .ok (none, 5) ∧ k.haspRef 0 5 false false = .ok (none, 5) ∧
    k.haspRef 0 5 true false = .ok (none, 5) ∧ k.haspRef 0 0x8000 false true = .error ftNothing ∧
    k.haspRef 0 0x8000 false false = .error ftNothing ∧
    ((k.cluster 0).waits.filter (·.gate)).length < 4 ∧ ((k.cluster 0).whEnded || k.haspMet 0 5 0) = true ∧
    ((k.cluster 0).whEnded || k.haspMet 0 5 1) = false := by decide

/-- Every vector operation. -/
def vectorOps : List VOp := vecCodes.map (·.2)

def vecF (t t2 : BitVec 4) : VecF :=
  { unit := 0, msk := 0, men := false, mz := false, vd := 0, vs1 := 0, vs2 := 0, vs3 := 0, t := t, t2 := t2, rs := 0, rs2 := 0, fn := 0 }

def sfuF : SfuF := { unit := 0, vd := 0, vs := 0, prec := false, msk := 0, men := false, mz := false }

/-- A matrix instruction of each kind, its operands in `s0` and its length in `s9`. -/
def matrixOps : List Matrix :=
  let m : MmaF := { mmaA with ra := 0, ras := 0, rb := 0, rbs := 0 }
  [.mma false m, .mma true m, .zdrain { unit := 0, rm := 0, dfmt := 0, sat := false, rd := 0, rds := 0, rsc := 0 },
    .zload { unit := 0, sfmt := 0, rs := 0, rss := 0 }, .mcfg { unit := 0, item := 0, rv := 0 }]

/-- The operation codes of the SFU slot. -/
def sfuOps : List SfuOp := sfuCodes.map (·.2)

def isOk : Except Nat Prep → Bool
  | .ok _ => true
  | .error _ => false

def sfuOk : Option (Except Nat Prep) → Bool
  | some p => isOk p
  | none => false

theorem witness_EngineRows :
    let x := { seqA with regs := [(9, 64)] }
    let y := { seqA with regs := [(2, 32)] }
    let room (b : Bundle256) : Prop := x.fits (slotNeeds b) none none false = true
    (dies [(0, x)]).slotReady 0 [0, 1, 2, 3, 4, 5, 6] = true ∧ (dies [(0, y)]).slotReady 0 [2] = true ∧
    (∀ m ∈ matrixOps, m.legal = true ∧ isOk (x.prepMatrix m) = true ∧ room (matrixBundle m)) ∧
    y.prepMatrix (.zload { unit := 0, sfmt := 0, rs := 2, rss := 0 }) = .error ftMisaligned ∧
    (∀ op ∈ vectorOps, ∃ t ∈ [0, 2, 4, 8], ∃ t2 ∈ [0, 1, 4],
      vecLegal op (vecF t t2) = true ∧ isOk (x.prepVector op (vecF t t2)) = true ∧ room (vectorBundle op (vecF t t2))) ∧
    y.prepVector .vld { vecF 0 0 with rs := 2 } = .error ftMisaligned ∧
    (∀ u ∈ [Sfu.lutLd 0, .lutCommit] ++ sfuOps.map (Sfu.fn · sfuF),
      u.legal = true ∧ sfuOk (x.prepSfu u) = true ∧ room (sfuBundle u false)) ∧
    y.prepSfu (.lutLd 2) = some (.error ftMisaligned) := by
  decide

/-- The operands that `EngineCompletions` asks for: a length of 64 in `s9`, every offset and stride zero. -/
theorem witness_EngineCompletions :
    let x := { seqA with regs := [(9, 64)] }
    let k := dies [(0, x)]
    x.enginesFree = true ∧ k.slotReady 0 [0, 1, 2, 3, 4, 5, 6, 9] = true ∧ (x.munit 0).drain = none ∧
    (∀ m ∈ matrixOps, m.legal = true ∧ x.matrixOk m = true ∧ k.consumesPoison 0 (x.matrixPrep m).op = false) ∧
    (∀ op ∈ [VOp.vld, .vst], x.vectorOk op (vecF 0 0) = true) ∧ k.consumesPoison 0 (x.vectorPrep .vld (vecF 0 0)).op = false ∧
    x.lutOk 0 = true ∧ k.consumesPoison 0 (x.lutPrep 0).op = false := by
  decide +kernel

def vaddF : VecF :=
  { unit := 0, msk := 0, men := false, mz := false, vd := 0, vs1 := 0, vs2 := 0, vs3 := 0, t := 0, t2 := 0, rs := 0, rs2 := 0, fn := 0 }

/-- A `VADD` on vector unit 0. -/
def vaddA : EngEnt := { no := 0, op := .vec .vadd vaddF 0 0 }

/-- A `ZLOAD` of the first rows of the own store. -/
def zloadA : EngEnt := { no := 0, op := .zload 0 0 256 }

theorem witness_EngineOperationEnds :
    let k := dies [(0, { seqA with queues := [(0, [zloadA]), (4, [vaddA])] })]
    let bad := { k with poison := [(lineOf (storeAddr 0 0), true)] }
    k.clusterPresent 0 = true ∧ (k.cluster 0).errored = false ∧
    tblGet [] (k.cluster 0).queues 4 = [vaddA] ∧ k.mayStart 0 4 vaddA = true ∧ k.consumesPoison 0 vaddA.op = false ∧
    tblGet [] (bad.cluster 0).queues 0 = [zloadA] ∧ bad.mayStart 0 0 zloadA = true ∧ bad.consumesPoison 0 zloadA.op = true := by
  decide +kernel

theorem witness_EngineOperationEnds_elements : (8 : Nat) ∈ [4, 8, 16, 32] ∧ 255 < 2048 / 8 := by decide

/-- What a read of a descriptor ends with: its bytes (0), a wait (1) or a failure (2). -/
def descKind : DescEnd → Nat
  | .got _ => 0
  | .wait => 1
  | .failed _ => 2

theorem witness_MovRows :
    let s := movState (moverBundle movA) id
    let own := movState (moverBundle { movA with dloc := false }) (fun x => { x with regs := [(2, 0x4000)] })
    let w := movState (moverBundle movA) (fun x => { x with claims := [{ no := 0, eng := 7, lo := 0, hi := 0x10000, write := true }], nextNo := 1 })
    let bad := { s.chip with poison := [(lineOf (storeAddr 0 0x8000), true)] }
    let k := s.chip.updCluster 0 (·.endStream)
    let readB (k : Chip) : Nat := descKind (k.readDesc 0 movA).2
    let made (d : Except Nat Desc) : Ready := { preps := [], mov := some (movA, k.makeCmd 0 movA d), sync := none }
    let held := withCmd { cmdA with phase := .data, zone := some 0 }
      { seqA with prepared := [{ pc := 64, rdesc := 0x8000, desc := descA, pa := 0, pieces := none }] }
    s.chip.slotReady 0 [2] = true ∧ (s.chip.cluster 0).fits [] (some (0, 0)) none false = true ∧
    readB k = 0 ∧ readB (bad.updCluster 0 (·.endStream)) = 2 ∧ readB (w.chip.updCluster 0 (·.endStream)) = 1 ∧
    k.roomFor 0 (made (.ok descA)) = true ∧ k.roomFor 0 (made (.error 4)) = true ∧
    ((own.chip.cluster 0).reg 2).toNat % 64 = 0 ∧ ((own.chip.cluster 0).reg 2).toNat < 2 ^ 22 ∧
    (own.chip.cluster 0).zoneRefuses 0x4000 0x4040 = false ∧ (own.chip.cluster 0).descRead = none ∧
    own.chip.poisoned (lineOf (paLocal (own.chip.offsetPa 0 0x4000))) = false ∧
    seqA.toConfirm (fun _ => true) 64 movA cmdA = none ∧ (held.toConfirm (fun _ => true) 64 movA cmdA).isSome = true := by
  decide +kernel

theorem witness_MoverCommands :
    let at' (d : MovCmd) := (movState nopBundle (withCmd d)).chip
    let found (d : MovCmd) : Prop := let x := (at' d).cluster 0
      (x.mover 0).cmds.find? (fun d => d.phase = .queued) = some d ∧
      ((x.mover 0).cmds.filter (fun d => d.phase = .data && !d.speculative)).length < 64 ∧ x.gated d.no = false
    let free (d : MovCmd) : Prop := d.early = none ∧ d.desc.isNull = false ∧ ((at' d).cluster 0).claimBlocked d.no 7 = false ∧
      (at' d).storeBlocked 0 d.no 7 = false ∧ (at' d).storesVisible 0 d.no .cluster = true
    let early : MovCmd := { cmdA with early := some 3 }
    let null : MovCmd := { cmdA with desc := { descA with d0 := 0 } }
    let bad : MovCmd := { cmdA with desc := { descA with src := 0x1000000000 } }
    let p : Piece := { id := 0, seg := 0, src := 0x2000, len := 128, srcVa := 0x2000, dstVa := 0x10000, parts := [], asked := false
                       read := false, data := [] }
    let moving : MovCmd := { cmdA with phase := .data, pieces := [p] }
    let drained : MovCmd := { moving with phase := .drain }
    let done : MovCmd := { cmdA with phase := .done }
    let owing : MovCmd := { done with desc := { descA with dhaspEn := true, cntd := true, remote := true }, ddev := some 1 }
    let passed (d : MovCmd) : Option Bool := ((at' d).pass 0 d).2.map (fun e => e.1.isSome)
    found early ∧ found null ∧ early.early = some 3 ∧ null.early = none ∧ null.desc.isNull = true ∧
    found bad ∧ free bad ∧ found cmdA ∧ free cmdA ∧ passed bad = some true ∧ passed cmdA = some false ∧
    (∀ d ∈ [moving, drained], ((at' d).cluster 0).cmd 0 7 = some d ∧ d.pieces.find? (fun q => q.id = 0 && q.open') = some p) ∧
    drained.phase = .drain ∧
    (∀ d ∈ [done, owing], ((at' d).cluster 0).cmd 0 7 = some d ∧ d.ended = true ∧ d.speculative = false ∧ d.phase ≠ .drain ∧
      d.confirmed = false ∧ (at' d).fabric.reqs.any (fun r => r.owner = .moverHasp 0 0 7) = false) ∧
    done.owes = none ∧ owing.owes.isSome = true ∧ owing.ddev = some 1 ∧
    (1 : BitVec 6) ≠ (at' owing).fabric.devnum := by
  decide +kernel

theorem witness_LandingZoneWrites :
    let k (x : Cluster) := dies [(0, x)]
    let w : RegW := { part := .full, val := 0x1000001 }
    (k seqA).clusterPresent 0 = true ∧ seqA.zoneHeld = none ∧ seqA.st = .running ∧
    ({ seqA with st := .idle } : Cluster).st = .idle ∧ Agent.hart 0 ≠ .seq 0 ∧ Agent.seq 0 = .seq 0 ∧
    ({ seqA with zoneHeld := some (0, (0, w)) } : Cluster).zoneHeld = some (0, (0, w)) ∧
    ({ seqA with zoneHeld := some (0, (0, w)) } : Cluster).allEnded 0 = true ∧
    (({ seqA with st := .idle }.writeZone 0 { part := .full, val := 1 + 16 <<< 12 + 1 <<< 32 }).zone 0).en = true := by
  decide +kernel

/-- Cluster 0 with a bundle at its address, in line 0 of its line cache. -/
def issueState (b : BitVec 256) (x : Cluster → Cluster) (poison : Bool) : State :=
  let line : CLine := { CLine.none with st := .s, line := 0, data := b.setWidth 1024 <<< 512, poison := poison }
  let k := dies [(0, x { seqA with ranges := rangesA, lcache := [(0, line)] })]
  withChip { k with spaces := [(1, spaceA)] }

/-- What a fetch ends with: a wait (0), a fault (its code and 1), or a word. -/
def fetchKind : Fetch → Nat × Option (BitVec 256)
  | .wait => (0, none)
  | .fault code _ => (code + 1, none)
  | .got w => (100, some w)

/-- Whether a scalar slot ends stage X with its effect, or with a fault. -/
def isAct : SEnd → Bool
  | .act _ => true
  | _ => false

def isFault : SEnd → Bool
  | .fault _ _ => true
  | _ => false

/-- What the engine slots of a bundle were made ready to has room. -/
def readyFits (x : Cluster) : Check Ready → Bool
  | .ok r => x.hasRoom r false
  | _ => false

theorem witness_BundleIssueRow :
    let s := issueState (encodeBundle (scalarBundle (.alu .add 1 2 3))) id false
    let k := s.chip
    k.clusterPresent 0 = true ∧ (k.cluster 0).canIssue = true ∧ (k.cluster 0).loads = [] ∧ (k.cluster 0).stores = [] ∧
    fetchKind ((issueState 0 (fun x => { x with ranges := [] }) false).chip.fetchBundle 0).2 = (0, none) ∧
    fetchKind ((issueState 0 (fun x => { x with pc := 65 }) false).chip.fetchBundle 0).2 = (5, none) ∧
    fetchKind ((issueState 0 id true).chip.fetchBundle 0).2 = (7, none) ∧
    fetchKind ((issueState 0xC id false).chip.fetchBundle 0).2 = (100, some 0xC) ∧ decodeBundle 0xC = none ∧
    (let i : Scalar := .alu .add 1 2 3
     let b := scalarBundle i
     let k1 := (k.fetchBundle 0).1
     let k2 := (k1.holdWh 0 b true).1
     let k3 := (k2.scalarX 0 64 i).1
     let k4 := (k3.prepAll 0 b true).1
     fetchKind (k.fetchBundle 0).2 = (100, some (encodeBundle b)) ∧ decodeBundle (encodeBundle b) = some b ∧
     (k1.cluster 0).canIssue = true ∧ (k1.cluster 0).awaits (b.reads true) = false ∧ (k1.holdWh 0 b true).2 = true ∧
     isAct (k2.scalarX 0 64 i).2 = true ∧ readyFits (k4.cluster 0) (k3.prepAll 0 b true).2 = true ∧
     (k2.stageI 0 b true).2 = true ∧
     isFault (k2.scalarX 0 64 (.lidx 1 0)).2 = true) ∧
    ((k.updCluster 0 (fun x => { x with queues := [(4, List.replicate 8 vaddA)] })).stageI 0 (vectorBundle .vadd vaddF) true).2 = false ∧
    ((k.updCluster 0 (fun x => { x with regs := [(3, 1)] })).holdWh 0 (sfuBundle (.sync (.wait 2 3 .package)) true) true).2 = false := by
  decide +kernel

theorem witness_SequencerFault :
    ((dies [(0, seqA)]).cluster 0).faulted = none ∧
    ((dies [(0, { seqA with faulted := some (5, 0) })]).cluster 0).faulted ≠ none := by decide

theorem witness_FrontEndRows :
    let zone : Zone := { en := true, arch := false, st := .idle, base := 16, hsize := 1 }
    let p : Prepared := { pc := 64, rdesc := 0x8000, desc := descA, pa := 0, pieces := some [] }
    let s := movState (moverBundle movA) (fun x => { x with zones := [(0, zone)], prepared := [p] })
    let k := s.chip
    let e := (movState (moverBundle movA) id).chip
    let one := e.follow 0 (e.unprepared 0 64)
    let two := k.follow 0 (fun w b => (k.cluster 0).prepared.any (fun p => (k.cluster 0).unissued 64 p && prepAt p w b))
    let d := two.1.earlyCmd 0 movA p
    k.clusterPresent 0 = true ∧ k.mayRunAhead 0 = true ∧ (dies []).mayRunAhead 0 = false ∧ (dies []).clusterPresent 0 = true ∧
    one.2.map (fun x => (x.2.mover, (x.1.reg 2).getD 0)) = some (some movA, 0x8000) ∧
    (one.1.peekDesc 0 movA 0x8000).2.isSome = true ∧ (one.1.peekDesc 0 movA 0x8001).2.isSome = false ∧
    descA.isNull = false ∧ descA.refused (e.mayName 1) = false ∧ (k.pass 0 (k.earlyCmd 0 movA p)).2.map (fun e => e.1.isNone) = some true ∧
    two.2.map (fun x => (x.2.mover, ((k.cluster 0).prepared.find? (fun p => (k.cluster 0).unissued 64 p && prepAt p x.1 x.2),
      two.1.barred 0 x.1 x.2 movA p.desc))) = some (some movA, (some p, false)) ∧
    (two.1.cluster 0).fillZone p.desc = some 0 ∧ (two.1.earlyPieces 0 d p).isSome = true ∧ two.1.descKept 0 p = true ∧
    two.1.allPlain 0 d [] = true ∧
    (k.cluster 0).loads = [] ∧ (k.cluster 0).stores = [] := by
  decide +kernel

/-- A load of cluster 0 outstanding at a physical address. -/
def accA (pa : Nat) (kind : AccKind) : ScAcc :=
  { id := 1, no := 1, rd := 1, pc := 0, va := 0, pa := pa, size := 8, kind := kind, cached := false, space := 1, claim := none, answer := none }

/-- A store of cluster 0 in its buffer. -/
def stA (pa : Nat) : StoreEnt :=
  { id := 1, no := 1, pa := pa, data := toBytes 8 7, cached := false, sent := true, space := 1, claim := none }

def waitingLoad (a : ScAcc) : Chip := dies [(0, { seqA with loads := [a] })]
def waitingStore (x : StoreEnt) : Chip := dies [(0, { seqA with stores := [x] })]

def isLost : RegCheck → Bool
  | .lost => true
  | _ => false

def isReady : RegCheck → Bool
  | .ok _ => true
  | _ => false

/-- The host I/O answers, memory and registers that a load can go to: an answer of another module, LPDDR, HBM of an absent window, a
register of this module and one of a quadrant that is not up. -/
theorem witness_ScalarAccessEnds :
    let ld : AccKind := .load true
    let answered (st : Nat) : ScAcc := { accA (2 ^ 50) ld with answer := some (st, 5) }
    let base (a : ScAcc) : Prop := (waitingLoad a).drainAll 0 = waitingLoad a ∧
      ((waitingLoad a).cluster 0).loads.find? (fun a => a.id = 1) = some a
    let turn (a : ScAcc) : Prop := base a ∧ (waitingLoad a).isOwn a.pa = true ∧
      (if (waitingLoad a).ordered 0 a.pa then (waitingLoad a).loadsBefore 0 a.id else (waitingLoad a).behind 0 a.id a.pa) = false
    let quadReg := 0x30001218000
    let lostReg := 0x30001018000 + 0x300000
    base (answered 0) ∧ base (answered 4) ∧ base (answered 6) ∧
    turn (accA 0x30001018000 ld) ∧ (waitingLoad (accA 0x30001018000 ld)).isReg 0x30001018000 = true ∧
    isReady ((withChip (dies [])).regCheck (some 0) 0x30001018000 8) = true ∧
    turn (accA lostReg ld) ∧ isLost ((withChip (dies [])).regCheck (some 0) lostReg 8) = true ∧
    isLost ((withChip (dies [])).regCheck (some 0) quadReg 8) = true ∧
    (∀ pa ∈ [0x1000, 0x18000000000], turn (accA pa ld) ∧ (waitingLoad (accA pa ld)).isReg pa = false ∧
      (waitingLoad (accA pa ld)).inOwnStore 0 pa = false) ∧
    (dies []).reachMem (some 0) 0x1000 = 0 ∧ (dies []).reachMem (some 0) 0x18000000000 ≠ 0 ∧
    turn (accA 0x1000 (.amo .add 1 0)) ∧
    ((waitingLoad (accA 0x1000 (.amo .add 1 0))).cluster 0).stores.any (fun s => s.id < 1) = false ∧
    (∀ pa ∈ [0x1000, 0x18000000000, 0x30001018000, lostReg],
      (waitingStore (stA pa)).drainAll 0 = waitingStore (stA pa) ∧
      ((waitingStore (stA pa)).cluster 0).stores.find? (fun x => x.id = 1) = some (stA pa) ∧
      (waitingStore (stA pa)).isOwn pa = true ∧ (waitingStore (stA pa)).storeTurn 0 (stA pa) = true ∧
      (stA pa).sent = true ∧ (waitingStore (stA pa)).inOwnStore 0 pa = false) ∧
    seqA.faulted = none ∧ ({ seqA with faulted := some (5, 0) } : Cluster).faulted ≠ none := by
  decide +kernel

/-- Quadrant 0 with one work queue and launches as given. -/
def dispState (d : Quad) (w : WQueue) (st : ClState) : Chip :=
  let k := dies ((List.range 24).map (fun c => (c, { Cluster.reset with st := st })))
  { k with quads := [(0, { d with up := true, queues := [(0, w)] }), (1, quadA)] }

def queueA : WQueue := { WQueue.reset with enable := true, log2 := 4 }

/-- A record for one cluster, and a launch of it. -/
def recA : LaunchRec :=
  { addr := 0, seq := 0, priority := 0, abortable := true, maskMode := false, space := 1, queue := 0, entry := 64, arg := 0,
    clusters := 1, compHasp := 0, compInc := 1, reserved := false }

def launchA (running : List Nat) (o : Option (Nat × (Nat × (Nat × U64)))) : Launch :=
  { id := 3, queue := 0, rec' := recA, all := [0], running := running, outcome := o, noAdd := false, late := false, startAt := 0, stopAt := 0 }

theorem witness_DispatcherRegisters :
    let k := dispState Quad.reset queueA .idle
    k.bankUp 0 = true ∧ ((k.quad 0).queue 0).enable = true ∧ ((k.quad 0).queue 1).enable = false ∧ (k.quad 0).abtBusy = false := by
  decide

theorem witness_AbortResults :
    let w (n r h t : Nat) : WQueue := { queueA with
      head := BitVec.ofNat 16 h, tail := BitVec.ofNat 16 t, retired := BitVec.ofNat 16 r, aborts := if n = 1 then [5] else [] }
    let at' (x : WQueue) (i : BitVec 16) : Nat := (i - x.retired).toNat
    let low : WQueue := w 0 3 6 6
    (5 - 0 : BitVec 16).toNat = 5 ∧ ((w 0 0 0 5).tail - (w 0 0 0 5).retired).toNat ≤ at' (w 0 0 0 5) 5 ∧
    at' (w 0 0 0 6) 5 < ((w 0 0 0 6).tail - (w 0 0 0 6).retired).toNat ∧
    ((w 0 0 0 6).head - (w 0 0 0 6).retired).toNat ≤ at' (w 0 0 0 6) 5 ∧ 5 ∉ (w 0 0 0 6).aborts ∧ 5 ∈ (w 1 0 0 6).aborts ∧
    at' low 5 < (low.tail - low.retired).toNat ∧ at' low 5 < (low.head - low.retired).toNat ∧
    (∀ b, ({ low with next := some { recA with seq := 5, abortable := b } } : WQueue).next = some { recA with seq := 5, abortable := b }) ∧
    low.next = none ∧
    low.nextLate = false ∧
    ((Quad.reset).launches.find? (fun l => l.queue = 0 && l.rec'.seq = 5 && !l.late) = none) ∧
    (∀ b : Bool, ∀ o ∈ [none, some (1, (0xFF, (0, 0)))],
      let l : Launch := { launchA [0] o with rec' := { recA with seq := 5, abortable := b } }
      [l].find? (fun l => l.queue = 0 && l.rec'.seq = 5 && !l.late) = some l) := by
  decide

theorem witness_LaunchRows :
    let at' (w : WQueue) : Chip := { dispState { Quad.reset with enable := true } w .idle with mem := [] }
    let k := at' { queueA with tail := 1 }
    let m := { k with poison := [(0, true)] }
    let high := at' { queueA with tail := 1, base := 0x18000000000 / 128 }
    let stale := at' { queueA with head := 1, tail := 2 }
    k.bankUp 0 = true ∧ k.recordAwaited 0 0 = true ∧ high.recordAwaited 0 0 = true ∧
    k.isOwn 0 = true ∧ cacheable 0 = true ∧ k.reachMem (some 0) 0 = 0 ∧
    high.reachMem (some 0) (((high.quad 0).queue 0).slotAddr 0) ≠ 0 ∧
    (m.cohRead 0 128).2.2 = true ∧ (k.cohRead 0 128).2.2 = false ∧
    (decodeRecord 0 (ofBytes (k.cohRead 0 128).2.1)).seq = ((k.quad 0).queue 0).head ∧
    stale.recordAwaited 0 0 = true ∧ (stale.cohRead 128 128).2.2 = false ∧
    (decodeRecord 128 (ofBytes (stale.cohRead 128 128).2.1)).seq ≠ ((stale.quad 0).queue 0).head ∧
    (let d := dispState { Quad.reset with enable := true } { queueA with next := some { recA with maskMode := true } } .idle
     let none' := dispState { Quad.reset with enable := true } queueA .idle
     let few := dispState { Quad.reset with enable := true } { queueA with next := some { recA with maskMode := true, clusters := 3 } } .idle
     (d.quad 0).enable = true ∧ (d.quad 0).orphaned = false ∧
     ((none'.updQuad 0 Quad.choose).quad 0).gathering = none ∧ ((d.updQuad 0 Quad.choose).quad 0).gathering = some 0 ∧
     ({ recA with maskMode := true } : LaunchRec).need 0 ≤
       ((d.updQuad 0 Quad.choose).pick 0 { recA with maskMode := true } [0, 1] 1).1.length ∧
     ((few.updQuad 0 Quad.choose).pick 0 { recA with maskMode := true, clusters := 3 } [0] 2).1.length <
       ({ recA with maskMode := true, clusters := 3 } : LaunchRec).need 0) ∧
    (let d (o : Bool) := dispState { Quad.reset with launches := [launchA [] none], orphaned := o } queueA .idle
     (∀ o, (d o).bankUp 0 = true ∧ ((d o).quad 0).launches.find? (fun l => l.id = 3) = some (launchA [] none)) ∧
     (launchA [] none).running = [] ∧ ((d true).quad 0).held.length < 24 ∧ areaOf (recA.addr + 96) = .lpddr ∧
     (d false).reachMem (some 0) (recA.addr + 96) = 0) := by
  decide +kernel

theorem witness_LaunchBegins :
    ((quadClusters 0).filter [2, 5].contains)[1]? = some 5 ∧ 4 ∉ (quadClusters 0).filter [2, 5].contains ∧ (1 : Nat) ≠ 0 := by decide

theorem witness_ClusterRows :
    let at' (x : Cluster) (ls : List Launch) (p : Bool) : Chip :=
      { dies [(0, x)] with quads := [(0, { quadA with launches := ls, pgate := p })] }
    let halted : Cluster := { seqA with stopIssued := true }
    (at' halted [] false).finished 0 = true ∧ halted.st = .running ∧ halted.faulted = none ∧ halted.errored = false ∧
    (at' { seqA with st := .stopping } [] false).finished 0 = true ∧
    ((at' { seqA with errored := true } [launchA [0] none] false).quad 0).launchOf 0 = some (launchA [0] none) ∧
    ((at' { seqA with faulted := some (5, 64) } [launchA [0] none] false).quad 0).launchOf 0 = some (launchA [0] none) ∧
    (at' { seqA with faulted := some (5, 64) } [launchA [0] none] false).finished 0 = true ∧
    ((at' { seqA with errored := true, st := .idle } [] false).quad 0).launchOf 0 = none ∧
    ((at' { seqA with st := .idle } [] true).quad 0).pgate = true ∧
    launchA [0] none ∈ ((at' seqA [launchA [0] none] false).quad 0).launches ∧ (5 : Nat) ≠ 0 ∧
    (let x := withCmd { cmdA with phase := .drain } { seqA with st := .reset }
     x.st = .reset ∧ ∀ m, m < 2 → ∀ d ∈ (x.mover m).cmds, d.phase = .drain) := by
  decide +kernel

theorem witness_OutcomeFixed :
    (launchA [0] (some (2, (0xFF, (0, 0))))).outcome ≠ none ∧ (launchA [0] none).outcome = none ∧ (launchA [0] none).running = [0] ∧
    seqA.st = .running ∧ seqA.stores = [] ∧ seqA.loads = [] ∧
    (cmdA ∈ ((withCmd cmdA seqA).mover 0).cmds ∧ cmdA.speculative = false ∧ cmdA.phase = .queued) ∧
    ({ cmdA with phase := .data } : MovCmd).phase ≠ .queued := by
  decide +kernel

/-- A quadrant bank with a waiting operation, and notifier 0. -/
def bankState (x : Cluster) : Chip :=
  { dies [(0, x)] with quads := [(0, { quadA with inbox := [{ quad := none, src := none, act := .add, index := 5, v := 1, err := false }] }), (1, quadA)] }

theorem witness_HaspOperation : (0 : Nat) < 4 ∧ (5 : Nat) < 4096 ∧ (0, 6) ≠ ((0, 5) : Nat × Nat) ∧ (63 : Nat) < 64 := by decide

theorem witness_HaspRows :
    let o : HaspOp := { no := 0, act := .add, remote := none, hasp := 5, v := 1, scope := .package, err := false }
    let w : HWait := { id := 3, no := 0, gate := true, hasp := 5, v := 9, scope := .package, tmo := 1 }
    let k := bankState { seqA with haspBuf := [o], waits := [w] }
    let pod : Fabric := { Fabric.reset with podMember := true, rt := [(1, { RtEntry.reset with valid := true })] }
    (k.cluster 0).haspBuf = [o] ∧ k.mayRelease 0 o = true ∧
    (∃ p, (k.quad 0).inbox[0]? = some p ∧
      ((k.quad 0).inbox.take 0).any (fun r => r.src.isSome && r.src = p.src && r.index = p.index) = false) ∧
    (k.cluster 0).waits.find? (fun y => y.id = 3) = some w ∧ w.tmo ≠ 0 ∧ k.bankUp 0 = true ∧ k.fabric.podMember = false ∧
    (1 : BitVec 6) ≠ pod.devnum ∧ pod.podMember = true ∧ (pod.route 1).valid = true := by
  refine ⟨by decide, by decide +kernel, ⟨_, rfl, by decide⟩, ?_⟩
  decide

def flitA (typ : BitVec 4) (seq : BitVec 8) : Flit := mkFlit typ true true 0 0 seq 0xFF

theorem witness_HingeRows :
    let act : Side := { Side.reset with st := .active }
    let disc : Side := { act with bundles := [(0, { Bundle.reset with discarding := true })] }
    let late : Side := { act with bundles := [(0, { Bundle.reset with replay := [{ flit := flitA 1 0, ends := none, acked := false }] })] }
    let l1 (x : Side) (f : Flit) : Links := ({ (sideState 0 x).links with wire := dropWire 0 0 [] }).takeAck 0 0 (flitAck f)
    ({ flitA 1 0 with data := 1 } : Flit) ≠ flitA 1 0 ∧ flitGood { flitA 1 0 with data := 1 } = false ∧
    (∀ t ∈ [0, 1, 2, 4, 5, 6], flitGood (flitA t 0) = true ∧ flitType (flitA t 0) = t ∧ ((l1 act (flitA t 0)).side 0).st = .active) ∧
    flitSeq (flitA 1 0) = (((l1 act (flitA 1 0)).side 0).bundle 0).rxSeq + 1 ∧
    flitSeq (flitA 1 5) ≠ (((l1 act (flitA 1 5)).side 0).bundle 0).rxSeq + 1 ∧
    (((l1 act (flitA 1 5)).side 0).bundle 0).discarding = false ∧ (((l1 disc (flitA 1 5)).side 0).bundle 0).discarding = true ∧
    (disc.bundle 0).discarding = true ∧ (late.bundle 0).unacked ≠ 0 ∧ act.st = .active ∧
    ({ act with st := .failed } : Side).st = .failed ∧ ({ act with st := .clock } : Side).st ≠ .active ∧
    (let m : NetMsg := { src := 0, dst := 3, cls := 0, key := .other, body := [0] }
     (dies []).route 0 3 = .side (baseSide 0 1) ∧ (dies []).route 0 0 = .here ∧
     (let mid (d : Quad) : Chip := { dies [] with quads := [(1, d), (2, d)] }
      (mid { quadA with underReset := true }).route 0 3 = .hold ∧ (mid { quadA with unusable := true }).route 0 3 = .lost) ∧
     (sideState (baseSide 0 1) { act with bundles := [(0, { Bundle.reset with replay := [{ flit := flitA 1 0, ends := some m, acked := false }] })] }).links.passing
       (baseSide 1 1) 0 (flitA 1 0) = some m ∧ (sideState 0 act).links.passing 0 0 (flitA 1 0) = none) ∧
    (let p : State := { (hingeState Side.reset) with
       chip := dies [], pins := { Pins.reset with pgood := true }, boot := { Boot.reset with phase := .discovery } }
     p.attemptDue 0 = true) ∧
    (∀ st ∈ [HState.clock, .deskew, .pattern, .confirm, .widthSet],
      let s := hingeState { Side.reset with st := st }
      (s.links.side (authSide 0)).st = st ∧ (s.links.side (subSide 0)).st = st ∧ (s.links.side (authSide 0)).waiting = false ∧
      s.links.inAttempt 0 = true) ∧
    flitGood (mkFlit 3 false false 0 2 0 0) = true ∧ flitType (mkFlit 3 false false 0 2 0 0) = 3 ∧
    (mkFlit 3 false false 0 2 0 0).data.getLsbD 1 = true ∧ flitGood (mkFlit 3 false false 0 0 0 0) = true ∧
    (mkFlit 3 false false 0 0 0 0).data.getLsbD 1 = false ∧
    (hingeState act).links.hingeState 0 = .active ∧
    ((dies []).quad 0).up = true ∧ ((dies []).quad 0).unusable = false ∧ ((dies []).quad 0).orphaned = false ∧
    ((dies []).quad 0).underReset = false ∧ ((dies []).quad 0).asleep = false ∧
    (hingeState { Side.reset with st := .clock }).links.hingeState 0 ≠ .active ∧
    ({ Links.reset with discOpen := true } : Links).discOpen = true ∧
    ((hingeState act).links.side (baseSide 0 0)).st = .active ∧
    (hingeState { Side.reset with st := .clock, waiting := true }).links.hingeState 0 ≠ .active ∧
    (act.failCount ≠ 2 ∧ ({ act with failCount := 2 } : Side).failCount = 2) := by
  decide +kernel

/-- A line of LPDDR at the host home with the directory entry `e`, and one message in the network. -/
def homeState (e : DirEnt) (m : CohMsg) : Chip :=
  { dies [(0, seqA), (1, seqA)] with homes := [(164, { Home.reset with dir := [(9, e)] })], net := [m] }

def entA (st : BitVec 2) (sh : BitVec 160) (f : BitVec 8) : DirEnt := { sharers := sh, fidx := f, dstate := st, age := 0 }

theorem witness_CoherenceRequests :
    let idle (k : Chip) : Prop := (k.home 164).isBusy 9 = false ∧ (k.home 164).waiting.any (fun w => w.1 = 9) = false ∧
      (k.home 164).busy.length < homeCap 164
    let msg (kind : CohKind) : CohMsg := mkMsg kind 64 164 9
    let k0 (kind : CohKind) := homeState DirEnt.free (msg kind)
    let busy := { k0 .getS with homes := [(164, { Home.reset with busy := [{ line := 9, kind := .bInv, req := none, waits := [1] }] })] }
    let queued := { k0 .getS with homes := [(164, { Home.reset with waiting := [(9, .getS 64)] })] }
    (k0 .getS).homeServes 9 = true ∧ (k0 .getS).homeOf 9 = 164 ∧ (k0 .getS).agentPresent 64 = true ∧
    (∀ kind ∈ [CohKind.getS, .getM, .putS, .putF, .putE], (k0 kind).net = mkMsg kind 64 164 9 :: []) ∧ idle (k0 .getS) ∧ ¬ idle busy ∧
    ((k0 .getS).home 164 |>.entry 9).dstate = dsFree ∧ (({ k0 .getS with net := [] } : Chip).roomAt 164 9).2 = true ∧
    (∀ e ∈ [entA dsS 2 0xFF, entA dsF 2 1, entA dsX 2 0xFF], idle (homeState e (msg .getS)) ∧
      (((homeState e (msg .getS)).home 164).entry 9).dstate = e.dstate) ∧
    ((queued.home 164).waiting.find? (fun w => w.1 = 9) = some (9, .getS 64) ∧ (queued.home 164).isBusy 9 = false ∧
      (queued.home 164).busy.length < homeCap 164 ∧ (queued.homeStart 164 9 (.getS 64)).2 = true) ∧
    (let e := entA dsX (agentBit 64) 0xFF
     e.dstate = dsX ∧ e.sharers = agentBit 64) ∧
    (entA dsS (agentBit 64 ||| agentBit 1) 0xFF).sharers.getLsbD 64 = true ∧ (entA dsS (agentBit 1) 0xFF).sharers.getLsbD 64 = false := by
  decide +kernel

theorem witness_CoherenceMessages :
    let at' (st : CState) (m : CohMsg) : Chip :=
      { dies [(0, { seqA with lcache := [(0, { CLine.none with st := st, line := 9 })] })] with net := [m] }
    let snoop (kind : CohKind) : CohMsg := mkMsg kind 164 64 9
    (at' .m (snoop .inv)).homeServes 9 = true ∧ (at' .m (snoop .inv)).homeOf 9 = 164 ∧ (at' .m (snoop .inv)).agentPresent 64 = true ∧
    ((at' .m (snoop .inv)).cline 64 9).st = .m ∧ (at' .m (snoop .inv)).net = snoop .inv :: [] ∧
    (∀ z ∈ [SnoopKind.getS, .once, .getM, .inv], defers .imD z = true ∧ defers .m z = false ∧ (snoopRow .m z).isSome = true ∧
      snoopRow .i z = none ∧ defers .i z = false) ∧
    (∀ st ∈ [CState.isD, .imD, .smD, .fmD, .i], ((at' st (mkDataMsg .dataE 164 64 9 7 false)).cline 64 9).st = st) ∧
    (at' .miA (mkMsg .wbAck 164 64 9)).net = mkMsg .wbAck 164 64 9 :: [] ∧ (64 : Nat) < 160 ∧
    (at' .m (mkMsg .invAck 64 164 9)).net = mkMsg .invAck 64 164 9 :: [] ∧
    (at' .m (mkDataMsg .data 64 164 9 7 false)).net = mkDataMsg .data 64 164 9 7 false :: [] ∧ (160 : Nat) ≤ 164 ∧ (164 : Nat) < 165 ∧
    (at' .m (mkDataMsg .data 64 200 9 7 false)).net = mkDataMsg .data 64 200 9 7 false :: [] ∧ (165 : Nat) ≤ 200 ∧
    (let b : Busy := { line := 9, kind := .bInv, req := none, waits := [64, 65] }
     let k := { at' .m (snoop .inv) with homes := [(164, { Home.reset with busy := [b] })] }
     (k.home 164).busy.find? (fun b => b.line = 9 && b.waits.contains 64) = some b ∧ b.waits.erase 64 ≠ [] ∧
     (k.home 164).busy.find? (fun b => b.line = 9 && b.waits.contains 66) = none) := by
  decide +kernel

/-- Quadrant 0 with a walk of space 1 for an address; line 0, which holds the one entry `x` of the table, is modified in the
line cache of cluster 0. -/
def walkState (x lo hi : Nat) (va : U64) (bad : Bool) : Chip :=
  { dies [] with
    clusters := [(0, { seqA with lcache := [(0, { CLine.none with st := .m, line := 0, data := BitVec.ofNat 1024 x, poison := bad })] })]
    homes := [(164, { Home.reset with dir := [(0, { DirEnt.free with sharers := 1 <<< 64, fidx := 64, dstate := 2 })] })]
    spaces := [(1, { spaceA with count := 1 })]
    quads := [(0, { quadA with walking := [{ space := 1, va := va, lo := lo, hi := hi, who := [0] }] }), (1, quadA)] }

def goodEntry : Nat := 2 + 2 * 2 ^ 96 + 7 * 2 ^ 160

def readA (x : Nat) (va : U64) := (walkState x 0 1 va false).readEntry 0 1 0

def walkA (hi : Nat) (va : U64) : Walk := { space := 1, va := va, lo := 0, hi := hi, who := [0] }

theorem witness_TranslationRows_walk :
    ((walkState goodEntry 0 1 0x20000 false).quad 0).walking.find? (fun w => w.space = 1 && w.va = 0x20000) = some (walkA 1 0x20000) ∧
    (readA goodEntry 0x20000).2.2 = 0 ∧
    (0 : U64).toNat < (readA goodEntry 0).2.1.vstart.toNat * 65536 ∧
    ((readA goodEntry 0).2.1.vstart.toNat + (readA goodEntry 0).2.1.len.toNat) * 65536 ≤ (0x40000 : U64).toNat ∧
    (readA goodEntry 0x20000).2.1.covers 0x20000 = true ∧
    ((walkState goodEntry 0 0 0 false).quad 0).walking.find? (fun w => w.space = 1 && w.va = 0) = some (walkA 0 0) := by
  decide +kernel

theorem witness_TranslationRows_ends :
    ((readA goodEntry 0x20000).2.1.v = true ∧ (readA goodEntry 0x20000).2.1.malformed = false) ∧
    ((readA (2 + 2 * 2 ^ 96) 0x20000).2.1.covers 0x20000 = true ∧ (readA (2 + 2 * 2 ^ 96) 0x20000).2.1.v = false) ∧
    ((readA (goodEntry + 2 ^ 200) 0x20000).2.1.covers 0x20000 = true ∧ (readA (goodEntry + 2 ^ 200) 0x20000).2.1.malformed = true) ∧
    ((walkState goodEntry 0 1 0 true).readEntry 0 1 0).2.2 ≠ 0 := by
  decide +kernel

theorem witness_TranslationRows_rest :
    (dies []).bankUp 0 = true ∧ ((dies []).space 1).en = false ∧ ((memState 0).chip.space 1).en = true ∧
    (2 ^ 57 : Nat) ≤ (0x200000000000000 : U64).toNat ∧ (findRange ((memState 0).chip.cluster 0).ranges 1 8).isSome = true ∧
    (dies []).invalidating 1 = false := by
  decide +kernel

def invalA : Invalidation := { id := 4, space := 1, origin := .command 0, waits := [] }

def relocB : Relocation :=
  { mb := 0, space := 1, index := 0, pstart := 0, tier := 0, coh := true, oldStart := 0, len := 1, oldLpddr := true, inval := 4
    copied := 0 }

theorem witness_TranslationRows_inval :
    let k := { dies [] with invals := [invalA] }
    (∃ r : Relocation, r.inval = 4) ∧ k.relocating = none ∧
    k.invals.find? (fun i => i.id = 4) = some invalA ∧ invalA.waits.any k.inFlight = false ∧ k.invalidating 1 = true := by
  refine ⟨⟨relocB, rfl⟩, rfl, by decide, rfl, by decide⟩

/-- The flash tier with one read in flight and one image. -/
def flashState (st : ImgState) : Flash :=
  let r : FlashReq := { id := 2, off := 0, len := 512, cluster := 0, mover := 0, cmd := 7, piece := 0 }
  { Flash.reset with
    ready := true, reqs := [r]
    images := [{ id := 1, st := st, offset := 0, length := 65536, digest := 0, damaged := false }] }

theorem witness_FlashRows :
    let f := flashState .erasing
    let k : Chip := { dies [] with flash := f }
    (∃ r, f.reqs.find? (fun r => r.id = 2) = some r ∧ r.cluster = 0) ∧
    (hingeState { Side.reset with st := .active }).links.hingeState 0 = .active ∧
    f.ready = true ∧ f.defer = none ∧ ({ f with defer := some (1, 5) } : Flash).defer = some (1, 5) ∧
    90000 ≤ (({ f with blocks := [(0, { FBlock.reset with reads := 90000 })] } : Flash).block 0).reads ∧
    (∃ i, k.flash.image 1 = some i ∧ i.st = .erasing) ∧ k.imageHeld 1 = false ∧
    ({ State.reset with pins := { Pins.reset with pgood := true }, boot := { Boot.reset with phase := .running } }.tumblerUp = true) := by
  refine ⟨⟨_, rfl, rfl⟩, by decide, by decide, by decide, by decide, by decide, ⟨_, rfl, rfl⟩, by decide, by decide⟩

def errA : ErrInfo :=
  { level := 0, cls := 0, quad := 0, cluster := 0, agent := 0, struct := 0, status := 0, paddr := 0, vaddr := 0, space := 0, hart := 0,
    syndrome := 0, detail := 0 }

theorem witness_ErrorRows :
    (∀ n ∈ [1, 2, 3, 4, 5, 6, 7, 8, 9, 10, 11], ({ errA with struct := n } : ErrInfo).struct = n) ∧
    (dies []).populated 0 = true ∧ (dies []).clusterPresent 0 = true ∧ ({ errA with agent := 13 } : ErrInfo).agent = 13 ∧
    errA.agent ≠ 13 ∧ errA.hart.toNat < 64 ∧ errA.quad.toNat < 4 ∧ 4 ≤ ({ errA with quad := 0xFF } : ErrInfo).quad.toNat ∧
    (dies []).quadPresent 0 = true ∧ 10 < (11 : BitVec 8).toNat ∧ cacheable 0 = true := by decide

theorem witness_ErrorBank :
    let m (b : List (BitVec 512)) : Mgmt := { Chip.reset.mgmt with bank := b }
    (m []).bank.length < 1024 ∧
    (∃ b : List (BitVec 512), (m b).bank.length = 1024 ∧ ∃ x ∈ (m b).bank, recSeverity x = 0) ∧
    (∃ b : List (BitVec 512), (m b).bank.length = 1024 ∧ ∀ x ∈ (m b).bank, recSeverity x ≠ 0) := by
  have two (x : BitVec 512) (n : Nat) (h : n ≠ 0) : ∃ b : List (BitVec 512), b.length = n ∧ x ∈ b ∧ ∀ y ∈ b, y = x :=
    ⟨List.replicate n x, by simp, by simp [h], fun y h => List.eq_of_mem_replicate h⟩
  obtain ⟨a, la, ma, _⟩ := two 0 1024 (by decide)
  obtain ⟨b, lb, _, hb⟩ := two (BitVec.allOnes 512) 1024 (by decide)
  have zero : recSeverity 0 = 0 := by decide +kernel
  have ones : recSeverity (BitVec.allOnes 512) ≠ 0 := by decide +kernel
  refine ⟨by decide, ⟨a, la, 0, ma, zero⟩, b, lb, fun x h => ?_⟩
  rw [hb x h]
  exact ones

/-- Fabric port 0 as given, and the rest of the fabric. -/
def portState (p : Port) (f : Fabric) : Chip := { dies [] with fabric := { f with ports := [(0, p)] } }

def grpA : LinkGroup := { ports := 1, dim := false, dateline := false, valid := true, peer := 1 }

/-- The CRC field of a trailer. -/
theorem crcA (c : BitVec 32) : ((0 : BitVec 32) ++ c ++ (0 : BitVec 64)).extractLsb' 64 32 = c := by
  apply BitVec.eq_of_getElem_eq
  intro i h
  have h1 : ¬ (64 + i < 64) := by omega
  have h2 : 64 + i - 64 = i := by omega
  rw [BitVec.getElem_extractLsb', BitVec.getLsbD_append, BitVec.getLsbD_append]
  simp [h1, h2, h, BitVec.getLsbD_eq_getElem]

/-- The low word of a trailer. -/
theorem crcB (c : BitVec 32) : ((0 : BitVec 32) ++ c ++ (0 : BitVec 64)).extractLsb' 0 64 = 0 := by
  apply BitVec.eq_of_getElem_eq
  intro i h
  rw [BitVec.getElem_extractLsb', BitVec.getLsbD_append]
  simp [h]

theorem witness_FabricLinkRows_crc :
    let fr (c : BitVec 32) : Frame := { units := 0, trailer := (0 : BitVec 32) ++ c ++ (0 : BitVec 64) }
    (∃ c, frameGood (fr c) = true) ∧ (∃ c, frameGood (fr c) = false)  := by
  have good (c : BitVec 32) : frameGood { units := 0, trailer := (0 : BitVec 32) ++ c ++ (0 : BitVec 64) } = decide (c = frameCrc 0 0) := by
    rw [frameGood, trCrc, crcA, crcB]
  generalize frameCrc 0 0 = x at good
  refine ⟨⟨x, ?_⟩, x + 1, ?_⟩
  · rw [good]; exact decide_eq_true rfl
  · rw [good]
    refine decide_eq_false fun e => ?_
    simpa using congrArg (· - x) e

theorem witness_FabricLinkRows :
    let st (x : PortState) : Port := { Port.reset with st := x }
    let fr (c : BitVec 32) : Frame := { units := 0, trailer := (0 : BitVec 32) ++ c ++ (0 : BitVec 64) }
    (st .link).st = .link ∧ (st .active).st = .active ∧
    (st .training).st = .training ∧ (st .down).st = .down ∧ (portState (st .down) Fabric.reset).portPowered 0 = true ∧
    (st .down).disable = false ∧ ({ st .active with replay := [fr 0] } : Port).replay ≠ [] ∧
    ({ st .active with discarding := true } : Port).discarding = true ∧
    (let f := (portState { st .link with gvalid := true } { Fabric.reset with lgrp := [(0, grpA)] }).fabric
     f.groupOf 0 = some 0 ∧ (f.port 0).gvalid = true ∧ ∀ j ∈ f.live 0, (f.port j).out = [] ∧ ∀ x ∈ (f.port j).replay, x.units = 0) ∧
    (∀ x ∈ (st .link).inq, ¬ (pkType x.pk = 6 ∧ mgKind x.pk = 1)) ∧ Fabric.reset.waiting = [] ∧ (dies []).fabPresent 0 = true ∧
    (portState { st .off with disable := true } Fabric.reset).portPowered 0 = true := by
  decide +kernel

/-- A packet for a device from device 1 with `LIFE` and a payload. -/
def packetA (typ : BitVec 4) (dst : BitVec 6) (len life addr : Nat) (aop : BitVec 4) : Packet :=
  { hdr := mkHeader typ 0 false false len dst 1 3 life addr 0 0 0 aop, payload := List.replicate 32 0 }

theorem witness_PacketRows :
    let k := portState { Port.reset with st := .active } Fabric.reset
    let r : RemoteReq := { tag := 3, typ := 2, owner := .hart 0 1, hasp := 0, addr := 0, len := 8 }
    (k.fabric.port 0).st = .active ∧ ((k.fabric.port 0).inq.any (fun x => x.pk = packetA 1 0 8 0 0 0) && keyBlocked (k.fabric.port 0).inq (packetA 1 0 8 0 0 0)) = false ∧
    (∀ x ∈ [((1 : BitVec 4), 8), (2, 8), (5, 16), (4, 0), (3, 8)],
      (pkType (packetA x.1 0 x.2 0 0 0)).toNat = x.1.toNat ∧ pkMalformed (packetA x.1 0 x.2 0 0 0) = false ∧
      pkMalformed (packetA x.1 0 300 0 0 0) = true ∧
      700 ≤ pkLife (packetA x.1 0 x.2 700 0 0) + (Port.reset.received (packetA x.1 0 x.2 700 0 0)).residence ∧
      pkLife (packetA x.1 0 x.2 0 0 0) + (Port.reset.received (packetA x.1 0 x.2 0 0 0)).residence < 700 ∧ pkDst (packetA x.1 0 x.2 0 0 0) = k.fabric.devnum ∧
      pkDst (packetA x.1 2 x.2 0 0 0) ≠ k.fabric.devnum ∧ pkRefused (packetA x.1 0 x.2 0 0 0) true = false) ∧
    pkRefused (packetA 1 0 8 0 252 0) true = true ∧ pkRefused (packetA 2 0 0 0 0 0) true = true ∧ pkRefused (packetA 3 0 8 0 0 0) false = true ∧
    pkRefused (packetA 5 0 16 0 0 3) true = true ∧ [r].find? (fun r => r.tag.toNat = 3) = some r := by
  decide +kernel

/-- A management packet of a kind. -/
def mgmtA (kind : Nat) (directed : Bool) (hops len : Nat) (dst : BitVec 6) : Packet := (mkMgmt dst 1 (mgBytes kind directed hops len 5)).pk

theorem witness_PodRows :
    let k := portState { Port.reset with st := .link } Fabric.reset
    let x (n : Nat) : RelayOut := { mseq := 5, dst := 1, mb := 0, body := [], resent := n }
    (k.fabric.port 0).st = .link ∧
    (∀ kind ∈ [4, 5, 6, 2, 3], mgKind (mgmtA kind false 0 0 0) = kind ∧ pkType (mgmtA kind false 0 0 0) = 6 ∧
      pkMalformed (mgmtA kind false 0 0 0) = false ∧ mgBad (mgmtA kind false 0 0 0) = false ∧ mgBad (mgmtA kind true 0 0 0) = true ∧
      mgDirected (mgmtA kind true 1 2 0) = true ∧ mgBad (mgmtA kind true 1 2 0) = false ∧
      mgHops (mgmtA kind true 1 2 0) < mgPathLen (mgmtA kind true 1 2 0) ∧
      mgDirected (mgmtA kind false 0 0 2) = false ∧ pkDst (mgmtA kind false 0 0 2) ≠ k.fabric.devnum ∧
      pkDst (mgmtA kind false 0 0 0) = k.fabric.devnum) ∧
    [x 0].find? (fun x => x.mseq = 5) = some (x 0) ∧ (x 0).resent < 3 ∧ 3 ≤ (x 3).resent := by
  decide +kernel

def hartA : Hart := { Hart.reset with running := true, x := [(1, 5)] }

/-- Hart 0 as given. -/
def hartState (x : Hart) : Chip := { dies [] with harts := [(0, x)] }

/-- Hart 0 with line 0 of memory in a state. -/
def hartLine (st : CState) (bad : Bool) : Hart := { hartA with l2 := [(0, { CLine.none with st := st, line := 0, poison := bad })] }

theorem witness_HartRows :
    let k := hartState hartA
    let halted : Hart := { hartA with stopped := true }
    (hartState halted).hartWaits 0 0 8 .pma (loadClass .pma 0) 0 = true ∧ (hartState halted).hartWaits 0 0 8 .pma (storeClass .pma 0) 1 = true ∧
    (∀ p ∈ [PageType.pma, .nc, .io], k.hartWaits 0 0 8 p (loadClass p 0) 0 = false ∧ k.hartWaits 0 0 8 p (storeClass p 0) 1 = false ∧
      k.hartWaits 0 0 8 p (if p = .io then 12 else 3) 1 = false) ∧ k.hartWaits 0 0 64 .pma (storeClass .pma 0) 0 = false ∧
    k.hartWaits 0 0 1 .pma 3 0 = false ∧
    k.hartSpot 0 8 .pma false false false = .line ∧ k.hartSpot 0x40000000000 4 .pma false false false = .io ∧
    k.hartSpot 0 8 .nc false true false = .mem ∧ k.hartSpot 0 8 .io false true true = .line ∧
    k.hartSpot 0x40000000000 8 .pma false false false = .refused false ∧ k.hartSpot 0x40000000000 4 .pma false true false = .refused false ∧
    k.hartSpot 0x8000000000 8 .pma false false false = .refused true ∧ k.hartSpot 0x30000000000 8 .pma false false false = .reg ∧
    k.hartSpot 0x20000000000 8 .pma false false false = .mem ∧
    (k.hart 0).running = true ∧ (k.hart 0).stopped = false ∧ (k.hart 0).fence = none ∧
    k.hartOrdered 0 = true ∧ (k.hart 0).stores = [] ∧ (k.hart 0).accs = [] ∧
    ((hartState (hartLine .m false)).cline 0 0).st = .m ∧ (k.cline 0 0).st ≠ .m ∧
    k.hartOrdered (2 ^ 46) = false := by
  decide +kernel

theorem witness_HartCacheAccess :
    let k (st : CState) (bad : Bool) := hartState (hartLine st bad)
    ((k .s false).hart 0).quiet = true ∧ (k .s false).hartSpot 0 8 .pma false false false = .line ∧
    (linesOf 0 8).all (fun l => ((k .s false).cline 0 l).st.readable) = true ∧ (k .s false).l2Poison 0 0 8 = false ∧
    (linesOf 0 8).all (fun l => ((k .s true).cline 0 l).st.readable) = true ∧ (k .s true).l2Poison 0 0 8 = true ∧
    ((k .e false).cline 0 (lineOf 120)).st.writable = true ∧ 120 % 128 + 8 ≤ 128 ∧
    (k .e false).hartSpot 120 8 .pma false false false = .line ∧ ((k .s false).cline 0 (lineOf 120)).st.readable = true ∧
    (k .e false).hartSpot 120 8 .pma false true false = .line ∧ (k .e false).hartSpot 120 8 .pma false true true = .line ∧
    linesOf 120 8 = [lineOf 120] ∧ ((k .e false).cline 0 (lineOf 120)).poison = false ∧
    ({ hartLine .e false with resv := some (120, 8) } : Hart).resv = some (120, 8) := by
  decide +kernel

def pcieA (a : U64) : PcieReq := { port := 0, requester := 7, pasid := 0, addr := a }

def hartAccA : HartAcc := { id := 0, rd := 3, va := 0, pa := 0x50000000000, bytes := 8, kind := .load false false, target := .pcie }

theorem witness_DeviceRows :
    (∀ f : PcieReq, ∀ w, Config.iommu (pcieDev f) f.pasid f.addr w = none ∨ ∃ pa, Config.iommu (pcieDev f) f.pasid f.addr w = some pa) ∧
    ((dies []).devSpot 0 8 = .memory ∧ (∃ j bs bad, (dies []).cohRead 0 8 = (j, (bs, bad))) ∧
      (dies []).devSpot 0x30000000000 8 = .refused ∧ (dies []).devSpot 0x40000000000 4 = .msi ∧
      ({ dies [] with capHarts := 0 } : Chip).devSpot 0x40000000000 4 = .refused) ∧
    ((hartState { hartA with accs := [hartAccA], nextId := 1 }).hart 0).pcieAcc = some hartAccA := by
  refine ⟨fun f w => ?_, ⟨by decide +kernel, ⟨_, _, _, rfl⟩, by decide +kernel⟩, by decide +kernel⟩
  cases Config.iommu (pcieDev f) f.pasid f.addr w with
  | none => exact Or.inl rfl
  | some x => exact Or.inr ⟨x, rfl⟩

def rdmaA : RdmaReq := { frame := { bytes := 64, tag := none }, port := 0, qpn := 0, pasid := 0, addr := 0 }

/-- Connection 0 of Ethernet port 0 in RTS, its table line modified in the line cache of cluster 0; one write outstanding. -/
def qpState (st : Nat) : Chip :=
  { dies [] with
    clusters := [(0, { seqA with lcache := [(0, { CLine.none with st := .m, line := 0, data := BitVec.ofNat 1024 st })] })]
    homes := [(164, { Home.reset with dir := [(0, { DirEnt.free with sharers := 1 <<< 64, fidx := 64, dstate := 2 })] })]
    io := { HostIo.reset with
      eth := [(0, { EthPort.reset with up := true })]
      rdma := [{ id := 4, cluster := 0, mover := 0, cmd := 7, seg := 0, endpoint := 0, addr := 0, data := [] }] } }

theorem witness_DeviceRows_rdma :
    (qpState 3).rdmaOpen rdmaA = true ∧ (qpState 0).rdmaOpen rdmaA = false ∧
    (qpState 3).rdmaOpen { rdmaA with frame := { bytes := 9601, tag := none } } = false ∧
    ((qpState 3).rdmaWritePages rdmaA [] []).2 = false ∧ ((qpState 3).rdmaReadPages rdmaA []).2 = some [] ∧
    (∃ w, (qpState 3).io.rdma.find? (fun w => w.id = 4) = some w ∧ epPort w.endpoint = 0) ∧
    (qpState 3).qpState 0 0 = 3 ∧ (qpState 4).qpState 0 0 ≠ 3 ∧ ((qpState 3).ethPort 0).up = true ∧
    ((qpState 3).ethPort 1).up ≠ true := by
  refine ⟨by decide +kernel, by decide +kernel, by decide +kernel, rfl, rfl, ⟨_, rfl, by decide⟩, ?_⟩
  decide +kernel

/-- The check of a page either refuses it or does not. -/
theorem witness_DeviceRows_pages (k : Chip) (bs : Bytes) (ps : List (Nat × Nat)) :
    (∃ j, k.rdmaWritePages rdmaA bs ps = (j, false) ∨ k.rdmaWritePages rdmaA bs ps = (j, true)) ∧
    (∃ j, (∃ x, k.rdmaReadPages rdmaA ps = (j, some x)) ∨ k.rdmaReadPages rdmaA ps = (j, none)) := by
  constructor
  · cases h : k.rdmaWritePages rdmaA bs ps with
    | mk j b => cases b with
      | false => exact ⟨j, Or.inl rfl⟩
      | true => exact ⟨j, Or.inr rfl⟩
  · cases h : k.rdmaReadPages rdmaA ps with
    | mk j b => cases b with
      | none => exact ⟨j, Or.inr rfl⟩
      | some x => exact ⟨j, Or.inl ⟨x, rfl⟩⟩

/-- Numbers of `w` bits side by side, the first lowest. -/
def packN (w : Nat) : List Nat → Nat
  | [] => 0
  | x :: r => x + 2 ^ w * packN w r

/-- A command slot: opcode, buffers and arguments. -/
def slotA (op : Nat) (bufs args : List Nat) : BitVec 512 :=
  BitVec.ofNat 512 (op + 2 ^ 48 * bufs.length + 2 ^ 64 * packN 16 bufs + 2 ^ 128 * packN 64 args)

/-- An open mailbox that runs a command. -/
def boxA (op : Nat) (bufs args : List Nat) : Mailbox :=
  { Mailbox.reset with opened := true, st := .running, copied := slotA op bufs args }

def withBox (k : Chip) (mb : Nat) (b : Mailbox) : Chip := { k with mgmt := { Chip.reset.mgmt with boxes := [(mb, b)] } }

/-- A mailbox runs a command on the given dies. -/
def boxState (mb : Nat) (b : Mailbox) (k : Chip) : State := withChip (withBox k mb b)

theorem runs_boxState (mb op : Nat) (bufs args : List Nat) (k : Chip) (h : slotOp (slotA op bufs args) = op) :
    (boxState mb (boxA op bufs args) k).commandRuns mb op := by
  have e : (boxState mb (boxA op bufs args) k).chip.box mb = boxA op bufs args := by
    simp [boxState, withChip, withBox, Chip.box, Mgmt.box, tblGet]
  exact ⟨by rw [e]; rfl, by rw [e]; rfl, by rw [e]; exact h⟩

/-- Slots of every opcode, with arguments at the bounds of their checks. -/
def slotsA : List (Nat × List Nat) := [
  (0x0101, []), (0x0102, []), (0x0103, []), (0x0201, [4]), (0x0201, [3]), (0x0201, [2]), (0x0201, [1]), (0x0201, [0]),
  (0x0202, [0]), (0x0202, [959]), (0x0202, [960]), (0x0203, [4096, 0]), (0x0203, [4095, 3]), (0x0203, [0, 4]),
  (0x0204, [2]), (0x0204, [1]), (0x0205, [4, 0]), (0x0205, [0, 13]), (0x0205, [3, 12]), (0x0206, [4, 0]), (0x0206, [3, 2]),
  (0x0206, [0, 3]), (0x0207, [2, 0]), (0x0207, [1, 2]), (0x0207, [0, 3])]

def slotsB : List (Nat × List Nat) := [
  (0x0301, []), (0x0302, [2550]), (0x0302, [2500]), (0x0302, [8500]), (0x0302, [2600]), (0x0302, [8400]), (0x0303, []),
  (0x0304, [2]), (0x0304, [1]), (0x0401, [4, 0, 0]), (0x0401, [0, 256, 0]), (0x0401, [0, 0, 65536]), (0x0401, [3, 255, 65535]),
  (0x0402, [0, 256]), (0x0402, [4, 0]), (0x0402, [3, 255])]

def slotsC : List (Nat × List Nat) := [
  (0x0501, [0, 1, 0, 0, 0]), (0x0501, [4096, 1, 0, 0, 0]), (0x0501, [1, 2, 0, 0, 0]), (0x0501, [1, 1, 256, 0, 0]),
  (0x0501, [1, 1, 0, 65537, 0]), (0x0501, [1, 1, 0, 1, 2 ^ 44]), (0x0501, [4095, 1, 255, 65536, 0]), (0x0502, [0]), (0x0502, [4096]),
  (0x0502, [4095]), (0x0503, [4096]), (0x0503, [0]), (0x0503, [4095]), (0x0504, [0]), (0x0504, [4096]), (0x0504, [1, 0, 2 ^ 40]),
  (0x0504, [1, 0, 0, 3]), (0x0504, [1, 0, 0, 0, 2]), (0x0504, [1, 0, 4, 2, 1]), (0x0504, [1, 1, 0, 0, 0])]

def slotsD : List (Nat × List Nat) := [
  (0x0602, [0]), (0x0602, [1]), (0x0602, [65537]), (0x0606, [0]), (0x0606, [1]), (0x0606, [60]), (0x0606, [61]), (0x0704, [64]),
  (0x0704, [63]), (0x0704, [0]), (0x0A03, [4]), (0x0A03, [3]), (0x0A04, [4]), (0x0A04, [0]), (0x0B03, [0x10000]), (0x0B03, [0xFFFF]),
  (0x0703, []), (0x0806, []), (0x0901, [0]), (0x0902, [1]), (0x0903, [0]), (0x0A01, []), (0x0A02, []), (0x0B01, []), (0x0B02, []),
  (0x0F01, [0]), (0x0F02, [0x30000000000]), (0x0801, []), (0x0802, [1, 2, 3, 4]), (0x0805, [0, 1]), (0x0805, [2, 1]), (0x0805, [1, 3])]

/-- A slot says its opcode and its arguments. -/
def saysSlot (x : Nat × List Nat) : Bool :=
  slotOp (slotA x.1 [] x.2) = x.1 && (List.range 6).all (fun i => (slotArg (slotA x.1 [] x.2) i).toNat = x.2.getD i 0)

theorem slots_say : slotsA.all saysSlot = true ∧ slotsB.all saysSlot = true ∧ slotsC.all saysSlot = true ∧ slotsD.all saysSlot = true := by
  decide +kernel

theorem witness_MailboxRows :
    let b : Mailbox := { Mailbox.reset with opened := true }
    agentReaches (.hart 0) 0 = true ∧ Mailbox.reset.opened = false ∧ b.st = .idle ∧ (boxA 0x0103 [] []).st = .running ∧
    slotTag b.cmd ≠ ((1 : U64).extractLsb' 0 16) ∧ slotTag b.cmd = ((0 : U64).extractLsb' 0 16) ∧ slotNbuf b.cmd = 0 ∧
    boxClass 0 = .l ∧ boxClass 8 = .g ∧ ({ b with wen := true } : Mailbox).wen = true ∧
    b.lost = 0 ∧ ¬ (32 ≤ (b.prod - (0 : U64).extractLsb' 16 16).toNat) ∧ 32 ≤ ({ b with prod := 32 }.prod - (0 : U64).extractLsb' 16 16).toNat ∧
    ({ b with st := .check, dbTag := 1 } : Mailbox).dbTag ≠ slotTag b.cmd ∧
    ({ boxA 0x0103 [] [] with result := some (mbResult 0 []) } : Mailbox).result = some (mbResult 0 []) ∧
    slotBufs (boxA 0x0103 [] []).copied = [] ∧ (cmdInfo 0x0103).isSome = true ∧
    ((cmdInfo 0x0504).any (·.slow)) = true ∧ ((cmdInfo 0x0103).any (fun c => !c.slow && c.op ≠ 0x0703)) = true := by
  decide +kernel

theorem witness_MailboxRows_respond :
    slotHen (slotA 0x100000103 [] []) = true ∧ (dies []).bankUp (haspQuad (slotHasp (slotA 0x100000103 [] []))) = true ∧
    slotHen (slotA 0x0103 [] []) = false ∧ Mailbox.reset.mask.getLsbD 0 = false ∧
    ({ Mailbox.reset with mask := 1 } : Mailbox).mask.getLsbD 0 = true ∧ Mailbox.reset.held < 32 := by
  decide +kernel

theorem witness_MailboxRows_checks :
    let b (op : Nat) (bufs args : List Nat) : Mailbox := boxA op bufs args
    let k := dies []
    (∀ why, State.reset.boot.phase ≠ .recovery why) ∧ (cmdInfo 0x0105).isNone = true ∧
    ((cmdInfo 0x0F01).any (fun c => (b 0x0F01 [] []).mayIssue 0 c = false)) = true ∧
    ((cmdInfo 0x0206).any (fun c => (b 0x0206 [] [0, 0]).mayIssue 0 c && k.unitsThere c (b 0x0206 [] [0, 0]).copied)) = true ∧
    ((cmdInfo 0x0206).any (fun c => (b 0x0206 [] [0, 0]).mayIssue 0 c &&
      !({ k with capUnits := 0 } : Chip).unitsThere c (b 0x0206 [] [0, 0]).copied)) = true ∧
    slotReserved (slotA 0x800000000103 [] []) = true ∧ slotReserved (slotA 0x0103 [] []) = false ∧
    slotNbuf (slotA 0x0103 [0xFFFF] []) = 1 ∧ slotNbuf (slotA 0x0103 [] []) = 0 ∧
    (b 0x0102 [0] []).bufSpot (slotBuf (b 0x0102 [0] []).copied 0) = none ∧
    slotArg (slotA 0x0103 [] [1]) 0 ≠ 0 ∧ (∀ i, i < 6 → slotArg (slotA 0x0103 [] []) i = 0) := by
  refine ⟨fun why h => (by cases h), by decide +kernel⟩

theorem witness_BufferIndices : (5 : Nat) ≠ 0xFFFF ∧ ({ Mailbox.reset with wen := true, nbufs := 6 } : Mailbox).nbufs.toNat = 6 := by
  decide

def powered (p : Power) : State := { withChip (dies []) with power := p }

/-- Every cluster is idle. -/
def idleState : State := withChip (dies ((List.range 96).map (fun c => (c, { Cluster.reset with st := .idle }))))

theorem witness_InformationAndPowerCommands :
    (∀ why, State.reset.boot.phase ≠ .recovery why) ∧ Mailbox.reset.begun = false ∧
    ({ boxA 0x0201 [] [] with begun := true } : Mailbox).begun = true ∧
    (powered Power.reset).dstateRefusal 4 = some 3 ∧ (powered Power.reset).dstateRefusal 0 = some 7 ∧
    idleState.dstateRefusal 1 = none ∧ idleState.dstateRefusal 2 = none ∧ (powered Power.reset).dstateRefusal 1 = some 4 ∧
    (powered Power.reset).dstateRefusal 3 = none ∧ (powered { Power.reset with dstate := 1 }).dstateRefusal 0 = none ∧
    (powered { Power.reset with dstate := 2 }).dstateRefusal 0 = none ∧ State.reset.links.rediscover = [] ∧
    ({ Power.reset with moving := true } : Power).moving = true ∧ capFloor 0 = 1000 ∧ capFloor 1 = 960 ∧
    (dies []).pkgAllowed = false ∧ ({ dies [] with pkgAllowed := true } : Chip).pkgAllowed = true ∧
    (dies []).bankUp 0 = true ∧ (dies []).bankUp 2 = false ∧ ((dies []).quad 0).splitBy = none ∧
    ({ quadA with splitBy := some 0 } : Quad).splitBy ≠ none ∧
    Power.reset.fixed = false ∧ ({ Power.reset with fixed := true } : Power).fixed = true := by
  refine ⟨fun why h => (by cases h), by decide +kernel⟩

theorem witness_SetDstate_fromD2 : (powered { Power.reset with dstate := 2 }).leaveD2.links.rediscover ≠ [] := by
  decide +kernel

def spaceRecA : SpaceRec := { en := true, domain := 255, count := 65536, tbase := 0 }

/-- Dies whose space 1 has one entry, held in line 0 of the line cache of cluster 0. -/
def relocA (x : Nat) (bad : Bool) : Chip :=
  { dies [] with
    clusters := [(0, { seqA with lcache := [(0, { CLine.none with st := .m, line := 0, data := BitVec.ofNat 1024 x, poison := bad })] })]
    homes := [(164, { Home.reset with dir := [(0, { DirEnt.free with sharers := 1 <<< 64, fidx := 64, dstate := 2 })] })]
    spaces := [(1, { spaceA with count := 1 })] }

theorem witness_SpaceCommands :
    let k := dies []
    k.tableOk spaceRecA = true ∧ k.tableOk { spaceRecA with tbase := BitVec.ofNat 44 0x8000000 } = false ∧
    (k.space 1).en = false ∧ ((relocA 0 false).space 1).en = true ∧ ((relocA 0 false).space 1) ≠ spaceRecA ∧
    ((relocA 0 false).space 1).count.toNat = 1 ∧ k.relocating = none := by
  decide +kernel

theorem witness_SpaceCommands_relocate :
    let x : Nat := 2 ^ 48 * 8 + 2 ^ 96 + 7 * 2 ^ 160
    ((relocA x true).tumblerEntry 1 0).2 = none ∧ ((relocA x false).tumblerEntry 1 0).2 = some x := by
  decide +kernel

theorem witness_SpaceCommands_movable :
    let x : Nat := 2 ^ 48 * 8 + 2 ^ 96 + 7 * 2 ^ 160
    (dies []).movable (decodeRange x) 9 0 true = true ∧ (dies []).movable (decodeRange x) 8 0 true = false := by
  decide +kernel

theorem witness_FlashCommands :
    let i (st : ImgState) : Image := { id := 1, st := st, offset := 0, length := 65536, digest := 0, damaged := false }
    let f (st : ImgState) : Flash := { Flash.reset with images := [i st] }
    Mailbox.reset.outRoom 0 = 0 ∧ (boxA 0x0601 [0xFFFF] []).outRoom 0 = 1664 ∧ ((f .sealed).images.flatMap Image.record).length ≤ 1664 ∧
    0 < ((f .sealed).images.flatMap Image.record).length ∧ 2 ≤ Flash.reset.sparePct.toNat ∧
    ({ Flash.reset with sparePct := 1 } : Flash).sparePct.toNat < 2 ∧ Flash.reset.used + 1 ≤ userUnits ∧
    Flash.reset.freeId = some 1 ∧ (f .sealed).freeId = some 2 ∧ Flash.reset.place 65536 = some 0 ∧ (f .sealed).place 65536 = some 65536 ∧
    (f .writing).image 1 = some (i .writing) ∧ (f .sealed).image 1 = some (i .sealed) ∧ (f .erasing).image 1 = some (i .erasing) ∧
    (f .sealed).image 2 = none ∧ 64 ≤ (boxA 0x0604 [0xFFFF] []).outRoom 0 ∧ Flash.reset.defer = none ∧
    ({ Flash.reset with defer := some (0, 9) } : Flash).defer = some (0, 9) ∧ (0 : Nat) < ({ Flash.reset with deferNot := 5 } : Flash).deferNot := by
  decide +kernel

/-- Inline input of 512 bytes of zeros. -/
def inlineA (op : Nat) (args : List Nat) (n : Nat) : Mailbox :=
  { boxA op [0xFFFF] args with inl := putBytes [] 0 (toBytes 8 (ownWord 1 0 n).toNat) }

theorem witness_FlashCommands_write :
    ((withBox (dies []) 0 (inlineA 0x0603 [1, 0] 512)).cmdInput 0).2 = some (List.replicate 512 0) ∧
    (withBox (dies []) 0 (inlineA 0x0603 [1, 0] 512)).inputLength 0 = 512 := by
  decide +kernel

/-- The two entries of a mesh of two modules: this one, and the neighbour behind port 0. -/
def podListA : List PodEntry := [{ serial := 0, dev := 0, path := [] }, { serial := 9, dev := 1, path := [0] }]

def helloA : HelloInfo := { serial := 9, devnum := 0, configured := false, podId := 0, port := 3 }

theorem witness_PodCommands :
    let s : State := withChip (portState { Port.reset with st := .link, hello := some helloA } Fabric.reset)
    podTopology 0 1 12 = none ∧ podTopology 0 13 12 = some (.fullMesh 13) ∧ podTopology 0 14 12 = none ∧
    podTopology 1 16 12 = some .torus4 ∧ podTopology 2 64 12 = some .torus8 ∧ podTopology 0 2 12 = some (.fullMesh 2) ∧
    s.podListOk podListA = true ∧ (withChip (dies [])).podListOk podListA = false ∧ 32 % 16 = 0 ∧ 33 % 16 ≠ 0 ∧
    s.chip.fabric.awaited = [] ∧ ({ Fabric.reset with awaited := [4] } : Fabric).awaited ≠ [] ∧
    podListA.find? (fun e => e.path.isEmpty) = some { serial := 0, dev := 0, path := [] } ∧
    s.chip.checker = none ∧ (withBox (dies []) 1 { boxA 0x0703 [0xFFFF] [] with begun := true }).checker ≠ none ∧
    s.chip.fabric.devnum.toNat = 0 := by
  decide +kernel

theorem witness_PodCommands_input (k : Chip) : ∃ j inp, k.cmdInput 0 = (j, inp) := ⟨_, _, rfl⟩

theorem witness_SecurityCommands :
    let x := Boot.reset
    let bad := stagedSlot { bootImage0 with good := false }
    (∀ bs, x.enrolOk bs = true ∨ x.enrolOk bs = false) ∧
    (∀ s : State, ∀ bs, s.unlockOk bs = true ∨ s.unlockOk bs = false) ∧
    (∀ bs, x.slotOk 1 (stagedSlot (x.parseImage 1 bs)) = true ∨ x.slotOk 1 (stagedSlot (x.parseImage 1 bs)) = false) ∧
    ((x.kind 1).running ≠ some true ∧ (x.kind 1).preferred ≠ true ∧ (x.kind 1).preferred = false ∧
      ({ FwKind.reset with running := some true } : FwKind).running = some true ∧
      x.kindBusy 0 1 = false ∧ ({ x with staging := [(1, 1)] } : Boot).kindBusy 0 1 = true ∧
      x.slotOk 1 ((x.kind 1).slot false) = true ∧ x.slotOk 1 ((x.kind 1).slot true) = false ∧ x.slotOk 2 bad = false) ∧
    ((∃ rs j, (dies []).freshBytes 32 = (rs, j)) ∧
      guestLists [] = none ∧ guestLists (List.replicate 12 0) = some { queues := [], spaces := [], counters := [] }) := by
  refine ⟨fun bs => ?_, fun s bs => ?_, fun bs => ?_, by decide +kernel, ⟨_, _, rfl⟩, by decide +kernel⟩ <;>
    exact (Bool.eq_false_or_eq_true _).symm.elim Or.inr Or.inl

theorem witness_SecurityCommands_assign :
    let k := dies []
    (k.box 8).st = .idle ∧ (k.setWindow Mailbox.reset 0 0).winErr = false ∧ (k.setWindow Mailbox.reset 0 0x120001).winErr = false ∧
    (k.setWindow Mailbox.reset 0 0x110001).winErr = true := by
  decide +kernel

theorem witness_ManagementCommands :
    let h := (hingeState { Side.reset with st := .active }).links
    (dies []).bankUp 0 = true ∧ ((dies []).quad 0).orphaned = false ∧ ({ quadA with orphaned := true } : Quad).orphaned = true ∧
    h.hingeState 0 = .active ∧ State.reset.links.hingeState 0 ≠ .active ∧ (dies []).hostOpen = true ∧ Chip.reset.hostOpen = false ∧
    Boot.reset.debugLevel.getLsbD 1 = false ∧ (2 : BitVec 3).getLsbD 1 = true ∧
    (dies []).isOwn 0 = true ∧ areaOf (paLocal 0) = .lpddr ∧ (dies []).populated 0 = true ∧ (dies []).isOwn (2 ^ 50) = false ∧
    (dies []).tmbReach 0 = stOk ∧ Chip.reset.tmbReach 0 ≠ stOk ∧
    boxClass 8 = .g ∧ boxClass 0 = .l := by
  decide +kernel

theorem witness_ManagementCommands_peek : ∃ l, (withChip (dies [])).regCheck none 0x30000000000 8 = .ok l := by
  have h : (match (withChip (dies [])).regCheck none 0x30000000000 8 with | .ok _ => true | _ => false) = true := by decide +kernel
  revert h
  cases (withChip (dies [])).regCheck none 0x30000000000 8 with
  | ok l => exact fun _ => ⟨l, rfl⟩
  | _ => intro h; cases h

def upState : State :=
  { withChip (withBox { dies [] with io := { HostIo.reset with eth := [(0, { EthPort.reset with up := true })] } } 14 { Mailbox.reset with opened := true }) with
    pins := { Pins.reset with pgood := true, pwrEn := true, rails := [1, 2, 3, 4, 5, 6, 7] }
    boot := { Boot.reset with phase := .running } }

theorem witness_RemoteRows :
    let s := upState
    s.tumblerUp = true ∧ s.boot.session = false ∧ (s.chip.box 14).opened = true ∧ (s.chip.ethPort 0).up = true ∧
    ({ s with boot := { s.boot with session := true } } : State).boot.session = true ∧
    ([] : Bytes).length ≤ 1664 ∧ (s.chip.box 14).st = .idle ∧ (boxA 0x0103 [] []).st = .running ∧
    s.pins.pgood = true ∧ s.boot.phase ≠ .off ∧ State.reset.pins.pgood = false ∧
    ((0x8FF8 : BitVec 16).extractLsb' 12 3 = 0 ∧ (0x8FF8 : BitVec 16).extractLsb' 0 3 = 0) ∧ (0x1000 : BitVec 16).extractLsb' 12 3 ≠ 0 ∧
    (1 : BitVec 16).extractLsb' 0 3 ≠ 0 ∧ (8 ≤ 32 ∧ 32 % 8 = 0 ∧ s.pins.smbOff.toNat + 32 ≤ 0x1000) ∧
    ({ Pins.reset with smbOff := 0xFF8 } : Pins).smbOff.toNat + 8 ≤ 0x1000 ∧
    ¬ (({ Pins.reset with smbOff := 0xFF8 } : Pins).smbOff.toNat + 16 ≤ 0x1000) ∧
    (s.chip.box 12).prod = (s.chip.box 12).cons ∧ ({ Mailbox.reset with prod := 1 } : Mailbox).prod ≠ Mailbox.reset.cons := by
  decide +kernel

theorem witness_PowerRows :
    let p := Power.reset
    let s := upState
    s.pins.pgood = true ∧ ({ p with target := 7800 } : Power).root ≠ ({ p with target := 7800 } : Power).target ∧
    s.links.training = false ∧ ({ p with slewing := true } : Power).slewing = true ∧ s.tumblerUp = true ∧ p.fixed = false ∧
    ({ p with fixed := true } : Power).fixed = true ∧ ({ p with estLim := some 6000 } : Power).estLim = some 6000 ∧
    quadClocked (s.chip.quad (2 / 3)) = true ∧ (s.chip.quad 0).up = true ∧ s.chip.quadPresent 0 = true ∧ s.chip.stackPresent 0 = true ∧
    (256 + 3) / 256 = 1 := by
  decide +kernel

theorem witness_PowerRows_window :
    let p := Power.reset
    let limit := p.limit 0
    let inp := inputLimitOf 0
    (limit < limit + 1 ∧ 100 * (limit / 2) < 97 * limit) ∧ (inp < inp + 1 ∧ 10 * 0 < 9 * inp) ∧
    (let e : EnergyReading := { core := [(0, 5)], stack := [(0, 7)], hostDie := 1, module := 2, share := [(3, (2, 4))] }
     e.core = [(0, 5)] ∧ upState.chip.quadPresent 0 = true ∧ e.share = [(3, (2, 4))] ∧ 3 / 24 = 0 ∧
       e.stack = [(0, 7)] ∧ upState.chip.stackPresent 0 = true) ∧
    ({ quadA with charged := [(3, 2)] } : Quad).charged = [(3, 2)] ∧ ({ p with slewing := true, estLim := some 6000 } : Power).slewing = true := by
  decide +kernel

theorem witness_PowerRows_training :
    (hingeState { Side.reset with st := .clock }).links.training = true := by decide +kernel

theorem witness_RegionAndSensorRows :
    let s := upState
    let x : Sensor := { Sensor.reset with temp := 960, valid := true }
    (11 < 12 ∧ quadClocked (s.chip.quad (5 / 3)) = true) ∧ s.tumblerUp = true ∧ s.chip.junctions.contains 20 = true ∧
    tripAt 11 = some 960 ∧ tripAt 12 = some 840 ∧ tripAt 20 = some 960 ∧ tripAt 21 = none ∧ x.valid = true ∧ (960 : Int) ≤ x.temp.toInt ∧
    s.pins.pgood = true ∧ (0x10000000 : U64).getLsbD 28 = true ∧ (0 : U64).getLsbD 28 = false := by
  decide +kernel

theorem witness_DeviceStates : 0 ∈ upState.chip.runSeats ∧ 4 ∉ upState.chip.runSeats := by decide +kernel

theorem witness_BootAndPinRows :
    let s := upState
    let b : Boot := { s.boot with watchdog := true, releasedAt := some 5, hart := { FwKind.reset with running := some false } }
    ({ s.links with discOpen := true } : Links).discOpen = true ∧ b.watchdog = true ∧ s.boot.watchdog = false ∧ b.releasedAt = some 5 ∧
    s.chip.mgmt.now ≤ 5 + 300 * refclkSecond ∧ b.hart.running = some false ∧ (b.hart.slot false).image = some bootImage0 ∧
    Pins.reset.pwrEn = false ∧ ({ Pins.reset with modRstN := false } : Pins).modRstN = false ∧ 29999 < 30000 ∧ (30000 : Nat) ≤ 30000 ∧
    s.pins.pgood = true ∧ s.pins.rails.contains 7 = true ∧ s.pins.rails.contains 8 = false ∧ s.pins.vinOk = true := by
  decide +kernel

theorem witness_RailsFall :
    upState.pins.pgood = true ∧ State.reset.pins.pgood = false ∧ (∀ r, TripCause.peak ≠ .rail r) ∧ TripCause.peak ≠ .refclk := by
  refine ⟨rfl, rfl, fun r h => (by cases h), by decide⟩

theorem witness_RegisterWrites :
    let s := seqState seqA
    s.agentRuns (.seq 0) = true ∧ s.agentRuns (.seq 1) = false ∧ s.chip.isOwn 0 = true ∧ areaOf (paLocal 0) ≠ .regs ∧
    areaOf (paLocal 0x30000000000) = .regs ∧ agentReaches (.hart 0) 0 = true ∧ agentReaches (.seq 0) 8 = false ∧
    (0 : U64).extractLsb' 14 2 = 0 ∧ (0 : U64).extractLsb' 12 2 = 0 ∧ (0x1000 : U64).extractLsb' 12 2 = 1 ∧ (0x2000 : U64).extractLsb' 12 2 = 2 ∧
    (0x2000 : U64).extractLsb' 16 48 = 0 ∧ (0x3000 : U64).extractLsb' 12 2 = 3 := by
  decide +kernel

theorem witness_RegisterWrites_places :
    let s := upState
    let at' (a : Nat) : Option RegLoc := s.chip.regLoc (paLocal a)
    at' 0x30000000100 = some (.tmb 0 0x100) ∧ (RegLoc.tmb 0 0x100).dataArea = true ∧ (RegLoc.tmb 0 0x80).dataArea = false ∧
    at' 0x30000800000 = none ∧ at' 0x30001018000 = some (.quad 0 0x18000) ∧ at' 0x30001318000 = some (.quad 3 0x18000) ∧
    (RegLoc.quad 0 0x18000).quadOf = some 0 ∧ (RegLoc.quad 3 0x18000).quadOf = some 3 ∧
    s.regShut (agentQuad (.hart 0)) 0 = false ∧ s.regShut (agentQuad (.hart 0)) 3 = true ∧
    paLocal 0x30001018000 % 8 = 0 ∧ paLocal 0x30001018004 % 8 ≠ 0 := by
  decide +kernel

/-- Of two commands, the first names things that exist and the second does not. -/
def parts (good bad : Instr) : Bool := good.wf && !bad.wf

def wA : RegW := { part := .full, val := 0 }

theorem test_wf_units :
    parts (.registerWrite .tumbler 0 8 0) (.registerWrite .tumbler 0 3 0) = true ∧
    parts (.discSendTimer 4) (.discSendTimer 5) = true ∧ parts (.hingeClockLock 7) (.hingeClockLock 8) = true ∧
    parts (.replayLimit 15 15) (.replayLimit 16 0) = true ∧ parts (.replayLimit 0 7) (.replayLimit 0 8) = true ∧
    parts (.hngRetrain 3 2) (.hngRetrain 4 0) = true ∧ parts (.hngRetrain 0 0) (.hngRetrain 0 3) = true ∧
    parts (.nop 95) (.nop 96) = true ∧ parts (.dspQdb 3 255 wA) (.dspQdb 3 256 wA) = true ∧
    parts (.moverCommandStart 0 1) (.moverCommandStart 0 2) = true ∧
    parts (.cluLandzWrite .tumbler 0 7 wA) (.cluLandzWrite .tumbler 0 8 wA) = true ∧
    parts (.engineOperationEnd 0 12) (.engineOperationEnd 0 13) = true ∧
    parts (.hspNcfgWrite 0 63 wA) (.hspNcfgWrite 0 64 wA) = true := by decide

theorem test_wf_memory :
    parts (.fencePod 63) (.fencePod 64) = true ∧ parts (.gets 159 0) (.gets 160 0) = true ∧
    parts (.gets 0 (2 ^ 43 - 1)) (.gets 0 (2 ^ 43)) = true ∧
    parts (.homeRequestResume 164 0) (.homeRequestResume 165 0) = true ∧ parts (.homeRequestResume 160 0) (.homeRequestResume 159 0) = true ∧
    parts (.walkEntryRead 0 4095 0) (.walkEntryRead 0 4096 0) = true ∧
    parts (.imageEraseDone 1024) (.imageEraseDone 1025) = true ∧ parts (.imageEraseDone 1) (.imageEraseDone 0) = true := by decide

theorem test_wf_outside :
    parts (.helloTimer 11) (.helloTimer 12) = true ∧ parts (.remoteTimeout 65535) (.remoteTimeout 65536) = true ∧
    parts (.pcieRead (pcieA 0xFF8) 8) (.pcieRead (pcieA 0xFF8) 9) = true ∧
    parts (.pcieRead (pcieA 0) 1) (.pcieRead { pcieA 0 with port := 2 } 1) = true ∧ parts (.pcieRead (pcieA 0) 1) (.pcieRead (pcieA 0) 0) = true ∧
    parts (.rdmaReadReceive rdmaA 1) (.rdmaReadReceive { rdmaA with port := 2 } 1) = true ∧
    parts (.rdmaReadReceive { rdmaA with addr := BitVec.allOnes 64 } 1) (.rdmaReadReceive { rdmaA with addr := BitVec.allOnes 64 } 2) = true ∧
    parts (.ethLinkChange 1 true) (.ethLinkChange 2 true) = true ∧ parts (.intxPinChange 1 3 true) (.intxPinChange 2 0 true) = true ∧
    parts (.intxPinChange 0 0 true) (.intxPinChange 0 4 true) = true ∧ parts (.tmbDb .tumbler 15 wA) (.tmbDb .tumbler 16 wA) = true ∧
    parts (.getCaps 31) (.getCaps 32) = true ∧ parts (.rampWindow 11 0) (.rampWindow 12 0) = true ∧
    parts (.thermalTrip 22) (.thermalTrip 23) = true ∧ parts (.railOutOfRegulation 7) (.railOutOfRegulation 8) = true ∧
    parts (.railOutOfRegulation 1) (.railOutOfRegulation 0) = true ∧ parts (.smbProcessCall 255 true) (.smbProcessCall 256 true) = true ∧
    parts (.remoteSessionRequest 0 []) (.remoteSessionRequest 0 (List.replicate 1665 0)) = true := by decide +kernel

end Sys2Proof.Tests
end

section
/-! PROOFS. The decoder of bundles inverted once, and what R122 and R146 say of a bundle that decodes; the control
transfers at the end bundle of an active loop (R141). -/

namespace Sys2Proof.Machine

/-! ## What decoding says -/

/-- A slot whose valid bit is clear is empty, whatever its bits. -/
theorem eq_none_of_slotOf {α : Type} {v : Bool} {f o : Option α} (h : slotOf v f = some o) (hv : v = false) : o = none := by
  subst hv
  exact (Option.some.inj h).symm

/-- A bundle that decodes is legal, spells the word it came from, and holds in each slot the fields of that slot's bits. -/
theorem decodeBundle_eq_some {w : BitVec 256} {b : Bundle256} (h : decodeBundle w = some b) :
    b.legal = true ∧ encodeBundle b = w ∧
    scalarFields (w.extractLsb' 0 32) = some b.scalar ∧
    slotOf (w.getLsbD 240) (matrixFields (w.extractLsb' 32 64)) = some b.matrix ∧
    slotOf (w.getLsbD 241) (vectorFields (w.extractLsb' 96 64)) = some b.vector ∧
    slotOf (w.getLsbD 242) (moverFields (w.extractLsb' 160 48)) = some b.mover ∧
    slotOf (w.getLsbD 243) (sfuFields (w.extractLsb' 208 32)) = some b.sfu := by
  unfold decodeBundle at h
  split at h
  case h_1 hs hm hv hmv hsf =>
    obtain ⟨hok, hb⟩ := Option.ite_none_right_eq_some.mp h
    cases hb
    obtain ⟨hl, he⟩ := Bool.and_eq_true_iff.mp hok
    exact ⟨hl, of_decide_eq_true he, hs, hm, hv, hmv, hsf⟩
  case h_2 => cases h

/-- R122: an empty slot is encoded as zeros. -/
theorem encodeBundle_empty_slots (b : Bundle256) :
    (b.matrix = none → (encodeBundle b).extractLsb' 32 64 = 0) ∧
    (b.vector = none → (encodeBundle b).extractLsb' 96 64 = 0) ∧
    (b.mover = none → (encodeBundle b).extractLsb' 160 48 = 0) ∧
    (b.sfu = none → (encodeBundle b).extractLsb' 208 32 = 0) := by
  refine ⟨fun h => ?_, fun h => ?_, fun h => ?_, fun h => ?_⟩
  all_goals
    rw [encodeBundle, h]
    repeat rw [BitVec.extractLsb'_append_eq_of_le (by decide)]
    exact BitVec.extractLsb'_append_eq_right

/-- R122: in a bundle that decodes, a slot whose valid bit is clear is empty and its bits are zero. -/
theorem decodeBundle_invalid_slots {w : BitVec 256} {b : Bundle256} (h : decodeBundle w = some b) :
    (w.getLsbD 240 = false → b.matrix = none ∧ w.extractLsb' 32 64 = 0) ∧
    (w.getLsbD 241 = false → b.vector = none ∧ w.extractLsb' 96 64 = 0) ∧
    (w.getLsbD 242 = false → b.mover = none ∧ w.extractLsb' 160 48 = 0) ∧
    (w.getLsbD 243 = false → b.sfu = none ∧ w.extractLsb' 208 32 = 0) := by
  obtain ⟨-, hw, -, hm, hv, hmv, hsf⟩ := decodeBundle_eq_some h
  obtain ⟨zm, zv, zmv, zsf⟩ := hw ▸ encodeBundle_empty_slots b
  have both {v : Bool} {p q : Prop} (hp : v = false → p) (hq : p → q) (hv : v = false) : p ∧ q := ⟨hp hv, hq (hp hv)⟩
  exact ⟨both (eq_none_of_slotOf hm) zm, both (eq_none_of_slotOf hv) zv, both (eq_none_of_slotOf hmv) zmv,
    both (eq_none_of_slotOf hsf) zsf⟩

/-- Settles O9: the decoder leaves a slot with a clear valid bit empty, and takes only words that the bundle spells. -/
theorem invalidSlotsAreZero : Obligations.InvalidSlotsAreZero := by
  intro w
  refine ⟨fun b hd => ⟨fun h0 => ?_, ?_⟩, ?_⟩
  · obtain ⟨-, -, hs, -⟩ := decodeBundle_eq_some hd
    rw [h0] at hs
    exact (Option.some.inj hs).symm
  · obtain ⟨hm, hv, hmv, hsf⟩ := decodeBundle_invalid_slots hd
    exact ⟨fun c => (hm c).1, fun c => (hv c).1, fun c => (hmv c).1, fun c => (hsf c).1⟩
  · cases hd : decodeBundle w with
    | none => simp
    | some b =>
      obtain ⟨hm, hv, hmv, hsf⟩ := decodeBundle_invalid_slots hd
      exact ⟨fun c h => absurd (hm c).2 h, fun c h => absurd (hv c).2 h, fun c h => absurd (hmv c).2 h,
        fun c h => absurd (hsf c).2 h⟩

/-! ## Formats of a matrix slot -/

theorem Bundle256.matrix_legal {b : Bundle256} {m : Matrix} (hl : b.legal = true) (hm : b.matrix = some m) :
    m.legal = true := by
  simp only [Bundle256.legal, hm, Bool.and_eq_true] at hl
  exact hl.1.1.1.2

/-- R146 for format codes: `MMAC` takes only the formats 0, 2 and 3 (R145), of which 2 and 3 alone are a pair. -/
theorem fmtPairOk_pairs {complex : Bool} {a b : Nat} (h : fmtPairOk complex a b = true) :
    (a = b ∨ (a = 2 ∧ b = 3 ∨ a = 3 ∧ b = 2) ∨ (a = 4 ∧ b = 5 ∨ a = 5 ∧ b = 4) ∨ (a = 6 ∧ b = 7 ∨ a = 7 ∧ b = 6)) ∧
    (complex = true → a = b ∨ (a = 2 ∧ b = 3 ∨ a = 3 ∧ b = 2)) := by
  obtain ⟨hfmt, hpair⟩ := Bool.and_eq_true_iff.mp h
  obtain ⟨ha, -⟩ := Bool.and_eq_true_iff.mp hfmt
  simp only [Bool.or_eq_true, Bool.and_eq_true, decide_eq_true_eq, or_assoc] at hpair
  refine ⟨by simpa only [or_assoc] using hpair, fun hc => ?_⟩
  simp only [hc, if_true, Bool.or_eq_true, decide_eq_true_eq] at ha
  rcases hpair with h | h | h | high
  · exact .inl h
  · exact .inr (.inl h)
  · exact .inr (.inr h)
  · omega

/-- Settles O10: a bundle that decodes is legal, and a legal `MMA` or `MMAC` has a pair of formats of R146. -/
theorem matrixFormatPairs : Obligations.MatrixFormatPairs := by
  intro w b complex f hd hm
  obtain ⟨hl, -⟩ := decodeBundle_eq_some hd
  have hf := Bundle256.matrix_legal hl hm
  simp only [Matrix.legal, Bool.and_eq_true] at hf
  simpa [← BitVec.toNat_inj] using fmtPairOk_pairs hf.1

/-! ## Control transfers at a loop end -/

theorem Cluster.awaits_of_subset {x : Cluster} {rs rs' : List SReg} (hsub : rs ⊆ rs') (h : x.awaits rs' = false) :
    x.awaits rs = false := by
  simp only [Cluster.awaits, List.any_eq_false, Bool.and_eq_true, List.contains_iff_mem] at h ⊢
  exact fun a ha hr => h a ha ⟨hr.1, hsub hr.2⟩

/-- A sequencer that can issue a bundle can issue one that reads fewer registers. -/
theorem ScalarReady.of_subset {s : State} {c : Nat} {rs rs' : List SReg} (h : ScalarReady s c rs') (hsub : rs ⊆ rs') :
    ScalarReady s c rs := by
  obtain ⟨hr, hroom⟩ := h
  simp only [Chip.slotReady, Bool.and_eq_true, Bool.not_eq_true'] at hr
  obtain ⟨hc, ha⟩ := hr
  exact ⟨by simp [Chip.slotReady, hc, Cluster.awaits_of_subset hsub ha], hroom⟩

theorem isMem_of_slotIsControl {i : Scalar} (h : slotIsControl i = true) : i.isMem = false := by
  revert h
  cases i <;> simp [slotIsControl, Scalar.isMem]

/-- R141 in stage X. -/
theorem Chip.scalarX_loopEnd {k : Chip} {c : Nat} {pc : U64} {i : Scalar} (hi : slotIsControl i = true)
    (he : (k.cluster c).atLoopEnd pc = true) : k.scalarX c pc i = (k, .fault ftIllegal none) := by
  simp [Chip.scalarX, isMem_of_slotIsControl hi, hi, he]

/-- R141: a legal control transfer that issues at the end bundle of an active loop takes fault `ILLEGAL`. -/
theorem State.scalarSlot_loopEnd {s : State} {c : Nat} {i : Scalar} (hi : slotIsControl i = true) (hl : i.legal = true)
    (hr : ScalarReady s c i.reads) (he : (s.chip.cluster c).atLoopEnd (s.chip.cluster c).pc = true) :
    s.scalarSlot c i = s.goes (s.chip.seqFault c ftIllegal (s.chip.cluster c).pc none) :=
  State.scalarSlot_fault hl hr (Chip.scalarX_loopEnd hi he)

/-- Settles O14: each of the forms is a control slot, legal, and reads at most rs1 and rs2. -/
theorem loopEndHoldsNoTransfer : Obligations.LoopEndHoldsNoTransfer := by
  intro s c rd rs1 rs2 off imm body far t sense level x illegal hloop hready hbody ht
  have he : x.atLoopEnd x.pc = true := by simpa [Cluster.atLoopEnd] using hloop
  have faults {i : Scalar} (hi : slotIsControl i = true) (hl : i.legal = true) (hsub : i.reads ⊆ [rs1, rs2]) :
      s.scalarSlot c i = s.goes (s.chip.seqFault c 5 x.pc none) :=
    State.scalarSlot_loopEnd hi hl (hready.of_subset hsub) he
  have branch (op : BrOp) := faults (i := .branch op rs1 rs2 off) rfl rfl (List.Subset.refl _)
  exact ⟨branch .beq, branch .bne, branch .blt, branch .bge, branch .bltu, branch .bgeu,
    faults (i := .jal rd far) rfl rfl (List.nil_subset _),
    faults (i := .jalr rd rs1 imm) rfl rfl (by simp [Scalar.reads]),
    faults (i := .loop rs1 body) rfl (decide_eq_true hbody) (by simp [Scalar.reads]),
    faults (i := .loopi t body) rfl (by simpa [Scalar.legal] using ⟨ht, hbody⟩) (List.nil_subset _),
    faults (i := .brk rs1 sense level) rfl rfl (by simp [Scalar.reads])⟩

end Sys2Proof.Machine
end

section
/-! PROOFS. The buffers of a mailbox: which indices name one, and where the inline buffer lies in the mailbox (R457, R463). -/

namespace Sys2Proof.Machine

/-! ## Indices -/

@[simp] theorem Mailbox.bufSpot_inline (b : Mailbox) : b.bufSpot 0xFFFF = some .inline := if_pos rfl

/-- R463: an index other than the inline buffer's is valid below `NBUFS` of an enabled window, and nowhere else. -/
theorem Mailbox.bufSpot_ne_none_iff (b : Mailbox) {i : Nat} (hi : i ≠ 0xFFFF) :
    b.bufSpot i ≠ none ↔ b.wen = true ∧ i < b.nbufs.toNat := by
  rw [Mailbox.bufSpot, if_neg hi]
  split
  case isTrue h => simpa using h
  case isFalse h => simpa using h

/-! ## The inline buffer -/

/-- R457: the inline buffer begins at offset `0x100` of the mailbox and ends before the event queue. -/
theorem Mailbox.word_inline (b : Mailbox) {o : Nat} (ho : o < 0x700) :
    b.word (0x100 + o) = BitVec.ofNat 64 (b.inlWord o 8) := by
  have hoff : 0x100 + o - 0x100 = o := by omega
  have hin : (decide (0x100 ≤ 0x100 + o) && decide (0x100 + o < 0x800)) = true := by simp; omega
  -- The places of the mailbox below `0x100` (R457) come before the inline buffer.
  rw [Mailbox.word, if_neg (by omega), if_neg (by omega), if_neg (by omega), if_neg (by omega), if_neg (by omega),
    if_neg (by omega), if_neg (by omega), if_pos hin, hoff]

/-- Eight bytes read from the inline buffer spell the word of the mailbox at the same place. -/
theorem Chip.bufRead_inline_word (k : Chip) (mb : Nat) {o : Nat} (ho : o < 0x700) :
    ∃ d, (k.bufRead mb .inline o 8).2 = some d ∧ (k.box mb).word (0x100 + o) = BitVec.ofNat 64 (ofBytes d) :=
  ⟨_, rfl, Mailbox.word_inline _ ho⟩

/-- R463: the ownership word of the inline buffer is the mailbox's word at `0x100`. -/
theorem Chip.readOwn_inline (k : Chip) (mb : Nat) : (k.readOwn mb .inline).2 = some ((k.box mb).word 0x100) := by
  obtain ⟨d, hd, hw⟩ := k.bufRead_inline_word mb (o := 0) (by decide)
  rw [hw]
  simp [Chip.readOwn, hd]

/-- Settles O51: data at offset 128 of the inline buffer is at `0x180` of the mailbox, and 1,664 bytes from there end with the buffer. -/
theorem bufferIndices : Obligations.BufferIndices := by
  intro k mb i b
  refine ⟨b.bufSpot_inline, rfl, k.readOwn_inline mb, fun n hn => ?_, b.bufSpot_ne_none_iff⟩
  have hplace : 0x180 + 8 * n = 0x100 + (128 + 8 * n) := by omega
  rw [hplace]
  exact k.bufRead_inline_word mb (by omega)

end Sys2Proof.Machine
end

section
/-! PROOFS. The bits of each slot of a bundle give the slot back (R120-R162), and so the bundle. -/

namespace Sys2Proof.Machine

/-! ## Fields of a concatenation -/

@[simp] theorem getLsbD_boolBit (b : Bool) : (boolBit b).getLsbD 0 = b := by cases b <;> rfl
@[simp] theorem getElem_boolBit (b : Bool) : (boolBit b)[0] = b := by cases b <;> rfl

theorem getLsbD_append_of_lt {v w i : Nat} {a : BitVec v} {b : BitVec w} (h : i < w) :
    (a ++ b).getLsbD i = b.getLsbD i := by rw [BitVec.getLsbD_append, if_pos h]

theorem getLsbD_append_of_le {v w i : Nat} {a : BitVec v} {b : BitVec w} (h : w ≤ i) :
    (a ++ b).getLsbD i = a.getLsbD (i - w) := by rw [BitVec.getLsbD_append, if_neg (Nat.not_lt.mpr h)]

/-- R154. -/
theorem moverFields_encodeMover (f : MovF) : moverFields (encodeMover f) = some f := by
  have hx (i n : Nat) : (encodeMover f).extractLsb' i n = BitVec.extractLsb' (n := 44 + 4) i n ((0 : BitVec 21) ++
    boolBit f.spec ++ boolBit f.cnt ++ f.hasp ++ boolBit f.dloc ++ f.rdesc ++ f.mover ++ (1 : BitVec 4)) := rfl
  have hb (i : Nat) : (encodeMover f).getLsbD i = BitVec.getLsbD (w := 44 + 4) ((0 : BitVec 21) ++
    boolBit f.spec ++ boolBit f.cnt ++ f.hasp ++ boolBit f.dloc ++ f.rdesc ++ f.mover ++ (1 : BitVec 4)) i := rfl
  simp (disch := decide) only [moverFields, hx, hb, BitVec.extractLsb'_append_eq_of_le,
    BitVec.extractLsb'_append_eq_of_add_le, getLsbD_append_of_le, getLsbD_append_of_lt]
  simp

theorem vecCodes_codeOf (op : VOp) : ofCode vecCodes (BitVec.ofNat 8 (codeOf vecCodes op)).toNat = some op := by
  cases op <;> decide

theorem vectorFields_encodeVector (op : VOp) (f : VecF) : vectorFields (encodeVector op f) = some (op, f) := by
  have hx (i n : Nat) : (encodeVector op f).extractLsb' i n = BitVec.extractLsb' (n := 56 + 8) i n (f.fn ++ f.rs2 ++
    f.rs ++ f.t2 ++ f.t ++ f.vs3 ++ f.vs2 ++ f.vs1 ++ f.vd ++ boolBit f.mz ++ boolBit f.men ++ f.msk ++ f.unit ++
    BitVec.ofNat 8 (codeOf vecCodes op)) := rfl
  have hb (i : Nat) : (encodeVector op f).getLsbD i = BitVec.getLsbD (w := 56 + 8) (f.fn ++ f.rs2 ++
    f.rs ++ f.t2 ++ f.t ++ f.vs3 ++ f.vs2 ++ f.vs1 ++ f.vd ++ boolBit f.mz ++ boolBit f.men ++ f.msk ++ f.unit ++
    BitVec.ofNat 8 (codeOf vecCodes op)) i := rfl
  simp (disch := decide) only [vectorFields, hx, hb, BitVec.extractLsb'_append_eq_of_le,
    BitVec.extractLsb'_append_eq_of_add_le, getLsbD_append_of_le, getLsbD_append_of_lt]
  simp only [BitVec.extractLsb'_eq_self, vecCodes_codeOf]
  simp

theorem matrixFields_encodeMatrix (m : Matrix) : matrixFields (encodeMatrix m) = some m := by
  cases m with
  | mma cx f =>
    have hx (i n : Nat) : (encodeMatrix (.mma cx f)).extractLsb' i n = BitVec.extractLsb' (n := 60 + 4) i n
      ((0 : BitVec 18) ++ f.rsc ++ f.rk ++ f.rbs ++ f.rb ++ f.ras ++ f.ra ++ f.fmtB ++ f.fmtA ++
      (0 : BitVec 1) ++ boolBit f.acc ++ f.unit ++ (if cx then (2 : BitVec 4) else 1)) := rfl
    have hb (i : Nat) : (encodeMatrix (.mma cx f)).getLsbD i = BitVec.getLsbD (w := 60 + 4)
      ((0 : BitVec 18) ++ f.rsc ++ f.rk ++ f.rbs ++ f.rb ++ f.ras ++ f.ra ++ f.fmtB ++ f.fmtA ++
      (0 : BitVec 1) ++ boolBit f.acc ++ f.unit ++ (if cx then (2 : BitVec 4) else 1)) i := rfl
    simp (disch := decide) only [matrixFields, hx, hb, BitVec.extractLsb'_append_eq_of_le,
      BitVec.extractLsb'_append_eq_of_add_le, getLsbD_append_of_le, getLsbD_append_of_lt]
    cases cx <;> simp
  | zdrain f =>
    have hx (i n : Nat) : (encodeMatrix (.zdrain f)).extractLsb' i n = BitVec.extractLsb' (n := 60 + 4) i n
      ((0 : BitVec 33) ++ f.rsc ++ f.rds ++ f.rd ++ (0 : BitVec 3) ++ boolBit f.sat ++ f.dfmt ++ f.rm ++
      f.unit ++ (3 : BitVec 4)) := rfl
    have hb (i : Nat) : (encodeMatrix (.zdrain f)).getLsbD i = BitVec.getLsbD (w := 60 + 4)
      ((0 : BitVec 33) ++ f.rsc ++ f.rds ++ f.rd ++ (0 : BitVec 3) ++ boolBit f.sat ++ f.dfmt ++ f.rm ++
      f.unit ++ (3 : BitVec 4)) i := rfl
    simp (disch := decide) only [matrixFields, hx, hb, BitVec.extractLsb'_append_eq_of_le,
      BitVec.extractLsb'_append_eq_of_add_le, getLsbD_append_of_le, getLsbD_append_of_lt]
    simp
  | zload f =>
    have hx (i n : Nat) : (encodeMatrix (.zload f)).extractLsb' i n = BitVec.extractLsb' (n := 60 + 4) i n
      ((0 : BitVec 38) ++ f.rss ++ f.rs ++ (0 : BitVec 4) ++ f.sfmt ++ (0 : BitVec 2) ++ f.unit ++
      (4 : BitVec 4)) := rfl
    simp (disch := decide) only [matrixFields, hx, BitVec.extractLsb'_append_eq_of_le,
      BitVec.extractLsb'_append_eq_of_add_le]
    simp
  | mcfg f =>
    have hx (i n : Nat) : (encodeMatrix (.mcfg f)).extractLsb' i n = BitVec.extractLsb' (n := 60 + 4) i n
      ((0 : BitVec 43) ++ f.rv ++ (0 : BitVec 4) ++ f.item ++ (0 : BitVec 2) ++ f.unit ++ (5 : BitVec 4)) := rfl
    simp (disch := decide) only [matrixFields, hx, BitVec.extractLsb'_append_eq_of_le,
      BitVec.extractLsb'_append_eq_of_add_le]
    simp

@[simp] theorem scopeOf_scopeBits (s : Scope) : scopeOf (scopeBits s) = s := by cases s <;> rfl

/-- R157. -/
theorem sfuFields_encSync {op : BitVec 6} {rh rv : SReg} {sc : Scope} :
    let w := encSync op rh rv sc
    w.extractLsb' 0 6 = op ∧ w.extractLsb' 6 5 = rh ∧ w.extractLsb' 11 5 = rv ∧ scopeOf (w.extractLsb' 16 2) = sc := by
  have hx (i n : Nat) : (encSync op rh rv sc).extractLsb' i n = BitVec.extractLsb' (n := 26 + 6) i n
    ((0 : BitVec 14) ++ scopeBits sc ++ rv ++ rh ++ op) := rfl
  simp (disch := decide) only [hx, BitVec.extractLsb'_append_eq_of_le, BitVec.extractLsb'_append_eq_of_add_le]
  simp

theorem encodeSfu_fn_fields (op : SfuOp) (f : SfuF) :
    let w := encodeSfu (.fn op f)
    w.extractLsb' 0 6 = BitVec.ofNat 6 (codeOf sfuCodes op) ∧ w.extractLsb' 6 1 = f.unit ∧ w.extractLsb' 7 5 = f.vd ∧
    w.extractLsb' 12 5 = f.vs ∧ w.getLsbD 17 = f.prec ∧ w.extractLsb' 18 3 = f.msk ∧ w.getLsbD 21 = f.men ∧
    w.getLsbD 22 = f.mz := by
  have hx (i n : Nat) : (encodeSfu (.fn op f)).extractLsb' i n = BitVec.extractLsb' (n := 26 + 6) i n
    ((0 : BitVec 9) ++ boolBit f.mz ++ boolBit f.men ++ f.msk ++ boolBit f.prec ++ f.vs ++ f.vd ++ f.unit ++
      BitVec.ofNat 6 (codeOf sfuCodes op)) := rfl
  have hb (i : Nat) : (encodeSfu (.fn op f)).getLsbD i = BitVec.getLsbD (w := 26 + 6)
    ((0 : BitVec 9) ++ boolBit f.mz ++ boolBit f.men ++ f.msk ++ boolBit f.prec ++ f.vs ++ f.vd ++ f.unit ++
      BitVec.ofNat 6 (codeOf sfuCodes op)) i := rfl
  simp (disch := decide) only [hx, hb, BitVec.extractLsb'_append_eq_of_le,
    BitVec.extractLsb'_append_eq_of_add_le, getLsbD_append_of_le, getLsbD_append_of_lt]
  simp

theorem sfuFields_encodeSfu (x : Sfu) : sfuFields (encodeSfu x) = some x := by
  cases x with
  | fn op f =>
    obtain ⟨h0, h1, h2, h3, h4, h5, h6, h7⟩ := encodeSfu_fn_fields op f
    simp only [sfuFields, h0, h1, h2, h3, h4, h5, h6, h7]
    cases op <;> rfl
  | lutLd vs =>
    have hx (i n : Nat) : (encodeSfu (.lutLd vs)).extractLsb' i n = BitVec.extractLsb' (n := 26 + 6) i n
      ((0 : BitVec 15) ++ vs ++ (0 : BitVec 6) ++ (0x0B : BitVec 6)) := rfl
    simp (disch := decide) only [sfuFields, hx, BitVec.extractLsb'_append_eq_of_le,
      BitVec.extractLsb'_append_eq_of_add_le]
    simp
  | lutCommit => rfl
  | sync op =>
    cases op with
    | add rh rv sc => obtain ⟨h0, h1, h2, h3⟩ := sfuFields_encSync (op := 0x20) (rh := rh) (rv := rv) (sc := sc)
                      simp only [sfuFields, encodeSfu, h0, h1, h2, h3]; rfl
    | wait rh rv sc => obtain ⟨h0, h1, h2, h3⟩ := sfuFields_encSync (op := 0x21) (rh := rh) (rv := rv) (sc := sc)
                       simp only [sfuFields, encodeSfu, h0, h1, h2, h3]; rfl
    | set rh rv sc => obtain ⟨h0, h1, h2, h3⟩ := sfuFields_encSync (op := 0x22) (rh := rh) (rv := rv) (sc := sc)
                      simp only [sfuFields, encodeSfu, h0, h1, h2, h3]; rfl
    | reset rh sc => obtain ⟨h0, h1, -, h3⟩ := sfuFields_encSync (op := 0x23) (rh := rh) (rv := 0) (sc := sc)
                     simp only [sfuFields, encodeSfu, h0, h1, h3]; rfl
    | fenceC => rfl
    | fenceP => rfl
    | fenceS => rfl

/-! ## The scalar slot (R128) -/

section
variable (op : BitVec 6) (rd rs1 rs2 : SReg) (fn : BitVec 4) (imm : BitVec 16) (off : BitVec 21)

theorem encR_fields :
    let w := encR op rd rs1 rs2 fn
    w.extractLsb' 0 6 = op ∧ w.extractLsb' 6 5 = rd ∧ w.extractLsb' 11 5 = rs1 ∧ w.extractLsb' 16 5 = rs2 ∧
    w.extractLsb' 21 4 = fn := by
  have hx (i n : Nat) : (encR op rd rs1 rs2 fn).extractLsb' i n = BitVec.extractLsb' (n := 26 + 6) i n
    ((0 : BitVec 7) ++ fn ++ rs2 ++ rs1 ++ rd ++ op) := rfl
  simp (disch := decide) only [hx, BitVec.extractLsb'_append_eq_of_le, BitVec.extractLsb'_append_eq_of_add_le]
  simp

theorem encI_fields :
    let w := encI op rd rs1 imm
    w.extractLsb' 0 6 = op ∧ w.extractLsb' 6 5 = rd ∧ w.extractLsb' 11 5 = rs1 ∧ w.extractLsb' 16 16 = imm := by
  have hx (i n : Nat) : (encI op rd rs1 imm).extractLsb' i n = BitVec.extractLsb' (n := 26 + 6) i n
    (imm ++ rs1 ++ rd ++ op) := rfl
  simp (disch := decide) only [hx, BitVec.extractLsb'_append_eq_of_le, BitVec.extractLsb'_append_eq_of_add_le]
  simp

theorem encJ_fields :
    let w := encJ op rd off
    w.extractLsb' 0 6 = op ∧ w.extractLsb' 6 5 = rd ∧ w.extractLsb' 11 21 = off := by
  have hx (i n : Nat) : (encJ op rd off).extractLsb' i n = BitVec.extractLsb' (n := 26 + 6) i n (off ++ rd ++ op) := rfl
  simp (disch := decide) only [hx, BitVec.extractLsb'_append_eq_of_le, BitVec.extractLsb'_append_eq_of_add_le]
  simp

end

/-- `DEPTH` of `LIDX` lies in the low bits of the rs1 field (R135). -/
theorem lidx_depth (rd : SReg) (depth : BitVec 2) : (encodeScalar (.lidx rd depth)).extractLsb' 11 2 = depth := by
  have hx (i n : Nat) : (encodeScalar (.lidx rd depth)).extractLsb' i n = BitVec.extractLsb' (n := 26 + 6) i n
    ((0 : BitVec 7) ++ (1 : BitVec 4) ++ (0 : SReg) ++ depth.setWidth 5 ++ rd ++ (0x34 : BitVec 6)) := rfl
  simp (disch := decide) only [hx, BitVec.extractLsb'_append_eq_of_le, BitVec.extractLsb'_append_eq_of_add_le]
  clear hx; revert depth; decide

theorem shift_fields (op : ShiftOp) (rd rs1 : SReg) (sh : BitVec 6) :
    let w := encodeScalar (.shift op rd rs1 sh)
    w.extractLsb' 0 6 = BitVec.ofNat 6 (codeOf shiftCodes op) ∧ w.extractLsb' 6 5 = rd ∧ w.extractLsb' 11 5 = rs1 ∧
    w.extractLsb' 16 6 = sh := by
  have hx (i n : Nat) : (encodeScalar (.shift op rd rs1 sh)).extractLsb' i n = BitVec.extractLsb' (n := 26 + 6) i n
    ((0 : BitVec 10) ++ sh ++ rs1 ++ rd ++ BitVec.ofNat 6 (codeOf shiftCodes op)) := rfl
  simp (disch := decide) only [hx, BitVec.extractLsb'_append_eq_of_le, BitVec.extractLsb'_append_eq_of_add_le]
  simp

theorem loopi_fields (t : BitVec 10) (body : BitVec 16) :
    let w := encodeScalar (.loopi t body)
    w.extractLsb' 0 6 = 0x29 ∧ w.extractLsb' 6 10 = t ∧ w.extractLsb' 16 16 = body := by
  have hx (i n : Nat) : (encodeScalar (.loopi t body)).extractLsb' i n = BitVec.extractLsb' (n := 26 + 6) i n
    (body ++ t ++ (0x29 : BitVec 6)) := rfl
  simp (disch := decide) only [hx, BitVec.extractLsb'_append_eq_of_le, BitVec.extractLsb'_append_eq_of_add_le]
  simp

theorem brk_fields (rs : SReg) (sense : Bool) (level : BitVec 2) :
    let w := encodeScalar (.brk rs sense level)
    w.extractLsb' 0 6 = 0x2A ∧ w.extractLsb' 6 5 = rs ∧ w.getLsbD 11 = sense ∧ w.extractLsb' 12 2 = level := by
  have hx (i n : Nat) : (encodeScalar (.brk rs sense level)).extractLsb' i n = BitVec.extractLsb' (n := 26 + 6) i n
    ((0 : BitVec 18) ++ level ++ boolBit sense ++ rs ++ (0x2A : BitVec 6)) := rfl
  have hb (i : Nat) : (encodeScalar (.brk rs sense level)).getLsbD i = BitVec.getLsbD (w := 26 + 6)
    ((0 : BitVec 18) ++ level ++ boolBit sense ++ rs ++ (0x2A : BitVec 6)) i := rfl
  simp (disch := decide) only [hx, hb, BitVec.extractLsb'_append_eq_of_le,
    BitVec.extractLsb'_append_eq_of_add_le, getLsbD_append_of_le, getLsbD_append_of_lt]
  simp

/-- R129: a load's opcode holds its width and its sign; the unsigned form of eight bytes is reserved. -/
theorem loadOp_fields (size : BitVec 2) (signed : Bool) (h : size ≠ 3 ∨ signed = true) :
    let op := (BitVec.ofNat 6 (0x10 + 2 * size.toNat + boolNat !signed)).toNat
    0x10 ≤ op ∧ op < 0x17 ∧ BitVec.ofNat 2 ((op - 0x10) / 2) = size ∧ decide (op % 2 = 0) = signed := by
  revert size signed; decide

theorem storeOp_fields (size : BitVec 2) :
    let op := (BitVec.ofNat 6 (0x18 + size.toNat)).toNat
    0x18 ≤ op ∧ op < 0x1C ∧ BitVec.ofNat 2 (op - 0x18) = size := by
  revert size; decide

theorem scalarFields_encodeScalar (i : Scalar) (hl : i.legal = true) : scalarFields (encodeScalar i) = some i := by
  cases i with
  | nop => rfl
  | alu op rd rs1 rs2 =>
    obtain ⟨h0, h1, h2, h3, h4⟩ := encR_fields 1 rd rs1 rs2 (BitVec.ofNat 4 (codeOf aluCodes op))
    simp only [scalarFields, encodeScalar, h0, h1, h2, h3, h4]
    cases op <;> rfl
  | alui op rd rs1 imm =>
    obtain ⟨h0, h1, h2, h3⟩ := encI_fields (BitVec.ofNat 6 (codeOf aluICodes op)) rd rs1 imm
    simp only [scalarFields, encodeScalar, h0, h1, h2, h3]
    cases op <;> rfl
  | shift op rd rs1 sh =>
    obtain ⟨h0, h1, h2, h3⟩ := shift_fields op rd rs1 sh
    simp only [scalarFields, h0, h1, h2, h3]
    cases op <;> rfl
  | lui rd imm =>
    obtain ⟨h0, h1, h2⟩ := encJ_fields 0x0B rd imm
    simp only [scalarFields, encodeScalar, h0, h1, h2]
    rfl
  | load size signed rd rs1 imm =>
    obtain ⟨h0, h1, h2, h3⟩ := encI_fields (BitVec.ofNat 6 (0x10 + 2 * size.toNat + boolNat !signed)) rd rs1 imm
    obtain ⟨lo, hi, hs, hg⟩ := loadOp_fields size signed (by simpa [Scalar.legal] using hl)
    simp only [scalarFields, encodeScalar, h0, h1, h2, h3, hs, hg]
    generalize (BitVec.ofNat 6 (0x10 + 2 * size.toNat + boolNat !signed)).toNat = op at lo hi
    simp [show op ≠ 0 by omega, show op ≠ 1 by omega, show ¬ op < 8 by omega, show ¬ op < 0xB by omega, show op ≠ 0xB by omega, lo, hi]
  | store size rs2 rs1 imm =>
    obtain ⟨h0, h1, h2, h3⟩ := encI_fields (BitVec.ofNat 6 (0x18 + size.toNat)) rs2 rs1 imm
    obtain ⟨lo, hi, hs⟩ := storeOp_fields size
    simp only [scalarFields, encodeScalar, h0, h1, h2, h3, hs]
    generalize (BitVec.ofNat 6 (0x18 + size.toNat)).toNat = op at lo hi
    simp [show op ≠ 0 by omega, show op ≠ 1 by omega, show ¬ op < 8 by omega, show ¬ op < 0xB by omega, show op ≠ 0xB by omega,
      show ¬ op < 0x17 by omega, lo, hi]
  | ldl rd rs1 imm =>
    obtain ⟨h0, h1, h2, h3⟩ := encI_fields 0x1C rd rs1 imm
    simp only [scalarFields, encodeScalar, h0, h1, h2, h3]
    rfl
  | stl rs2 rs1 imm =>
    obtain ⟨h0, h1, h2, h3⟩ := encI_fields 0x1D rs2 rs1 imm
    simp only [scalarFields, encodeScalar, h0, h1, h2, h3]
    rfl
  | branch op rs1 rs2 off =>
    obtain ⟨h0, h1, h2, h3⟩ := encI_fields (BitVec.ofNat 6 (codeOf branchCodes op)) rs1 rs2 off
    simp only [scalarFields, encodeScalar, h0, h1, h2, h3]
    cases op <;> rfl
  | jal rd off =>
    obtain ⟨h0, h1, h2⟩ := encJ_fields 0x26 rd off
    simp only [scalarFields, encodeScalar, h0, h1, h2]
    rfl
  | jalr rd rs1 imm =>
    obtain ⟨h0, h1, h2, h3⟩ := encI_fields 0x27 rd rs1 imm
    simp only [scalarFields, encodeScalar, h0, h1, h2, h3]
    rfl
  | loop rc body =>
    obtain ⟨h0, h1, -, h3⟩ := encI_fields 0x28 rc 0 body
    simp only [scalarFields, encodeScalar, h0, h1, h3]
    rfl
  | loopi t body =>
    obtain ⟨h0, h1, h2⟩ := loopi_fields t body
    simp only [scalarFields, h0, h1, h2]
    rfl
  | brk rs sense level =>
    obtain ⟨h0, h1, h2, h3⟩ := brk_fields rs sense level
    simp only [scalarFields, h0, h1, h2, h3]
    rfl
  | amo op rd rs1 rs2 =>
    obtain ⟨h0, h1, h2, h3, h4⟩ := encR_fields 0x30 rd rs1 rs2 (BitVec.ofNat 4 (codeOf amoCodes op))
    simp only [scalarFields, encodeScalar, h0, h1, h2, h3, h4]
    cases op <;> rfl
  | rdcyc rd =>
    obtain ⟨h0, h1, -, -, h4⟩ := encR_fields 0x34 rd 0 0 0
    simp only [scalarFields, encodeScalar, h0, h1, h4]
    rfl
  | lidx rd depth =>
    obtain ⟨h0, h1, -, -, h4⟩ := encR_fields 0x34 rd (depth.setWidth 5) 0 1
    have hd := lidx_depth rd depth
    simp only [encodeScalar] at hd
    simp only [scalarFields, encodeScalar, h0, h1, h4, hd]
    rfl
  | rdspace rd =>
    obtain ⟨h0, h1, -, -, h4⟩ := encR_fields 0x34 rd 0 0 2
    simp only [scalarFields, encodeScalar, h0, h1, h4]
    rfl
  | lc op rd rs1 =>
    obtain ⟨h0, h1, h2, -, h4⟩ := encR_fields 0x38 rd rs1 0 (BitVec.ofNat 4 (codeOf lcCodes op))
    simp only [scalarFields, encodeScalar, h0, h1, h2, h4]
    cases op <;> rfl

/-! ## Bundles (R120) -/

theorem encodeControl_fields (b : Bundle256) :
    let w := encodeControl b
    w.getLsbD 0 = b.matrix.isSome ∧ w.getLsbD 1 = b.vector.isSome ∧ w.getLsbD 2 = b.mover.isSome ∧
    w.getLsbD 3 = b.sfu.isSome ∧ w.extractLsb' 4 3 = b.pred ∧ w.getLsbD 7 = b.wh ∧ w.getLsbD 8 = b.stop ∧
    w.getLsbD 9 = b.sbar := by
  have hx (i n : Nat) : (encodeControl b).extractLsb' i n = BitVec.extractLsb' (n := 15 + 1) i n
    ((0 : BitVec 6) ++ boolBit b.sbar ++ boolBit b.stop ++ boolBit b.wh ++ b.pred ++ boolBit b.sfu.isSome ++
    boolBit b.mover.isSome ++ boolBit b.vector.isSome ++ boolBit b.matrix.isSome) := rfl
  have hb (i : Nat) : (encodeControl b).getLsbD i = BitVec.getLsbD (w := 15 + 1)
    ((0 : BitVec 6) ++ boolBit b.sbar ++ boolBit b.stop ++ boolBit b.wh ++ b.pred ++ boolBit b.sfu.isSome ++
    boolBit b.mover.isSome ++ boolBit b.vector.isSome ++ boolBit b.matrix.isSome) i := rfl
  simp (disch := decide) only [hx, hb, BitVec.extractLsb'_append_eq_of_le,
    BitVec.extractLsb'_append_eq_of_add_le, getLsbD_append_of_le, getLsbD_append_of_lt]
  simp

/-- The bits of an optional slot (R122). -/
def slotBits {α : Type} {n : Nat} (enc : α → BitVec n) (o : Option α) : BitVec n :=
  match o with
  | some a => enc a
  | none => 0

/-- The bits of a slot and its valid bit give the slot. -/
theorem slotOf_slotBits {α : Type} {n : Nat} {enc : α → BitVec n} {dec : BitVec n → Option α} (o : Option α)
    (h : ∀ a ∈ o, dec (enc a) = some a) : slotOf o.isSome (dec (slotBits enc o)) = some o := by
  cases o with
  | none => rfl
  | some a => simp [slotOf, slotBits, h a rfl]

/-- R120: the slots of a bundle, one above the other. -/
def bundleBits (b : Bundle256) : BitVec (224 + 32) :=
  encodeControl b ++ slotBits encodeSfu b.sfu ++ slotBits encodeMover b.mover ++
    slotBits (fun v => encodeVector v.1 v.2) b.vector ++ slotBits encodeMatrix b.matrix ++ encodeScalar b.scalar

theorem encodeBundle_eq (b : Bundle256) : encodeBundle b = bundleBits b := by
  obtain ⟨scalar, matrix, vector, mover, sfu, pred, wh, stop, sbar⟩ := b
  cases matrix <;> cases vector <;> cases mover <;> cases sfu <;> rfl

theorem encodeBundle_fields (b : Bundle256) :
    let w := encodeBundle b
    w.extractLsb' 0 32 = encodeScalar b.scalar ∧ w.extractLsb' 32 64 = slotBits encodeMatrix b.matrix ∧
    w.extractLsb' 96 64 = slotBits (fun v => encodeVector v.1 v.2) b.vector ∧
    w.extractLsb' 160 48 = slotBits encodeMover b.mover ∧ w.extractLsb' 208 32 = slotBits encodeSfu b.sfu := by
  have hx (i n : Nat) : (encodeBundle b).extractLsb' i n = BitVec.extractLsb' (n := 224 + 32) i n (bundleBits b) := by
    rw [encodeBundle_eq]
  simp (disch := decide) only [hx, bundleBits, BitVec.extractLsb'_append_eq_of_le,
    BitVec.extractLsb'_append_eq_of_add_le]
  simp

/-- R121: the control field is at the top of a bundle. -/
theorem encodeBundle_control (b : Bundle256) :
    let w := encodeBundle b
    w.getLsbD 240 = b.matrix.isSome ∧ w.getLsbD 241 = b.vector.isSome ∧ w.getLsbD 242 = b.mover.isSome ∧
    w.getLsbD 243 = b.sfu.isSome ∧ w.extractLsb' 244 3 = b.pred ∧ w.getLsbD 247 = b.wh ∧ w.getLsbD 248 = b.stop ∧
    w.getLsbD 249 = b.sbar := by
  have hx (i n : Nat) : (encodeBundle b).extractLsb' i n = BitVec.extractLsb' (n := 224 + 32) i n (bundleBits b) := by
    rw [encodeBundle_eq]
  have hb (i : Nat) : (encodeBundle b).getLsbD i = BitVec.getLsbD (w := 224 + 32) (bundleBits b) i := by
    rw [encodeBundle_eq]
  simp (disch := decide) only [hx, hb, bundleBits, BitVec.extractLsb'_append_eq_of_le, getLsbD_append_of_le]
  exact encodeControl_fields b

/-- Settles O7: the fields of each slot are those it was made of, and the valid bits say which slots there are. -/
theorem bundleRoundTrip : Obligations.BundleRoundTrip := by
  intro b hl
  obtain ⟨hs, hm, hv, hmv, hsf⟩ := encodeBundle_fields b
  obtain ⟨cm, cv, cmv, csf, cp, cw, cst, csb⟩ := encodeBundle_control b
  have hsl : b.scalar.legal = true := by
    simp only [Bundle256.legal, Bool.and_eq_true] at hl
    exact hl.1.1.1.1
  simp only [decodeBundle, hs, hm, hv, hmv, hsf, cm, cv, cmv, csf, cp, cw, cst, csb, scalarFields_encodeScalar _ hsl,
    slotOf_slotBits b.matrix (fun m _ => matrixFields_encodeMatrix m),
    slotOf_slotBits b.vector (fun v _ => vectorFields_encodeVector v.1 v.2),
    slotOf_slotBits b.mover (fun f _ => moverFields_encodeMover f),
    slotOf_slotBits b.sfu (fun x _ => sfuFields_encodeSfu x)]
  simp [hl]

end Sys2Proof.Machine
end

section
/-! PROOFS. Reset, the queue, and one REFCLK cycle (16_tumbler_interface.md R475, 17_power_clocks_thermal.md R477). -/

namespace Sys2Proof.Machine

/-- Settles O1: a step takes the command at the front of the queue. -/
theorem stepRunsFrontCommand : Obligations.StepRunsFrontCommand := fun _ _ _ => rfl

/-- Settles O5. -/
theorem bootBoundsAtReset : Obligations.BootBoundsAtReset := by
  unfold Obligations.BootBoundsAtReset
  decide

/-- Settles O8: each word is decoded. -/
theorem bundleWords : Obligations.BundleWords := by
  unfold Obligations.BundleWords
  decide +kernel

/-- Settles O4: the tables of reset list nothing, and an unlisted key holds the value of reset. -/
theorem resetHolds : Obligations.ResetHolds := by
  refine ⟨rfl, fun _ => rfl, fun _ _ => rfl, fun _ => rfl, fun _ => rfl, fun r => ?_, rfl⟩
  unfold Cluster.reg
  split <;> rfl

/-! ## One REFCLK cycle -/

theorem Quad.tick_reset (root : Nat) : Quad.reset.tick root = Quad.reset := rfl

/-- A REFCLK cycle counts ACLK cycles in a quadrant that is up and awake, and changes nothing else of it. -/
theorem Quad.tick_eq (root : Nat) (q : Quad) :
    q.tick root = { q with aclk := if q.up && !q.asleep then q.aclk + root else q.aclk } := by
  unfold Quad.tick quadClocked
  split <;> rfl

/-- R417, R434: a port after a cycle. -/
theorem Port.tick_eq (p : Port) : p.tick = { p with
    out := p.out.map (fun q => { q with age := q.age + 1 })
    inq := p.inq.map (fun q => { q with age := q.age + 1 }), waited := p.waited || p.starved } := rfl

theorem Fabric.tick_port (f : Fabric) (now n : Nat) :
    (f.tick now).port n = if now % 100 = 0 then (f.port n).tick.stall else (f.port n).tick := by
  have h := tblGet_map Port.reset (fun p : Port => if now % 100 = 0 then p.tick.stall else p.tick)
    (by split <;> rfl) f.ports n
  exact h

theorem towards_one (x goal : Nat) :
    towards x goal 1 = if x < goal then x + 1 else if goal < x then x - 1 else x := by
  unfold towards
  split_ifs <;> omega

/-- R477: a slew moves the root by at most 1 MHz in an even cycle. -/
theorem Power.slew_root (p : Power) (now : Nat) :
    (p.slew now).root = if p.slewing = true ∧ now % 2 = 0 then
      (if p.root < p.target then p.root + 1 else if p.target < p.root then p.root - 1 else p.root) else p.root := by
  unfold Power.slew
  by_cases h : p.slewing = true ∧ now % 2 = 0
  · rw [if_pos (by simpa using h), if_pos h]
    exact towards_one p.root p.target
  · rw [if_neg (by simpa using h), if_neg h]

theorem Power.slew_eq (p : Power) (now : Nat) : p.slew now = { p with root := (p.slew now).root } := by
  unfold Power.slew
  split <;> rfl

/-- Settles O2: the clocks, ports and waiting packets after a cycle, each by its own lemma. -/
theorem emptyQueueTicks : Obligations.EmptyQueueTicks := by
  intro s hq
  refine ⟨tick s, by simp [step, hq], fun h => by simp [tick, h], fun h => ?_⟩
  have ht : tick s = { s with
      power := s.power.slew (s.chip.mgmt.now + 1)
      chip := { s.chip with
        mgmt := { s.chip.mgmt with now := s.chip.mgmt.now + 1 }
        fabric := s.chip.fabric.tick (s.chip.mgmt.now + 1)
        quads := s.chip.quads.map (fun e => (e.1, e.2.tick s.power.root)) } } := by simp [tick, h]
  have hquad (q : Nat) : (tick s).chip.quad q = (s.chip.quad q).tick s.power.root := by
    rw [ht]; exact tblGet_map _ _ (Quad.tick_reset _) _ q
  have hport (n : Nat) := Fabric.tick_port s.chip.fabric (s.chip.mgmt.now + 1) n
  intro now p aged
  refine ⟨by rw [ht], fun q => by rw [hquad, Quad.tick_eq], fun q => by rw [hquad, Quad.tick_eq], ?_, ?_, ?_, fun n => ?_⟩
  · rw [ht, Power.slew_eq]; rfl
  · rw [ht]; exact Power.slew_root _ _
  · rw [ht]; simp [Fabric.tick]
  · have hn : (tick s).chip.fabric.port n = if now % 100 = 0 then (s.chip.fabric.port n).tick.stall
        else (s.chip.fabric.port n).tick := by rw [ht]; exact hport n
    intro old new stalls
    have hnew : new = if now % 100 = 0 then old.tick.stall else old.tick := hn
    by_cases h0 : now % 100 = 0
    · rw [if_pos h0] at hnew
      rw [hnew]
      exact ⟨rfl, fun h => absurd h0 h, fun _ => ⟨rfl, rfl⟩⟩
    · rw [if_neg h0] at hnew
      rw [hnew]
      exact ⟨rfl, fun _ => ⟨rfl, rfl⟩, fun h => absurd h h0⟩

end Sys2Proof.Machine
end

section
/-! PROOFS. What every command keeps: the queue behind it, and the bounds of the fields of the SPI-NOR and of the
measurement log (18_boot_and_security.md R503, R514, R518). -/

namespace Sys2Proof.Machine

/-! ## What a step may do to the boot state -/

/-- A number that never falls, and that stays at or below 256 once it is. -/
def Grows (x y : Nat) : Prop := x ≤ y ∧ (x ≤ 256 → y ≤ 256)

theorem Grows.refl (x : Nat) : Grows x x := ⟨Nat.le_refl x, id⟩
theorem Grows.trans {x y z : Nat} (h : Grows x y) (g : Grows y z) : Grows x z :=
  ⟨h.1.trans g.1, fun hx => g.2 (h.2 hx)⟩

/-- The SVN floors, the enrolment counter and the length of the log, each kept within its bound. -/
structure Boot.Kept (b b' : Boot) : Prop where
  tumbler : Grows b.tumbler.floor b'.tumbler.floor
  hart : Grows b.hart.floor b'.hart.floor
  counter : Grows b.counter b'.counter
  mlog : b.mlog.length ≤ 256 → b'.mlog.length ≤ 256

theorem Boot.Kept.refl (b : Boot) : b.Kept b := ⟨.refl _, .refl _, .refl _, id⟩

theorem Boot.Kept.trans {a b c : Boot} (h : a.Kept b) (g : b.Kept c) : a.Kept c :=
  ⟨h.tumbler.trans g.tumbler, h.hart.trans g.hart, h.counter.trans g.counter, fun x => g.mlog (h.mlog x)⟩

/-- What every command does to the state: it keeps the queue, and the boot state as `Boot.Kept` says. -/
structure State.Follows (s t : State) : Prop where
  pending : t.pending = s.pending
  boot : s.boot.Kept t.boot

@[simp] theorem State.Follows.refl (s : State) : s.Follows s := ⟨rfl, .refl _⟩

theorem State.Follows.trans {s t u : State} (h : s.Follows t) (g : t.Follows u) : s.Follows u :=
  ⟨g.pending.trans h.pending, h.boot.trans g.boot⟩

/-- A change of the dies, the hinges, the power and the pins alone. -/
@[simp] theorem State.Follows.parts (s : State) (k : Chip) (l : Links) (p : Power) (n : Pins) :
    s.Follows { s with chip := k, links := l, power := p, pins := n } := ⟨rfl, .refl _⟩

/-- A further change of the dies, the hinges, the power and the pins alone. -/
theorem State.Follows.thenParts {s t : State} (h : s.Follows t) (k : Chip) (l : Links) (p : Power) (n : Pins) :
    s.Follows { t with chip := k, links := l, power := p, pins := n } := h.trans (.parts t k l p n)

@[simp] theorem State.Follows.onChip (s : State) (f : Chip → Chip) : s.Follows (s.onChip f) := .parts s _ _ _ _

theorem State.Follows.thenOnChip {s t : State} (h : s.Follows t) (f : Chip → Chip) : s.Follows (t.onChip f) := h.trans (.onChip t f)

theorem State.Follows.ite {p : Prop} [Decidable p] {s t u : State} (ht : p → s.Follows t) (hu : ¬ p → s.Follows u) :
    s.Follows (if p then t else u) := by
  split
  · exact ht ‹_›
  · exact hu ‹_›

theorem State.Follows.foldl {α : Type} {f : State → α → State} (h : ∀ (s : State) a, s.Follows (f s a)) (l : List α) (s : State) :
    s.Follows (l.foldl f s) := by
  induction l generalizing s with
  | nil => exact .refl s
  | cons a l ih => exact (h s a).trans (ih (f s a))

/-! ## Hinges -/

theorem State.sendFrom_follows (s : State) (d : Nat) (m : NetMsg) : s.Follows (s.sendFrom d m) := by
  unfold State.sendFrom
  split <;> exact .parts _ _ _ _ _

theorem State.reroute_follows (s : State) : s.Follows s.reroute :=
  .trans (t := { s with links := { s.links with diag := [] } }) (.parts _ _ _ _ _)
    (.foldl (fun s (e : Nat × NetMsg) => s.sendFrom_follows e.1 e.2) _ _)

theorem State.leaveSeat_follows (s : State) (q : Nat) (u : Bool) (e : Nat × NetMsg) : s.Follows (s.leaveSeat q u e) := by
  unfold State.leaveSeat
  split
  · exact .parts _ _ _ _ _
  · split
    · exact .parts _ _ _ _ _
    · exact s.sendFrom_follows _ _

theorem State.evacuate_follows (s : State) (q : Nat) (u : Bool) : s.Follows (s.evacuate q u) :=
  State.Follows.trans (t := { s with links := s.links.clearSeat q }) (.parts _ _ _ _ _)
    (.foldl (fun s e => s.leaveSeat_follows q u e) _ _)

theorem State.hingeEvent_follows (s : State) (h : Nat) : s.Follows (s.hingeEvent h) := .parts _ _ _ _ _

theorem State.partitionEvents_follows (s : State) (q : Nat) (old : List (Nat × Nat)) :
    s.Follows (s.partitionEvents q old) := .foldl (fun s _ => s.hingeEvent_follows _) _ _

theorem State.makeUnusable_follows (s : State) (q : Nat) : s.Follows (s.makeUnusable q) := by
  refine .ite (fun _ => .refl s) (fun _ => ?_)
  exact (((State.Follows.onChip s _).trans (State.evacuate_follows _ _ _)).trans (State.reroute_follows _)).trans
    (State.partitionEvents_follows _ _ _)

theorem State.hingeFailed_follows (s : State) (h : Nat) : s.Follows (s.hingeFailed h) :=
  ((s.hingeEvent_follows h).trans (.onChip _ _)).trans (State.makeUnusable_follows _ _)

theorem State.onHinge_follows (s : State) (h : Nat) (f : Links → Links) : s.Follows (s.onHinge h f) := by
  have h1 : s.Follows { s with links := f s.links } := .parts _ _ _ _ _
  refine .ite (fun _ => h1.trans (State.hingeFailed_follows _ _)) (fun _ => ?_)
  exact .ite (fun _ => h1.trans (State.hingeEvent_follows _ _)) (fun _ => h1)

theorem State.flit_follows (s : State) (side b : Nat) (f : Flit) (ts : List Nat) : s.Follows (s.flit side b f ts) :=
  .ite (fun _ => .parts _ _ _ _ _) (fun _ => .refl s)

/-! ## The boot state -/

theorem Boot.volatileLost_kept (b : Boot) : b.Kept b.volatileLost :=
  ⟨.refl b.tumbler.floor, .refl b.hart.floor, .refl b.counter, fun _ => (Nat.zero_le 256 : ([] : List LogEntry).length ≤ 256)⟩

/-- An extension changes one measurement register and the log. -/
theorem Boot.extend_eq (b : Boot) (e : LogEntry) : ∃ m, b.extend e =
    { b with m := m, mlog := if b.mlog.length < 256 then b.mlog ++ [e] else b.mlog } := ⟨_, rfl⟩

/-- R514: the log takes no entry beyond its 256. -/
theorem Boot.extend_kept (b : Boot) (e : LogEntry) : b.Kept (b.extend e) := by
  obtain ⟨m, hm⟩ := b.extend_eq e
  rw [hm]
  refine ⟨.refl _, .refl _, .refl _, fun h => ?_⟩
  show (if b.mlog.length < 256 then b.mlog ++ [e] else b.mlog).length ≤ 256
  split
  · rw [List.length_append, List.length_singleton]; omega
  · exact h

theorem Boot.enrol_kept (b : Boot) : b.Kept b.enrol := by
  unfold Boot.enrol
  split <;> exact ⟨.refl _, .refl _, .refl _, id⟩

@[simp] theorem FwKind.updSlot_floor (k : FwKind) (b : Bool) (f : Slot → Slot) : (k.updSlot b f).floor = k.floor := by
  unfold FwKind.updSlot
  split <;> rfl

theorem FwKind.select_floor {k t : FwKind} {accept : Signer → Bool} (h : k.select accept = some t) : t.floor = k.floor := by
  have hs (b fell : Bool) : (k.start b fell).floor = k.floor := k.updSlot_floor _ _
  simp only [FwKind.select] at h
  split at h
  · exact Option.some.inj h ▸ hs _ _
  · split at h
    · exact Option.some.inj h ▸ hs _ _
    · cases h

/-- R503: the floor rises to the SVN of the image confirmed, which is at most 256. -/
theorem FwKind.confirm_grows (k : FwKind) : Grows k.floor k.confirm.floor := by
  unfold FwKind.confirm
  split
  · exact .refl _
  · split
    · exact .refl _
    · exact ⟨Nat.le_max_left _ _, fun h => Nat.max_le.mpr ⟨h, Nat.min_le_right _ _⟩⟩

/-- A change of a firmware kind that keeps its floor. -/
theorem Boot.updKind_kept (b : Boot) (kind : Nat) (f : FwKind → FwKind) (h : ∀ k, (f k).floor = k.floor) :
    b.Kept (b.updKind kind f) := by
  unfold Boot.updKind
  split
  · exact ⟨(h b.tumbler).symm ▸ .refl _, .refl _, .refl _, id⟩
  · exact ⟨.refl _, (h b.hart).symm ▸ .refl _, .refl _, id⟩

/-- R518: the counter of an accepted record is the next one, and it is at most 256. -/
theorem Boot.counter_of_enrolOk {b : Boot} {bs : Bytes} (h : b.enrolOk bs = true) : b.counter < 256 := by
  simp only [Boot.enrolOk, Bool.and_eq_true, decide_eq_true_eq] at h
  obtain ⟨⟨⟨⟨⟨⟨-, hc⟩, -⟩, -⟩, -⟩, -⟩, -⟩ := h
  exact hc

/-! ## Power and the boot sequence -/

theorem State.onBoot_follows {s : State} {f : Boot → Boot} (h : s.boot.Kept (f s.boot)) : s.Follows (s.onBoot f) := ⟨rfl, h⟩

theorem State.depower_follows (s : State) : s.Follows s.depower := ⟨rfl, s.boot.volatileLost_kept⟩

theorem State.recover_follows (s : State) (why : Recovery) : s.Follows (s.recover why) :=
  ⟨rfl, .refl _, .refl _, .refl _, id⟩

theorem State.drawNonce_follows (s : State) (die : Nat) : s.Follows (s.drawNonce die) := .parts _ _ _ _ _

theorem State.bootStep4_follows (s : State) : s.Follows s.bootStep4 := by
  refine State.Follows.trans (t := (4 :: s.chip.seats).foldl (fun s d => s.drawNonce d) _) (.trans ?_
    (.foldl (fun s d => s.drawNonce_follows d) _ _)) ⟨rfl, ?_⟩
  · exact ⟨rfl, .refl _, .refl _, .refl _, id⟩
  · exact ((Boot.enrol_kept _).trans (Boot.extend_kept _ _)).trans (Boot.extend_kept _ _)

theorem State.bootStep3_follows (s : State) : s.Follows s.bootStep3 := by
  refine .ite (fun _ => s.recover_follows _) (fun _ => .ite (fun _ => s.recover_follows _) (fun _ => ?_))
  refine .trans ?_ (State.bootStep4_follows _)
  exact ⟨rfl, Boot.extend_kept _ _⟩

theorem State.bootStep2_follows (s : State) : s.Follows s.bootStep2 := by
  unfold State.bootStep2
  have hb : s.boot.Kept ({ s.boot with bootCount := s.boot.bootCount + 1 }.extend
      { reg := 0, kind := 0, svn := 0, version := 0, digest := sha512 Config.bootRom }) :=
    .trans (b := { s.boot with bootCount := s.boot.bootCount + 1 }) ⟨.refl _, .refl _, .refl _, id⟩ (Boot.extend_kept _ _)
  dsimp only
  split
  · refine .trans ?_ (State.recover_follows _ _)
    exact ⟨rfl, hb⟩
  · rename_i t ht
    have hb1 := hb.trans (c := { ({ s.boot with bootCount := s.boot.bootCount + 1 }.extend
      { reg := 0, kind := 0, svn := 0, version := 0, digest := sha512 Config.bootRom }) with
        tumbler := t, watchdog := true }) ⟨(FwKind.select_floor ht).symm ▸ .refl _, .refl _, .refl _, id⟩
    split
    · refine .trans ?_ (State.recover_follows _ _)
      exact ⟨rfl, hb1⟩
    · refine .trans ?_ (State.bootStep3_follows _)
      exact ⟨rfl, hb1.trans (Boot.extend_kept _ _)⟩

theorem State.powerOn_follows (s : State) : s.Follows s.powerOn := by
  have h := (s.depower_follows.thenParts s.depower.chip s.depower.links s.depower.power { s.depower.pins with
    rails := [1, 2], pgood := true, faultN := true, cause := none, needEdge := false }).trans
    (State.bootStep2_follows _)
  unfold State.powerOn
  split
  · exact h.trans (.onChip _ _)
  · exact h

theorem State.copyBootImage_follows (s : State) (a : Nat) : s.Follows (s.copyBootImage a) := by
  unfold State.copyBootImage
  split
  · exact .refl s
  · exact ⟨rfl, Boot.extend_kept _ _⟩

theorem State.bootStep5_follows (s : State) : s.Follows s.bootStep5 := by
  unfold State.bootStep5
  split
  · exact s.recover_follows _
  · rename_i h hsel
    split
    · exact s.recover_follows _
    · rename_i i hi
      have h1 : s.boot.Kept ({ s.boot with hart := h }.extend (imageEntry 4 2 i)) :=
        .trans (b := { s.boot with hart := h }) ⟨.refl _, (FwKind.select_floor hsel).symm ▸ .refl _, .refl _, id⟩
          (Boot.extend_kept _ _)
      let s1 : State := { s with
        chip := { s.chip with hostOpen := true }.cohWrite (paLocal i.load.toNat) i.payload false
        boot := { s.boot with hart := h }.extend (imageEntry 4 2 i) }
      have h2 := State.copyBootImage_follows s1 (paLocal i.load.toNat + i.payload.length)
      have hh : (s1.copyBootImage (paLocal i.load.toNat + i.payload.length)).boot.hart = h := by
        unfold State.copyBootImage
        split <;> rfl
      refine State.Follows.trans (t := s1.copyBootImage (paLocal i.load.toNat + i.payload.length))
        (.trans (t := s1) ⟨rfl, h1⟩ h2) ⟨rfl, FwKind.confirm_grows _, ?_, .refl _, id⟩
      exact hh ▸ .refl _

theorem State.checkHinges_follows (s : State) (hs : List Nat) : s.Follows (s.checkHinges hs) :=
  .foldl (fun s h => s.onHinge_follows h _) _ _

theorem State.closeDiscovery_follows (s : State) : s.Follows s.closeDiscovery := by
  refine .ite (fun _ => ?_) (fun _ => ?_)
  · refine .trans (.trans (.trans (s.checkHinges_follows (presentHinges s.chip.seats)) ?_) (State.reroute_follows _))
      (State.bootStep5_follows _)
    exact ⟨rfl, .refl _, .refl _, .refl _, id⟩
  · refine .trans ?_ (State.reroute_follows _)
    exact (s.checkHinges_follows _).thenParts _ _ _ _

theorem State.deviceReset_follows (s : State) (c : Bool) : s.Follows (s.deviceReset c) :=
  .trans (t := { s with
    chip := (if c then s.chip.saveCounters else s.chip).volatileLost
    links := Links.reset, power := Power.reset, boot := s.boot.volatileLost })
    ⟨rfl, s.boot.volatileLost_kept⟩ (State.bootStep2_follows _)

theorem State.trip_follows (s : State) (c : TripCause) : s.Follows (s.trip c) := by
  refine .ite (fun _ => .refl s) (fun _ => ?_)
  exact (State.Follows.ite (fun _ => .onChip s _) (fun _ => .refl s)).trans
    ((State.depower_follows _).thenParts _ _ _ _)

/-! ## Resets and device states -/

theorem State.retrainSeat_follows (s : State) (q : Nat) : s.Follows (s.retrainSeat q) :=
  ((s.evacuate_follows q false).trans (State.drawNonce_follows _ q)).thenParts _ _ _ _

theorem State.quadReset_follows (s : State) (q : Nat) : s.Follows (s.quadReset q) :=
  .ite (fun _ => .refl s) (fun _ => (State.Follows.onChip s _).trans (State.retrainSeat_follows _ q))

theorem State.hostReset_follows (s : State) : s.Follows s.hostReset := by
  refine State.Follows.trans ?_ (State.bootStep5_follows _)
  exact ⟨rfl, .refl _, .refl _, .refl _, id⟩

theorem State.leaveD2_follows (s : State) : s.Follows s.leaveD2 :=
  (State.Follows.foldl (fun s q => (State.Follows.onChip s _).trans (State.retrainSeat_follows _ q)) _ s).thenParts _ _ _ _

@[simp] theorem State.onPower_follows (s : State) (f : Power → Power) : s.Follows (s.onPower f) := .parts _ _ _ _ _

theorem State.onPins_follows (s : State) (f : Pins → Pins) : s.Follows (s.onPins f) := .parts _ _ _ _ _

theorem State.recordIntervals_follows (s : State) : s.Follows s.recordIntervals := by
  simp only [State.recordIntervals]
  split
  · exact .refl s
  · exact .ite (fun _ => s.onPower_follows _) (fun _ =>
      (s.onPower_follows _).trans (.foldl (fun s _ => State.Follows.onChip s _) _ _))

theorem State.takeReading_follows (s : State) (n : Nat) (t : BitVec 12) : s.Follows (s.takeReading n t) :=
  .ite (fun _ => .parts _ _ _ _ _) (fun _ => .ite (fun _ => .parts _ _ _ _ _) (fun _ =>
    .ite (fun _ => .parts _ _ _ _ _) (fun _ => .parts _ _ _ _ _)))

theorem State.tryPower_follows (s : State) : s.Follows s.tryPower :=
  .ite (fun _ => s.powerOn_follows) (fun _ => .refl s)

theorem State.depowerIf_follows (s : State) (p : Prop) [Decidable p] : s.Follows (if p then s.depower else s) :=
  .ite (fun _ => s.depower_follows) (fun _ => .refl s)

theorem State.pinDown_follows (s : State) : s.Follows s.pinDown :=
  (s.depowerIf_follows _).trans (State.onPins_follows _ _)

theorem State.loseVin_follows (s : State) : s.Follows s.loseVin :=
  (s.depowerIf_follows _).trans (State.onPins_follows _ _)

end Sys2Proof.Machine
end

section
/-! PROOFS. Every command follows its state: registers, mailboxes, commands of the Tumbler and drains, and then each row of
the table. -/

namespace Sys2Proof.Machine

/-- An outcome that is a next state which follows `s`. -/
def NextFollows (s : State) (o : Out) : Prop := ∃ t, o = .next t ∧ s.Follows t

theorem State.Follows.next {s t : State} (h : s.Follows t) : NextFollows s (.next t) := ⟨t, rfl, h⟩

theorem NextFollows.onChip (s : State) (f : Chip → Chip) : NextFollows s (.next (s.onChip f)) := (State.Follows.onChip s f).next

/-- A next state that differs in the dies, the hinges, the power and the pins alone. -/
theorem NextFollows.parts (s : State) (k : Chip) (l : Links) (p : Power) (n : Pins) :
    NextFollows s (.next { s with chip := k, links := l, power := p, pins := n }) := (State.Follows.parts s k l p n).next

theorem NextFollows.ite {s : State} {p : Prop} [Decidable p] {o o' : Out} (h : p → NextFollows s o) (h' : ¬ p → NextFollows s o') :
    NextFollows s (if p then o else o') := by
  split
  · exact h ‹_›
  · exact h' ‹_›

/-- What a register does through its command follows. -/
theorem State.afterCmd_follows {s t : State} {o : Out} (hs : s.Follows t) (ho : NextFollows t o) : s.Follows (t.afterCmd o) := by
  obtain ⟨u, rfl, hu⟩ := ho
  exact hs.trans hu

/-! ## Mailboxes -/

theorem State.checkCommand_follows (s : State) (mb : Nat) : s.Follows (s.checkCommand mb).1 := by
  simp only [State.checkCommand]
  split
  · exact .refl s
  · split
    · exact .refl s
    · split <;> exact .parts _ _ _ _ _

theorem State.recheck_follows (s : State) (mb : Nat) : s.Follows (s.recheck mb) := by
  refine .ite (fun _ => .refl s) (fun _ => ?_)
  dsimp only
  split
  · exact .parts _ _ _ _ _
  · exact (State.Follows.trans (.parts _ _ _ _ _) (State.checkCommand_follows _ _)).thenParts _ _ _ _

theorem State.ringDoorbell_follows (s : State) (mb : Nat) (tag : BitVec 16) : s.Follows (s.ringDoorbell mb tag) :=
  .ite (fun _ => .refl s) (fun _ => .ite (fun _ => .onChip s _) (fun _ =>
    (State.Follows.onChip s _).trans (State.recheck_follows _ _)))

/-- A command of the Tumbler: the frame in which its row runs keeps what the row keeps. -/
theorem State.runRow_follows (s : State) (mb op : Nat) {f : State → CmdCtx → CmdEnd}
    (hf : ∀ (s : State) c, s.Follows (f s c).1) : s.Follows (s.runRow mb op f) := by
  refine .ite (fun _ => ?_) (fun _ => s.recheck_follows mb)
  exact ((s.recheck_follows mb).thenParts _ _ _ _).trans
    ((hf _ _).thenOnChip _)

theorem runCommand_follows (mb op : Nat) {f : State → CmdCtx → CmdEnd} (hf : ∀ (s : State) c, s.Follows (f s c).1) (s : State) :
    NextFollows s (runCommand mb op f s) := (s.runRow_follows mb op hf).next

theorem State.sessionReply_follows (s : State) (mb : Nat) (out : Bytes) : s.Follows (s.sessionReply mb out) :=
  .ite (fun _ => ⟨rfl, .refl _, .refl _, .refl _, id⟩) (fun _ => .refl s)

theorem State.releaseWork_follows (s : State) (mb : Nat) : s.Follows (s.releaseWork mb) :=
  ⟨rfl, .refl _, .refl _, .refl _, id⟩

theorem State.endCommand_follows (s : State) (mb : Nat) (r : MbResult) : s.Follows (s.endCommand mb r) :=
  (s.releaseWork_follows mb).trans (.ite (fun _ => (State.Follows.onChip _ _).trans (State.sessionReply_follows _ _ _))
    (fun _ => .onChip _ _))

theorem State.runReset_follows (s : State) (mb op : Nat) (check : State → CmdCtx → Option Nat) {act : CmdCtx → State → State}
    (ha : ∀ c (s : State), s.Follows (act c s)) : s.Follows (s.runReset mb op check act) := by
  refine .ite (fun _ => ?_) (fun _ => s.recheck_follows mb)
  split
  · exact (s.recheck_follows mb).thenOnChip _
  · exact ((s.recheck_follows mb).trans (State.endCommand_follows _ _ _)).trans (ha _ _)

/-! ## Management packets -/

theorem State.takeMgmt_follows (s : State) (n : Nat) (p : Packet) (kind : Nat) {f : State → State}
    (hf : ∀ s : State, s.Follows (f s)) : s.Follows (s.takeMgmt n p kind f) := by
  have hg := (State.Follows.onChip s (fun k => k.onFabric (fun f => f.consume n p))).trans (hf _)
  refine .ite (fun _ => .refl s) (fun _ => .ite (fun _ => .parts _ _ _ _ _) (fun _ => .ite (fun _ => .refl s) (fun _ => ?_)))
  exact .ite (fun _ => .ite (fun _ => .parts _ _ _ _ _) (fun _ => hg)) (fun _ => .ite (fun _ => .parts _ _ _ _ _) (fun _ => hg))

theorem State.takeRelay_follows (s : State) (r : RelayInfo) : s.Follows (s.takeRelay r) := by
  refine .ite (fun _ => .refl s) (fun _ => .ite (fun _ => .onChip s _) (fun _ => ?_))
  split
  · exact .onChip s _
  · exact (State.Follows.onChip s _).trans (State.recheck_follows _ _)

/-! ## Writes to registers -/

theorem execThmClrMax_follows (n : Nat) (w : RegW) (s : State) : NextFollows s (execThmClrMax n w s) :=
  (State.Follows.ite (fun _ => s.onPower_follows _) (fun _ => .refl s)).next

theorem execTmbDb_follows (ag : Agent) (mb : Nat) (w : RegW) (s : State) : NextFollows s (execTmbDb ag mb w s) :=
  (State.Follows.ite (fun _ => s.ringDoorbell_follows _ _) (fun _ => .refl s)).next

theorem State.clusterWrite_follows (s : State) (ag : Agent) (c o : Nat) (w : RegW) : s.Follows (s.clusterWrite ag c o w) :=
  .ite (fun _ => s.afterCmd_follows (.refl s) (.onChip _ _)) (fun _ =>
    .ite (fun _ => s.afterCmd_follows (.refl s) (.onChip _ _)) (fun _ => .onChip s _))

theorem State.dspWrite_follows (s : State) (q p : Nat) (w : RegW) : s.Follows (s.dspWrite q p w) :=
  .ite (fun _ => s.afterCmd_follows (.refl s) (.onChip _ _)) (fun _ =>
  .ite (fun _ => s.afterCmd_follows (.refl s) (.onChip _ _)) (fun _ =>
  .ite (fun _ => s.afterCmd_follows (.refl s) (.onChip _ _)) (fun _ =>
  .ite (fun _ =>
    .ite (fun _ => .onChip s _) (fun _ =>
    .ite (fun _ => s.afterCmd_follows (.refl s) (.onChip _ _)) (fun _ =>
    .ite (fun _ => s.afterCmd_follows (.refl s) (.onChip _ _)) (fun _ => .refl s)))) (fun _ => .refl s))))

theorem State.hspOpWrite_follows (s : State) (q : Nat) (w : RegW) : s.Follows (s.hspOpWrite q w) := by
  refine .ite (fun _ => .refl s) (fun _ => ?_)
  split
  · exact s.afterCmd_follows (.refl s) (.onChip _ _)
  · exact s.afterCmd_follows (.refl s) (.onChip _ _)
  · exact .ite (fun _ => s.afterCmd_follows (.refl s) (.onChip _ _)) (fun _ => .refl s)
  · exact .refl s

theorem State.hspWrite_follows (s : State) (ag : Agent) (q p : Nat) (w : RegW) : s.Follows (s.hspWrite ag q p w) :=
  .ite (fun _ => s.hspOpWrite_follows q w) (fun _ =>
  .ite (fun _ => .ite (fun _ => .refl s) (fun _ => s.afterCmd_follows (.refl s) (.onChip _ _))) (fun _ =>
  .ite (fun _ => .onChip s _) (fun _ =>
  .ite (fun _ => .ite (fun _ => s.afterCmd_follows (.refl s) (.onChip _ _)) (fun _ =>
    s.afterCmd_follows (.refl s) (.onChip _ _))) (fun _ => .refl s))))

theorem State.xltWrite_follows (s : State) (q p : Nat) (w : RegW) : s.Follows (s.xltWrite q p w) :=
  .ite (fun _ => s.afterCmd_follows (.refl s) (.onChip _ _)) (fun _ => .ite (fun _ => .onChip s _) (fun _ =>
    .ite (fun _ => .onChip s _) (fun _ => .ite (fun _ => .onChip s _) (fun _ => .refl s))))

theorem State.hngWrite_follows (s : State) (q h : Nat) (w : RegW) : s.Follows (s.hngWrite q h w) := by
  have h1 : s.Follows (if regSets w 1 then s.afterCmd (execHngClrCnt q h s) else s) :=
    .ite (fun _ => s.afterCmd_follows (.refl s) (.parts _ _ _ _ _)) (fun _ => .refl s)
  exact .ite (fun _ => State.afterCmd_follows h1 (.parts _ _ _ _ _)) (fun _ => h1)

theorem State.pctlWrite_follows (s : State) (n : Nat) (w : RegW) : s.Follows (s.pctlWrite n w) := by
  have h1 : s.Follows (if regSets w 1 then s.afterCmd (execFabPctlClrCnt n s) else s) :=
    .ite (fun _ => s.afterCmd_follows (.refl s) (.onChip _ _)) (fun _ => .refl s)
  have h2 := State.Follows.ite (p := w.part = .high) (fun _ => h1)
    (fun _ => State.afterCmd_follows h1 (.onChip _ (fun k => if k.fabPresent n then k.portDisable n (w.val.getLsbD 2) else k)))
  exact .ite (fun _ => State.afterCmd_follows h2 (.onChip _ _)) (fun _ => h2)

theorem State.quadWrite_follows (s : State) (ag : Agent) (q o : Nat) (w : RegW) : s.Follows (s.quadWrite ag q o w) := by
  simp only [State.quadWrite]
  split
  · exact s.dspWrite_follows _ _ _
  · exact s.hspWrite_follows _ _ _ _
  · exact s.xltWrite_follows _ _ _
  · exact .ite (fun _ => s.hngWrite_follows _ _ _) (fun _ => .refl s)
  · exact .ite (fun _ => s.afterCmd_follows (.refl s) (execThmClrMax_follows _ _ _)) (fun _ =>
      .ite (fun _ => s.afterCmd_follows (.refl s) (execThmClrMax_follows _ _ _)) (fun _ => .refl s))
  · exact .ite (fun _ => s.pctlWrite_follows _ _) (fun _ => .refl s)
  · exact .refl s

theorem State.boxRegWrite_follows (s : State) (ag : Agent) (n o : Nat) (w : RegW) : s.Follows (s.boxRegWrite ag n o w) :=
  .ite (fun _ => s.afterCmd_follows (.refl s) (execTmbDb_follows _ _ _ _)) (fun _ =>
  .ite (fun _ => .onChip s _) (fun _ => .ite (fun _ => .onChip s _) (fun _ =>
  .ite (fun _ => s.afterCmd_follows (.refl s) (.onChip _ _)) (fun _ =>
  .ite (fun _ => s.afterCmd_follows (.refl s) (.onChip _ _)) (fun _ =>
  .ite (fun _ => .ite (fun _ => .onChip s _) (fun _ => .refl s)) (fun _ => .refl s))))))

theorem State.boxWrite_follows (s : State) (ag : Agent) (n o size : Nat) (v : U64) : s.Follows (s.boxWrite ag n o size v) :=
  .ite (fun _ => .refl s) (fun _ => .ite (fun _ => .onChip s _) (fun _ =>
    .ite (fun _ => s.boxRegWrite_follows _ _ _ _) (fun _ => .ite (fun _ => .onChip s _) (fun _ => .refl s))))

theorem State.regWrite_follows (s : State) (ag : Agent) (l : RegLoc) (size : Nat) (v : U64) :
    s.Follows (s.regWrite ag l size v) := by
  unfold State.regWrite
  split
  · exact s.boxWrite_follows _ _ _ _ _
  · exact .ite (fun _ => s.afterCmd_follows (.refl s) (execThmClrMax_follows _ _ _)) (fun _ => .refl s)
  · exact .ite (fun _ => .onChip s _) (fun _ => .refl s)
  · exact s.quadWrite_follows _ _ _ _
  · exact s.clusterWrite_follows _ _ _ _
  · exact .refl s

theorem execRegisterWrite_follows (ag : Agent) (addr size : Nat) (v : U64) (s : State) :
    NextFollows s (execRegisterWrite ag addr size v s) := by
  refine State.Follows.next (.ite (fun _ => .refl s) (fun _ => .ite (fun _ => .onChip s _) (fun _ => ?_)))
  split
  · exact s.regWrite_follows _ _ _ _
  · exact .onChip s _
  · exact .onChip s _
  · exact .onChip s _

/-! ## Answers and drains of a sequencer -/

/-! The outcome of the checks of a register access is generalized before the cases are taken: it is not to be computed. -/

theorem State.regLoad_eq {s : State} {c : Nat} {a : ScAcc} {r : RegCheck}
    (hr : s.regCheck (some (c / 24)) (paLocal a.pa) a.size = r) :
    s.regLoad c a = match (generalizing := false) r with
      | .ok l => s.onChip (fun k => k.finishLoad c a (toBytes a.size (s.regRead (.seq c) l (paLocal a.pa) a.size).toNat) false)
      | .lost => s.onChip (fun k => k.faultLoad c a stLinkLost)
      | _ => s.onChip (fun k => k.faultLoad c a stNotPresent) := by
  have e : @State.regLoad = @State.regLoad := rfl
  conv at e => rhs; delta State.regLoad
  have e := congrFun (congrFun (congrFun e s) c) a
  beta_reduce at e
  generalize s.regCheck (some (c / 24)) (paLocal a.pa) a.size = r' at hr e
  subst hr
  refine e.trans ?_
  cases r' <;> rfl

theorem State.regLoad_follows (s : State) (c : Nat) (a : ScAcc) : s.Follows (s.regLoad c a) := by
  rw [State.regLoad_eq rfl]
  generalize s.regCheck (some (c / 24)) (paLocal a.pa) a.size = r
  cases r <;> exact .onChip s _

theorem State.returnLoad_follows (s : State) (c : Nat) (a : ScAcc) : s.Follows (s.returnLoad c a) := by
  simp only [State.returnLoad]
  split
  · exact .onChip s _
  · exact .ite (fun _ => .refl s) (fun _ => .ite (fun _ => s.regLoad_follows c a) (fun _ => .onChip s _))

theorem State.regStore_eq {s : State} {c : Nat} {x : StoreEnt} {r : RegCheck}
    (hr : s.regCheck (some (c / 24)) (paLocal x.pa) x.data.length = r) :
    s.regStore c x = match (generalizing := false) r with
      | .ok l => (s.onChip (fun k => k.dropStore c x.id)).regWrite (.seq c) l x.data.length (BitVec.ofNat 64 (ofBytes x.data))
      | .lost => s.onChip (fun k => k.storeFailed c x stLinkLost)
      | _ => s.onChip (fun k => k.storeFailed c x stNotPresent) := by
  have e : @State.regStore = @State.regStore := rfl
  conv at e => rhs; delta State.regStore
  have e := congrFun (congrFun (congrFun e s) c) x
  beta_reduce at e
  generalize s.regCheck (some (c / 24)) (paLocal x.pa) x.data.length = r' at hr e
  subst hr
  refine e.trans ?_
  cases r' <;> rfl

theorem State.regStore_follows (s : State) (c : Nat) (x : StoreEnt) : s.Follows (s.regStore c x) := by
  rw [State.regStore_eq rfl]
  generalize s.regCheck (some (c / 24)) (paLocal x.pa) x.data.length = r
  cases r with
  | ok l => exact (State.Follows.onChip s _).trans (State.regWrite_follows _ _ _ _ _)
  | lost | nothing | misaligned => exact .onChip s _

theorem execScalarLoadReturn_follows (c id : Nat) (s : State) : NextFollows s (execScalarLoadReturn c id s) := by
  have h := State.Follows.onChip s (fun k => k.drainAll c)
  refine State.Follows.next ?_
  dsimp only
  split
  · exact (h.trans (State.returnLoad_follows _ _ _)).thenParts _ _ _ _
  · exact h

theorem execStoreAcknowledged_follows (c id : Nat) (s : State) : NextFollows s (execStoreAcknowledged c id s) := by
  have h := State.Follows.onChip s (fun k => k.drainAll c)
  refine State.Follows.next ?_
  dsimp only
  split
  · exact h
  · exact .ite (fun _ => h) (fun _ => (h.trans (.ite (fun _ => State.regStore_follows _ _ _) (fun _ => .onChip _ _))).thenParts _ _ _ _)

theorem State.drainStore_follows (s : State) (c : Nat) (x : StoreEnt) : s.Follows (s.drainStore c x) :=
  .ite (fun _ => .ite (fun _ => .refl s) (fun _ => .onChip s _)) (fun _ =>
    .ite (fun _ => s.regStore_follows c x) (fun _ => .ite (fun _ => .onChip s _) (fun _ => .onChip s _)))

theorem State.drainStores_follows (s : State) (c : Nat) : s.Follows (s.drainStores c) :=
  (State.Follows.onChip s _).trans (.foldl (fun s x => s.drainStore_follows c x) _ _)

theorem State.drainQuad_follows (s : State) (q : Nat) : s.Follows (s.drainQuad q) :=
  .ite (fun _ => .refl s) (fun _ => (State.Follows.onChip s _).trans (.foldl (fun s c => s.drainStores_follows c) _ _))

theorem State.drainModule_follows (s : State) : s.Follows s.drainModule := .foldl (fun s c => s.drainStores_follows c) _ _

theorem State.commandedReset_follows (s : State) : s.Follows s.commandedReset :=
  s.drainModule_follows.trans (State.deviceReset_follows _ _)

theorem State.powerDown_follows (s : State) : s.Follows s.powerDown :=
  (s.drainModule_follows.thenParts _ _ _ _).trans (State.depower_follows _)

theorem execClusterReset_follows (c : Nat) (s : State) : NextFollows s (execClusterReset c s) :=
  (State.Follows.ite (fun _ => .ite (fun _ => (s.drainStores_follows c).thenParts _ _ _ _) (fun _ => s.drainStores_follows c))
    (fun _ => .refl s)).next

/-! ## Harts and errors -/

theorem State.hartRegLoad_eq {s : State} {a : HartLd} {r : RegCheck} {h : Nat}
    (hr : s.regCheck none (paLocal a.pa) (2 ^ a.size.toNat) = r) :
    s.hartRegLoad h a = match (generalizing := false) r with
      | .ok l => s.onChip (fun k => k.updHart h (fun x => x.setReg a.rd (extend (2 ^ a.size.toNat) a.signed
          (toBytes (2 ^ a.size.toNat) (s.regRead (.hart h) l (paLocal a.pa) (2 ^ a.size.toNat)).toNat))))
      | _ => s.onChip (fun k => k.hartRefuse h (ldCause a) a.va a.pa true) := by
  have e : @State.hartRegLoad = @State.hartRegLoad := rfl
  conv at e => rhs; delta State.hartRegLoad
  refine (congrFun (congrFun (congrFun e s) h) a).trans ?_
  extract_lets n
  have hn : s.regCheck none (paLocal a.pa) n = r := hr
  generalize s.regCheck none (paLocal a.pa) n = r' at hn ⊢
  subst hn
  cases r' <;> rfl

theorem State.hartRegLoad_follows (s : State) (h : Nat) (a : HartLd) : s.Follows (s.hartRegLoad h a) := by
  obtain ⟨r, hr⟩ : ∃ r, s.regCheck none (paLocal a.pa) (2 ^ a.size.toNat) = r := ⟨_, rfl⟩
  rw [State.hartRegLoad_eq hr]
  cases r <;> exact .onChip s _

theorem State.hartRegStore_eq {s : State} {h : Nat} {va : U64} {pa : Nat} {bs : Bytes} {r : RegCheck}
    (hr : s.regCheck none (paLocal pa) bs.length = r) :
    s.hartRegStore h va pa bs = match (generalizing := false) r with
      | .ok l => s.regWrite (.hart h) l bs.length (BitVec.ofNat 64 (ofBytes bs))
      | .lost => s.onChip (fun k => k.hartDiscard h pa stLinkLost)
      | _ => s.onChip (fun k => k.hartRefuse h causeStore va pa true) := by
  have e : @State.hartRegStore = @State.hartRegStore := rfl
  conv at e => rhs; delta State.hartRegStore
  have e := congrFun (congrFun (congrFun (congrFun (congrFun e s) h) va) pa) bs
  beta_reduce at e
  generalize s.regCheck none (paLocal pa) bs.length = r' at hr e
  subst hr
  refine e.trans ?_
  cases r' <;> rfl

theorem State.hartRegStore_follows (s : State) (h : Nat) (va : U64) (pa : Nat) (bs : Bytes) :
    s.Follows (s.hartRegStore h va pa bs) := by
  rw [State.hartRegStore_eq rfl]
  generalize s.regCheck none (paLocal pa) bs.length = r
  cases r with
  | ok l => exact s.regWrite_follows _ _ _ _
  | lost | nothing | misaligned => exact .onChip s _

theorem State.hartStore_follows (s : State) (h : Nat) (va : U64) (pa : Nat) (page : PageType) (bs : Bytes) :
    NextFollows s (s.hartStore h va pa page bs) := by
  simp only [State.hartStore]
  split
  case h_3 => exact (s.hartRegStore_follows h va pa bs).next
  all_goals exact .parts _ _ _ _ _

/-- What a row does once the hart's stores that can have drained. -/
theorem NextFollows.ofReady {s : State} {h : Nat} {o : Out} (ho : NextFollows (s.onChip (fun k => k.readyHart h)) o) :
    NextFollows s o := by
  obtain ⟨t, rfl, ht⟩ := ho
  exact ((State.Follows.onChip s _).trans ht).next

theorem execHartLoad_follows (h : Nat) (a : HartLd) (s : State) : NextFollows s (execHartLoad h a s) := by
  refine .ofReady (h := h) (.ite (fun _ => .parts _ _ _ _ _) (fun _ => ?_))
  split
  case h_3 => exact (State.hartRegLoad_follows _ h a).next
  all_goals exact .parts _ _ _ _ _

theorem execHartStore_follows (h : Nat) (a : HartSt) (s : State) : NextFollows s (execHartStore h a s) :=
  .ofReady (h := h) (.ite (fun _ => .parts _ _ _ _ _) (fun _ => State.hartStore_follows _ _ _ _ _ _))

theorem execCboZero_follows (h pa : Nat) (va : U64) (s : State) : NextFollows s (execCboZero h pa va s) :=
  .ofReady (h := h) (.ite (fun _ => .parts _ _ _ _ _) (fun _ => State.hartStore_follows _ _ _ _ _ _))

theorem execHartAmo_follows (h : Nat) (a : HartAmoF) (s : State) : NextFollows s (execHartAmo h a s) := by
  refine .ofReady (h := h) (State.Follows.next (.ite (fun _ => .refl _) (fun _ => ?_)))
  split <;> exact .parts _ _ _ _ _

theorem State.controlError_follows (s : State) (e : ErrInfo) : s.Follows (s.controlError e) :=
  .ite (fun _ => .onChip s _) (fun _ => .ite (fun _ => (State.Follows.onChip s _).trans (State.makeUnusable_follows _ _))
    (fun _ => (State.Follows.onChip s _).trans (State.commandedReset_follows _)))

theorem State.uncorrectableAt_follows (s : State) (e : ErrInfo) : s.Follows (s.uncorrectableAt e) := by
  simp only [State.uncorrectableAt]
  split
  case h_4 => exact s.controlError_follows e
  case h_10 => exact .refl s
  all_goals exact .onChip s _

/-! ## SMBus -/

theorem State.smbWrite_follows (s : State) (n : Nat) (bs : Bytes) : s.Follows (s.smbWrite n bs) := by
  induction n generalizing s bs with
  | zero => exact .refl s
  | succ n ih =>
    exact .ite (fun _ => .refl s) (fun _ => ((s.boxWrite_follows _ _ _ _ _).thenParts _ _ _ _).trans (ih _ _))

theorem State.smbServe_follows (s : State) (pec ok : Bool) {f : State → State} (hf : s.Follows (f s)) :
    s.Follows (s.smbServe pec ok f) := .ite (fun _ => hf) (fun _ => .parts _ _ _ _ _)

end Sys2Proof.Machine
end

section
/-! PROOFS. Every command answers a next state that follows the one it met; so every step does. -/

namespace Sys2Proof.Machine

/-! ## Commands of the Tumbler: what each row of a running command keeps -/

@[simp] theorem cmdEnd_fst (s : State) (st : Nat) (res : List U64) : (cmdEnd s st res).1 = s := rfl
@[simp] theorem cmdDone_fst (s : State) (res : List U64) : (cmdDone s res).1 = s := rfl
@[simp] theorem cmdOut_fst (s : State) (c : CmdCtx) (res : List U64) (bs : Bytes) : (cmdOut s c res bs).1 = s := by
  unfold cmdOut
  split <;> rfl

section
variable (s : State) (c : CmdCtx)

theorem podNeighbours_follows : s.Follows (podNeighbours s c).1 := by simp [podNeighbours]

theorem podConfigure_follows : s.Follows (podConfigure s c).1 := by
  simp only [podConfigure]
  repeat' split
  all_goals simp

theorem podCheck_follows : s.Follows (podCheck s c).1 := by
  simp only [podCheck]
  repeat' split
  all_goals simp

theorem podRelay_follows : s.Follows (podRelay s c).1 := by
  simp only [podRelay]
  repeat' split
  all_goals simp

theorem imgList_follows : s.Follows (imgList s c).1 := by
  simp only [imgList]
  repeat' split
  all_goals simp

theorem imgCreate_follows : s.Follows (imgCreate s c).1 := by
  simp only [imgCreate]
  repeat' split
  all_goals simp

theorem imgWrite_follows : s.Follows (imgWrite s c).1 := by
  simp only [imgWrite]
  repeat' split
  all_goals simp

theorem imgSeal_follows : s.Follows (imgSeal s c).1 := by
  have h := (State.Follows.parts s s.chip.fresh.2 s.links s.power s.pins).thenOnChip
  simp only [imgSeal]
  repeat' split
  all_goals simp [h]

theorem imgErase_follows : s.Follows (imgErase s c).1 := by
  simp only [imgErase]
  repeat' split
  all_goals simp

theorem fltDefer_follows : s.Follows (fltDefer s c).1 := by
  simp only [fltDefer]
  repeat' split
  all_goals simp

theorem getCaps_follows : s.Follows (getCaps s c).1 := by simp [getCaps]

theorem getTopology_follows : s.Follows (getTopology s c).1 := by simp [getTopology]

theorem getStatus_follows : s.Follows (getStatus s c).1 := by simp [getStatus]

theorem setPowerCap_follows : s.Follows (setPowerCap s c).1 := by
  simp only [setPowerCap]
  repeat' split
  all_goals simp

theorem setRampTable_follows : s.Follows (setRampTable s c).1 := by
  simp only [setRampTable]
  repeat' split
  all_goals simp

theorem setHbmMap_follows : s.Follows (setHbmMap s c).1 := by
  simp only [setHbmMap]
  repeat' split
  all_goals simp

theorem setShelfSplit_follows : s.Follows (setShelfSplit s c).1 := by
  simp only [setShelfSplit]
  repeat' split
  all_goals simp

theorem setScPolicy_follows : s.Follows (setScPolicy s c).1 := by
  simp only [setScPolicy]
  repeat' split
  all_goals simp

theorem setPcieWidth_follows : s.Follows (setPcieWidth s c).1 := by
  simp only [setPcieWidth]
  repeat' split
  all_goals simp

theorem getClocks_follows : s.Follows (getClocks s c).1 := by simp [getClocks]

theorem setFixedFreq_follows : s.Follows (setFixedFreq s c).1 := by
  simp only [setFixedFreq]
  repeat' split
  all_goals simp

theorem clearFixedFreq_follows : s.Follows (clearFixedFreq s c).1 := by
  simp only [clearFixedFreq]
  repeat' split
  all_goals simp

theorem setBoost_follows : s.Follows (setBoost s c).1 := by
  simp only [setBoost]
  repeat' split
  all_goals simp

theorem wqAbort_follows : s.Follows (wqAbort s c).1 := by
  simp only [wqAbort]
  repeat' split
  all_goals simp

theorem wqStatus_follows : s.Follows (wqStatus s c).1 := by
  simp only [wqStatus]
  repeat' split
  all_goals simp

theorem reattach_follows : s.Follows (reattach s c).1 := by
  simp only [reattach]
  repeat' split
  all_goals simp

theorem energyRead_follows : s.Follows (energyRead s c).1 := by
  simp only [energyRead]
  repeat' split
  all_goals simp

theorem telemRead_follows : s.Follows (telemRead s c).1 := by simp [telemRead]

theorem eventMask_follows : s.Follows (eventMask s c).1 := by
  simp only [eventMask]
  repeat' split
  all_goals simp

theorem getMeasurements_follows : s.Follows (getMeasurements s c).1 := by simp [getMeasurements]

theorem attestQuote_follows : s.Follows (attestQuote s c).1 := by
  rw [attestQuote, cmdOut_fst]
  exact .refl s

theorem mbAssign_follows : s.Follows (mbAssign s c).1 := by
  simp only [mbAssign]
  repeat' split
  all_goals simp

theorem errRead_follows : s.Follows (errRead s c).1 := by
  simp only [errRead]
  repeat' split
  all_goals simp

theorem errClear_follows : s.Follows (errClear s c).1 := by simp [errClear]

theorem logRead_follows : s.Follows (logRead s c).1 := by simp [logRead]

theorem dirRead_follows : s.Follows (dirRead s c).1 := by
  simp only [dirRead]
  repeat' split
  all_goals simp

theorem regPeek_follows : s.Follows (regPeek s c).1 := by
  simp only [regPeek]
  repeat' split
  all_goals simp

theorem spaceSet_follows : s.Follows (spaceSet s c).1 := by
  simp only [spaceSet]
  repeat' split
  all_goals simp

theorem spaceInval_follows : s.Follows (spaceInval s c).1 := by
  simp only [spaceInval]
  repeat' split
  all_goals simp

theorem spaceGet_follows : s.Follows (spaceGet s c).1 := by
  simp only [spaceGet]
  repeat' split
  all_goals simp

theorem relocate_follows : s.Follows (relocate s c).1 := by
  simp only [relocate]
  repeat' split
  all_goals simp

/-- R518: the counter of an accepted record is below its last value, so the next one is within its bound. -/
theorem ownerEnroll_follows : s.Follows (ownerEnroll s c).1 := by
  simp only [ownerEnroll]
  split
  · exact .refl s
  · rename_i bs hbs
    split
    · rename_i hok
      have hc := Boot.counter_of_enrolOk hok
      exact ⟨rfl, .refl _, .refl _, ⟨Nat.le_succ _, fun _ => hc⟩, id⟩
    · exact .refl s

/-- R516: staging replaces a slot and keeps the floor of its kind. -/
theorem fwStage_follows : s.Follows (fwStage s c).1 := by
  simp only [fwStage]
  repeat' split
  case h_2.isTrue =>
    rw [cmdDone_fst]
    exact State.Follows.thenOnChip (State.onBoot_follows (Boot.updKind_kept _ _ _ (fun k => k.updSlot_floor _ _))) _
  case h_2.isFalse.isFalse.isFalse.isFalse =>
    have h := s.boot.updKind_kept (c.arg 1) (fun k => k.updSlot (c.arg 0 = 1) (fun _ => emptySlot)) (fun k => k.updSlot_floor _ _)
    exact ⟨rfl, h.tumbler, h.hart, h.counter, h.mlog⟩
  all_goals simp

theorem fwActivate_follows : s.Follows (fwActivate s c).1 := by
  simp only [fwActivate]
  repeat' split
  case isFalse.isFalse.isFalse =>
    have h := s.boot.updKind_kept (c.arg 1) (fun k => { k with preferred := c.arg 0 = 1 }) (fun _ => rfl)
    rw [cmdDone_fst]
    exact State.Follows.thenOnChip (State.onBoot_follows ⟨h.tumbler, h.hart, h.counter, h.mlog⟩) _
  all_goals simp

theorem debugChallenge_follows : s.Follows (debugChallenge s c).1 := ⟨rfl, .refl _, .refl _, .refl _, id⟩

/-- R523: an accepted record enters the measurement log. -/
theorem debugUnlock_follows : s.Follows (debugUnlock s c).1 := by
  have h1 : s.Follows (s.onBoot (fun b => { b with challenge := none })) := ⟨rfl, .refl _, .refl _, .refl _, id⟩
  simp only [debugUnlock]
  split
  · exact h1
  · rename_i bs hbs
    split
    · have h := Boot.extend_kept { s.boot with challenge := none }
        { reg := 3, kind := 0x10, svn := 0, version := 0, digest := sha512 bs }
      exact h1.trans ⟨rfl, h.tumbler, h.hart, h.counter, h.mlog⟩
    · exact h1

@[simp] theorem State.enterD1_follows (s : State) : s.Follows s.enterD1 := .parts s _ _ _ _
@[simp] theorem State.enterD2_follows (s : State) : s.Follows s.enterD2 := .parts s _ _ _ _
@[simp] theorem State.leaveD1_follows (s : State) : s.Follows s.leaveD1 := .parts s _ _ _ _

/-- A transition between device states changes the dies, the hinges, the power and the pins alone. -/
theorem setDstate_follows : s.Follows (setDstate s c).1 := by
  simp only [setDstate]
  repeat' split
  all_goals simp [s.leaveD2_follows, s.leaveD2_follows.trans (State.onPower_follows _ _)]

end

/-! ## The other commands -/

/-- A command that may do nothing. -/
theorem NextFollows.orStay {s t : State} {p : Prop} [Decidable p] (h : p → s.Follows t) :
    NextFollows s (.next (if p then t else s)) := (State.Follows.ite h (fun _ => .refl s)).next

/-- R46, R50: a message whose last flit arrives at a die that it only passes leaves it again. -/
theorem execMsgFlit_follows (side b : Nat) (f : Flit) (s : State) : NextFollows s (execMsgFlit side b f s) := by
  have h := s.flit_follows side b f (1 :: span 6 10)
  refine State.Follows.next ?_
  split
  · exact .ite (fun _ => h) (fun _ => (h.thenParts _ _ _ _).trans (State.sendFrom_follows _ _ _))
  · exact h

theorem execPowerWindow_follows (r : WindowReading) (s : State) : NextFollows s (execPowerWindow r s) := by
  have h : s.Follows { s with power := s.windowLimits r } := .parts s _ _ _ _
  exact State.Follows.next (.ite (fun _ => .refl s) (fun _ =>
    (State.Follows.ite (fun _ => h.thenOnChip _) (fun _ => h)).trans (State.recordIntervals_follows _)))

theorem execEstimatorCalibrated_follows (s : State) : NextFollows s (execEstimatorCalibrated s) := by
  refine State.Follows.next ?_
  split
  · exact s.onPower_follows _
  · exact .refl s

/-- R479: entry into D3 answers first and then runs as a reset does; the other states are a row. -/
theorem execSetDstate_follows (mb : Nat) (s : State) : NextFollows s (execSetDstate mb s) := by
  refine ((s.recheck_follows mb).trans (.ite (fun _ => ?_) (fun _ => ?_))).next
  · exact State.runReset_follows _ mb _ _ (fun _ s => s.powerDown_follows)
  · exact State.runRow_follows _ mb _ setDstate_follows

theorem execThermalTrip_follows (n : Nat) (s : State) : NextFollows s (execThermalTrip n s) := by
  refine State.Follows.next ?_
  split
  · exact .ite (fun _ => (State.Follows.onChip s _).trans (State.trip_follows _ _)) (fun _ => .refl s)
  · exact .refl s

/-- R508: hart firmware confirms its slot, which raises the floor of its kind at most. -/
theorem execHartFwConfirm_follows (s : State) : NextFollows s (execHartFwConfirm s) := by
  refine State.Follows.next ?_
  split
  · exact .ite (fun _ => ⟨rfl, .refl _, s.boot.hart.confirm_grows, .refl _, id⟩) (fun _ => .refl s)
  · exact .refl s

theorem execDoorbellStale_follows (mb : Nat) (s : State) : NextFollows s (execDoorbellStale mb s) := by
  have h := s.recheck_follows mb
  exact State.Follows.next (.ite (fun _ => (h.thenOnChip _).trans (State.sessionReply_follows _ _ _)) (fun _ => h))

theorem execCommandComplete_follows (mb : Nat) (s : State) : NextFollows s (execCommandComplete mb s) := by
  have h := s.recheck_follows mb
  refine State.Follows.next ?_
  dsimp only
  split
  · exact .ite (fun _ => h.trans (State.endCommand_follows _ _ _)) (fun _ => h)
  · exact h

theorem execFlashRead_follows (id : Nat) (served : FlashServe) (s : State) : NextFollows s (execFlashRead id served s) := by
  refine State.Follows.next ?_
  split
  · exact .refl s
  · exact .ite (fun _ => .onChip s _) (fun _ => .refl s)

theorem execFlashReadTimeout_follows (id : Nat) (s : State) : NextFollows s (execFlashReadTimeout id s) := by
  refine State.Follows.next ?_
  split
  · exact .refl s
  · exact .ite (fun _ => .refl s) (fun _ => .onChip s _)

theorem execPatrolScrub_follows (line : Nat) (found : ScrubResult) (s : State) : NextFollows s (execPatrolScrub line found s) := by
  refine State.Follows.next (.ite (fun _ => .refl s) (fun _ => ?_))
  split
  · exact .refl s
  · exact .onChip s _
  · exact s.uncorrectableAt_follows _

theorem execRemoteSessionRequest_follows (slot : BitVec 512) (body : Bytes) (s : State) :
    NextFollows s (execRemoteSessionRequest slot body s) := by
  have h : s.Follows (if (s.chip.box 14).st = .check || (s.chip.box 14).st = .running then s
      else s.onChip (fun k => k.updBox 14 (fun b => b.takeRequest slot body))) :=
    .ite (fun _ => .refl s) (fun _ => .onChip s _)
  exact State.Follows.next (.ite (fun _ => .refl s) (fun _ => h.trans (State.ringDoorbell_follows _ _ _)))

/-! ## Every command -/

/-- No command faults or is refused, and each keeps the queue and the boot state as `State.Follows` says. A command that is not
named here changes the dies alone. -/
theorem exec_follows (i : Instr) (s : State) : NextFollows s (exec i s) := by
  cases i with
  | registerWrite ag addr size val => exact execRegisterWrite_follows ag addr size val s
  | hingeMessageSend side m => exact (s.sendFrom_follows _ m).next
  | widthFlit side b f => exact .orStay (fun _ => s.onHinge_follows _ _)
  | hingePatternDone h passA passB =>
    exact .orStay (fun _ => s.onHinge_follows _ _)
  | hingeStateTimeout h => exact .orStay (fun _ => s.onHinge_follows _ _)
  | hostLossTimeout q => exact .orStay (fun _ => .onChip s _)
  | discoveryClose => exact .orStay (fun _ => s.closeDiscovery_follows)
  | bootWatchdog => exact .orStay (fun _ => s.deviceReset_follows _)
  | pwrEnRise =>
    exact (State.Follows.ite (fun _ => .refl s) (fun _ => (s.onPins_follows _).trans (State.tryPower_follows _))).next
  | modRstNRise =>
    exact (State.Follows.ite (fun _ => .refl s) (fun _ => (s.onPins_follows _).trans (State.tryPower_follows _))).next
  | vinRise => exact ((s.onPins_follows _).trans (State.tryPower_follows _)).next
  | pwrEnFall => exact ((s.onPins_follows _).trans (State.pinDown_follows _)).next
  | modRstNFall => exact ((s.onPins_follows _).trans (State.pinDown_follows _)).next
  | vinDip mv => exact .orStay (fun _ => s.loseVin_follows)
  | vinLoss => exact s.loseVin_follows.next
  | vinOvervoltage => exact (s.trip_follows _).next
  | vinPeakTimeout => exact (s.trip_follows _).next
  | vsbLoss => exact ((s.depowerIf_follows _).thenParts _ _ _ _).next
  | refclkLoss =>
    exact .orStay (fun _ => (s.trip_follows _).trans (State.onPins_follows _ _))
  | railOutOfRegulation rail => exact .orStay (fun _ => s.trip_follows _)
  | thermalSensorReading sensor temp =>
    exact .orStay (fun _ => s.takeReading_follows _ _)
  | energyUpdate e => exact .orStay (fun _ => .parts s _ _ _ _)
  | railOvercurrentRelease q => exact (s.onPower_follows _).next
  | config port p r => exact (s.takeMgmt_follows _ _ _ (fun s => .onChip s _)).next
  | configAck port p => exact (s.takeMgmt_follows _ _ _ (fun s => .onChip s _)).next
  | ping port p => exact (s.takeMgmt_follows _ _ _ (fun s => .onChip s _)).next
  | relayRsp port p => exact (s.takeMgmt_follows _ _ _ (fun s => .onChip s _)).next
  | relayCmd port p r => exact (s.takeMgmt_follows _ _ _ (fun s => s.takeRelay_follows r)).next
  | tmbDb ag mb w => exact execTmbDb_follows ag mb w s
  | scalarLoadReturn c id => exact execScalarLoadReturn_follows c id s
  | storeAcknowledged c id => exact execStoreAcknowledged_follows c id s
  | clusterReset c => exact execClusterReset_follows c s
  | hartLoad h a => exact execHartLoad_follows h a s
  | hartStore h a => exact execHartStore_follows h a s
  | hartAmo h a => exact execHartAmo_follows h a s
  | cboZero h pa va => exact execCboZero_follows h pa va s
  | uncorrectableError e => exact (s.uncorrectableAt_follows e).next
  | resetDevice mb => exact (s.runReset_follows mb _ _ (fun _ s => s.commandedReset_follows)).next
  | resetHost mb => exact (s.runReset_follows mb _ _ (fun _ s => s.hostReset_follows)).next
  | resetQuadrant mb =>
    exact (s.runReset_follows mb _ _ (fun _ s => (s.drainQuad_follows _).trans (State.quadReset_follows _ _))).next
  | setDstate mb => exact execSetDstate_follows mb s
  | remoteSessionTimeout => exact ⟨_, rfl, rfl, .refl _, .refl _, .refl _, id⟩
  | thmClrMax sensor w => exact execThmClrMax_follows sensor w s
  | remoteSessionRequest slot body => exact execRemoteSessionRequest_follows slot body s
  | remoteSessionOpen certOk =>
    exact .orStay (fun _ => ⟨rfl, .refl _, .refl _, .refl _, id⟩)
  | msgFlit side b f => exact execMsgFlit_follows side b f s
  | powerWindow r => exact execPowerWindow_follows r s
  | estimatorCalibrated => exact execEstimatorCalibrated_follows s
  | thermalTrip sensor => exact execThermalTrip_follows sensor s
  | hartFwConfirm => exact execHartFwConfirm_follows s
  | doorbellStale mb => exact execDoorbellStale_follows mb s
  | commandComplete mb => exact execCommandComplete_follows mb s
  | flashRead id served => exact execFlashRead_follows id served s
  | flashReadTimeout id => exact execFlashReadTimeout_follows id s
  | patrolScrub line found => exact execPatrolScrub_follows line found s
  | smbWriteWord word pec => exact (s.smbServe_follows _ _ (.parts _ _ _ _ _)).next
  | smbBlockWrite data pec => exact (s.smbServe_follows _ _ ((s.smbWrite_follows _ _).thenParts _ _ _ _)).next
  | smbProcessCall n pec => exact (s.smbServe_follows _ _ (.parts _ _ _ _ _)).next
  | smbAlertResponse => exact (s.smbServe_follows _ _ (.parts _ _ _ _ _)).next
  | helloTimer port => exact .orStay (fun _ => .onChip s _)
  | flashCounterSave => exact .orStay (fun _ => .onChip s _)
  | idleFlit side b f | replayFlit side b f | retrainFlit side b f | discFlit side b f =>
    exact (s.flit_follows side b f _).next
  | replayLimit side b | flitAckTimeout side b | hingeAttemptStart h | hingeFailcountReset h | discSendTimer die =>
    exact .orStay (fun _ => .parts s _ _ _ _)
  | forwardedClockLoss side b | hingeClockLock h | hingeDeskewDone h | hngRetrain q h | hngClrCnt q h =>
    exact .parts s _ _ _ _
  | rootSlewStart | rootSlewEnd | rampWindow region demand | droopDetect region | droopRecover region
  | railOvercurrent q => exact .orStay (fun _ => s.onPower_follows _)
  | spaceSet mb => exact runCommand_follows mb _ spaceSet_follows s
  | spaceInval mb => exact runCommand_follows mb _ spaceInval_follows s
  | spaceGet mb => exact runCommand_follows mb _ spaceGet_follows s
  | relocate mb => exact runCommand_follows mb _ relocate_follows s
  | setShelfSplit mb => exact runCommand_follows mb _ setShelfSplit_follows s
  | setScPolicy mb => exact runCommand_follows mb _ setScPolicy_follows s
  | getCaps mb => exact runCommand_follows mb _ getCaps_follows s
  | getTopology mb => exact runCommand_follows mb _ getTopology_follows s
  | getStatus mb => exact runCommand_follows mb _ getStatus_follows s
  | setPowerCap mb => exact runCommand_follows mb _ setPowerCap_follows s
  | setRampTable mb => exact runCommand_follows mb _ setRampTable_follows s
  | setHbmMap mb => exact runCommand_follows mb _ setHbmMap_follows s
  | setPcieWidth mb => exact runCommand_follows mb _ setPcieWidth_follows s
  | getClocks mb => exact runCommand_follows mb _ getClocks_follows s
  | setFixedFreq mb => exact runCommand_follows mb _ setFixedFreq_follows s
  | clearFixedFreq mb => exact runCommand_follows mb _ clearFixedFreq_follows s
  | setBoost mb => exact runCommand_follows mb _ setBoost_follows s
  | wqAbort mb => exact runCommand_follows mb _ wqAbort_follows s
  | wqStatus mb => exact runCommand_follows mb _ wqStatus_follows s
  | imgList mb => exact runCommand_follows mb _ imgList_follows s
  | imgCreate mb => exact runCommand_follows mb _ imgCreate_follows s
  | imgWrite mb => exact runCommand_follows mb _ imgWrite_follows s
  | imgSeal mb => exact runCommand_follows mb _ imgSeal_follows s
  | imgErase mb => exact runCommand_follows mb _ imgErase_follows s
  | fltDefer mb => exact runCommand_follows mb _ fltDefer_follows s
  | podNeighbours mb => exact runCommand_follows mb _ podNeighbours_follows s
  | podConfigure mb => exact runCommand_follows mb _ podConfigure_follows s
  | podCheck mb => exact runCommand_follows mb _ podCheck_follows s
  | podRelay mb => exact runCommand_follows mb _ podRelay_follows s
  | getMeasurements mb => exact runCommand_follows mb _ getMeasurements_follows s
  | attestQuote mb => exact runCommand_follows mb _ attestQuote_follows s
  | ownerEnroll mb => exact runCommand_follows mb _ ownerEnroll_follows s
  | fwStage mb => exact runCommand_follows mb _ fwStage_follows s
  | fwActivate mb => exact runCommand_follows mb _ fwActivate_follows s
  | debugChallenge mb => exact runCommand_follows mb _ debugChallenge_follows s
  | debugUnlock mb => exact runCommand_follows mb _ debugUnlock_follows s
  | mbAssign mb => exact runCommand_follows mb _ mbAssign_follows s
  | errRead mb => exact runCommand_follows mb _ errRead_follows s
  | errClear mb => exact runCommand_follows mb _ errClear_follows s
  | logRead mb => exact runCommand_follows mb _ logRead_follows s
  | reattach mb => exact runCommand_follows mb _ reattach_follows s
  | energyRead mb => exact runCommand_follows mb _ energyRead_follows s
  | telemRead mb => exact runCommand_follows mb _ telemRead_follows s
  | eventMask mb => exact runCommand_follows mb _ eventMask_follows s
  | dirRead mb => exact runCommand_follows mb _ dirRead_follows s
  | regPeek mb => exact runCommand_follows mb _ regPeek_follows s
  | _ => exact .onChip s _

/-- A REFCLK cycle changes neither the queue nor the boot state. -/
theorem tick_follows (s : State) : s.Follows (tick s) := .ite (fun _ => .parts s _ _ _ _) (fun _ => .refl s)

/-- A step runs the command at the front of the queue, or one cycle. -/
theorem step_next (s : State) : ∃ t, step s = .next t ∧ t.pending = s.pending.tail ∧ s.boot.Kept t.boot := by
  unfold step
  split
  · rename_i hq
    obtain ⟨hp, hb⟩ := tick_follows s
    exact ⟨tick s, rfl, by rw [hp, hq]; rfl, hb⟩
  · rename_i i rest hq
    obtain ⟨t, ht, hp, hb⟩ := exec_follows i { s with pending := rest }
    exact ⟨t, ht, by rw [hp, hq]; rfl, hb⟩

/-- Settles O3: every command and every cycle answers a next state and keeps the rest of the queue. -/
theorem stepOutcomes : Obligations.StepOutcomes := fun s =>
  let ⟨t, ht, hp, _⟩ := step_next s
  ⟨t, ht, hp⟩

theorem Boot.bounded_iff (b : Boot) : b.bounded = true ↔
    b.tumbler.floor ≤ 256 ∧ b.hart.floor ≤ 256 ∧ b.counter ≤ 256 ∧ b.mlog.length ≤ 256 := by
  simp only [Boot.bounded, Bool.and_eq_true, decide_eq_true_eq, and_assoc]

/-- Settles O6: every command keeps each bound and lowers no field. -/
theorem bootBoundsKept : Obligations.BootBoundsKept := by
  intro s t hs hstep
  obtain ⟨u, hu, -, hb⟩ := step_next s
  obtain rfl : u = t := Host.Outcome.next.inj (hu.symm.trans hstep)
  obtain ⟨ht, hh, hc, hm⟩ := s.boot.bounded_iff.mp hs
  exact ⟨u.boot.bounded_iff.mpr ⟨hb.tumbler.2 ht, hb.hart.2 hh, hb.counter.2 hc, hb.mlog hm⟩,
    hb.tumbler.1, hb.hart.1, hb.counter.1⟩

end Sys2Proof.Machine
end

section
/-! PROOFS. The rows of the scalar slot: results of the arithmetic group, targets of the control group, accesses of the memory group
(R129-R143). -/

namespace Sys2Proof.Machine

/-! ## Shifts by the low six bits -/

theorem shiftAmount_of_reg (b : U64) : (b.extractLsb' 0 6).toNat = b.toNat % 64 := by
  simp [BitVec.extractLsb'_toNat]

theorem shiftAmount_of_imm (sh : BitVec 6) : ((sh.setWidth 64).extractLsb' 0 6 : BitVec 6) = sh := by
  apply BitVec.eq_of_toNat_eq
  simp [BitVec.extractLsb'_toNat]
  omega

/-! ## Arithmetic -/

section Arithmetic

variable (a b : U64)

theorem aluResult_sll : aluResult .sll a b = a <<< (b.toNat % 64) := by
  rw [← shiftAmount_of_reg]; rfl

theorem aluResult_srl : aluResult .srl a b = a >>> (b.toNat % 64) := by
  rw [← shiftAmount_of_reg]; rfl

theorem aluResult_sra : aluResult .sra a b = a.sshiftRight (b.toNat % 64) := by
  rw [← shiftAmount_of_reg]; rfl

theorem aluResult_mul : aluResult .mul a b = BitVec.ofNat 64 (a.toNat * b.toNat) := by
  apply BitVec.eq_of_toNat_eq
  simp [aluResult, BitVec.toNat_mul]

theorem aluResult_slt : aluResult .slt a b = flagWord (decide (a.toInt < b.toInt)) := rfl

theorem aluResult_sltu : aluResult .sltu a b = flagWord (decide (a.toNat < b.toNat)) := rfl

theorem aluResult_min : aluResult .min a b = if a.toInt < b.toInt then a else b := by
  simp [aluResult, BitVec.slt]

theorem aluResult_max : aluResult .max a b = if a.toInt < b.toInt then b else a := by
  simp [aluResult, BitVec.slt]

theorem aluResult_minu : aluResult .minu a b = if a.toNat < b.toNat then a else b := by
  simp [aluResult, BitVec.ult]

theorem aluResult_maxu : aluResult .maxu a b = if a.toNat < b.toNat then b else a := by
  simp [aluResult, BitVec.ult]

theorem shiftResult_slli (sh : BitVec 6) : shiftResult .slli a sh = a <<< sh.toNat := by
  show a <<< ((sh.setWidth 64).extractLsb' 0 6 : BitVec 6) = _
  rw [shiftAmount_of_imm]; rfl

theorem shiftResult_srli (sh : BitVec 6) : shiftResult .srli a sh = a >>> sh.toNat := by
  show a >>> ((sh.setWidth 64).extractLsb' 0 6 : BitVec 6) = _
  rw [shiftAmount_of_imm]; rfl

theorem shiftResult_srai (sh : BitVec 6) : shiftResult .srai a sh = a.sshiftRight sh.toNat := by
  show a.sshiftRight' ((sh.setWidth 64).extractLsb' 0 6 : BitVec 6) = _
  rw [shiftAmount_of_imm]; rfl

end Arithmetic

/-- Settles O12: stage X gives each instruction the result of its row, and nothing holds it. -/
theorem scalarArithmeticRows : Obligations.ScalarArithmeticRows := by
  refine ⟨?_, ?_⟩
  · intro s c rd rs1 rs2 h a b ends
    have row (op : AluOp) {v : U64} (hv : aluResult op a b = v) : s.scalarSlot c (.alu op rd rs1 rs2) = ends op v :=
      hv ▸ State.scalarSlot_of_ready rfl h rfl
    exact ⟨row .add rfl, row .sub rfl, row .and rfl, row .or rfl, row .xor rfl,
      row .sll (aluResult_sll a b), row .srl (aluResult_srl a b), row .sra (aluResult_sra a b),
      row .slt (aluResult_slt a b), row .sltu (aluResult_sltu a b), row .mul (aluResult_mul a b),
      row .min (aluResult_min a b), row .max (aluResult_max a b), row .minu (aluResult_minu a b), row .maxu (aluResult_maxu a b)⟩
  · intro s c rd rs1 imm sh up depth a sx zx alu shf
    refine ⟨fun h => ?_, fun h => ?_⟩
    · have rowI (op : AluIOp) {v : U64} (hv : aluIResult op a imm = v) : s.scalarSlot c (.alui op rd rs1 imm) = alu op v :=
        hv ▸ State.scalarSlot_of_ready rfl h rfl
      have rowS (op : ShiftOp) {v : U64} (hv : shiftResult op a sh = v) : s.scalarSlot c (.shift op rd rs1 sh) = shf op v :=
        hv ▸ State.scalarSlot_of_ready rfl h rfl
      exact ⟨rowI .addi rfl, rowI .andi rfl, rowI .ori rfl, rowI .xori rfl, rowI .slti (aluResult_slt a sx),
        rowI .sltiu (aluResult_sltu a sx), rowS .slli (shiftResult_slli a sh), rowS .srli (shiftResult_srli a sh),
        rowS .srai (shiftResult_srai a sh)⟩
    · refine ⟨State.scalarSlot_of_ready rfl h rfl, State.scalarSlot_of_ready rfl h rfl, State.scalarSlot_of_ready rfl h rfl,
        State.scalarSlot_of_ready rfl h rfl, ?_⟩
      change s.scalarSlot c (.lidx rd depth) = _
      -- R135: whether the loop is active decides between the index and the fault.
      have hx : s.chip.scalarX c (s.chip.cluster c).pc (.lidx rd depth) =
          (s.chip, match (s.chip.cluster c).loops[depth.toNat]? with
            | some e => .act (.write rd (BitVec.ofNat 64 e.index))
            | none => .fault ftIllegal none) := rfl
      split
      · rename_i e he
        exact State.scalarSlot_of_ready rfl h (by rw [hx, he])
      · rename_i he
        exact State.scalarSlot_fault rfl h (by rw [hx, he]; rfl)

/-! ## Control transfers -/

/-- Stage X of a control transfer that is not at the end of an active loop. -/
theorem Chip.scalarX_control {k : Chip} {c : Nat} {pc : U64} {i : Scalar} (hi : slotIsControl i = true)
    (he : (k.cluster c).atLoopEnd pc = false) : k.scalarX c pc i = (k, (k.cluster c).controlX pc i) := by
  simp [Chip.scalarX, isMem_of_slotIsControl hi, hi, he]

section Control

variable {s : State} {c : Nat} {i : Scalar}

/-- A control transfer away from a loop end that has an effect. -/
theorem State.scalarSlot_control {a : SAct} (hi : slotIsControl i = true) (hl : i.legal = true) (h : ScalarReady s c i.reads)
    (he : (s.chip.cluster c).atLoopEnd (s.chip.cluster c).pc = false)
    (ha : (s.chip.cluster c).controlX (s.chip.cluster c).pc i = .act a) : s.scalarSlot c i = s.goes (s.chip.scalarDone c i a) :=
  State.scalarSlot_of_ready hl h (ha ▸ Chip.scalarX_control hi he)

/-- A control transfer away from a loop end that faults. -/
theorem State.scalarSlot_control_fault {code : Nat} (hi : slotIsControl i = true) (hl : i.legal = true) (h : ScalarReady s c i.reads)
    (he : (s.chip.cluster c).atLoopEnd (s.chip.cluster c).pc = false)
    (ha : (s.chip.cluster c).controlX (s.chip.cluster c).pc i = .fault code none) :
    s.scalarSlot c i = s.goes (s.chip.seqFault c code (s.chip.cluster c).pc none) :=
  State.scalarSlot_fault hl h (ha ▸ Chip.scalarX_control hi he)

end Control

theorem branchTaken_iff (op : BrOp) (a b : U64) : branchTaken op a b = true ↔
    match op with
    | .beq => a = b
    | .bne => a ≠ b
    | .blt => a.toInt < b.toInt
    | .bge => b.toInt ≤ a.toInt
    | .bltu => a.toNat < b.toNat
    | .bgeu => b.toNat ≤ a.toNat := by
  cases op <;> simp [branchTaken, BitVec.slt, BitVec.ult]

/-- R138, R139: a loop of at least one iteration is pushed, unless the stack is full or it ends beyond the innermost loop. -/
theorem State.scalarSlot_push {s : State} {c : Nat} {i : Scalar} {n body : Nat} (hi : slotIsControl i = true) (hl : i.legal = true)
    (h : ScalarReady s c i.reads) (he : (s.chip.cluster c).atLoopEnd (s.chip.cluster c).pc = false) (hn : n ≠ 0)
    (hx : (s.chip.cluster c).controlX (s.chip.cluster c).pc i = (s.chip.cluster c).loopX (s.chip.cluster c).pc n body) :
    let x := s.chip.cluster c
    let stop : U64 := x.pc + BitVec.ofNat 64 (32 * body)
    s.scalarSlot c i =
      if 4 ≤ x.loops.length then s.goes (s.chip.seqFault c 5 x.pc none)
      else if ∃ e, x.loops.head? = some e ∧ e.stop.toNat < stop.toNat then s.goes (s.chip.seqFault c 5 x.pc none)
      else s.goes (s.chip.scalarDone c i (.push { start := x.pc + 32, stop := stop, trip := n, index := 0 })) := by
  intro x stop
  have hin : (∃ e, x.loops.head? = some e ∧ e.stop.toNat < stop.toNat) ↔
      (match x.loops with | e :: _ => decide (e.stop.toNat < stop.toNat) | [] => false) = true := by
    cases x.loops <;> simp
  have hx := hx.trans (if_neg hn)
  split
  case isTrue hfull =>
    exact State.scalarSlot_control_fault hi hl h he (hx.trans (if_pos hfull))
  case isFalse hfull =>
    have hx := hx.trans (if_neg hfull)
    split
    case isTrue hout =>
      exact State.scalarSlot_control_fault hi hl h he (hx.trans (if_pos (hin.mp hout)))
    case isFalse hout =>
      exact State.scalarSlot_control hi hl h he (hx.trans (if_neg (fun g => hout (hin.mpr g))))

/-- Settles O13: stage X of each form, at the end of a loop and elsewhere. -/
theorem controlRows : Obligations.ControlRows := by
  refine ⟨?_, ?_⟩
  · intro s c rd rs1 rs2 off imm far x a b there br illegal
    refine ⟨fun h => ⟨fun he => ?_, fun he => ?_⟩, fun h => ?_, fun h => ?_⟩
    · have row (op : BrOp) (p : Prop) [Decidable p] (hp : branchTaken op a b = true ↔ p) :
          s.scalarSlot c (.branch op rs1 rs2 off) = br op p := by
        refine State.scalarSlot_control rfl rfl h he (congrArg SEnd.act ?_)
        exact if_congr hp rfl rfl
      exact ⟨row .beq _ (branchTaken_iff .beq a b), row .bne _ (branchTaken_iff .bne a b), row .blt _ (branchTaken_iff .blt a b),
        row .bge _ (branchTaken_iff .bge a b), row .bltu _ (branchTaken_iff .bltu a b), row .bgeu _ (branchTaken_iff .bgeu a b)⟩
    · have row (op : BrOp) : s.scalarSlot c (.branch op rs1 rs2 off) = illegal := State.scalarSlot_loopEnd rfl rfl h he
      exact ⟨row .beq, row .bne, row .blt, row .bge, row .bltu, row .bgeu⟩
    · change s.scalarSlot c (.jal rd far) = _
      split
      case isTrue he => exact State.scalarSlot_loopEnd rfl rfl h he
      case isFalse he => exact State.scalarSlot_control rfl rfl h (Bool.eq_false_of_not_eq_true he) rfl
    · change s.scalarSlot c (.jalr rd rs1 imm) = _
      have hx : x.controlX x.pc (.jalr rd rs1 imm) =
          if (a + imm.signExtend 64).toNat % 32 ≠ 0 then .fault ftMisaligned none
          else .act (.jump (a + imm.signExtend 64) (some (rd, x.pc + 32))) := rfl
      split
      case isTrue he => exact State.scalarSlot_loopEnd rfl rfl h he
      case isFalse he =>
        have he' := Bool.eq_false_of_not_eq_true he
        split
        case isTrue hm => exact State.scalarSlot_control_fault rfl rfl h he' (hx.trans (if_pos hm))
        case isFalse hm => exact State.scalarSlot_control rfl rfl h he' (hx.trans (if_neg hm))
  · intro s c r body t sense level x stop illegal push n he
    refine ⟨fun h hbody => ?_, fun h hbody ht => ?_, fun h => ?_⟩
    · have hn : bitsOf (x.reg r).toNat 0 32 = n := by simp [bitsOf, n]
      have hx : x.controlX x.pc (.loop r body) = x.loopX x.pc n body.toNat := hn ▸ rfl
      change s.scalarSlot c (.loop r body) = _
      split
      case isTrue h0 => exact State.scalarSlot_control rfl (decide_eq_true hbody) h he (hx.trans (if_pos h0))
      case isFalse h0 => exact State.scalarSlot_push rfl (decide_eq_true hbody) h he h0 hx
    · have ht0 : t.toNat ≠ 0 := fun g => ht (BitVec.eq_of_toNat_eq g)
      exact State.scalarSlot_push (i := .loopi t body) rfl (by simpa [Scalar.legal] using ⟨ht, hbody⟩) h he ht0 rfl
    · change s.scalarSlot c (.brk r sense level) = _
      have hx : x.controlX x.pc (.brk r sense level) =
          match x.loops[level.toNat]? with
          | none => .fault ftIllegal none
          | some e => if decide (x.reg r = 0) = sense then .act (.leave (level.toNat + 1) (e.stop + 32)) else .act .none := rfl
      have hc : ((x.reg r = 0) = (sense = true)) ↔ decide (x.reg r = 0) = sense := by
        cases sense <;> simp
      split
      · rename_i hnone
        exact State.scalarSlot_control_fault rfl rfl h he (by rw [hx, hnone]; rfl)
      · rename_i e hsome
        refine State.scalarSlot_control rfl rfl h he ?_
        rw [hx, hsome]
        simp only [hc]
        split <;> rfl

/-! ## Loads, stores and atomics -/

/-- A scalar slot whose operand check leaves the dies in a state that has room takes effect there. -/
theorem State.scalarSlot_of_placed {s : State} {c : Nat} {i : Scalar} {k : Chip} {a : SAct} (hl : i.legal = true)
    (h : ScalarReady s c i.reads) (hx : s.chip.scalarX c (s.chip.cluster c).pc i = (k, .act a))
    (hroom : k.roomFor c Ready.none = true) : s.scalarSlot c i = s.goes (k.scalarDone c i a) :=
  congrArg s.goes (Chip.issueSlot_scalar hl h.1 h.2 hx hroom)

/-- R94: an address that is no multiple of the access size has no place. -/
theorem Chip.seqPlace_misaligned (k : Chip) (c : Nat) {va : U64} {n : Nat} (kind : XKind) (h : va.toNat % n ≠ 0) :
    k.seqPlace c va n kind = (k, .inl (.fault ftMisaligned none)) := if_pos h

section Stages

variable {k k1 : Chip} {c pa : Nat} {pc : U64} {rd rs1 rs2 : SReg} {imm : BitVec 16} {size : BitVec 2} {signed cached : Bool}
  {claim : Option Nat} {op : AmoOp}

variable (h : (k.cluster c).amoOut = false)
include h

theorem Chip.scalarX_load
    (hp : k.seqPlace c ((k.cluster c).reg rs1 + imm.signExtend 64) (2 ^ size.toNat) .read = (k1, .inr (pa, (cached, claim)))) :
    k.scalarX c pc (.load size signed rd rs1 imm) = (k1, .act (.access (.load signed) rd
      ((k.cluster c).reg rs1 + imm.signExtend 64) pa (2 ^ size.toNat) cached (k.cluster c).space claim)) := by
  simp [Chip.scalarX, slotIsControl, h, hp]

theorem Chip.scalarX_load_misaligned (hm : ((k.cluster c).reg rs1 + imm.signExtend 64).toNat % 2 ^ size.toNat ≠ 0) :
    k.scalarX c pc (.load size signed rd rs1 imm) = (k, .fault ftMisaligned none) := by
  simp [Chip.scalarX, slotIsControl, h, Chip.seqPlace_misaligned k c _ hm]

theorem Chip.scalarX_store
    (hp : k.seqPlace c ((k.cluster c).reg rs1 + imm.signExtend 64) (2 ^ size.toNat) .write = (k1, .inr (pa, (cached, claim))))
    (hz : (if k1.isReg pa then ownLandz c (paLocal pa) else none) = none) :
    k.scalarX c pc (.store size rs2 rs1 imm) =
      (k1, .act (.store pa (toBytes (2 ^ size.toNat) ((k.cluster c).reg rs2).toNat) cached (k.cluster c).space claim)) := by
  simp [Chip.scalarX, slotIsControl, h, hp, hz, storeBytes]

theorem Chip.scalarX_store_zone {z : Nat}
    (hp : k.seqPlace c ((k.cluster c).reg rs1 + imm.signExtend 64) (2 ^ size.toNat) .write = (k1, .inr (pa, (cached, claim))))
    (hz : (if k1.isReg pa then ownLandz c (paLocal pa) else none) = some z) (ho : k1.regOut c = false) :
    k.scalarX c pc (.store size rs2 rs1 imm) =
      (k1, .act (.zone z (regWOf (paLocal pa) (2 ^ size.toNat) ((k.cluster c).reg rs2)))) := by
  simp [Chip.scalarX, slotIsControl, h, hp, hz, ho]

theorem Chip.scalarX_store_misaligned (hm : ((k.cluster c).reg rs1 + imm.signExtend 64).toNat % 2 ^ size.toNat ≠ 0) :
    k.scalarX c pc (.store size rs2 rs1 imm) = (k, .fault ftMisaligned none) := by
  simp [Chip.scalarX, slotIsControl, h, Chip.seqPlace_misaligned k c _ hm]

theorem Chip.scalarX_amo (hp : k.seqPlace c ((k.cluster c).reg rs1) 8 .atomic = (k1, .inr (pa, (cached, claim)))) :
    k.scalarX c pc (.amo op rd rs1 rs2) = (k1, .act (.access (.amo op ((k.cluster c).reg rs2) ((k.cluster c).reg rd)) rd
      ((k.cluster c).reg rs1) pa 8 cached (k.cluster c).space claim)) := by
  simp [Chip.scalarX, slotIsControl, h, hp]

theorem Chip.scalarX_amo_misaligned (hm : ((k.cluster c).reg rs1).toNat % 8 ≠ 0) :
    k.scalarX c pc (.amo op rd rs1 rs2) = (k, .fault ftMisaligned none) := by
  simp [Chip.scalarX, slotIsControl, h, Chip.seqPlace_misaligned k c _ hm]

/-- R133: an offset access faults, or goes to the own store. -/
theorem Chip.scalarX_ldl (hf : (k.cluster c).offsetFault ((k.cluster c).reg rs1 + imm.signExtend 64) = none) :
    k.scalarX c pc (.ldl rd rs1 imm) = (k, .act (.access (.load true) rd ((k.cluster c).reg rs1 + imm.signExtend 64)
      (k.offsetPa c ((k.cluster c).reg rs1 + imm.signExtend 64).toNat) 8 false 0
      (some ((k.cluster c).reg rs1 + imm.signExtend 64).toNat))) := by
  simp [Chip.scalarX, slotIsControl, h, hf]

theorem Chip.scalarX_ldl_fault {code : Nat}
    (hf : (k.cluster c).offsetFault ((k.cluster c).reg rs1 + imm.signExtend 64) = some code) :
    k.scalarX c pc (.ldl rd rs1 imm) = (k, .fault code none) := by
  simp [Chip.scalarX, slotIsControl, h, hf]

theorem Chip.scalarX_stl (hf : (k.cluster c).offsetFault ((k.cluster c).reg rs1 + imm.signExtend 64) = none) :
    k.scalarX c pc (.stl rs2 rs1 imm) = (k, .act (.store (k.offsetPa c ((k.cluster c).reg rs1 + imm.signExtend 64).toNat)
      (toBytes 8 ((k.cluster c).reg rs2).toNat) false 0 (some ((k.cluster c).reg rs1 + imm.signExtend 64).toNat))) := by
  simp [Chip.scalarX, slotIsControl, h, hf, storeBytes]

theorem Chip.scalarX_stl_fault {code : Nat}
    (hf : (k.cluster c).offsetFault ((k.cluster c).reg rs1 + imm.signExtend 64) = some code) :
    k.scalarX c pc (.stl rs2 rs1 imm) = (k, .fault code none) := by
  simp [Chip.scalarX, slotIsControl, h, hf]

end Stages

/-- Settles O15: stage X places each access or faults, and nothing holds it. -/
theorem scalarMemoryRows : Obligations.ScalarMemoryRows := by
  refine ⟨?_, ?_, ?_⟩
  · intro s c rd rs1 imm x va row h ha
    have load (size : BitVec 2) (signed : Bool) (hl : (Scalar.load size signed rd rs1 imm).legal = true) (i : Instr)
        (hi : exec i s = s.scalarSlot c (.load size signed rd rs1 imm)) : row i size signed := by
      refine ⟨fun k pa cached claim hp hroom => ?_, fun hm => ?_⟩
      · exact hi.trans (State.scalarSlot_of_placed hl h (Chip.scalarX_load ha hp) hroom)
      · exact hi.trans (State.scalarSlot_fault hl h (Chip.scalarX_load_misaligned ha hm))
    refine ⟨load 0 true rfl _ rfl, load 0 false rfl _ rfl, load 1 true rfl _ rfl, load 1 false rfl _ rfl,
      load 2 true rfl _ rfl, load 2 false rfl _ rfl, load 3 true rfl _ rfl, ?_⟩
    change s.scalarSlot c (.ldl rd rs1 imm) = _
    split
    · rename_i code hf
      exact State.scalarSlot_fault rfl h (Chip.scalarX_ldl_fault ha hf)
    · rename_i hf
      exact State.scalarSlot_of_ready rfl h (Chip.scalarX_ldl ha hf)
  · intro s c rs2 rs1 imm x va v row h ha
    have store (size : BitVec 2) (hsize : (Scalar.store size rs2 rs1 imm).legal = true) (i : Instr)
        (hi : exec i s = s.scalarSlot c (.store size rs2 rs1 imm)) : row i size := by
      have h' : ScalarReady s c (Scalar.store size rs2 rs1 imm).reads := h.of_subset (by simp [Scalar.reads])
      refine ⟨fun k pa cached claim hp hroom => ⟨fun hz => ?_, fun z hz ho => ?_⟩, fun hm => ?_⟩
      · exact hi.trans (State.scalarSlot_of_placed hsize h' (Chip.scalarX_store ha hp hz) hroom)
      · exact hi.trans (State.scalarSlot_of_placed hsize h' (Chip.scalarX_store_zone ha hp hz ho) hroom)
      · exact hi.trans (State.scalarSlot_fault hsize h' (Chip.scalarX_store_misaligned ha hm))
    refine ⟨store 0 rfl _ rfl, store 1 rfl _ rfl, store 2 rfl _ rfl, store 3 rfl _ rfl, ?_⟩
    change s.scalarSlot c (.stl rs2 rs1 imm) = _
    have h' : ScalarReady s c (Scalar.stl rs2 rs1 imm).reads := h.of_subset (by simp [Scalar.reads])
    split
    · rename_i code hf
      exact State.scalarSlot_fault rfl h' (Chip.scalarX_stl_fault ha hf)
    · rename_i hf
      exact State.scalarSlot_of_ready rfl h' (Chip.scalarX_stl ha hf)
  · intro s c rd rs1 rs2 x va row ha
    have amo (op : AmoOp) (hr : ScalarReady s c (Scalar.amo op rd rs1 rs2).reads) (i : Instr)
        (hi : exec i s = s.scalarSlot c (.amo op rd rs1 rs2)) : row i op := by
      refine ⟨fun k pa cached claim hp hroom => ?_, fun hm => ?_⟩
      · exact hi.trans (State.scalarSlot_of_placed rfl hr (Chip.scalarX_amo ha hp) hroom)
      · exact hi.trans (State.scalarSlot_fault rfl hr (Chip.scalarX_amo_misaligned ha hm))
    exact ⟨fun h => ⟨amo .add h _ rfl, amo .swap h _ rfl⟩, fun h => amo .cas h _ rfl⟩

end Sys2Proof.Machine
end

section
/-! PROOFS. What a scalar result and a control transfer change at a sequencer with nothing outstanding (R80, R130, R137-R143). -/

namespace Sys2Proof.Machine

/-- The effects that stay at the sequencer: a register write and the control transfers. -/
def SAct.isLocal : SAct → Bool
  | .none | .write _ _ | .jump _ _ | .push _ | .pass _ | .leave _ _ => true
  | _ => false

/-- The registers after an effect that stays at the sequencer. -/
def Cluster.wroteReg (x : Cluster) : SAct → Cluster
  | .write rd v | .jump _ (some (rd, v)) => x.setReg rd v
  | _ => x

/-- The sequencer after an effect that stays there. -/
def Cluster.scalarDid (x : Cluster) (i : Scalar) (a : SAct) : Cluster :=
  { (x.wroteReg a).goOn x.pc i a with
    nextNo := x.nextNo + 1, whEnded := false, fetchRead := none, descRead := none, lockRead := none }

/-- A register write reaches the register table alone. -/
theorem Cluster.wroteReg_eq (x : Cluster) (a : SAct) : x.wroteReg a = { x with regs := (x.wroteReg a).regs } := by
  unfold Cluster.wroteReg
  split
  · rw [Cluster.setReg_eq]
  · rw [Cluster.setReg_eq]
  · rfl

/-- The next bundle changes the program counter, the loops and the predictor alone. -/
theorem Cluster.goOn_eq (x : Cluster) (pc : U64) (i : Scalar) (a : SAct) :
    x.goOn pc i a = { x with pc := (x.goOn pc i a).pc, loops := (x.goOn pc i a).loops, preds := (x.goOn pc i a).preds } := by
  cases a <;> rfl

/-- With nothing outstanding no load is forgotten, so a scalar effect that stays at the sequencer is a register write. -/
theorem Chip.scalarEffect_local {k : Chip} {c : Nat} {pc : U64} {a : SAct} (h : (k.cluster c).quiet = true)
    (ha : a.isLocal = true) : k.scalarEffect c pc a = k.updCluster c (·.wroteReg a) ∨ k.scalarEffect c pc a = k ∧ (k.cluster c).wroteReg a = k.cluster c := by
  have write (rd : SReg) (v : U64) : k.updCluster c (·.scalarWrite rd v) = k.updCluster c (·.setReg rd v) :=
    Chip.updCluster_congr (congrArg (·.setReg rd v) (Cluster.forgetLoad_of_quiet h rd))
  cases a with
  | write rd v => exact .inl (write rd v)
  | jump t l =>
    cases l with
    | none => exact .inr ⟨rfl, rfl⟩
    | some l => exact .inl (write l.1 l.2)
  | none | push | pass | leave => exact .inr ⟨rfl, rfl⟩
  | access | store | zone | lc => cases ha

theorem Cluster.scalarDid_frame (x : Cluster) (i : Scalar) (a : SAct) :
    x.scalarDid i a = { x with
      regs := (x.scalarDid i a).regs, pc := (x.scalarDid i a).pc, loops := (x.scalarDid i a).loops, preds := (x.scalarDid i a).preds
      nextNo := x.nextNo + 1, whEnded := false, fetchRead := none, descRead := none, lockRead := none } := by
  unfold Cluster.scalarDid
  rw [Cluster.goOn_eq, Cluster.wroteReg_eq]

theorem Cluster.scalarDid_quiet {x : Cluster} (h : x.quiet = true) (i : Scalar) (a : SAct) : (x.scalarDid i a).quiet = true := by
  rw [Cluster.scalarDid_frame]
  exact h

/-- With nothing outstanding, an effect that stays at the sequencer changes that cluster alone. -/
theorem Chip.scalarDone_local {k : Chip} {c : Nat} {a : SAct} (h : (k.cluster c).quiet = true) (ha : a.isLocal = true)
    (i : Scalar) : k.scalarDone c i a = k.updCluster c (·.scalarDid i a) := by
  have hcommit : k.scalarDone c i a = ((k.updCluster c (·.scalarDid i a)).drainAll c).dropOffPath c := by
    simp only [Chip.scalarDone, Chip.slotDone, Ready.none, List.foldl_nil, Chip.commitBundle, scalarBundle, nopBundle]
    refine congrArg (fun z => (Chip.drainAll z c).dropOffPath c) ?_
    rcases Chip.scalarEffect_local (pc := (k.cluster c).pc) h ha with he | ⟨he, hw⟩
    · simp only [he, Chip.updCluster_upd]
      apply Chip.updCluster_congr
      simp [Cluster.scalarDid, Ready.claims]
    · simp only [he, Chip.updCluster_upd]
      apply Chip.updCluster_congr
      simp [Cluster.scalarDid, Ready.claims, hw]
  have hq := Cluster.scalarDid_quiet h i a
  rw [hcommit, Chip.drainAll_of_empty, Chip.dropOffPath_of_none]
  · rw [Chip.cluster_upd_self]; exact Cluster.any_speculative_of_quiet hq
  · rw [Chip.cluster_upd_self]; exact Cluster.loads_of_quiet hq
  · rw [Chip.cluster_upd_self]; exact Cluster.stores_of_quiet hq

section Frame

variable {k : Chip} {c : Nat} {a : SAct}

/-- What such an effect leaves unchanged. -/
theorem Chip.scalarDone_local_frame (h : (k.cluster c).quiet = true) (ha : a.isLocal = true) (i : Scalar) :
    (k.scalarDone c i a).cluster c = (k.cluster c).scalarDid i a ∧
    (∀ d, d ≠ c → (k.scalarDone c i a).cluster d = k.cluster d) ∧ (∀ b, (k.scalarDone c i a).byte b = k.byte b) ∧
    k.scalarDone c i a = { k with clusters := (k.scalarDone c i a).clusters } := by
  rw [Chip.scalarDone_local h ha]
  exact ⟨Chip.cluster_upd_self k c _, fun d hd => Chip.cluster_upd_ne k _ hd, fun b => Chip.byte_updCluster k c _ b, rfl⟩

end Frame

section Fields

variable (x : Cluster) (i : Scalar) (rd : SReg) (v t : U64)

/-- R140: after a register write the sequencer goes on as the loops have it; only a `BREAK` touches the predictor. -/
theorem Cluster.scalarDid_write (hi : ∀ r p n, i ≠ .brk r p n) : x.scalarDid i (.write rd v) =
    { x.setReg rd v with
      pc := (loopEnd x.pc x.loops).1, loops := (loopEnd x.pc x.loops).2, nextNo := x.nextNo + 1, whEnded := false
      fetchRead := none, descRead := none, lockRead := none } := by
  have hgo (y : Cluster) : y.goOn x.pc i (.write rd v) =
      { y with pc := (loopEnd x.pc y.loops).1, loops := (loopEnd x.pc y.loops).2 } := by
    cases i with
    | brk r p n => exact absurd rfl (hi r p n)
    | _ => rfl
  have hl : (x.setReg rd v).loops = x.loops := by rw [Cluster.setReg_eq]
  unfold Cluster.scalarDid
  rw [show x.wroteReg (.write rd v) = x.setReg rd v from rfl, hgo, hl]

/-- R137, R142: a taken transfer keeps the loops that hold its target. -/
theorem Cluster.scalarDid_jump (l : Option (SReg × U64)) : x.scalarDid i (.jump t l) =
    { x.wroteReg (.jump t l) with
      pc := t, loops := keepActive t x.loops, nextNo := x.nextNo + 1, whEnded := false
      fetchRead := none, descRead := none, lockRead := none } := by
  have hl : (x.wroteReg (.jump t l)).loops = x.loops := by rw [Cluster.wroteReg_eq]
  unfold Cluster.scalarDid Cluster.goOn
  rw [hl]

theorem Cluster.reg_wroteReg_jump (l : Option (SReg × U64)) (r : SReg) : (x.wroteReg (.jump t l)).reg r =
    match l with
    | some (rd, v) => if r = rd ∧ rd ≠ 0 then v else x.reg r
    | none => x.reg r := by
  cases l with
  | none => rfl
  | some l => exact Cluster.reg_setReg x l.1 r l.2

end Fields

theorem loopEnd_of_no_loop (pc : U64) : loopEnd pc [] = (pc + 32, []) := rfl

/-- R140: a bundle that is not the end of the innermost loop. -/
theorem loopEnd_of_inside {pc : U64} {e : LoopEnt} (r : List LoopEnt) (h : e.stop ≠ pc) :
    loopEnd pc (e :: r) = (pc + 32, e :: r) := if_pos h

theorem loopEnd_again {pc : U64} {e : LoopEnt} (r : List LoopEnt) (h : e.stop = pc) (ht : e.index + 1 < e.trip) :
    loopEnd pc (e :: r) = (e.start, { e with index := e.index + 1 } :: r) := by
  simp [loopEnd, h, ht]

theorem loopEnd_popped {pc : U64} {e : LoopEnt} (r : List LoopEnt) (h : e.stop = pc) (ht : e.trip ≤ e.index + 1) :
    loopEnd pc (e :: r) = loopEnd pc r := by
  simp [loopEnd, h, Nat.not_lt.mpr ht]

/-- Settles O11: a register write and the control transfers stay at the sequencer. -/
theorem scalarFrames : Obligations.ScalarFrames := by
  refine ⟨?_, ?_, fun pc e r => ⟨loopEnd_of_no_loop pc, loopEnd_of_inside r, loopEnd_again r, loopEnd_popped r⟩⟩
  · intro k c i rd v hq hi x y
    obtain ⟨hy, hne, hb, hk⟩ := Chip.scalarDone_local_frame (a := .write rd v) hq rfl i
    have hw := hy.trans (Cluster.scalarDid_write x i rd v hi)
    have hpc : y.pc = (loopEnd x.pc x.loops).1 := congrArg Cluster.pc hw
    have hloops : y.loops = (loopEnd x.pc x.loops).2 := congrArg Cluster.loops hw
    refine ⟨fun r => ?_, hpc, hloops, fun h0 => ?_, ?_, hne, hb, hk⟩
    · exact (congrArg (Cluster.reg · r) hw).trans (Cluster.reg_setReg x rd r v)
    · rw [hpc, hloops, h0]; exact ⟨rfl, rfl⟩
    · rw [show y = _ from hw, Cluster.setReg_eq]
  · intro k c i t l e n hq x y
    have frame (a : SAct) (ha : a.isLocal = true) := Chip.scalarDone_local_frame hq ha i
    have did (a : SAct) (ha : a.isLocal = true) : y a = x.scalarDid i a := (frame a ha).1
    have hj := (did (.jump t l) rfl).trans (Cluster.scalarDid_jump x i t l)
    refine ⟨congrArg Cluster.pc hj, ?_, fun r => ?_, ?_⟩
    · rw [hj]; simp [keepActive]
    · exact (congrArg (Cluster.reg · r) hj).trans (Cluster.reg_wroteReg_jump x t l r)
    · rw [did .none rfl, did (.push e) rfl, did (.pass t) rfl, did (.leave n t) rfl]
      refine ⟨rfl, rfl, rfl, rfl, rfl, rfl, rfl, rfl, rfl, rfl, rfl, rfl, fun a ha => ?_⟩
      have hla : a.isLocal = true := by
        rcases ha with rfl | rfl | rfl | rfl | rfl <;> rfl
      obtain ⟨hy, hne, hb, hk⟩ := frame a hla
      exact ⟨by rw [did a hla]; exact Cluster.scalarDid_frame x i a, hne, hb, hk⟩

end Sys2Proof.Machine
end

section
/-! PROOFS. `LDL` and `STL` at a sequencer with nothing outstanding (R133, R272, R273). -/

namespace Sys2Proof.Machine

section Congruence

variable {k l : Chip} {c : Nat}

theorem Chip.inOwnStore_congr (h : k.fabric = l.fabric) (pa : Nat) : k.inOwnStore c pa = l.inOwnStore c pa := by
  unfold Chip.inOwnStore Chip.isOwn
  rw [h]

/-- What a cluster finds of its store depends on the memory and on the bytes that it has not seen yet. -/
theorem Chip.ownByte_congr (hm : k.mem = l.mem) (hd : (k.cluster c).dim = (l.cluster c).dim) (a : Nat) :
    k.ownByte c a = l.ownByte c a := by
  unfold Chip.ownByte Chip.byte
  rw [hm, hd]

theorem Chip.ownBytes_congr (hm : k.mem = l.mem) (hd : (k.cluster c).dim = (l.cluster c).dim) (la n : Nat) :
    k.ownBytes c la n = l.ownBytes c la n := by
  unfold Chip.ownBytes
  simp only [Chip.ownByte_congr hm hd]

theorem Cluster.reg_congr {x y : Cluster} (h : x.regs = y.regs) (r : SReg) : x.reg r = y.reg r := by
  unfold Cluster.reg
  rw [h]

theorem Chip.poisoned_congr (h : k.poison = l.poison) (line : Nat) : k.poisoned line = l.poisoned line := by
  unfold Chip.poisoned
  rw [h]

end Congruence

theorem Cluster.amoOut_of_quiet {x : Cluster} (h : x.quiet = true) : x.amoOut = false := by
  unfold Cluster.amoOut
  rw [Cluster.loads_of_quiet h]
  rfl

section Own

variable {k : Chip} {c : Nat} {i : Scalar} {pa o : Nat} (hq : (k.cluster c).quiet = true) (hc : (k.cluster c).claims = [])
  (hin : k.inOwnStore c pa = true)
include hq hc hin

/-- R133: a load of the own store with nothing outstanding and no claim is performed in the step that issues it. -/
theorem Chip.scalarDone_ownLoad {rd : SReg} {va : U64} (hp : k.poisoned (lineOf (paLocal (k.placeOf c 0 (some o) pa))) = false) :
    ∃ y : Cluster, y.regs = (k.cluster c).regs ∧
      k.scalarDone c i (.access (.load true) rd va pa 8 false 0 (some o)) = k.updCluster c (fun _ => y.setReg rd
        (BitVec.ofNat 64 (ofBytes (k.ownBytes c (paLocal (k.placeOf c 0 (some o) pa)) 8)))) := by
  obtain ⟨y, a, he, hl, rfl, rfl, hz, hk, -, hs, ho, -, hst, hcl, hmv, hzn, hrg, hdim⟩ :=
    Chip.scalarDone_access (i := i) (kind := .load true) (rd := rd) (va := va) (pa := pa) (size := 8) (cached := false)
      (space := 0) (claim := some o) hq
  have hy : (k.updCluster c (fun _ => y)).cluster c = y := Chip.cluster_upd_self k c _
  have hplace : (k.updCluster c (fun _ => y)).placeOf c a.space a.claim a.pa = k.placeOf c 0 (some o) a.pa := by
    rw [hs, ho]; exact Chip.placeOf_congr (k := k.updCluster c (fun _ => y)) (l := k) (by rw [hy, hzn]) rfl _ _ _
  have hb : (k.updCluster c (fun _ => y)).ownBytes c (paLocal (k.placeOf c 0 (some o) a.pa)) 8 =
      k.ownBytes c (paLocal (k.placeOf c 0 (some o) a.pa)) 8 := Chip.ownBytes_congr (k := k.updCluster c (fun _ => y)) (l := k) rfl (by rw [hy, hdim]) _ _
  have hdrain := Chip.drainAll_ownLoad (k := k.updCluster c (fun _ => y)) (c := c) (a := a) (by rw [hy, hl]) (by rw [hy, hst]) hk hz
    ((Chip.inOwnStore_congr rfl a.pa).trans hin) (by rw [hy, hcl, hc]) (by rw [hplace]; exact (Chip.poisoned_congr rfl _).trans hp)
  rw [hplace, hb, Chip.updCluster_upd] at hdrain
  refine ⟨{ y with loads := [] }, hrg, ?_⟩
  rw [he, hdrain]
  refine Chip.dropOffPath_of_none ?_
  rw [Chip.cluster_upd_self, Cluster.setReg_eq]
  exact Cluster.any_speculative_congr hmv (Cluster.any_speculative_of_quiet hq)

/-- R133: a store to the own store with nothing outstanding and no claim is written in the step that issues it. -/
theorem Chip.scalarDone_ownStore {data : Bytes} :
    ∃ y : Cluster, y.regs = (k.cluster c).regs ∧
      k.scalarDone c i (.store pa data false 0 (some o)) = (((k.updCluster c (fun _ => y)).writeMem (paLocal (k.placeOf c 0 (some o) pa))
        data false).ownWritten c (paLocal (k.placeOf c 0 (some o) pa)) data.length).updCluster c (fun y => { y with stores := [] }) := by
  obtain ⟨hord, hown⟩ := Chip.ordered_of_inOwnStore hin
  obtain ⟨y, a, he, hst, rfl, rfl, -, hs, ho, hsent, -, hl, hcl, hsp, hzn, hrg, hdim⟩ :=
    Chip.scalarDone_store (i := i) (pa := pa) (data := data) (space := 0) (claim := some o) hq hown hord
  have hy : (k.updCluster c (fun _ => y)).cluster c = y := Chip.cluster_upd_self k c _
  have hplace : (k.updCluster c (fun _ => y)).placeOf c a.space a.claim a.pa = k.placeOf c 0 (some o) a.pa := by
    rw [hs, ho]; exact Chip.placeOf_congr (k := k.updCluster c (fun _ => y)) (l := k) (by rw [hy, hzn]) rfl _ _ _
  have hdrain := Chip.drainAll_ownStore (k := k.updCluster c (fun _ => y)) (c := c) (a := a) (by rw [hy, hl]) (by rw [hy, hst]) hsent
    ((Chip.inOwnStore_congr rfl a.pa).trans hin) (by rw [hy, hcl, hc])
  rw [hplace] at hdrain
  refine ⟨y, hrg, ?_⟩
  rw [he, hdrain]
  refine Chip.dropOffPath_ownWritten ?_
  rw [Chip.writeMem_eq]
  exact (congrArg (fun z : Cluster => ([0, 1] : List Nat).any (fun m => (z.mover m).cmds.any (·.speculative))) hy).trans hsp

end Own

/-- Settles O16: the access is performed in its own step. -/
theorem ownStoreAccess : Obligations.OwnStoreAccess := by
  intro s c r rs1 imm x o la hq hc hf hin
  have ha := Cluster.amoOut_of_quiet hq
  refine ⟨fun h hp => ?_, fun h => ?_⟩
  · obtain ⟨y, hrg, hd⟩ := Chip.scalarDone_ownLoad (i := .ldl r rs1 imm) (rd := r) (va := o) hq hc hin hp
    refine ⟨_, (State.scalarSlot_of_ready rfl h (Chip.scalarX_ldl ha hf)).trans (congrArg s.goes hd), fun i => ?_, fun a => ?_, rfl, fun d hd => ?_⟩
    · change ((s.chip.updCluster c _).cluster c).reg i = _
      rw [Chip.cluster_upd_self, Cluster.reg_setReg]
      unfold Cluster.reg
      rw [hrg]
    · exact Chip.byte_updCluster _ _ _ a
    · exact Chip.cluster_upd_ne _ _ hd
  · obtain ⟨y, hrg, hd⟩ := Chip.scalarDone_ownStore (i := .stl r rs1 imm) (data := toBytes 8 (x.reg r).toNat) hq hc hin
    have h' : ScalarReady s c (Scalar.stl r rs1 imm).reads := h.of_subset (by simp [Scalar.reads])
    rw [toBytes_length] at hd
    obtain ⟨j, hj⟩ : ∃ j, ((s.chip.updCluster c (fun _ => y)).writeMem la (toBytes 8 (x.reg r).toNat) false).ownWritten c la 8 = j := ⟨_, rfl⟩
    have hbyte (a : Nat) : j.byte a =
        if la ≤ a ∧ a < la + 8 then BitVec.ofNat 8 ((x.reg r).toNat / 256 ^ (a - la)) else s.chip.byte a := by
      rw [← hj, Chip.byte_ownWritten, Chip.byte_writeNat, Chip.byte_updCluster]
    have hcl (d : Nat) : (Chip.writeMem (s.chip.updCluster c (fun _ => y)) la (toBytes 8 (x.reg r).toNat) false).cluster d =
        (s.chip.updCluster c (fun _ => y)).cluster d := by rw [Chip.writeMem_eq]; rfl
    have hown (a : Nat) (hr : la ≤ a ∧ a < la + 8) : j.ownByte c a = j.byte a := by
      rw [← hj, Chip.ownByte_ownWritten _ hr, Chip.byte_ownWritten]
    have hregs : (j.cluster c).regs = x.regs := by
      rw [← hj, Chip.ownWritten_regs, hcl, Chip.cluster_upd_self, hrg]
    have hne (d : Nat) (hd : d ≠ c) : j.cluster d = s.chip.cluster d := by
      rw [← hj, Chip.ownWritten_ne _ _ _ hd, hcl, Chip.cluster_upd_ne _ _ hd]
    have hdim' : ((j.updCluster c (fun y => { y with stores := [] })).cluster c).dim = (j.cluster c).dim := by rw [Chip.cluster_upd_self]
    have hregs' : ((j.updCluster c (fun y => { y with stores := [] })).cluster c).regs = (j.cluster c).regs := by rw [Chip.cluster_upd_self]
    rw [hj] at hd
    refine ⟨_, (State.scalarSlot_of_ready rfl h' (Chip.scalarX_stl ha hf)).trans (congrArg s.goes hd), hbyte,
      fun a hr => (Chip.ownByte_congr (k := j.updCluster c _) (l := j) rfl hdim' a).trans (hown a hr), fun i => ?_,
      fun d hd => (Chip.cluster_upd_ne _ _ hd).trans (hne d hd)⟩
    exact Cluster.reg_congr (hregs'.trans hregs) i

end Sys2Proof.Machine
end

section
/-! PROOFS. The line-cache group: what stage X answers, and what an operation does to its line (R136, R358-R362). -/

namespace Sys2Proof.Machine

/-! ## Stage X -/

section StageX

variable {k k1 : Chip} {c : Nat} {op : LcOp} {rd : SReg} {v : U64}

/-- R136: a way form names one of 48 ways. -/
theorem Chip.lcX_way_illegal (hop : op = .cleanw ∨ op = .invalw ∨ op = .flushw) (hw : 47 < v.toNat % 64) :
    k.lcX c op rd v = (k, .fault ftIllegal none) := by
  rcases hop with rfl | rfl | rfl <;> simp [Chip.lcX, bitsOf, hw]

section Way

variable (hop : op = .cleanw ∨ op = .invalw ∨ op = .flushw) (hw : v.toNat % 64 ≤ 47)
  (hs : k.storesVisible c (k.cluster c).nextNo .cluster = true)
include hop hw hs

theorem Chip.lcX_way_empty (he : (tblGet CLine.none (k.cluster c).lcache (v.toNat % 64)).st = .i) :
    k.lcX c op rd v = (k, .act (.lc op rd none)) := by
  rcases hop with rfl | rfl | rfl <;> simp [Chip.lcX, bitsOf, Nat.not_lt.mpr hw, hs, he]

theorem Chip.lcX_way_line (he : (tblGet CLine.none (k.cluster c).lcache (v.toNat % 64)).st ≠ .i) :
    k.lcX c op rd v = (k, k.lcOnLine c op rd (tblGet CLine.none (k.cluster c).lcache (v.toNat % 64)).line) := by
  rcases hop with rfl | rfl | rfl <;> simp [Chip.lcX, bitsOf, Nat.not_lt.mpr hw, hs, he]

end Way

/-- R358: an operation on a line that is in no transient state takes effect; one that may send a message needs a transaction. -/
theorem Chip.lcOnLine_act {line : Nat} (ht : (k.cline (64 + c) line).st.transient = false)
    (hp : op ≠ .lock → op ≠ .unlock → (k.cluster c).lcPending < 16) : k.lcOnLine c op rd line = .act (.lc op rd (some line)) := by
  have hroom : ¬ ((op ≠ .lock ∧ op ≠ .unlock) ∧ 16 ≤ (k.cluster c).lcPending) := fun h => absurd (hp h.1.1 h.1.2) (Nat.not_lt.mpr h.2)
  simp only [Chip.lcOnLine, ht, Bool.false_or, Bool.and_eq_true, decide_eq_true_eq, if_neg hroom]

section Address

variable {e : RangeEnt} (hop : ¬ (op = .cleanw ∨ op = .invalw ∨ op = .flushw)) (hx : k.lcTranslate c v op = (k1, .ok e))
include hop hx

/-- R136: an address form acts on nothing that is not cacheable memory of this module. -/
theorem Chip.lcX_addr_other (hown : (k1.isOwn (e.phys v) && cacheable (paLocal (e.phys v))) = false) :
    k.lcX c op rd v = (k1, .act (.lc op rd none)) := by
  simp only [not_or] at hop
  simp [Chip.lcX, hop, hx, hown]

theorem Chip.lcX_addr_line (hlock : op ≠ .lock) (hown : (k1.isOwn (e.phys v) && cacheable (paLocal (e.phys v))) = true)
    (hs : k1.storesVisible c (k1.cluster c).nextNo .cluster = true) :
    k.lcX c op rd v = (k1, k1.lcOnLine c op rd (lineOf (paLocal (e.phys v)))) := by
  simp only [not_or] at hop
  simp [Chip.lcX, hop, hx, hown, hlock, hs]

end Address

section Lock

variable {e : RangeEnt} (hx : k.lcTranslate c v .lock = (k1, .ok e))
  (hown : (k1.isOwn (e.phys v) && cacheable (paLocal (e.phys v))) = true) (hpop : k1.populated (paLocal (e.phys v)) = true)
  (hs : k1.storesVisible c (k1.cluster c).nextNo .cluster = true)
include hx hown hpop hs

/-- R360: `LC.LOCK` of a line of this module, by whether it has arrived, is held and may be locked. -/
theorem Chip.lcX_lock_arrived (hr : (k1.cluster c).lockRead = some (lineOf (paLocal (e.phys v)), true)) :
    k.lcX c .lock rd v = (k1, .act (.write rd 1)) := by
  simp [Chip.lcX, hx, hown, hpop, hs, hr]

theorem Chip.lcX_lock_full (hr : (k1.cluster c).lockRead ≠ some (lineOf (paLocal (e.phys v)), true))
    (hl : (k1.cline (64 + c) (lineOf (paLocal (e.phys v)))).locked = false)
    (hn : 32 ≤ ((k1.cluster c).lcache.filter (fun e => e.2.locked)).length) :
    k.lcX c .lock rd v = (k1, .act (.write rd 0)) := by
  simp [Chip.lcX, hx, hown, hpop, hs, hr, hl, hn]

theorem Chip.lcX_lock_held (hr : (k1.cluster c).lockRead ≠ some (lineOf (paLocal (e.phys v)), true))
    (hread : (k1.cline (64 + c) (lineOf (paLocal (e.phys v)))).st.readable = true)
    (ht : (k1.cline (64 + c) (lineOf (paLocal (e.phys v)))).st.transient = false)
    (hl : (k1.cline (64 + c) (lineOf (paLocal (e.phys v)))).locked = true ∨
      ((k1.cluster c).lcache.filter (fun e => e.2.locked)).length < 32) :
    k.lcX c .lock rd v = (k1, .act (.lc .lock rd (some (lineOf (paLocal (e.phys v)))))) := by
  have hon : k1.lcOnLine c .lock rd (lineOf (paLocal (e.phys v))) = .act (.lc .lock rd (some (lineOf (paLocal (e.phys v))))) :=
    Chip.lcOnLine_act ht (fun h => absurd rfl h)
  rcases hl with hl | hl
  · simp [Chip.lcX, hx, hown, hpop, hs, hr, hl, hread]
  · have hn : ¬ 32 ≤ ((k1.cluster c).lcache.filter (fun e => e.2.locked)).length := Nat.not_le.mpr hl
    simp [Chip.lcX, hx, hown, hpop, hs, hr, hn, hread, hon]

end Lock

end StageX

/-- An instruction of the group in stage X: it ends streaming. -/
theorem Chip.scalarX_lc (k : Chip) (c : Nat) (pc : U64) (op : LcOp) (rd rs1 : SReg) :
    k.scalarX c pc (.lc op rd rs1) = (k.updCluster c (·.endStream)).lcX c op rd ((k.cluster c).reg rs1) := rfl

/-! ## The effect on a line -/

/-- R361, R362: a put goes to the home of its line and holds issue. -/
theorem Chip.lcPut_sends {k : Chip} {c line : Nat} (rd : SReg) (kind : CohKind) (st : CState) (keep revert : Bool)
    (h : k.severed (64 + c) (k.homeOf line) = false) :
    ∃ m, (k.lcPut c line rd kind st keep revert).net = k.net ++ [m] ∧ m.kind = kind ∧ m.line = line ∧ m.src = 64 + c ∧
      m.dst = k.homeOf line ∧
      (kind = .putM → m.keep = keep ∧ m.data = (k.cline (64 + c) line).data ∧ m.poison = (k.cline (64 + c) line).poison) ∧
      ((k.lcPut c line rd kind st keep revert).cluster c).lcHold = some { line := line, rd := rd } := by
  have sent (k1 : Chip) (m : CohMsg) (hm : k1.severed m.src m.dst = false) :
      ((k1.send m).updCluster c (fun x => { x with lcHold := some { line := line, rd := rd } })).net = k1.net ++ [m] := by
    rw [Chip.send_of_reached hm]; rfl
  by_cases hk : kind = .putM
  · simp only [Chip.lcPut, hk, if_true]
    refine ⟨_, (sent _ _ ((Chip.severed_updLine _ _ _ _ _ _).trans h)).trans (by rw [Chip.updLine_net]), rfl, rfl, rfl, rfl,
      fun _ => ⟨rfl, rfl, rfl⟩, ?_⟩
    rw [Chip.cluster_upd_self]
  · simp only [Chip.lcPut, hk, if_false]
    refine ⟨_, (sent _ _ ((Chip.severed_updLine _ _ _ _ _ _).trans h)).trans (by rw [Chip.updLine_net]), rfl, rfl, rfl, rfl,
      fun g => absurd g id, ?_⟩
    rw [Chip.cluster_upd_self]

section Act

variable {k : Chip} {c line : Nat} (rd : SReg)

/-- R361: what an invalidate does by the state of its line. -/
theorem Chip.lcAct_inval {op : LcOp} (hop : op = .inval ∨ op = .invalw) : k.lcAct c op rd line =
    match (k.cline (64 + c) line).st with
    | .m => k.lcPut c line rd .putE .eiA false true
    | .e => k.lcPut c line rd .putE .eiA false false
    | .f => k.lcPut c line rd .putF .fiA false false
    | .s => k.lcPut c line rd .putS .siA false false
    | _ => k := by
  rcases hop with rfl | rfl <;> rfl

/-- R361: what a flush does by the state of its line. -/
theorem Chip.lcAct_flush {op : LcOp} (hop : op = .flush ∨ op = .flushw) : k.lcAct c op rd line =
    match (k.cline (64 + c) line).st with
    | .m => k.lcPut c line rd .putM .miA false false
    | .e => k.lcPut c line rd .putE .eiA false false
    | .f => k.lcPut c line rd .putF .fiA false false
    | .s => k.lcPut c line rd .putS .siA false false
    | _ => k := by
  rcases hop with rfl | rfl <;> rfl

/-- R361: a clean writes a modified line home and keeps it. -/
theorem Chip.lcAct_clean {op : LcOp} (hop : op = .clean ∨ op = .cleanw) : k.lcAct c op rd line =
    if (k.cline (64 + c) line).st = .m then k.lcPut c line rd .putM .miA true false else k := by
  rcases hop with rfl | rfl <;> rfl

end Act

/-- Settles O17: stage X of each form, and the put or the lock of its line. -/
theorem lineCacheOperations : Obligations.LineCacheOperations := by
  refine ⟨?_, ?_⟩
  · intro s c rd rs1 k v w entry ends ready wayRow addrRow h
    have hk : k.cluster c = (s.chip.cluster c).endStream := Chip.cluster_upd_self _ _ _
    have acts {op : LcOp} {k1 : Chip} {a : SAct} (hx : k.lcX c op rd v = (k1, .act a)) (hroom : k1.roomFor c Ready.none = true) :
        s.scalarSlot c (.lc op rd rs1) = ends op k1 a :=
      State.scalarSlot_of_placed rfl h ((Chip.scalarX_lc _ _ _ _ _ _).trans hx) hroom
    have hentry : tblGet CLine.none (k.cluster c).lcache w = entry := by rw [hk]; rfl
    have way (op : LcOp) (hop : op = .cleanw ∨ op = .invalw ∨ op = .flushw) (i : Instr)
        (hi : exec i s = s.scalarSlot c (.lc op rd rs1)) : wayRow i op := by
      refine ⟨fun hw => ?_, fun hw hr he => ?_, fun hw hr he ht hp => ?_⟩
      · exact hi.trans (State.scalarSlot_fault rfl h ((Chip.scalarX_lc _ _ _ _ _ _).trans (Chip.lcX_way_illegal hop hw)))
      · exact hi.trans (acts (Chip.lcX_way_empty hop hw hr.2 (hentry ▸ he)) hr.1)
      · have hx := Chip.lcX_way_line (rd := rd) hop hw hr.2 (hentry ▸ he)
        rw [show tblGet CLine.none (k.cluster c).lcache (v.toNat % 64) = entry from hentry,
          Chip.lcOnLine_act ht (fun _ _ => hp)] at hx
        exact hi.trans (acts hx hr.1)
    have addr (op : LcOp) (hop : ¬ (op = .cleanw ∨ op = .invalw ∨ op = .flushw)) (hlock : op ≠ .lock) (i : Instr)
        (hi : exec i s = s.scalarSlot c (.lc op rd rs1)) : addrRow i op := by
      intro k1 e hx
      refine ⟨fun hown hroom => ?_, fun hown hr ht hp => ?_⟩
      · exact hi.trans (acts (Chip.lcX_addr_other hop hx hown) hroom)
      · have hl := Chip.lcX_addr_line (rd := rd) hop hx hlock hown hr.2
        rw [Chip.lcOnLine_act ht (fun _ => hp)] at hl
        exact hi.trans (acts hl hr.1)
    refine ⟨way .cleanw (by simp) _ rfl, way .invalw (by simp) _ rfl, way .flushw (by simp) _ rfl,
      addr .clean (by simp) (by simp) _ rfl, addr .inval (by simp) (by simp) _ rfl, addr .flush (by simp) (by simp) _ rfl,
      addr .unlock (by simp) (by simp) _ rfl, fun k1 e hx => ⟨fun hown hroom => ?_, fun hown hpop hr hread ht hn hl => ?_,
        fun hown hpop hr hl hn hne => ?_, fun hown hpop hr ha => ?_⟩⟩
    · exact acts (Chip.lcX_addr_other (by simp) hx hown) hroom
    · exact acts (Chip.lcX_lock_held hx hown hpop hr.2 hn hread ht hl) hr.1
    · exact acts (Chip.lcX_lock_full hx hown hpop hr.2 hne hl hn) hr.1
    · exact acts (Chip.lcX_lock_arrived hx hown hpop hr.2 ha) hr.1
  · intro k c line rd e sends same h
    have put {op : LcOp} {kind : CohKind} {keep : Bool} (st : CState) (revert : Bool)
        (ha : k.lcAct c op rd line = k.lcPut c line rd kind st keep revert) : sends op kind keep := by
      obtain ⟨m, hm⟩ := Chip.lcPut_sends rd kind st keep revert h
      rw [← ha] at hm
      exact ⟨m, hm⟩
    have at' {st : CState} (he : e.st = st) : (k.cline (64 + c) line).st = st := he
    refine ⟨fun op hop => ?_, fun op hop => ?_, fun op hop => ?_, rfl, rfl⟩
    · have ha := Chip.lcAct_clean (k := k) (c := c) (line := line) rd hop
      exact ⟨fun he => put .miA false (ha.trans (if_pos he)), fun he => ha.trans (if_neg he)⟩
    · have ha := Chip.lcAct_inval (k := k) (c := c) (line := line) rd hop
      exact ⟨fun he => put .eiA true (by rw [ha, at' he]), fun he => put .eiA false (by rw [ha, at' he]), fun he => put .fiA false (by rw [ha, at' he]),
        fun he => put .siA false (by rw [ha, at' he]), fun he => ha.trans (by rw [at' he])⟩
    · have ha := Chip.lcAct_flush (k := k) (c := c) (line := line) rd hop
      exact ⟨fun he => put .miA false (by rw [ha, at' he]), fun he => put .eiA false (by rw [ha, at' he]), fun he => put .fiA false (by rw [ha, at' he]),
        fun he => put .siA false (by rw [ha, at' he]), fun he => ha.trans (by rw [at' he])⟩

end Sys2Proof.Machine
end

section
/-! PROOFS. The sync operations: their issue, and what they leave at their sequencer (R159, R286-R299, R319). -/

namespace Sys2Proof.Machine

/-! ## Issue -/

/-- R159: what a sync operation takes of the buffers and gates of its cluster. -/
def Cluster.syncRoom (x : Cluster) (wh : Bool) : SyncOp → Prop
  | .add _ _ _ | .set _ _ _ | .reset _ _ => x.haspBuf.length < 16
  | .wait _ _ _ => wh = true ∨ (x.waits.filter (·.gate)).length < 4
  | _ => True

/-- A sequencer with room for a bundle without engine slots has room for a sync operation whose entry is free. -/
theorem Cluster.fits_sync {x : Cluster} {wh : Bool} {op : SyncOp} (h : x.hasRoom Ready.none false = true) (hr : x.syncRoom wh op) :
    x.fits [] none (some op) wh = true := by
  have hc : x.claims.length ≤ 64 := by simpa [Cluster.hasRoom, Cluster.fits, Ready.none] using h
  cases op <;> simpa [Cluster.fits, Cluster.syncRoom, hc] using hr

section Issue

variable {s : State} {c : Nat} {op : SyncOp} {wh : Bool}

theorem sync_reads : (sfuBundle (.sync op) wh).reads true = op.reads := by
  simp [Bundle256.reads, sfuBundle, nopBundle, Scalar.reads, Sfu.reads]

variable (hl : (sfuBundle (.sync op) wh).legal = true) (h : ScalarReady s c op.reads) (hr : (s.chip.cluster c).syncRoom wh op)
  (hw : s.chip.holdWh c (sfuBundle (.sync op) wh) true = (s.chip, true))
include hl h hr hw

/-- A bundle with nothing but a sync operation that passes its checks takes effect. -/
theorem State.syncSlot_of_ready {o : SyncReady} (ho : o.op = op)
    (hs : s.chip.prepSync c true wh (some (.sync op)) = .ok ([], some o)) :
    s.syncSlot c op wh = s.goes (s.chip.slotDone c (sfuBundle (.sync op) wh) .none { preps := [], mov := none, sync := some o }) := by
  have hfit := Cluster.fits_sync (wh := wh) (op := op) h.2 hr
  have hall : s.chip.prepAll c (sfuBundle (.sync op) wh) true = (s.chip, .ok { preps := [], mov := none, sync := some o }) := by
    simp only [Chip.prepAll, prepSlot, Chip.prepMover, sfuBundle, nopBundle, hs, List.append_nil]
  exact congrArg s.goes (Chip.issueSlot_engine hl rfl rfl rfl (sync_reads (op := op) (wh := wh) ▸ h.1) hw hfit hall
    (by subst ho; exact hfit))

/-- A bundle with nothing but a sync operation whose reference is refused takes its fault. -/
theorem State.syncSlot_fault {code : Nat} (hs : s.chip.prepSync c true wh (some (.sync op)) = .fault code) :
    s.syncSlot c op wh = s.goes (s.chip.seqFault c code (s.chip.cluster c).pc none) := by
  have hfit := Cluster.fits_sync (wh := wh) (op := op) h.2 hr
  have hall : s.chip.prepAll c (sfuBundle (.sync op) wh) true = (s.chip, .fault code) := by
    simp only [Chip.prepAll, prepSlot, Chip.prepMover, sfuBundle, nopBundle, hs]
  exact congrArg s.goes (Chip.issueSlot_engine_fault hl rfl rfl rfl (sync_reads (op := op) (wh := wh) ▸ h.1) hw hfit hall)

end Issue

section Wh

variable {k : Chip} {c : Nat} {rh rv : SReg} {sc : Scope}

/-- R124: a bundle with `WH` goes on where its wait has ended or the hasp has reached its value. -/
theorem Chip.holdWh_ended (h : (k.cluster c).whEnded = true) :
    k.holdWh c (sfuBundle (.sync (.wait rh rv sc)) true) true = (k, true) := by
  simp only [Chip.holdWh, sfuBundle, Bool.true_and, h, Bool.true_or, if_true]
  split <;> rfl

variable {d : Option (BitVec 6)} {hasp : BitVec 14} (href : k.haspRef c ((k.cluster c).reg rh) true false = .ok (d, hasp))
include href

theorem Chip.holdWh_met (hm : k.haspMet c hasp ((k.cluster c).reg rv) = true) :
    k.holdWh c (sfuBundle (.sync (.wait rh rv sc)) true) true = (k, true) := by
  simp [Chip.holdWh, sfuBundle, href, hm]

/-- R293: otherwise the wait is registered and the bundle stands. -/
theorem Chip.holdWh_held (he : (k.cluster c).whEnded = false) (hm : k.haspMet c hasp ((k.cluster c).reg rv) = false) :
    k.holdWh c (sfuBundle (.sync (.wait rh rv sc)) true) true = ((k.updCluster c (fun x =>
      x.endStream.addWait false hasp (x.reg rv) sc ((x.reg rh).extractLsb' 24 4))).drainAll c, false) := by
  simp [Chip.holdWh, sfuBundle, href, hm, he]

end Wh

/-! ## The effect -/

/-- The end of streaming changes neither the hasps nor what waits for them. -/
theorem Chip.haspMet_endStream (k : Chip) (c : Nat) (h : BitVec 14) (v : U64) :
    (k.updCluster c (·.endStream)).haspMet c h v = k.haspMet c h v := by
  unfold Chip.haspMet Chip.haspBehind Chip.haspOps Chip.hspStores
  rw [Chip.cluster_upd_self]
  rfl

/-- A sync operation changes its own cluster alone, and none of its registers. -/
theorem Chip.syncEffect_updCluster (k : Chip) (c no : Nat) (wh : Bool) (o : SyncReady) :
    ∃ f : Cluster → Cluster, k.syncEffect c no wh o = k.updCluster c f ∧ ∀ x, (f x).regs = x.regs := by
  unfold Chip.syncEffect
  split
  case h_4 =>
    dsimp only
    split
    · exact ⟨_, rfl, fun _ => rfl⟩
    · exact ⟨_, Chip.updCluster_upd _ _ _ _, fun _ => rfl⟩
  all_goals exact ⟨_, rfl, fun _ => rfl⟩

/-- Settles O18: each operation passes its checks or faults, and enters its buffer, its gate or its fence. -/
theorem syncOperations : Obligations.SyncOperations := by
  refine ⟨?_, ?_⟩
  · intro s c rh rv sc k x ends made fault room
    have noWh (op : SyncOp) : k.holdWh c (sfuBundle (.sync op) false) true = (k, true) := rfl
    have ok (op : SyncOp) (wh : Bool) := State.syncSlot_of_ready (s := s) (c := c) (op := op) (wh := wh)
    have bad (op : SyncOp) (wh : Bool) := State.syncSlot_fault (s := s) (c := c) (op := op) (wh := wh)
    refine ⟨fun h hr => ⟨fun d hasp href => ?_, fun d hasp href => ?_, fun code href => ?_, fun code href => ?_⟩,
      fun h hr => ⟨fun d hasp href => ?_, fun code href => ?_⟩,
      fun h => ⟨fun he => ?_, fun d hasp href => ⟨fun hg => ?_, fun he hm => ?_, fun he hm => ?_⟩, fun code href hg => ?_⟩, fun h => ?_⟩
    · exact ok (.add rh rv sc) false rfl h hr (noWh _) rfl (by simp only [Chip.prepSync]; rw [href])
    · exact ok (.set rh rv sc) false rfl h hr (noWh _) rfl (by simp only [Chip.prepSync]; rw [href])
    · exact bad (.add rh rv sc) false rfl h hr (noWh _) (by simp only [Chip.prepSync]; rw [href])
    · exact bad (.set rh rv sc) false rfl h hr (noWh _) (by simp only [Chip.prepSync]; rw [href])
    · exact ok (.reset rh sc) false rfl h hr (noWh _) rfl (by simp only [Chip.prepSync]; rw [href]; rfl)
    · exact bad (.reset rh sc) false rfl h hr (noWh _) (by simp only [Chip.prepSync]; rw [href])
    · exact ok (.wait rh rv sc) true rfl h (.inl rfl) (Chip.holdWh_ended he) rfl
        (by simp only [Chip.prepSync, Bool.true_and]; rw [if_pos he])
    · exact ok (.wait rh rv sc) false rfl h (.inr hg) (noWh _) rfl
        (by simp only [Chip.prepSync, Bool.false_and, Bool.false_eq_true, if_false]; rw [href])
    · exact ok (.wait rh rv sc) true rfl h (.inl rfl) (Chip.holdWh_met href hm) rfl
        (by simp only [Chip.prepSync, Bool.true_and]; rw [if_neg (ne_true_of_eq_false he), href])
    · exact congrArg s.goes (Chip.issueSlot_held rfl rfl (sync_reads (op := .wait rh rv sc) (wh := true) ▸ h.1)
        (Chip.holdWh_held href he hm))
    · exact bad (.wait rh rv sc) false rfl h (.inr hg) (noWh _)
        (by simp only [Chip.prepSync, Bool.false_and, Bool.false_eq_true, if_false]; rw [href])
    · exact ⟨ok .fenceC false rfl h trivial (noWh _) rfl rfl, ok .fenceP false rfl h trivial (noWh _) rfl rfl,
        ok .fenceS false rfl h trivial (noWh _) rfl rfl⟩
  · intro k c no o rh rv sc x y entry
    have self {f : Cluster → Cluster} : (k.updCluster c f).cluster c = f x := Chip.cluster_upd_self _ _ _
    refine ⟨congrArg Cluster.haspBuf self, congrArg Cluster.haspBuf self, congrArg Cluster.haspBuf self,
      congrArg Cluster.fence self, congrArg Cluster.fence self, congrArg Cluster.fence self, fun hm => ?_, fun hm => ?_, fun op wh => ?_⟩
    · have he : k.syncEffect c no false { o with op := .wait rh rv sc } = k.updCluster c (·.endStream) := by
        simp [Chip.syncEffect, Chip.haspMet_endStream, hm]
      show ((k.syncEffect c no false { o with op := .wait rh rv sc }).cluster c).waits = _
      rw [he, Chip.cluster_upd_self]
      rfl
    · have he : k.syncEffect c no false { o with op := .wait rh rv sc } =
          k.updCluster c (fun x => x.endStream.addWait true o.hasp o.v sc o.tmo) := by
        simp [Chip.syncEffect, Chip.haspMet_endStream, hm]
      exact (congrArg (fun j : Chip => (j.cluster c).waits) he).trans (congrArg Cluster.waits self)
    · obtain ⟨f, hf, hregs⟩ := Chip.syncEffect_updCluster k c no wh { o with op := op }
      refine ⟨by rw [hf]; rfl, by rw [hf]; rfl, fun r => ?_, fun d hd => ?_⟩
      · refine Cluster.reg_congr ?_ r
        show ((k.syncEffect c no wh { o with op := op }).cluster c).regs = _
        rw [hf, Chip.cluster_upd_self, hregs]
      · rw [hf, Chip.cluster_upd_ne _ _ hd]

end Sys2Proof.Machine
end

section
/-! PROOFS. Engine instructions: their issue (R81, R144-R162), and their completion where the engines are free (R85-R91). -/

namespace Sys2Proof.Machine

/-! ## What an instruction takes at issue -/

section Needs

variable {x : Cluster}

/-- The operation that a matrix slot makes ready is that of its operands. -/
theorem Cluster.prepMatrix_ok {m : Matrix} {p : Prep} (h : x.prepMatrix m = .ok p) : p = x.matrixPrep m := by
  unfold Cluster.prepMatrix at h
  cases m with
  | mma cx f =>
    dsimp only at h
    repeat' split at h
    all_goals cases h <;> rfl
  | zdrain f =>
    dsimp only at h
    repeat' split at h
    all_goals cases h <;> rfl
  | zload f =>
    dsimp only at h
    repeat' split at h
    all_goals cases h <;> rfl
  | mcfg f => exact (Except.ok.inj h).symm

theorem Cluster.prepVector_ok {op : VOp} {f : VecF} {p : Prep} (h : x.prepVector op f = .ok p) : p = x.vectorPrep op f := by
  unfold Cluster.prepVector at h
  dsimp only at h
  repeat' split at h
  all_goals cases h <;> rfl

/-- R88: a matrix slot takes the claims of its extents. -/
theorem slotNeeds_matrix (m : Matrix) : slotNeeds (matrixBundle m) = [((x.matrixPrep m).eng, (x.matrixPrep m).exts.length)] := by
  cases m with
  | mma cx f => by_cases h : mxScaled f.fmtA.toNat = true <;> simp [slotNeeds, matrixBundle, nopBundle, Cluster.matrixPrep, Cluster.mmaExts, h]
  | zdrain f => by_cases h : drainMx f.dfmt.toNat = true <;> simp [slotNeeds, matrixBundle, nopBundle, Cluster.matrixPrep, h]
  | zload f => rfl
  | mcfg f => rfl

theorem slotNeeds_vector (op : VOp) (f : VecF) :
    slotNeeds (vectorBundle op f) = [((x.vectorPrep op f).eng, (x.vectorPrep op f).exts.length)] := by
  by_cases h : op = .vld ∨ op = .vst <;> simp [slotNeeds, vectorBundle, nopBundle, Cluster.vectorPrep, memOp, h]

theorem slotNeeds_sfu {u : Sfu} {p : Prep} (h : x.prepSfu u = some (.ok p)) : slotNeeds (sfuBundle u false) = [(p.eng, p.exts.length)] := by
  cases u with
  | fn op f => simp only [Cluster.prepSfu, Option.some.injEq, Except.ok.injEq] at h; subst h; rfl
  | lutLd vs =>
    simp only [Cluster.prepSfu, Option.some.injEq] at h
    repeat' split at h
    all_goals cases h
    rfl
  | lutCommit => simp only [Cluster.prepSfu, Option.some.injEq, Except.ok.injEq] at h; subst h; rfl
  | sync op => cases h

end Needs

/-! ## Issue -/

section Issue

variable {k : Chip} {c : Nat} {b : Bundle256} (hl : b.legal = true) (hp : b.pred = 0) (hn : b.scalar = .nop) (hm : b.mover = none)
  (hy : syncOf b = none) (hw : b.wh = false) (hr : k.slotReady c (b.reads true) = true)
  (hf : (k.cluster c).fits (slotNeeds b) none none false = true)
include hl hp hn hm hy hw hr hf

/-- A bundle of one engine slot whose operands pass takes effect. -/
theorem Chip.issueSlot_prep {p : Prep} (hneeds : slotNeeds b = [(p.eng, p.exts.length)])
    (hs : k.prepAll c b true = (k, .ok { preps := [p], mov := none, sync := none })) :
    k.issueSlot c b = k.slotDone c b .none { preps := [p], mov := none, sync := none } := by
  refine Chip.issueSlot_engine hl hp hn hm hr (by simp [Chip.holdWh, hw]) (by rw [hy, hw]; exact hf) hs ?_
  rw [hneeds] at hf
  rw [hw]
  exact hf

/-- A bundle of one engine slot whose operands fail a check takes that fault. -/
theorem Chip.issueSlot_prep_fault {code : Nat} (hs : k.prepAll c b true = (k, .fault code)) :
    k.issueSlot c b = k.seqFault c code (k.cluster c).pc none :=
  Chip.issueSlot_engine_fault hl hp hn hm hr (by simp [Chip.holdWh, hw]) (by rw [hy, hw]; exact hf) hs

end Issue

section Rows

variable {s : State} {c : Nat} {p : Prep} {code : Nat}

theorem matrix_reads (m : Matrix) : (matrixBundle m).reads true = m.reads := by
  simp [Bundle256.reads, matrixBundle, nopBundle, Scalar.reads]

theorem vector_reads (op : VOp) (f : VecF) : (vectorBundle op f).reads true = [f.rs, f.rs2] := by
  simp [Bundle256.reads, vectorBundle, nopBundle, Scalar.reads]

theorem sfu_reads (u : Sfu) : (sfuBundle u false).reads true = u.reads := by
  simp [Bundle256.reads, sfuBundle, nopBundle, Scalar.reads]

section Matrix

variable {m : Matrix} (hr : s.chip.slotReady c m.reads = true) (hl : m.legal = true)
  (hf : (s.chip.cluster c).fits (slotNeeds (matrixBundle m)) none none false = true)
include hr hl hf

theorem State.matrixSlot_ok (hp : (s.chip.cluster c).prepMatrix m = .ok p) :
    s.matrixSlot c m = s.goes (s.chip.slotDone c (matrixBundle m) .none { preps := [p], mov := none, sync := none }) := by
  refine congrArg s.goes (Chip.issueSlot_prep ?_ rfl rfl rfl rfl rfl (matrix_reads m ▸ hr) hf ?_ ?_)
  · simp [Bundle256.legal, matrixBundle, nopBundle, Scalar.legal, hl]
  · rw [Cluster.prepMatrix_ok hp]; exact slotNeeds_matrix m
  · simp [Chip.prepAll, prepSlot, Chip.prepMover, Chip.prepSync, matrixBundle, nopBundle, hp]

theorem State.matrixSlot_fault (hp : (s.chip.cluster c).prepMatrix m = .error code) :
    s.matrixSlot c m = s.goes (s.chip.seqFault c code (s.chip.cluster c).pc none) := by
  refine congrArg s.goes (Chip.issueSlot_prep_fault ?_ rfl rfl rfl rfl rfl (matrix_reads m ▸ hr) hf ?_)
  · simp [Bundle256.legal, matrixBundle, nopBundle, Scalar.legal, hl]
  · simp [Chip.prepAll, prepSlot, matrixBundle, nopBundle, hp]

end Matrix

section Vector

variable {op : VOp} {f : VecF} (hr : s.chip.slotReady c [f.rs, f.rs2] = true) (hl : vecLegal op f = true)
  (hf : (s.chip.cluster c).fits (slotNeeds (vectorBundle op f)) none none false = true)
include hr hl hf

theorem State.vectorSlot_ok (hp : (s.chip.cluster c).prepVector op f = .ok p) :
    s.vectorSlot c op f = s.goes (s.chip.slotDone c (vectorBundle op f) .none { preps := [p], mov := none, sync := none }) := by
  refine congrArg s.goes (Chip.issueSlot_prep ?_ rfl rfl rfl rfl rfl (vector_reads op f ▸ hr) hf ?_ ?_)
  · simp [Bundle256.legal, vectorBundle, nopBundle, Scalar.legal, hl]
  · rw [Cluster.prepVector_ok hp]; exact slotNeeds_vector op f
  · simp [Chip.prepAll, prepSlot, Chip.prepMover, Chip.prepSync, vectorBundle, nopBundle, hp]

theorem State.vectorSlot_fault (hp : (s.chip.cluster c).prepVector op f = .error code) :
    s.vectorSlot c op f = s.goes (s.chip.seqFault c code (s.chip.cluster c).pc none) := by
  refine congrArg s.goes (Chip.issueSlot_prep_fault ?_ rfl rfl rfl rfl rfl (vector_reads op f ▸ hr) hf ?_)
  · simp [Bundle256.legal, vectorBundle, nopBundle, Scalar.legal, hl]
  · simp [Chip.prepAll, prepSlot, vectorBundle, nopBundle, hp]

end Vector

/-- An SFU function or table instruction at issue is what its operands make of it. -/
theorem Chip.prepSync_of_prep {k : Chip} {u : Sfu} {r : Except Nat Prep} (wh : Bool) (h : (k.cluster c).prepSfu u = some r) :
    syncOf (sfuBundle u wh) = none ∧ k.prepSync c true wh (some u) = match r with
      | .ok p => .ok ([p], none)
      | .error e => .fault e := by
  cases u with
  | sync op => cases h
  | fn op f | lutLd vs | lutCommit =>
    refine ⟨rfl, ?_⟩
    simp only [Chip.prepSync, h]
    cases r <;> rfl

section Sfu

variable {u : Sfu} (hr : s.chip.slotReady c u.reads = true) (hl : u.legal = true)
  (hf : (s.chip.cluster c).fits (slotNeeds (sfuBundle u false)) none none false = true)
include hr hl hf

theorem State.sfuSlot_ok (hp : (s.chip.cluster c).prepSfu u = some (.ok p)) :
    s.sfuSlot c u = s.goes (s.chip.slotDone c (sfuBundle u false) .none { preps := [p], mov := none, sync := none }) := by
  obtain ⟨hu, hs⟩ := Chip.prepSync_of_prep false hp
  refine congrArg s.goes (Chip.issueSlot_prep ?_ rfl rfl rfl hu rfl (sfu_reads u ▸ hr) hf (slotNeeds_sfu hp) ?_)
  · simp [Bundle256.legal, sfuBundle, nopBundle, Scalar.legal, hl]
  · simp [Chip.prepAll, prepSlot, Chip.prepMover, sfuBundle, nopBundle, hs]

theorem State.sfuSlot_fault (hp : (s.chip.cluster c).prepSfu u = some (.error code)) :
    s.sfuSlot c u = s.goes (s.chip.seqFault c code (s.chip.cluster c).pc none) := by
  obtain ⟨hu, hs⟩ := Chip.prepSync_of_prep false hp
  refine congrArg s.goes (Chip.issueSlot_prep_fault ?_ rfl rfl rfl hu rfl (sfu_reads u ▸ hr) hf ?_)
  · simp [Bundle256.legal, sfuBundle, nopBundle, Scalar.legal, hl]
  · simp [Chip.prepAll, prepSlot, Chip.prepMover, sfuBundle, nopBundle, hs]

end Sfu

end Rows

/-- Settles O19: each instruction is a bundle of its one slot. -/
theorem engineRows : Obligations.EngineRows := by
  refine ⟨?_, ?_, ?_⟩
  · intro s c mma mmac dr ld cfg k row
    have all (i : Instr) (m : Matrix) (hi : exec i s = s.matrixSlot c m) : row i m := fun hr hl hf =>
      ⟨fun p hp => hi.trans (State.matrixSlot_ok hr hl hf hp), fun code hp => hi.trans (State.matrixSlot_fault hr hl hf hp)⟩
    exact ⟨all _ _ rfl, all _ _ rfl, all _ _ rfl, all _ _ rfl, all _ _ rfl⟩
  · intro s c f k row
    have all (i : Instr) (op : VOp) (hi : exec i s = s.vectorSlot c op f) : row i op := fun hr hl hf =>
      ⟨fun p hp => hi.trans (State.vectorSlot_ok hr hl hf hp), fun code hp => hi.trans (State.vectorSlot_fault hr hl hf hp)⟩
    refine ⟨?_, ?_, ?_, ?_, ?_, ?_, ?_, ?_, ?_, ?_, ?_, ?_, ?_, ?_, ?_, ?_, ?_, ?_, ?_, ?_, ?_, ?_, ?_, ?_, ?_, ?_, ?_, ?_, ?_,
      ?_, ?_, ?_, ?_, ?_, ?_, ?_, ?_, ?_, ?_⟩ <;> exact all _ _ rfl
  · intro s c f vs k row
    have all (i : Instr) (u : Sfu) (hi : exec i s = s.sfuSlot c u) : row i u := fun hr hl hf =>
      ⟨fun p hp => hi.trans (State.sfuSlot_ok hr hl hf hp), fun code hp => hi.trans (State.sfuSlot_fault hr hl hf hp)⟩
    refine ⟨?_, ?_, ?_, ?_, ?_, ?_, ?_, ?_, ?_, ?_, ?_, ?_⟩ <;> exact all _ _ rfl

/-! ## Completion -/

/-- An engine operation, of at most four extents, finds its entries free where nothing is queued or claimed. -/
theorem Cluster.fits_of_free {x : Cluster} {e n : Nat} (h : x.enginesFree = true) (hn : n ≤ 64) :
    x.fits [(e, n)] none none false = true := by
  obtain ⟨-, hq, hc, -⟩ := Cluster.enginesFree_iff.mp h
  simp [Cluster.fits, hq, hc, hn]

theorem Cluster.errored_of_slotReady {k : Chip} {c : Nat} {rs : List SReg} (h : k.slotReady c rs = true) : (k.cluster c).errored = false := by
  simp only [Chip.slotReady, Cluster.canIssue, Bool.and_eq_true, Bool.not_eq_true'] at h
  obtain ⟨⟨-, ⟨⟨⟨⟨⟨-, he⟩, -⟩, -⟩, -⟩, -⟩⟩, -⟩ := h
  exact he

theorem Cluster.matrixPrep_exts (x : Cluster) (m : Matrix) : (x.matrixPrep m).exts.length ≤ 64 := by
  cases m with
  | mma cx f => by_cases h : mxScaled f.fmtA.toNat = true <;> simp [Cluster.matrixPrep, Cluster.mmaExts, h]
  | zdrain f => by_cases h : drainMx f.dfmt.toNat = true <;> simp [Cluster.matrixPrep, h]
  | zload f => simp [Cluster.matrixPrep]
  | mcfg f => simp [Cluster.matrixPrep]

theorem Cluster.vectorPrep_exts (x : Cluster) (op : VOp) (f : VecF) : (x.vectorPrep op f).exts.length ≤ 64 := by
  by_cases h : memOp op = true <;> simp [Cluster.vectorPrep, h]

section Free

variable {s : State} {c : Nat} (hf : (s.chip.cluster c).enginesFree = true)
include hf

theorem State.matrixSlot_free {m : Matrix} (hr : s.chip.slotReady c m.reads = true) (hl : m.legal = true)
    (ho : (s.chip.cluster c).matrixOk m = true) : s.matrixSlot c m = s.goes (s.chip.slotDone c (matrixBundle m) .none
      { preps := [(s.chip.cluster c).matrixPrep m], mov := none, sync := none }) :=
  State.matrixSlot_ok hr hl (slotNeeds_matrix (x := s.chip.cluster c) m ▸ Cluster.fits_of_free hf (Cluster.matrixPrep_exts _ m))
    (Cluster.prepMatrix_of_ok ho)

theorem State.vectorSlot_free {op : VOp} {f : VecF} (hr : s.chip.slotReady c [f.rs, f.rs2] = true) (hl : vecLegal op f = true)
    (ho : (s.chip.cluster c).vectorOk op f = true) : s.vectorSlot c op f = s.goes (s.chip.slotDone c (vectorBundle op f) .none
      { preps := [(s.chip.cluster c).vectorPrep op f], mov := none, sync := none }) :=
  State.vectorSlot_ok hr hl (slotNeeds_vector (x := s.chip.cluster c) op f ▸ Cluster.fits_of_free hf (Cluster.vectorPrep_exts _ op f))
    (Cluster.prepVector_of_ok ho)

theorem State.sfuSlot_free {u : Sfu} {p : Prep} (hr : s.chip.slotReady c u.reads = true) (hl : u.legal = true)
    (hn : p.exts.length ≤ 64) (ho : (s.chip.cluster c).prepSfu u = some (.ok p)) :
    s.sfuSlot c u = s.goes (s.chip.slotDone c (sfuBundle u false) .none { preps := [p], mov := none, sync := none }) :=
  State.sfuSlot_ok hr hl (slotNeeds_sfu ho ▸ Cluster.fits_of_free hf hn) ho

end Free

/-- Settles O20: each instruction passes issue, and its operation stands alone in its queue and runs to its end. -/
theorem engineCompletions : Obligations.EngineCompletions := by
  refine ⟨?_, ?_, ?_⟩
  · intro s c mma mmac dr ld cfg k x v done product u d
    have prod (i : Instr) (complex : Bool) (f : MmaF) (hi : exec i s = s.matrixSlot c (.mma complex f)) : product i complex f := by
      intro hf hr hl ho hp
      exact hi.trans ((State.matrixSlot_free hf hr hl ho).trans (congrArg s.goes
        (Chip.slotDone_mma rfl rfl hf (Cluster.errored_of_slotReady hr) rfl hp)))
    refine ⟨prod _ _ _ rfl, prod _ _ _ rfl, fun hd hf hr hl ho hp => ?_, fun hf hr hl ho hp => ?_, fun hf hr hl ho hp => ?_⟩
    · exact (State.matrixSlot_free hf hr hl ho).trans (congrArg s.goes
        (Chip.slotDone_drain rfl rfl hf (Cluster.errored_of_slotReady hr) rfl hd))
    · exact (State.matrixSlot_free hf hr hl ho).trans (congrArg s.goes
        (Chip.slotDone_zload rfl rfl hf (Cluster.errored_of_slotReady hr) rfl hp))
    · exact (State.matrixSlot_free hf hr hl ho).trans (congrArg s.goes
        (Chip.slotDone_mcfg rfl rfl hf (Cluster.errored_of_slotReady hr) rfl))
  · intro s c f k x rs ready row
    have all (i : Instr) (op : VOp) (hm : memOp op = false) (hi : exec i s = s.vectorSlot c op f) : row i op := by
      rintro ⟨hf, hr, hl⟩
      have ho : x.vectorOk op f = true := by simp [Cluster.vectorOk, hm]
      exact hi.trans ((State.vectorSlot_free hf hr hl ho).trans (congrArg s.goes
        (Chip.slotDone_vec rfl rfl hf (Cluster.errored_of_slotReady hr) hm rfl)))
    refine ⟨?_, ?_, ?_, ?_, ?_, ?_, ?_, ?_, ?_, ?_, ?_, ?_, ?_, ?_, ?_, ?_, ?_, ?_, ?_, ?_, ?_, ?_, ?_, ?_, ?_, ?_, ?_, ?_, ?_,
      ?_, ?_, ?_, ?_, ?_, ?_, ?_, ?_, ?_, ?_⟩
    case refine_38 =>
      rintro ⟨hf, hr, hl⟩ ho hp
      exact (State.vectorSlot_free hf hr hl ho).trans (congrArg s.goes
        (Chip.slotDone_vld rfl rfl hf (Cluster.errored_of_slotReady hr) rfl hp))
    case refine_39 =>
      rintro ⟨hf, hr, hl⟩ ho
      exact (State.vectorSlot_free hf hr hl ho).trans (congrArg s.goes
        (Chip.slotDone_vst rfl rfl hf (Cluster.errored_of_slotReady hr) rfl))
    all_goals exact all _ _ rfl rfl
  · intro s c f vs k x ready row
    have all (i : Instr) (op : SfuOp) (hi : exec i s = s.sfuSlot c (.fn op f)) : row i op := by
      rintro ⟨hf, hr, hl⟩
      exact hi.trans ((State.sfuSlot_free hf hr hl (Nat.zero_le _) rfl).trans (congrArg s.goes
        (Chip.slotDone_sfu rfl rfl hf (Cluster.errored_of_slotReady hr) rfl rfl)))
    refine ⟨?_, ?_, ?_, ?_, ?_, ?_, ?_, ?_, ?_, ?_, ?_, ?_⟩
    case refine_11 =>
      rintro ⟨hf, hr, hl⟩ ho hp
      exact (State.sfuSlot_free hf hr hl (by simp [Cluster.lutPrep]) (Cluster.prepLut_of_ok ho)).trans (congrArg s.goes
        (Chip.slotDone_lutLd rfl rfl hf (Cluster.errored_of_slotReady hr) rfl hp))
    case refine_12 =>
      rintro ⟨hf, hr, hl⟩
      exact (State.sfuSlot_free hf hr hl (Nat.zero_le _) rfl).trans (congrArg s.goes
        (Chip.slotDone_lutCommit rfl rfl hf (Cluster.errored_of_slotReady hr) rfl))
    all_goals exact all _ _ rfl

end Sys2Proof.Machine
end

section
/-! PROOFS. The end of an engine operation (R85, R88, R535), and the elements of an element-wise row (R202). -/

namespace Sys2Proof.Machine

/-! ## Rows of elements -/

/-- Element codes side by side, the first lowest. -/
def packed (c : Nat) (xs : List Nat) : Nat := xs.foldr (fun x acc => x % 2 ^ c + acc * 2 ^ c) 0

theorem packed_lt (c : Nat) (xs : List Nat) : packed c xs < 2 ^ (c * xs.length) := by
  induction xs with
  | nil => simp [packed]
  | cons x xs ih =>
    have hx : x % 2 ^ c < 2 ^ c := Nat.mod_lt _ (Nat.two_pow_pos c)
    calc packed c (x :: xs) = x % 2 ^ c + packed c xs * 2 ^ c := rfl
      _ < 2 ^ c + packed c xs * 2 ^ c := Nat.add_lt_add_right hx _
      _ = (packed c xs + 1) * 2 ^ c := by ring
      _ ≤ 2 ^ (c * xs.length) * 2 ^ c := Nat.mul_le_mul_right _ ih
      _ = 2 ^ (c * (x :: xs).length) := by rw [← Nat.pow_add, List.length_cons, Nat.mul_succ]

theorem packed_elem (c : Nat) (xs : List Nat) (e : Nat) : packed c xs / 2 ^ (c * e) % 2 ^ c = xs.getD e 0 % 2 ^ c := by
  induction xs generalizing e with
  | nil => simp [packed]
  | cons x xs ih =>
    have hcons : packed c (x :: xs) = x % 2 ^ c + packed c xs * 2 ^ c := rfl
    cases e with
    | zero => simp [hcons]
    | succ e =>
      have hdiv : packed c (x :: xs) / 2 ^ c = packed c xs := by
        rw [hcons, Nat.add_mul_div_right _ _ (Nat.two_pow_pos c), Nat.div_eq_of_lt (Nat.mod_lt _ (Nat.two_pow_pos c)), Nat.zero_add]
      rw [Nat.mul_succ, Nat.add_comm, Nat.pow_add, ← Nat.div_div_eq_div_mul, hdiv, ih, List.getD_cons_succ]

/-- Reading an element of a row built from codes that fill it at most. -/
theorem rowElem_mkRow {c : Nat} {xs : List Nat} (h : c * xs.length ≤ 2048) (e : Nat) :
    rowElem c (mkRow c xs) e = xs.getD e 0 % 2 ^ c := by
  have hlt : packed c xs < 2 ^ 2048 := (packed_lt c xs).trans_le (Nat.pow_le_pow_right Nat.two_pos h)
  have hrow : (mkRow c xs).toNat = packed c xs := (BitVec.toNat_ofNat _ _).trans (Nat.mod_eq_of_lt hlt)
  rw [rowElem, bitsOf, hrow, packed_elem]

/-- R202: an element of an element-wise row. -/
theorem rowElem_ewRow {c n e : Nat} (act : Nat → Bool) (mz : Bool) (old op : Nat → Elem) (h : c * n ≤ 2048) (he : e < n) :
    rowElem c (ewRow c n act mz old op).1 e = (if act e then (op e).1 else if mz then 0 else (old e).1) % 2 ^ c := by
  unfold ewRow
  rw [rowElem_mkRow (by simpa using h)]
  have hget : ((((List.range n).map (fun e => if act e then op e else if mz then (0, VFlags.none) else ((old e).1, VFlags.none))).map
      (·.1)).getD e 0) = if act e then (op e).1 else if mz then 0 else (old e).1 := by
    rw [List.getD_eq_getElem _ _ (by simpa using he)]
    simp only [List.getElem_map, List.getElem_range]
    split
    · rfl
    · split <;> rfl
  rw [hget]

/-! ## The end of an operation -/

section End

variable {k : Chip} {c e : Nat} {o : EngEnt} {r : List EngEnt} (hq : tblGet [] (k.cluster c).queues e = o :: r)
  (he : (k.cluster c).errored = false) (hm : k.mayStart c e o = true)
include hq he hm

/-- R85: the head of a queue that may start has its effect, leaves its queue and gives up its claims, but for a captured drain. -/
theorem Chip.endOp_runs (hp : k.consumesPoison c o.op = false) : k.endOp c e = (k.runOp c e o).updCluster c (fun x =>
    let y := { x with queues := tblMod [] x.queues e (fun q => q.drop 1) }
    match o.op with
    | .zdrain _ _ _ _ _ _ => y
    | _ => y.release o.no e) := by
  simp [Chip.endOp, hq, he, hm, hp] <;> rfl

/-- R535: one that consumes poison stays, and stops the cluster. -/
theorem Chip.endOp_poisoned (hp : k.consumesPoison c o.op = true) : k.endOp c e = k.clusterError c (engAgent e) 3 := by
  simp [Chip.endOp, hq, he, hm, hp]

end End

/-- Settles O21: the engines below 7 end the head of their queue; a row of elements is read element by element. -/
theorem engineOperationEnds : Obligations.EngineOperationEnds := by
  refine ⟨?_, ?_⟩
  · intro s c e o r k h7 hc hq he hm
    have hexec : exec (.engineOperationEnd c e) s = s.goes ((k.endOp c e).drainAll c) := by
      have hend : k.endEngine c e = k.endOp c e := if_pos h7
      exact congrArg s.goes ((if_pos hc).trans (congrArg (Chip.drainAll · c) hend))
    refine ⟨fun hp => ?_, fun hp => ?_⟩
    · exact hexec.trans (congrArg (fun j : Chip => s.goes (j.drainAll c)) (Chip.endOp_runs hq he hm hp))
    · exact hexec.trans (congrArg (fun j : Chip => s.goes (j.drainAll c)) (Chip.endOp_poisoned hq he hm hp))
  · intro c n e act mz old op hc hn he
    refine rowElem_ewRow act mz old op ?_ he
    rw [hn]
    exact Nat.mul_div_le 2048 c

end Sys2Proof.Machine
end

section
/-! PROOFS. `MOV`: the descriptor it reads, the command it makes, and what it leaves in its mover (R154, R250-R254, R277, R279). -/

namespace Sys2Proof.Machine

/-! ## Issue -/

/-- The read of a descriptor has ended, with its 64 bytes or with the status of a failure. -/
def Chip.readsDesc (k : Chip) (c : Nat) (f : MovF) (k1 : Chip) (d : Except Nat Desc) : Prop :=
  (∃ bs, k.readDesc c f = (k1, .got bs) ∧ d = .ok (decodeDesc (ofBytes bs))) ∨
  (∃ st, k.readDesc c f = (k1, .failed st) ∧ d = .error st)

/-- A mover slot made ready with what it read. -/
def Chip.madeMov (k : Chip) (c : Nat) (f : MovF) (d : Except Nat Desc) : Ready :=
  { preps := [], mov := some (f, k.makeCmd c f d), sync := none }

theorem mover_reads (f : MovF) : (moverBundle f).reads true = [f.rdesc] := by
  simp [Bundle256.reads, moverBundle, nopBundle, Scalar.reads]

section Issue

variable {k k1 k2 : Chip} {c : Nat} {f : MovF} {d d2 : Except Nat Desc}

theorem Chip.prepMover_of_read (h : (k.updCluster c (·.endStream)).readsDesc c f k1 d) :
    k.prepMover c true (some f) = (k1, .ok (some (f, k1.makeCmd c f d))) := by
  rcases h with ⟨bs, hb, rfl⟩ | ⟨st, hs, rfl⟩
  · simp only [Chip.prepMover, hb]
  · simp only [Chip.prepMover, hs]

theorem Chip.prepMover_of_wait (h : (k.updCluster c (·.endStream)).readDesc c f = (k1, .wait)) :
    k.prepMover c true (some f) = (k1, .wait) := by
  simp only [Chip.prepMover, h]

variable (hf : (k.cluster c).fits [] (some (f.mover.toNat, 0)) none false = true)
include hf

/-- R250: a `MOV` leaves stage I once it has read its descriptor and its entries are free. -/
theorem Chip.stageI_mov (h : (k.updCluster c (·.endStream)).readsDesc c f k1 d) (hroom : k1.roomFor c (k1.madeMov c f d) = true) :
    k.stageI c (moverBundle f) true = (k1, true) := by
  have hp := Chip.prepMover_of_read h
  have hfit : (k1.cluster c).fits [] (some (movNeeds (k1.cluster c).nextNo f (k1.makeCmd c f d))) none false = true := hroom
  simp [Chip.stageI, moverBundle, nopBundle, slotNeeds, syncOf, hf, hp, hfit]

theorem Chip.stageI_mov_waits (h : (k.updCluster c (·.endStream)).readDesc c f = (k1, .wait)) :
    k.stageI c (moverBundle f) true = (k1.drainAll c, false) := by
  have hp := Chip.prepMover_of_wait h
  simp [Chip.stageI, moverBundle, nopBundle, slotNeeds, syncOf, hf, hp]

variable (hr : k.slotReady c [f.rdesc] = true)
include hr

/-- R250: a `MOV` whose descriptor has been read, at stage I and again at stage X, enters its mover. -/
theorem Chip.issueSlot_mov (h : (k.updCluster c (·.endStream)).readsDesc c f k1 d) (hroom : k1.roomFor c (k1.madeMov c f d) = true)
    (h2 : (k1.updCluster c (·.endStream)).readsDesc c f k2 d2) (hroom2 : k2.roomFor c (k2.madeMov c f d2) = true) :
    k.issueSlot c (moverBundle f) = k2.slotDone c (moverBundle f) .none (k2.madeMov c f d2) := by
  have hall : k1.prepAll c (moverBundle f) true = (k2, .ok (k2.madeMov c f d2)) := by
    have hp := Chip.prepMover_of_read h2
    simp [Chip.prepAll, prepSlot, Chip.prepSync, moverBundle, nopBundle, hp, Chip.madeMov]
  exact Chip.issueSlot_of_ready (k1 := k) (j := k1) (k2 := k1) rfl rfl (mover_reads f ▸ hr) rfl (Chip.stageI_mov hf h hroom) rfl hall hroom2

theorem Chip.issueSlot_mov_waits (h : (k.updCluster c (·.endStream)).readDesc c f = (k1, .wait)) :
    k.issueSlot c (moverBundle f) = k1.drainAll c := by
  have hst := Chip.stageI_mov_waits hf h
  have hreads := mover_reads f
  simp only [Chip.slotReady, Bool.and_eq_true, Bool.not_eq_true'] at hr
  obtain ⟨⟨hc, hi⟩, ha⟩ := hr
  have hl : (moverBundle f).legal = true := rfl
  have hpred : (moverBundle f).pred = 0 := rfl
  have hw : k.holdWh c (moverBundle f) true = (k, true) := rfl
  simp [Chip.issueSlot, Chip.issue, Chip.endFence_of_canIssue hi, hc, hi, hl, hpred, hreads, ha, hw, hst]

end Issue

/-! ## A descriptor in the own store -/

theorem Desc.claims_length (d : Desc) (no eng : Nat) : (d.claims no eng).length ≤ 2 := by
  unfold Desc.claims
  rw [List.length_append]
  refine Nat.add_le_add (b := 1) (d := 1) ?_ ?_
  · split
    · split <;> simp
    · simp
  · split
    · split <;> simp
    · simp

/-- A mover with a free place takes a command at a cluster without claims. -/
theorem Chip.roomFor_mov {k : Chip} {c : Nat} {f : MovF} {d : Except Nat Desc} (hc : (k.cluster c).claims = [])
    (hf : (k.cluster c).fits [] (some (f.mover.toNat, 0)) none false = true) : k.roomFor c (k.madeMov c f d) = true := by
  have hn : (movNeeds (k.cluster c).nextNo f (k.makeCmd c f d)).2 ≤ 64 := by
    unfold movNeeds
    dsimp only
    split
    · exact Nat.zero_le _
    · exact (Desc.claims_length _ _ _).trans (by decide)
  have hm : (movNeeds (k.cluster c).nextNo f (k.makeCmd c f d)).1 = f.mover.toNat := rfl
  simp only [Cluster.fits, List.all_nil, Bool.true_and, Bool.and_true, Bool.and_eq_true, decide_eq_true_eq] at hf
  simp only [Chip.roomFor, Cluster.hasRoom, Chip.madeMov, Cluster.fits, Option.map_some, Option.map_none, List.map_nil, List.all_nil,
    List.foldl_nil, Bool.true_and, Bool.and_true, Bool.and_eq_true, decide_eq_true_eq, Option.getD_some, hc, List.length_nil, hm]
  exact ⟨hf.1, by omega⟩

/-- R251: with no access, claim or read outstanding, a descriptor in the own store is read at once. -/
theorem Chip.readDesc_own {k : Chip} {c : Nat} {f : MovF} (hd : (k.cluster c).descRead = none) (hl : (k.cluster c).loads = [])
    (hc : (k.cluster c).claims = []) (hloc : f.dloc = false) (ha : ((k.cluster c).reg f.rdesc).toNat % 64 = 0)
    (hlt : ((k.cluster c).reg f.rdesc).toNat < 2 ^ 22)
    (hz : (k.cluster c).zoneRefuses ((k.cluster c).reg f.rdesc).toNat (((k.cluster c).reg f.rdesc).toNat + 64) = false)
    (hp : k.poisoned (lineOf (paLocal (k.offsetPa c ((k.cluster c).reg f.rdesc).toNat))) = false) :
    k.readDesc c f = (k, .got (overlay (k.offsetPa c ((k.cluster c).reg f.rdesc).toNat)
      (k.ownBytes c (paLocal (k.offsetPa c ((k.cluster c).reg f.rdesc).toNat)) 64) (k.olderStores c (k.cluster c).nextId))) := by
  have hw : (k.descWaited c).isSome = false := by simp [Chip.descWaited, hd]
  have hx : (k.cluster c).amoOut = false := by simp [Cluster.amoOut, hl]
  have hcl : (k.cluster c).claimWait (k.cluster c).nextNo (some ((k.cluster c).reg f.rdesc).toNat) 64 false = false := by
    simp [Cluster.claimWait, hc]
  simp only [Chip.readDesc, Chip.descBytes, hw, hx, hl, hloc, hz, hcl, hp, ha, Nat.not_le.mpr hlt]
  simp

/-! ## The mover -/

section Take

variable {x : Cluster} {kept : Prepared → Bool} {pc : U64} {no : Nat} {f : MovF} {d : MovCmd}

theorem Cluster.takeMov_new (h : x.toConfirm kept pc f d = none) : x.takeMov kept pc no f d =
    { x.updMover f.mover.toNat (fun v => { v with cmds := v.cmds ++ [{ d with id := x.nextId, no := no }] }) with
      nextId := x.nextId + 1, prepared := x.prepared.filter (fun p => !(p.pc = pc && p.rdesc = d.rdesc)), descRead := none } := by
  unfold Cluster.takeMov
  rw [h]
  rfl

theorem Cluster.takeMov_confirm {e : MovCmd} (h : x.toConfirm kept pc f d = some e) : x.takeMov kept pc no f d =
    { x.updMover f.mover.toNat (fun v => { v with
        cmds := v.cmds.map (fun (o : MovCmd) => if o.id = e.id then { o with confirmed := true, no := no } else o)
        confirmed := satAdd v.confirmed 1 }) with
      prepared := x.prepared.filter (fun p => !(p.pc = pc && p.rdesc = d.rdesc)), descRead := none } := by
  unfold Cluster.takeMov
  rw [h]
  rfl

end Take

/-- Settles O22: the descriptor is read at stage I and again at stage X, with the same answer for the own store. -/
theorem movRows : Obligations.MovRows := by
  refine ⟨?_, ?_⟩
  · intro s c f x streamless k made read issued a la hr hf
    refine ⟨fun k1 d k2 d2 h hroom h2 hroom2 => ?_, fun k1 h => ?_, fun hloc ha hlt hz hd hl hcl hp => ?_⟩
    · exact congrArg s.goes (Chip.issueSlot_mov hf hr h hroom h2 hroom2)
    · exact congrArg s.goes (Chip.issueSlot_mov_waits hf hr h)
    · have hk : k.cluster c = x.endStream := Chip.cluster_upd_self _ _ _
      have hreg : (k.cluster c).reg f.rdesc = x.reg f.rdesc := by rw [hk]; rfl
      have hread : k.readDesc c f = (k, .got (overlay (k.offsetPa c a) (k.ownBytes c la 64) (k.olderStores c x.nextId))) := by
        have h := Chip.readDesc_own (k := k) (c := c) (f := f) (by rw [hk]; exact hd) (by rw [hk]; exact hl) (by rw [hk]; exact hcl) hloc
          (by rw [hreg]; exact ha) (by rw [hreg]; exact hlt) (by rw [hreg, hk]; exact hz) (by rw [hreg]; exact hp)
        rw [hreg] at h
        rw [h, hk]
        rfl
      have hreads := (.inl ⟨_, hread, rfl⟩ : k.readsDesc c f k (.ok _))
      have hsame : k.updCluster c (·.endStream) = k := Chip.updCluster_upd _ _ _ _
      have hroom := Chip.roomFor_mov (k := k) (c := c) (f := f) (d := .ok (decodeDesc (ofBytes
        (overlay (k.offsetPa c a) (k.ownBytes c la 64) (k.olderStores c x.nextId))))) (by rw [hk]; exact hcl) (by rw [hk]; exact hf)
      exact congrArg s.goes (Chip.issueSlot_mov hf hr hreads hroom (hsame.symm ▸ hreads) hroom)
  · intro x kept pc no f d y m
    cases hcf : x.toConfirm kept pc f d with
    | none =>
      have hy : y = _ := Cluster.takeMov_new hcf
      have hmov (n : Nat) : y.mover n = (x.updMover m (fun v => { v with cmds := v.cmds ++ [{ d with id := x.nextId, no := no }] })).mover n := by
        rw [hy]; rfl
      refine ⟨fun _ => ⟨by rw [hmov, Cluster.mover_upd_self], by rw [hy]⟩, fun e he => absurd he (by simp),
        fun n hn => by rw [hmov, Cluster.mover_upd_ne _ _ hn], ?_⟩
      rw [hy]
      exact ⟨rfl, rfl, rfl, rfl, rfl⟩
    | some e =>
      have hy : y = _ := Cluster.takeMov_confirm hcf
      have hmov (n : Nat) : y.mover n = (x.updMover m (fun v => { v with
          cmds := v.cmds.map (fun (o : MovCmd) => if o.id = e.id then { o with confirmed := true, no := no } else o)
          confirmed := satAdd v.confirmed 1 })).mover n := by
        rw [hy]; rfl
      refine ⟨fun h => absurd h (by simp), fun e' he => ?_, fun n hn => by rw [hmov, Cluster.mover_upd_ne _ _ hn], ?_⟩
      · cases he
        exact ⟨by rw [hmov, Cluster.mover_upd_self], by rw [hy]; rfl⟩
      · rw [hy]
        exact ⟨rfl, rfl, rfl, rfl, rfl⟩

end Sys2Proof.Machine
end

section
/-! PROOFS. What a precise fault keeps and drops (R94, R95), and the issue of a fetched bundle (R80-R84, R160-R162). -/

namespace Sys2Proof.Machine

/-! ## Discarding what was issued ahead -/

theorem Cluster.discardZone_eq (x : Cluster) (m : MovCmd) : x.discardZone m = { x with zones := (x.discardZone m).zones } := by
  unfold Cluster.discardZone
  split <;> rfl

theorem Cluster.foldl_discardZone_eq (x : Cluster) (l : List MovCmd) :
    l.foldl (fun c m => c.discardZone m) x = { x with zones := (l.foldl (fun c m => c.discardZone m) x).zones } := by
  induction l generalizing x with
  | nil => rfl
  | cons m l ih => rw [List.foldl_cons, ih, Cluster.discardZone_eq]

/-- A discard reaches the movers and the landing zones alone. -/
theorem Cluster.discardOf_eq (x : Cluster) (n : Nat) (p : MovCmd → Bool) :
    x.discardOf n p = { x with movers := (x.discardOf n p).movers, zones := (x.discardOf n p).zones } := by
  unfold Cluster.discardOf
  rw [Cluster.updMover_eq, Cluster.foldl_discardZone_eq]

theorem Cluster.discardIf_eq (x : Cluster) (p : MovCmd → Bool) :
    x.discardIf p = { x with movers := (x.discardIf p).movers, zones := (x.discardIf p).zones } := by
  unfold Cluster.discardIf
  rw [Cluster.discardOf_eq, Cluster.discardOf_eq]

theorem Cluster.discardOf_mover_ne (x : Cluster) {n m : Nat} (p : MovCmd → Bool) (h : m ≠ n) : (x.discardOf n p).mover m = x.mover m := by
  unfold Cluster.discardOf
  rw [Cluster.mover_upd_ne _ _ h, Cluster.foldl_discardZone_eq]
  rfl

theorem Cluster.discardOf_cmds (x : Cluster) (n : Nat) (p : MovCmd → Bool) : ((x.discardOf n p).mover n).cmds =
    (x.mover n).cmds.filterMap (fun m => if m.speculative && p m then m.discard else some m) := by
  unfold Cluster.discardOf
  rw [Cluster.mover_upd_self, Cluster.foldl_discardZone_eq]
  rfl

/-- A discarded command that stays while its requests are in flight is no pre-issued command any more. -/
theorem MovCmd.speculative_of_discard {m d : MovCmd} (h : m.discard = some d) : d.speculative = false := by
  unfold MovCmd.discard at h
  split at h
  · cases h; simp [MovCmd.speculative]
  · cases h

/-- R280: a discard of everything leaves no pre-issued command. -/
theorem Cluster.discardOf_all (x : Cluster) (n : Nat) : ∀ d ∈ ((x.discardOf n (fun _ => true)).mover n).cmds, d.speculative = false := by
  intro d hd
  rw [Cluster.discardOf_cmds, List.mem_filterMap] at hd
  obtain ⟨m, -, hm⟩ := hd
  split at hm
  · exact MovCmd.speculative_of_discard hm
  · rename_i hs
    cases hm
    simpa using hs

theorem Cluster.discardIf_all (x : Cluster) {m : Nat} (hm : m < 2) :
    ∀ d ∈ ((x.discardIf (fun _ => true)).mover m).cmds, d.speculative = false := by
  unfold Cluster.discardIf
  obtain rfl | rfl : m = 0 ∨ m = 1 := by omega
  · rw [Cluster.discardOf_mover_ne _ _ (by decide)]
    exact Cluster.discardOf_all x 0
  · exact Cluster.discardOf_all _ 1

/-! ## A fault -/

/-- R94: a first fault keeps its code and address, and drops the registered waits and what was issued ahead. -/
theorem Cluster.takeFault_of_none {x : Cluster} (h : x.faulted = none) (code : Nat) (pc : U64) :
    ∃ mv z st, (x.discardIf (fun _ => true)).movers = mv ∧ x.takeFault code pc = { x with
      movers := mv, zones := z, prepared := [], feAt := none, stream := st, faulted := some (code, pc), waits := [], fetchRead := none
      descRead := none, lockRead := none } := by
  obtain ⟨m, z, hd⟩ : ∃ m z, x.discardIf (fun _ => true) = { x with movers := m, zones := z } := ⟨_, _, Cluster.discardIf_eq x _⟩
  refine ⟨m, z, x.closeStream.stream, congrArg Cluster.movers hd, ?_⟩
  unfold Cluster.takeFault Cluster.discardRunAhead
  rw [h, hd]
  rfl

/-- R94: a later fault changes nothing. -/
theorem Cluster.takeFault_of_some {x : Cluster} (h : x.faulted ≠ none) (code : Nat) (pc : U64) : x.takeFault code pc = x :=
  if_pos (Option.isSome_iff_ne_none.mpr h)

/-- What no fault touches. -/
theorem Cluster.takeFault_keeps (x : Cluster) (code : Nat) (pc : U64) :
    let y := x.takeFault code pc
    y.regs = x.regs ∧ y.pc = x.pc ∧ y.loops = x.loops ∧ y.queues = x.queues ∧ y.claims = x.claims ∧ y.stores = x.stores ∧
    y.loads = x.loads ∧ y.haspBuf = x.haspBuf := by
  intro y
  by_cases h : x.faulted = none
  · obtain ⟨mv, z, st, -, hy⟩ := Cluster.takeFault_of_none h code pc
    simp only [y, hy, and_self]
  · simp only [y, Cluster.takeFault_of_some h, and_self]

/-- Settles O26: a fault without a refused address is that of the cluster alone. -/
theorem sequencerFault : Obligations.SequencerFault := by
  intro k c code pc x y
  have hy : y = x.takeFault code pc := Chip.cluster_upd_self k c _
  obtain ⟨hregs, hpc, hloops, hqueues, hclaims, hstores, hloads, hbuf⟩ := hy ▸ Cluster.takeFault_keeps x code pc
  refine ⟨fun h => ?_, fun h => hy.trans (Cluster.takeFault_of_some h code pc), Cluster.reg_congr hregs, hpc,
    hloops, hqueues, hclaims, hstores, hloads, hbuf, fun d hd => Chip.cluster_upd_ne k _ hd, rfl⟩
  · obtain ⟨mv, z, st, hmv, ht⟩ := Cluster.takeFault_of_none h code pc
    have hf := hy.trans ht
    have hmov (m : Nat) : y.mover m = (x.discardIf (fun _ => true)).mover m := by
      unfold Cluster.mover
      rw [hf, hmv]
    refine ⟨by rw [hf], by rw [hf], by rw [hf], ?_, fun m hm => by rw [hmov]; exact Cluster.discardIf_all x hm⟩
    rw [hf]
    simp [Cluster.canIssue]

/-! ## Issue of a fetched bundle -/

section Fetch

variable {k : Chip} {c : Nat} (hi : (k.cluster c).canIssue = true)
include hi

/-- A sequencer that may issue and has no access outstanding goes on to its fetch. -/
theorem Chip.fetchIssue_of_free (hl : (k.cluster c).loads = []) (hs : (k.cluster c).stores = []) :
    k.fetchIssue c = match k.fetchBundle c with
      | (k1, .wait) => k1
      | (k1, .fault code pa) =>
        if code = ftPoison then
          (k1.updCluster c (·.takeFault code (k1.cluster c).pc)).report 1
            { clusterErr c 0 3 1 with
              paddr := BitVec.ofNat 64 (pa.getD 0), vaddr := (k1.cluster c).pc, status := 6 } 1
        else k1.seqFault c code (k1.cluster c).pc pa
      | (k1, .got w) =>
        match decodeBundle w with
        | some b => k1.issue c b false
        | none => k1.seqFault c ftIllegal (k1.cluster c).pc none := by
  simp only [Chip.fetchIssue, Chip.endFence_of_canIssue hi, Chip.drainAll_of_empty hl hs, hi] <;> rfl

/-- A bundle that waits for no register comes to its wait-on-hasp bit. -/
theorem Chip.issue_of_free {b : Bundle256} {on : Bool}
    (hon : (decide (b.pred = 0) || decide ((k.cluster c).reg (predReg b.pred) ≠ 0)) = on)
    (hp : b.pred = 0 ∨ (k.cluster c).awaits [predReg b.pred] = false) (ha : (k.cluster c).awaits (b.reads on) = false) :
    k.issue c b false = match k.holdWh c b on with
      | (k1, false) => k1
      | (k1, true) =>
        match k1.stageI c b on with
        | (k2, false) => k2
        | (k2, true) =>
          match k2.scalarX c (k.cluster c).pc b.scalar with
          | (k3, .wait) => k3.drainAll c
          | (k3, .fault code pa) => k3.seqFault c code (k.cluster c).pc pa
          | (k3, .act a) =>
            match k3.prepAll c b on with
            | (k4, .wait) => k4.drainAll c
            | (k4, .fault code) => k4.seqFault c code (k.cluster c).pc none
            | (k4, .ok r) => if !(k4.cluster c).hasRoom r (on && b.wh) then k4 else k4.commitBundle c b a r := by
  have hpred : (decide (b.pred ≠ 0) && (k.cluster c).awaits [predReg b.pred]) = false := by
    rcases hp with hp | hp <;> simp [hp]
  simp only [Chip.issue, Chip.endFence_of_canIssue hi, hi, hpred, hon, ha, Bool.not_true, Bool.false_eq_true, if_false] <;> rfl

end Fetch

/-- Settles O25: fetch, decode, wait, stage I, stage X, the checks and the commit, each with its outcome. -/
theorem bundleIssueRow : Obligations.BundleIssueRow := by
  intro s c k x hc hi hl hs
  have hexec : exec (.bundleIssue c) s = s.goes (k.fetchIssue c) := congrArg s.goes (if_pos hc)
  rw [hexec, Chip.fetchIssue_of_free hi hl hs]
  refine ⟨fun k1 h => by simp only [h], fun k1 code pa h hcode => ?_, fun k1 pa h => ?_, fun k1 w h => ?_⟩
  · rw [h]
    exact congrArg s.goes (if_neg hcode)
  · rw [h]
    simp only [ftPoison, if_true]
    refine ⟨_, rfl, ?_, fun d hd => ?_, fun a => ?_⟩
    · exact (Chip.cluster_upd_self k1 c (·.takeFault 6 (k1.cluster c).pc) :)
    · exact (Chip.cluster_upd_ne k1 (·.takeFault 6 (k1.cluster c).pc) hd :)
    · exact (Chip.byte_updCluster k1 c (·.takeFault 6 (k1.cluster c).pc) a :)
  · rw [h]
    refine ⟨fun hb => by simp only [hb, ftIllegal], ?_⟩
    intro b hb hy hp
    generalize hon : (decide (b.pred = 0) || decide ((k1.cluster c).reg (predReg b.pred) ≠ 0)) = on
    dsimp only
    intro ha
    simp only [hb]
    rw [Chip.issue_of_free hy hon hp ha]
    refine ⟨fun k2 h2 => by simp only [h2], fun k2 h2 => ?_⟩
    rw [h2]
    refine ⟨fun k3 h3 => by simp only [h3], fun k3 k4 h3 => ?_⟩
    simp only [h3]
    refine ⟨fun code pa h4 => by simp only [h4], fun a h4 => ?_⟩
    simp only [h4]
    refine ⟨fun k5 code h5 => by simp only [h5], fun k5 r h5 hroom => ?_⟩
    simp only [h5, hroom, Bool.not_true, Bool.false_eq_true, if_false]

end Sys2Proof.Machine
end

section
/-! PROOFS. The stages of a mover command: its start, the answers to its requests, and its completion (R253-R266). -/

namespace Sys2Proof.Machine

section Start

variable {k : Chip} {c m : Nat} {d : MovCmd} (hg : (k.cluster c).gated d.no = false)
include hg

/-- R254: a command with an early status ends with it. -/
theorem Chip.startCmd_early {st : Nat} (he : d.early = some st) : k.startCmd c m d = k.updCmd c m d.id (fun d => { d with
    phase := .done, status := st, failSeg := none, ddev := if st = 0 then none else (k.destDev c d).map (BitVec.ofNat 6) }) := by
  simp only [Chip.startCmd, hg, he, Bool.false_eq_true, if_false] <;> rfl

variable (he : d.early = none)
include he

/-- R253: a null command ends at once. -/
theorem Chip.startCmd_null (hn : d.desc.isNull = true) : k.startCmd c m d = k.updCmd c m d.id (fun d => { d with
    phase := .done, status := 0, failSeg := none, ddev := none }) := by
  simp only [Chip.startCmd, hg, he, hn, Bool.false_eq_true, if_false, if_true, stOk]

variable (hn : d.desc.isNull = false) (hc : (k.cluster c).claimBlocked d.no (7 + m) = false)
  (hs : k.storeBlocked c d.no (7 + m) = false) (hv : k.storesVisible c d.no .cluster = true)
include hn hc hs hv

/-- R258: a command whose pass fails ends with the status and the place of the failure. -/
theorem Chip.startCmd_failed {k1 : Chip} {st : Nat} {f : Bool × (Nat × U64)} {ps : List Piece}
    (hp : k.pass c d = (k1, some (some (st, f), ps))) : k.startCmd c m d = k1.updCmd c m d.id (fun d => { d with
    phase := .done, status := st, failSeg := some f, ddev := if st = 0 then none else (k1.destDev c d).map (BitVec.ofNat 6) }) := by
  simp only [Chip.startCmd, hg, he, hn, hc, hs, hv, hp, Bool.false_eq_true, if_false, Bool.not_true, Bool.or_false] <;> rfl

/-- R261: any other begins its data phase with the pieces of its pass. -/
theorem Chip.startCmd_data {k1 : Chip} {ps : List Piece} (hp : k.pass c d = (k1, some (none, ps))) :
    k.startCmd c m d = (k1.updCmd c m d.id (fun d => { d with
      phase := .data, pieces := ps, inOrder := k1.sideSource c d ps
      ddev := if d.desc.remote then (k1.destDev c d).map (BitVec.ofNat 6) else none })).askFlash c m := by
  simp only [Chip.startCmd, hg, he, hn, hc, hs, hv, hp, Bool.false_eq_true, if_false, Bool.not_true, Bool.or_false]

end Start

section Complete

variable {k : Chip} {c m : Nat} {d : MovCmd} (he : d.ended = true) (hs : d.speculative = false) (hp : d.phase ≠ .drain)
  (hc : d.confirmed = true → (k.cluster c).claimBlocked d.no (7 + m) = false)
  (hr : k.fabric.reqs.any (fun r => r.owner = .moverHasp c m d.id) = false)
include he hs hp hc hr

/-- R263, R266, R279: an ended command that nothing holds completes by what it owes its destination. -/
theorem Chip.tryComplete_of_ended : k.tryComplete c m d = match d.owes, d.ddev with
    | some (v, err), some dev =>
      if dev = k.fabric.devnum then (k.destLost c m d).completeCmd c m d
      else (k.updCmd c m d.id (fun d => { d with dsent := true })).sendHaspAdd (some (c / 24)) dev d.desc.dhasp
        (BitVec.ofNat 48 v) err (.moverHasp c m d.id)
    | some _, none => (k.destLost c m d).completeCmd c m d
    | none, _ => k.completeCmd c m d := by
  have hconf : (d.confirmed && (k.cluster c).claimBlocked d.no (7 + m)) = false := by
    cases h : d.confirmed
    · rfl
    · rw [hc h]; rfl
  simp only [Chip.tryComplete, he, hs, hp, hconf, hr, Bool.not_true, Bool.false_or, Bool.false_eq_true, if_false, decide_false] <;> rfl

end Complete

/-- Settles O23: start, data phase and completion, each by what holds the command. -/
theorem moverCommands : Obligations.MoverCommands := by
  refine ⟨?_, ?_⟩
  · intro s c m d k x ends hfind hroom hg
    have hexec : exec (.moverCommandStart c m) s = s.goes (k.startCmd c m d) := by
      refine congrArg s.goes ?_
      dsimp only
      rw [show ((s.chip.cluster c).mover m).cmds.find? (fun d => d.phase = .queued) = some d from hfind]
      exact if_neg (Nat.not_le.mpr hroom)
    rw [hexec]
    refine ⟨fun st he => congrArg s.goes (Chip.startCmd_early hg he), fun he hn => ?_, fun he hn hc hs hv =>
      ⟨fun k1 st f ps hp => congrArg s.goes (Chip.startCmd_failed hg he hn hc hs hv hp),
        fun k1 ps hp => congrArg s.goes (Chip.startCmd_data hg he hn hc hs hv hp)⟩⟩
    exact congrArg s.goes (Chip.startCmd_null hg he hn)
  · intro s c m id piece d k hcmd
    refine ⟨fun p hp => ⟨fun hd => ?_, fun hd => ?_⟩, fun he hs hdr hc hr => ?_⟩
    · refine congrArg s.goes ?_
      show k.dataResponse c m id piece = _
      simp only [Chip.dataResponse, hcmd, hp, hd]
    · refine congrArg s.goes ?_
      show k.dataResponse c m id piece = _
      simp only [Chip.dataResponse, hcmd, hp, hd]
    · have hexec : exec (.moverCommandComplete c m id) s = s.goes (k.tryComplete c m d) := by
        refine congrArg s.goes ?_
        dsimp only
        rw [show (s.chip.cluster c).cmd m id = some d from hcmd]
      rw [hexec, Chip.tryComplete_of_ended he hs hdr hc hr]
      refine ⟨fun ho => by simp only [ho], fun v err ho => ⟨fun dev hdev hne => ?_, fun hdev => ?_⟩⟩
      · simp only [ho, hdev, if_neg hne]
      · rcases hdev with hdev | hdev
        · simp only [ho, hdev]
        · simp only [ho, hdev, if_true]

end Sys2Proof.Machine
end

section
/-! PROOFS. The run-ahead front end: preparation and pre-issue of a `MOV` (R274-R278), and the NOSTREAM bit (R363). -/

namespace Sys2Proof.Machine

@[simp] theorem Cluster.zone_upd_self (x : Cluster) (z : Nat) (f : Zone → Zone) : (x.updZone z f).zone z = f (x.zone z) := by
  simp [Cluster.zone, Cluster.updZone]

theorem Cluster.zone_upd_ne (x : Cluster) {z i : Nat} (f : Zone → Zone) (h : i ≠ z) : (x.updZone z f).zone i = x.zone i := by
  simp [Cluster.zone, Cluster.updZone, tblGet_mod_ne _ _ _ h]

section Prepare

variable {k k1 k2 : Chip} {c : Nat} {va : U64} {w : Walker} {b : Bundle256} {f : MovF} (hm : k.mayRunAhead c = true)
  (hw : k.follow c (k.unprepared c va) = (k1, some (w, b))) (hb : b.mover = some f)
include hm hw hb

/-- The front end comes to the first `MOV` of its path that has no preparation of use. -/
theorem Chip.prepare_at : k.prepare c va = k1.prepareAt c va w f := by
  simp only [Chip.prepare, hm, hw, hb, Bool.not_true, Bool.false_eq_true, if_false]

/-- R277: a descriptor that it may not read is dropped. -/
theorem Chip.prepare_dropped (hp : k1.peekDesc c f ((w.reg f.rdesc).getD 0) = (k2, none)) : k.prepare c va = k2 := by
  rw [Chip.prepare_at hm hw hb, Chip.prepareAt, hp]

/-- R277: a descriptor whose pass goes through is kept with its pieces. -/
theorem Chip.prepare_kept {k3 : Chip} {d : Desc} {pa : Nat} {ps : List Piece}
    (hp : k1.peekDesc c f ((w.reg f.rdesc).getD 0) = (k2, some (d, pa))) (hn : d.isNull = false)
    (hr : d.refused (k2.mayName (k2.cluster c).space) = false)
    (hpass : k2.pass c (k2.earlyCmd c f { pc := va, rdesc := (w.reg f.rdesc).getD 0, desc := d, pa := pa, pieces := none }) =
      (k3, some (none, ps))) :
    k.prepare c va = k3.keepPrepared c { pc := va, rdesc := (w.reg f.rdesc).getD 0, desc := d, pa := pa, pieces := some ps } := by
  rw [Chip.prepare_at hm hw hb]
  simp only [Chip.prepareAt, hp, hn, hr, hpass, Bool.or_self, Bool.false_eq_true, if_false]

end Prepare

/-- A cluster that has pre-issued a command for its landing zone `z` (R278). -/
def Cluster.preIssued (x : Cluster) (n z : Nat) (d : MovCmd) (ps : List Piece) : Cluster :=
  { (x.updZone z (fun o => { o with st := .filling })).updMover n (fun v =>
      { v with
        cmds := v.cmds ++ [{ d with phase := .data, pieces := ps.map (x.zone z).shadowPiece, zone := some z }]
        preissued := satAdd v.preissued 1 }) with nextId := x.nextId + 1 }

/-- R278: the zone fills, and the command is the last of its mover. -/
theorem Cluster.preIssued_fields (x : Cluster) (n z : Nat) (d : MovCmd) (ps : List Piece) :
    let y := x.preIssued n z d ps
    (y.zone z).st = .filling ∧ (∀ i, i ≠ z → y.zone i = x.zone i) ∧
    (y.mover n).cmds = (x.mover n).cmds ++ [{ d with phase := .data, pieces := ps.map (x.zone z).shadowPiece, zone := some z }] ∧
    (y.mover n).preissued = satAdd (x.mover n).preissued 1 := by
  intro y
  have hzone (i : Nat) : y.zone i = (x.updZone z (fun o => { o with st := .filling })).zone i := rfl
  have hmov : y.mover n = ((x.updZone z (fun o => { o with st := .filling })).updMover n (fun v =>
      { v with
        cmds := v.cmds ++ [{ d with phase := .data, pieces := ps.map (x.zone z).shadowPiece, zone := some z }]
        preissued := satAdd v.preissued 1 })).mover n := rfl
  rw [hzone, hmov, Cluster.mover_upd_self, Cluster.zone_upd_self]
  exact ⟨rfl, fun i hi => (hzone i).trans (Cluster.zone_upd_ne x _ hi), rfl, rfl⟩

/-- R278: the command of a prepared `MOV` whose conditions hold is pre-issued. -/
theorem Chip.preIssueAt_of_prepared {k k1 : Chip} {c : Nat} {va : U64} {w : Walker} {b : Bundle256} {f : MovF} {p : Prepared} {z : Nat}
    {ps : List Piece} (hm : k.mayRunAhead c = true)
    (hw : k.follow c (fun w b => (k.cluster c).prepared.any (fun p => (k.cluster c).unissued va p && prepAt p w b)) = (k1, some (w, b)))
    (hb : b.mover = some f) (hp : (k.cluster c).prepared.find? (fun p => (k.cluster c).unissued va p && prepAt p w b) = some p)
    (hz : (k1.cluster c).fillZone p.desc = some z) (hps : k1.earlyPieces c (k1.earlyCmd c f p) p = some ps)
    (hbar : k1.barred c w b f p.desc = false) (hk : k1.descKept c p = true) (hpl : k1.allPlain c (k1.earlyCmd c f p) ps = true) :
    k.preIssueAt c va = k1.updCluster c (·.preIssued f.mover.toNat z (k1.earlyCmd c f p) ps) := by
  simp only [Chip.preIssueAt, hm, hw, hb, hp, Chip.preIssue, hz, hps, hbar, hk, hpl, Bool.not_true, Bool.or_self, Bool.false_eq_true,
    if_false]
  rfl

/-- R363: `NOSTREAM` is bit 0 of `CLU_LCCTL`. -/
theorem Cluster.writeLcctl_full (x : Cluster) (v : U64) : x.writeLcctl { part := .full, val := v } =
    { (if v.getLsbD 0 then x.endStream else x) with noStream := v.getLsbD 0 } := by
  simp only [Cluster.writeLcctl, regMerge_full]

/-- Settles O27: each row is the path's end at its `MOV`, or the write of one bit. -/
theorem frontEndRows : Obligations.FrontEndRows := by
  intro s c va k x hc
  have hprep : exec (.frontEndPrepare c va) s = s.goes (k.prepare c va) := congrArg s.goes (if_pos hc)
  have hpre : exec (.preIssue c va) s = s.goes (k.preIssueAt c va) := congrArg s.goes (if_pos hc)
  refine ⟨fun hm k1 w b f hw hb => ⟨fun k2 hp => ?_, fun k2 d pa hp hn hr => ?_⟩, ?_, fun hm => ?_, fun hl hs v => ?_⟩
  · exact hprep.trans (congrArg s.goes (Chip.prepare_dropped hm hw hb hp))
  · intro p k3 ps hpass
    exact hprep.trans (congrArg s.goes (Chip.prepare_kept hm hw hb hp hn hr hpass))
  · intro hm k1 w b f p z ps hw hb hp y1 hz hps hbar hk hpl
    have hend := Chip.preIssueAt_of_prepared hm hw hb hp hz hps hbar hk hpl
    have hy : (k1.updCluster c (·.preIssued f.mover.toNat z (k1.earlyCmd c f p) ps)).cluster c =
        y1.preIssued f.mover.toNat z (k1.earlyCmd c f p) ps := Chip.cluster_upd_self _ _ _
    refine ⟨_, hpre.trans (congrArg s.goes hend), ?_⟩
    intro y
    have hy' : y = y1.preIssued f.mover.toNat z (k1.earlyCmd c f p) ps := hy
    rw [hy']
    obtain ⟨hzone, hne, hcmds, hcount⟩ := Cluster.preIssued_fields y1 f.mover.toNat z (k1.earlyCmd c f p) ps
    exact ⟨hzone, hne, hcmds, hcount, rfl, rfl, rfl, rfl, fun a => Chip.byte_updCluster k1 c _ a, fun d hd => Chip.cluster_upd_ne k1 _ hd⟩
  · have hstay : k.prepare c va = k ∧ k.preIssueAt c va = k := by simp [Chip.prepare, Chip.preIssueAt, hm]
    exact ⟨hprep.trans (congrArg s.goes hstay.1), hpre.trans (congrArg s.goes hstay.2)⟩
  · intro y
    have hw : k.updCluster c (·.writeLcctl { part := .full, val := v }) = k.updCluster c (fun _ => y) :=
      Chip.updCluster_congr (Cluster.writeLcctl_full x v)
    have hyl : y.loads = [] ∧ y.stores = [] := by
      simp only [y]
      split
      · exact ⟨hl, hs⟩
      · exact ⟨hl, hs⟩
    refine congrArg s.goes ((if_pos hc).trans ?_)
    rw [show s.chip.updCluster c (·.writeLcctl { part := .full, val := v }) = k.updCluster c (fun _ => y) from hw]
    exact Chip.drainAll_of_empty (by rw [Chip.cluster_upd_self]; exact hyl.1) (by rw [Chip.cluster_upd_self]; exact hyl.2)

end Sys2Proof.Machine
end

section
/-! PROOFS. How an outstanding scalar load, atomic or store ends (R94, R314-R317, R333, R334). -/

namespace Sys2Proof.Machine

/-! ## What the end of an access leaves -/

section Frames

variable (k : Chip) (c : Nat) (a : ScAcc) (bs : Bytes) (st : Nat)

/-- The end of a load that found its data. -/
theorem Chip.finishLoad_good : k.finishLoad c a bs false = k.updCluster c (fun x =>
    ({ x with loads := x.loads.filter (·.id ≠ a.id) } : Cluster).setReg a.rd (match a.kind with
      | .load signed => extend a.size signed (if k.ordered c a.pa then overlay a.pa bs (k.olderStores c a.id) else bs)
      | .amo _ _ _ => BitVec.ofNat 64 (ofBytes bs))) := by
  simp only [Chip.finishLoad, Bool.false_eq_true, if_false, Chip.updCluster_upd] <;> rfl

/-- The cluster after the end of an access that takes a fault: the access has gone, and the fault is that of its bundle. -/
def Cluster.lateFault (x : Cluster) (a : ScAcc) (code : Nat) : Cluster :=
  ({ x with loads := x.loads.filter (·.id ≠ a.id) } : Cluster).takeFault code a.pc

theorem Chip.finishLoad_bad : ∃ e, k.finishLoad c a bs true = (k.updCluster c (·.lateFault a 6)).report 1 e 1 :=
  ⟨_, by simp only [Chip.finishLoad, if_true, Chip.updCluster_upd]; rfl⟩

theorem Chip.faultLoad_eq : ∃ e, k.faultLoad c a st = (k.updCluster c (·.lateFault a (faultOf st))).report 1 e 1 := ⟨_, rfl⟩

/-- A record touches no cluster. -/
theorem Chip.cluster_report (sev : Nat) (e : ErrInfo) (n d : Nat) : (k.report sev e n).cluster d = k.cluster d := rfl

end Frames

section LateFault

variable (x : Cluster) (a : ScAcc) (code : Nat)

/-- R94: a late fault keeps registers, drops its access, and is the cluster's fault where none came before. -/
theorem Cluster.lateFault_fields : (x.lateFault a code).regs = x.regs ∧ (x.lateFault a code).loads = x.loads.filter (·.id ≠ a.id) ∧
    (x.faulted = none → (x.lateFault a code).faulted = some (code, a.pc)) ∧
    (x.faulted ≠ none → (x.lateFault a code).faulted = x.faulted) := by
  obtain ⟨hregs, -, -, -, -, -, hloads, -⟩ := Cluster.takeFault_keeps { x with loads := x.loads.filter (·.id ≠ a.id) } code a.pc
  refine ⟨hregs, hloads, fun h => ?_, fun h => ?_⟩
  · obtain ⟨mv, z, st, -, ht⟩ := Cluster.takeFault_of_none (x := { x with loads := x.loads.filter (·.id ≠ a.id) }) h code a.pc
    unfold Cluster.lateFault
    rw [ht]
  · unfold Cluster.lateFault
    rw [Cluster.takeFault_of_some (x := { x with loads := x.loads.filter (·.id ≠ a.id) }) h]

end LateFault

/-! ## Answers -/

section Answers

variable {s : State} {c id : Nat}

theorem State.onChip_eq_self {f : Chip → Chip} (h : f s.chip = s.chip) : s.onChip f = s := by
  unfold State.onChip
  rw [h]

/-- A load whose cluster has nothing to perform by itself ends with its answer. -/
theorem scalarLoadReturn_of_quiet {a : ScAcc} (hd : s.chip.drainAll c = s.chip)
    (ha : (s.chip.cluster c).loads.find? (fun a => a.id = id) = some a) :
    exec (.scalarLoadReturn c id) s = .next ((s.returnLoad c a).onChip (fun k => k.drainAll c)) := by
  refine Eq.trans (b := execScalarLoadReturn c id s) rfl ?_
  unfold execScalarLoadReturn
  simp only [State.onChip_eq_self (f := fun k => k.drainAll c) hd, ha]

section Answered

variable {a : ScAcc} {st : Nat} {v : U64} (h : a.answer = some (st, v))
include h

theorem State.returnLoad_ok (hst : st = stOk) : s.returnLoad c a =
    s.onChip (fun k => k.finishLoad c a (toBytes a.size v.toNat) false) := by
  simp only [State.returnLoad, h, if_pos hst]

theorem State.returnLoad_poison (hst : st = stPoison) : s.returnLoad c a = s.onChip (fun k => k.finishLoad c a [] true) := by
  have hok : ¬ st = stOk := by rw [hst]; decide
  simp only [State.returnLoad, h, if_neg hok, if_pos hst]

theorem State.returnLoad_late (hok : st ≠ stOk) (hst : st ≠ stPoison) : s.returnLoad c a =
    s.onChip (fun k => k.faultLoad c a st) := by
  simp only [State.returnLoad, h, if_neg hok, if_neg hst]

end Answered

section Here

variable {a : ScAcc} (h : a.answer = none) (hown : s.chip.isOwn a.pa = true)
  (hturn : (if s.chip.ordered c a.pa then s.chip.loadsBefore c a.id else s.chip.behind c a.id a.pa) = false)
include h hown hturn

theorem State.returnLoad_reg (hreg : s.chip.isReg a.pa = true) : s.returnLoad c a = s.regLoad c a := by
  simp only [State.returnLoad, h, hown, hturn, hreg, Bool.not_true, Bool.or_self, Bool.false_eq_true, if_false, if_true]

theorem State.returnLoad_mem (hreg : s.chip.isReg a.pa = false) : s.returnLoad c a = s.onChip (fun k => k.memLoad c a) := by
  simp only [State.returnLoad, h, hown, hturn, hreg, Bool.not_true, Bool.or_self, Bool.false_eq_true, if_false]

end Here

end Answers

section Memory

variable {k : Chip} {c : Nat} {a : ScAcc} (hin : k.inOwnStore c a.pa = false)
include hin

theorem Chip.memLoad_unreached (hst : k.reachMem (some (c / 24)) (paLocal a.pa) ≠ 0) :
    k.memLoad c a = k.faultLoad c a (k.reachMem (some (c / 24)) (paLocal a.pa)) := by
  simp only [Chip.memLoad, hin, Bool.false_eq_true, if_false]
  exact if_pos hst

variable (hst : k.reachMem (some (c / 24)) (paLocal a.pa) = 0)
include hst

/-- R314: a load past the line cache reads the coherent value at its target. -/
theorem Chip.memLoad_load {sg : Bool} (hk : a.kind = .load sg) (hc : a.cached = false) : k.memLoad c a =
    (k.cohRead (paLocal a.pa) a.size).1.finishLoad c a (k.cohRead (paLocal a.pa) a.size).2.1 (k.cohRead (paLocal a.pa) a.size).2.2 := by
  simp only [Chip.memLoad, hin, hst, hk, hc, stOk, Bool.false_eq_true, if_false, ne_eq, not_true_eq_false]

/-- R134: an atomic is performed at its target. -/
theorem Chip.memLoad_amo {op : AmoOp} {v w : U64} (hk : a.kind = .amo op v w)
    (hs : (k.cluster c).stores.any (fun s => s.id < a.id && k.ordered c s.pa) = false) : k.memLoad c a =
    (k.cohAtomic (paLocal a.pa) op v w).1.finishLoad c a (toBytes 8 (k.cohAtomic (paLocal a.pa) op v w).2.1.toNat)
      (k.cohAtomic (paLocal a.pa) op v w).2.2 := by
  simp only [Chip.memLoad, hin, hst, hk, hs, stOk, Bool.false_eq_true, if_false, ne_eq, not_true_eq_false]

end Memory

/-! ## Stores -/

section Stores

variable {s : State} {c id : Nat} {x : StoreEnt}

/-- A store in its turn, whose cluster has nothing to perform by itself, is acknowledged at its target. -/
theorem storeAcknowledged_of_turn (hd : s.chip.drainAll c = s.chip) (hx : (s.chip.cluster c).stores.find? (fun x => x.id = id) = some x)
    (hown : s.chip.isOwn x.pa = true) (hturn : s.chip.storeTurn c x = true) :
    exec (.storeAcknowledged c id) s = .next ((if s.chip.isReg x.pa then s.regStore c x else s.onChip (fun k => k.memStore c x)).onChip
      (fun k => k.drainAll c)) := by
  refine Eq.trans (b := execStoreAcknowledged c id s) rfl ?_
  unfold execStoreAcknowledged
  simp only [State.onChip_eq_self (f := fun k => k.drainAll c) hd, hx, hown, hturn, Bool.not_true, Bool.or_self, Bool.false_eq_true,
    if_false]

theorem State.regStore_ok {l : RegLoc} (hl : s.regCheck (some (c / 24)) (paLocal x.pa) x.data.length = .ok l) : s.regStore c x =
    (s.onChip (fun k => k.dropStore c x.id)).regWrite (.seq c) l x.data.length (BitVec.ofNat 64 (ofBytes x.data)) :=
  State.regStore_eq hl

theorem State.regStore_lost (hl : s.regCheck (some (c / 24)) (paLocal x.pa) x.data.length = .lost) : s.regStore c x =
    s.onChip (fun k => k.storeFailed c x stLinkLost) :=
  State.regStore_eq hl

section MemStore

variable {k : Chip} (hin : k.inOwnStore c x.pa = false)
include hin

theorem Chip.memStore_unreached (hst : k.reachMem (some (c / 24)) (paLocal x.pa) ≠ 0) :
    k.memStore c x = k.storeFailed c x (k.reachMem (some (c / 24)) (paLocal x.pa)) := by
  simp only [Chip.memStore, hin, Bool.false_eq_true, if_false]
  exact if_pos hst

theorem Chip.memStore_sent (hst : k.reachMem (some (c / 24)) (paLocal x.pa) = 0) (hsent : x.sent = true) :
    k.memStore c x = ((k.dropStore c x.id).cohWrite (paLocal x.pa) x.data false).spoilZones (some c) (paLocal x.pa) x.data.length := by
  simp only [Chip.memStore, hin, hst, hsent, stOk, Bool.false_eq_true, if_false, ne_eq, not_true_eq_false, if_true]

end MemStore

/-- R333: what a store to this module that fails leaves. -/
theorem Chip.storeFailed_fields {k : Chip} (hown : k.isOwn x.pa = true) (st : Nat) :
    (k.storeFailed c x st).cluster c = (let y := k.cluster c
      { y with
        stores := y.stores.filter (·.id ≠ x.id), stCount := satAdd y.stCount 1, stFailed := true
        stOverrun := y.stFailed || y.stOverrun
        stCause := if y.stFailed then y.stCause else BitVec.ofNat 8 st
        stAddr := if y.stFailed then y.stAddr else BitVec.ofNat 56 x.pa
        haspBuf := y.haspBuf.map (fun o =>
          if x.no ≤ o.no && (o.scope = .system || o.scope = .package || (o.scope = .cluster && !x.sent)) then
            { o with err := true } else o) }) ∧
    (∀ d, d ≠ c → (k.storeFailed c x st).cluster d = k.cluster d) ∧ (k.storeFailed c x st).mem = k.mem ∧
    (k.storeFailed c x st).poison = k.poison := by
  refine ⟨?_, fun d hd => ?_, rfl, rfl⟩
  · unfold Chip.storeFailed
    rw [Chip.cluster_report, Chip.cluster_upd_self]
    simp only [hown, Bool.and_true]
    by_cases h : (k.cluster c).stFailed = true
    · simp [h]
    · simp [h]
  · unfold Chip.storeFailed
    rw [Chip.cluster_report, Chip.cluster_upd_ne _ _ hd]

end Stores

/-- Settles O28: the answer or the acknowledgement comes to its access, and what it leaves is that of `finishLoad`, `faultLoad` and
`storeFailed`. -/
theorem scalarAccessEnds : Obligations.ScalarAccessEnds := by
  refine ⟨?_, ?_, ?_⟩
  · intro s c id a k ends la hd ha
    have hexec : exec (.scalarLoadReturn c id) s = .next ((s.returnLoad c a).onChip (fun k => k.drainAll c)) :=
      scalarLoadReturn_of_quiet hd ha
    refine ⟨fun st v hans => ?_, fun hans hown hturn => ⟨fun hreg => ⟨fun l hl => ?_, fun hl => ?_⟩, fun hreg hin => ⟨fun hst => ?_, fun hst =>
      ⟨fun sg hk hc => ?_, fun op v w hk hs => ?_⟩⟩⟩⟩
    · by_cases hok : st = 0
      · rw [if_pos hok, hexec, State.returnLoad_ok hans hok]; rfl
      by_cases hp : st = 4
      · rw [if_neg hok, if_pos hp, hexec, State.returnLoad_poison hans hp]; rfl
      · rw [if_neg hok, if_neg hp, hexec, State.returnLoad_late hans hok hp]; rfl
    · rw [hexec, State.returnLoad_reg hans hown hturn hreg, State.regLoad_eq hl]; rfl
    · rw [hexec, State.returnLoad_reg hans hown hturn hreg, State.regLoad_eq hl]; rfl
    · rw [hexec, State.returnLoad_mem hans hown hturn hreg]
      exact congrArg ends (Chip.memLoad_unreached hin hst)
    · rw [hexec, State.returnLoad_mem hans hown hturn hreg]
      exact congrArg ends (Chip.memLoad_load hin hst hk hc)
    · rw [hexec, State.returnLoad_mem hans hown hturn hreg]
      exact congrArg ends (Chip.memLoad_amo hin hst hk hs)
  · intro k c a bs st x good bad late
    have hg := Chip.finishLoad_good k c a bs
    obtain ⟨eb, hb⟩ := Chip.finishLoad_bad k c a bs
    obtain ⟨el, hl⟩ := Chip.faultLoad_eq k c a st
    have hgood : good = _ := (congrArg (Chip.cluster · c) hg).trans (Chip.cluster_upd_self k c _)
    have hbad : bad = x.lateFault a 6 := (congrArg (Chip.cluster · c) hb).trans (Chip.cluster_upd_self k c (·.lateFault a 6))
    have hlate : late = x.lateFault a (faultOf st) :=
      (congrArg (Chip.cluster · c) hl).trans (Chip.cluster_upd_self k c (·.lateFault a (faultOf st)))
    obtain ⟨bregs, bloads, bfirst, bnext⟩ := hbad ▸ Cluster.lateFault_fields x a 6
    obtain ⟨lregs, lloads, lfirst, lnext⟩ := hlate ▸ Cluster.lateFault_fields x a (faultOf st)
    have hgl : good.loads = x.loads.filter (·.id ≠ a.id) := by rw [hgood, Cluster.setReg_eq]
    have hgf : good.faulted = x.faulted := by rw [hgood, Cluster.setReg_eq]
    refine ⟨fun r => ?_, hgl, hgf, ?_, fun h => ⟨bfirst h, lfirst h⟩, fun h => ⟨bnext h, lnext h⟩,
      fun r => ⟨Cluster.reg_congr bregs r, Cluster.reg_congr lregs r⟩, bloads, lloads, fun b p => ⟨?_, ?_, ?_⟩, fun d hd => ⟨?_, ?_, ?_⟩⟩
    · exact (congrArg (Cluster.reg · r) hgood).trans (Cluster.reg_setReg _ a.rd r _)
    · rw [hgood, Cluster.setReg_eq]
    · cases p
      · rw [hg]; exact Chip.byte_updCluster k c _ b
      · rw [hb, Chip.byte_report]; exact Chip.byte_updCluster k c _ b
    · rw [hl, Chip.byte_report]; exact Chip.byte_updCluster k c _ b
    · cases p
      · rw [hg]; rfl
      · rw [hb]; rfl
    · rw [hb, Chip.cluster_report]; exact Chip.cluster_upd_ne k _ hd
    · rw [hg]; exact Chip.cluster_upd_ne k _ hd
    · rw [hl, Chip.cluster_report]; exact Chip.cluster_upd_ne k _ hd
  · intro s c id x k la st failed hd hx hown hturn
    have hexec := storeAcknowledged_of_turn hd hx hown hturn
    have fails (st' : Nat) (h : exec (.storeAcknowledged c id) s = s.goes ((k.storeFailed c x st').drainAll c)) : failed st' :=
      ⟨_, h, Chip.storeFailed_fields hown st'⟩
    refine ⟨fun hreg => ?_, fun hreg hin => ?_⟩
    · rw [if_pos hreg] at hexec
      exact ⟨fun l hl => hexec.trans (by rw [State.regStore_ok hl]; rfl),
        fun hl => fails 6 (hexec.trans (by rw [State.regStore_lost hl]; rfl))⟩
    · rw [if_neg (ne_true_of_eq_false hreg)] at hexec
      have hmem : exec (.storeAcknowledged c id) s = s.goes ((k.memStore c x).drainAll c) := hexec
      exact ⟨fun hst => fails st (hmem.trans (by rw [Chip.memStore_unreached hin hst])),
        fun hst hsent => hmem.trans (by rw [Chip.memStore_sent hin hst hsent])⟩

end Sys2Proof.Machine
end

section
/-! PROOFS. The dispatcher registers and the results of an abort (R98-R102, R114-R118). -/

namespace Sys2Proof.Machine

/-! ## Queues of a quadrant -/

@[simp] theorem Quad.queue_upd_self (d : Quad) (n : Nat) (f : WQueue → WQueue) : (d.updQueue n f).queue n = f (d.queue n) :=
  tblGet_mod_self ..

theorem Quad.queue_upd_ne (d : Quad) {n m : Nat} (f : WQueue → WQueue) (h : m ≠ n) : (d.updQueue n f).queue m = d.queue m :=
  tblGet_mod_ne _ _ _ h

theorem Quad.updQueue_congr {d : Quad} {n : Nat} {f g : WQueue → WQueue} (h : f (d.queue n) = g (d.queue n)) :
    d.updQueue n f = d.updQueue n g := by
  unfold Quad.updQueue tblMod
  exact congrArg (fun w => { d with queues := tblPut WQueue.reset d.queues n w }) h

theorem Chip.updQuad_congr {k : Chip} {q : Nat} {f g : Quad → Quad} (h : f (k.quad q) = g (k.quad q)) : k.updQuad q f = k.updQuad q g := by
  unfold Chip.updQuad tblMod
  exact congrArg (fun d => { k with quads := tblPut Quad.reset k.quads q d }) h

theorem mem_span {a n i : Nat} : i ∈ span a n ↔ a ≤ i ∧ i < a + n := by
  simp only [span, List.mem_map, List.mem_range]
  exact ⟨fun ⟨j, hj, h⟩ => by omega, fun h => ⟨i - a, by omega, by omega⟩⟩

/-- The clusters of a quadrant are those whose number says so. -/
theorem mem_quadClusters {q c : Nat} : c ∈ quadClusters q ↔ c / 24 = q := by
  rw [quadClusters, mem_span]
  omega

/-! ## Queue registers (R98-R102) -/

/-- `DSP_CTL` as a whole write sets it. -/
theorem Quad.writeCtl_full (d : Quad) (v : U64) :
    d.writeCtl { part := .full, val := v } = { d with enable := v.getLsbD 0 && !d.orphaned, pgate := v.getLsbD 1 } := by
  simp only [Quad.writeCtl, regMerge_full]

section Qcfg

variable (d : Quad) (n : Nat) (w : RegW)

/-- A write to `DSP_QCFG` touches the queue it names. -/
theorem Quad.queue_writeQcfg (m : Nat) :
    (d.writeQcfg n w).queue m = if m = n then (d.queue n).writeCfg (d.live n) w else d.queue m := by
  have hq : (d.writeQcfg n w).queue m = (d.updQueue n (fun x => x.writeCfg (d.live n) w)).queue m := by
    unfold Quad.writeQcfg
    dsimp only
    split <;> rfl
  rw [hq]
  split
  case isTrue h => rw [h, Quad.queue_upd_self]
  case isFalse h => exact Quad.queue_upd_ne d _ h

/-- Where the write enables the queue, its launches move `RETIRED` no more. -/
theorem Quad.launches_writeQcfg (hw : (d.queue n).enable = false) (he : ((d.writeQcfg n w).queue n).enable = true) :
    (d.writeQcfg n w).launches = d.launches.map (fun l => if l.queue = n then { l with late := true } else l) := by
  rw [Quad.queue_writeQcfg, if_pos rfl] at he
  unfold Quad.writeQcfg
  simp only [hw, Quad.queue_upd_self, he, Bool.not_false, Bool.and_self, if_true]
  rfl

end Qcfg

section WriteCfg

variable (w : WQueue) (live : Bool) (v : U64)

/-- The flags that a write to `DSP_QCFG` clears with 1, and what no such write changes. -/
theorem WQueue.writeCfg_flags : (w.writeCfg live { part := .full, val := v }).stale = (w.stale && !v.getLsbD 5) ∧
    (w.writeCfg live { part := .full, val := v }).overrun = (w.overrun && !v.getLsbD 6) ∧
    (w.writeCfg live { part := .full, val := v }).ringErr = (w.ringErr && !v.getLsbD 7) ∧
    (w.writeCfg live { part := .full, val := v }).base = w.base ∧ (w.writeCfg live { part := .full, val := v }).next = w.next := by
  simp only [WQueue.writeCfg, regMerge_full, regSets_full]
  by_cases he : w.enable = true
  · rw [if_pos he]
    split <;> exact ⟨rfl, rfl, rfl, rfl, rfl⟩
  · rw [if_neg he]
    split <;> exact ⟨rfl, rfl, rfl, rfl, rfl⟩

/-- R101: an enabled queue is disabled only when nothing of it is unread or running, and keeps ring and indices. -/
theorem WQueue.writeCfg_enabled (he : w.enable = true) :
    (w.writeCfg live { part := .full, val := v }).log2 = w.log2 ∧ (w.writeCfg live { part := .full, val := v }).head = w.head ∧
    (w.writeCfg live { part := .full, val := v }).tail = w.tail ∧ (w.writeCfg live { part := .full, val := v }).retired = w.retired ∧
    ((w.writeCfg live { part := .full, val := v }).enable = true ↔ v.getLsbD 0 = true ∨ w.head ≠ w.tail ∨ live = true) := by
  have hc : (v.getLsbD 0 || decide (w.head ≠ w.tail) || live) = true ↔ v.getLsbD 0 = true ∨ w.head ≠ w.tail ∨ live = true := by
    simp [or_assoc]
  simp only [WQueue.writeCfg, regMerge_full, regSets_full, if_pos he]
  by_cases h : (v.getLsbD 0 || decide (w.head ≠ w.tail) || live) = true
  · rw [if_pos h]
    exact ⟨rfl, rfl, rfl, rfl, iff_of_true he (hc.1 h)⟩
  · rw [if_neg h]
    exact ⟨rfl, rfl, rfl, rfl, iff_of_false Bool.false_ne_true (fun g => h (hc.2 g))⟩

/-- R100, R101: a disabled queue takes its size, and is enabled with its indices at zero where the size is legal. -/
theorem WQueue.writeCfg_disabled (he : w.enable = false) :
    (w.writeCfg live { part := .full, val := v }).log2 = v.extractLsb' 1 4 ∧
    ((w.writeCfg live { part := .full, val := v }).enable = true ↔
      v.getLsbD 0 = true ∧ 4 ≤ (v.extractLsb' 1 4).toNat ∧ (v.extractLsb' 1 4).toNat ≤ 12) ∧
    ((w.writeCfg live { part := .full, val := v }).enable = true → (w.writeCfg live { part := .full, val := v }).head = 0 ∧
      (w.writeCfg live { part := .full, val := v }).tail = 0 ∧ (w.writeCfg live { part := .full, val := v }).retired = 0) := by
  have hc : (v.getLsbD 0 && decide (4 ≤ (v.extractLsb' 1 4).toNat) && decide ((v.extractLsb' 1 4).toNat ≤ 12)) = true ↔
      v.getLsbD 0 = true ∧ 4 ≤ (v.extractLsb' 1 4).toNat ∧ (v.extractLsb' 1 4).toNat ≤ 12 := by
    simp [and_assoc]
  simp only [WQueue.writeCfg, regMerge_full, regSets_full, if_neg (ne_true_of_eq_false he)]
  by_cases h : (v.getLsbD 0 && decide (4 ≤ (v.extractLsb' 1 4).toNat) && decide ((v.extractLsb' 1 4).toNat ≤ 12)) = true
  · rw [if_pos h]
    exact ⟨rfl, iff_of_true rfl (hc.1 h), fun _ => ⟨rfl, rfl, rfl⟩⟩
  · rw [if_neg h]
    exact ⟨rfl, iff_of_false (ne_true_of_eq_false he) (fun g => h (hc.2 g)), fun g => absurd g (ne_true_of_eq_false he)⟩

/-- R102: what a doorbell leaves. -/
theorem WQueue.doorbell_eq (t : BitVec 16) : w.doorbell t = if w.enable = false then w
    else if (w.tail - w.retired).toNat ≤ (t - w.retired).toNat ∧ (t - w.retired).toNat ≤ w.size then
      { w with tail := t, stopped := w.stopped && w.ringErr }
    else { w with overrun := true } := by
  by_cases he : w.enable = true
  · simp [WQueue.doorbell, he]
  · simp [WQueue.doorbell, he]

end WriteCfg

/-! ## Cluster reset requests (R118) -/

/-- A free cluster put into reset by a write to `DSP_CRST`. -/
def Chip.crstStep (w : RegW) (k : Chip) (c : Nat) : Chip :=
  if regSets w (c % 24) && k.freeCluster c then k.updCluster c (fun x => { x with st := .reset }) else k

theorem Chip.crstStep_cluster (w : RegW) (k : Chip) (c d : Nat) : (k.crstStep w c).cluster d =
    if d = c ∧ regSets w (d % 24) = true ∧ k.freeCluster d = true then { k.cluster d with st := .reset } else k.cluster d := by
  unfold Chip.crstStep
  rcases eq_or_ne d c with hd | hd
  · subst hd
    by_cases h : (regSets w (d % 24) && k.freeCluster d) = true
    · rw [if_pos h, if_pos ⟨rfl, Bool.and_eq_true_iff.1 h⟩, Chip.cluster_upd_self]
    · rw [if_neg h, if_neg (fun g => h (Bool.and_eq_true_iff.2 (And.right g)))]
  · refine Eq.trans ?_ (if_neg (fun g => hd (And.left g))).symm
    split
    · exact Chip.cluster_upd_ne _ _ hd
    · rfl

theorem Chip.crstStep_frame (w : RegW) (k : Chip) (c : Nat) : k.crstStep w c = { k with clusters := (k.crstStep w c).clusters } := by
  unfold Chip.crstStep
  split <;> rfl

/-- Each free cluster of a list that the write names is put into reset, and nothing else changes. -/
theorem Chip.foldl_crstStep (w : RegW) (l : List Nat) (k : Chip) :
    (∀ c, (l.foldl (Chip.crstStep w) k).cluster c =
      if c ∈ l ∧ regSets w (c % 24) = true ∧ k.freeCluster c = true then { k.cluster c with st := .reset } else k.cluster c) ∧
    l.foldl (Chip.crstStep w) k = { k with clusters := (l.foldl (Chip.crstStep w) k).clusters } := by
  induction l generalizing k with
  | nil => exact ⟨fun c => by simp, rfl⟩
  | cons b l ih =>
    obtain ⟨hc, hf⟩ := ih (k.crstStep w b)
    refine ⟨fun c => ?_, ?_⟩
    · rw [List.foldl_cons, hc c, Chip.freeCluster, Chip.crstStep_cluster]
      by_cases h : c = b ∧ regSets w (c % 24) = true ∧ k.freeCluster c = true
      · obtain ⟨rfl, hs, hfree⟩ := h
        simp [hs, hfree]
      · rw [if_neg h]
        by_cases hb : c = b
        · have hn : ¬ (regSets w (c % 24) = true ∧ k.freeCluster c = true) := fun g => h ⟨hb, g⟩
          rw [if_neg (fun g => hn g.2), if_neg (fun g => hn g.2)]
        · simp only [List.mem_cons, hb, false_or]
          rfl
    · rw [List.foldl_cons, hf]
      rw [Chip.crstStep_frame]

/-- Settles O29: each register by what its write leaves. -/
theorem dispatcherRegisters : Obligations.DispatcherRegisters := by
  intro s q n v k full w hup
  refine ⟨?_, fun hn => ⟨?_, fun m hm => ?_, ?_⟩, fun hn => ?_, fun hb k1 r hk => ?_, ?_⟩
  · have hw : (fun d : Quad => d.writeCtl full) = _ := funext fun d => Quad.writeCtl_full d v
    exact congrArg s.goes ((if_pos hup).trans (congrArg (k.updQuad q) hw))
  · exact congrArg s.goes (if_pos (Bool.and_eq_true_iff.2 ⟨hup, decide_eq_true hn⟩))
  · exact (Quad.queue_writeQcfg _ n full m).trans (if_neg hm)
  · have hy : ((k.quad q).writeQcfg n full).queue n = w.writeCfg ((k.quad q).live n) full := (Quad.queue_writeQcfg _ n full n).trans (if_pos rfl)
    obtain ⟨hs, ho, hr, hbase, hnext⟩ := WQueue.writeCfg_flags w ((k.quad q).live n) v
    rw [← hy] at hs ho hr hbase hnext
    have hlive := Quad.launches_writeQcfg (k.quad q) n full
    refine ⟨hs, ho, hr, hbase, fun he => ?_, fun he => ?_⟩
    · exact hy ▸ WQueue.writeCfg_enabled w ((k.quad q).live n) v he
    · obtain ⟨hlog, hen, hidx⟩ := hy ▸ WQueue.writeCfg_disabled w ((k.quad q).live n) v he
      refine ⟨hlog, hen, fun hon => ?_⟩
      obtain ⟨hh, ht, hret⟩ := hidx hon
      exact ⟨hh, ht, hret, hnext, hlive he hon⟩
  · refine congrArg s.goes ((if_pos ?_).trans (Chip.updQuad_congr (Quad.updQueue_congr ?_)))
    · simp [full, show s.chip.bankUp q = true from hup, hn]
    · exact WQueue.doorbell_eq w (v.extractLsb' 0 16)
  · have hc : (k.bankUp q && !(k.quad q).abtBusy && decide (full.part ≠ .high)) = true := by simp [show s.chip.bankUp q = true from hup, show (s.chip.quad q).abtBusy = false from hb, full, k]
    have hi : (v.extractLsb' 0 8).toNat = v.toNat % 256 := by simp
    have ha : k.abort q (full.val.extractLsb' 0 8).toNat (full.val.extractLsb' 16 16) = (k1, r) := by rw [← hk, ← hi]
    refine congrArg s.goes ((if_pos hc).trans ?_)
    rw [ha]
  · obtain ⟨hcl, hfr⟩ := Chip.foldl_crstStep full (quadClusters q) k
    refine ⟨s.onChip (fun k => (quadClusters q).foldl (Chip.crstStep full) k), congrArg s.goes (if_pos hup), fun c => ?_, ?_⟩
    · refine (hcl c).trans (if_congr ?_ rfl rfl)
      rw [mem_quadClusters, regSets_full, Chip.freeCluster, Bool.or_eq_true, decide_eq_true_eq, decide_eq_true_eq]
    · exact congrArg (fun j : Chip => { s with chip := j }) hfr

/-- Settles O30: the branches of the abort, by where the record stands. -/
theorem abortResults : Obligations.AbortResults := by
  intro k q n i d w at'
  refine ⟨fun h => if_pos h, fun h1 h2 => ⟨fun hi => ?_, fun hi => ?_⟩, fun h1 h2 => ?_⟩
  · exact (if_neg (not_le.2 h1)).trans ((if_pos h2).trans (if_pos (List.contains_iff_mem.2 hi)))
  · exact (if_neg (not_le.2 h1)).trans ((if_pos h2).trans (if_neg (fun g => hi (List.contains_iff_mem.1 g))))
  · have hab : k.abort q n i = _ := (if_neg (not_le.2 h1)).trans (if_neg (not_le.2 h2))
    have hlaunch (h : ∀ r, w.next = some r → r.seq = i → w.nextLate = true) : k.abort q n i = k.abortLaunch q n i := by
      rw [hab]
      cases hn : ((k.quad q).queue n).next with
      | none => rfl
      | some r => exact if_neg (fun g => by
          obtain ⟨hs, hl⟩ := Bool.and_eq_true_iff.1 g
          have := h r hn (of_decide_eq_true hs)
          exact absurd this (ne_true_of_eq_false (Bool.not_eq_true' _ ▸ hl)))
    refine ⟨fun r hn hs hl ha => ?_, fun r hn hs hl ha => ?_, fun h => ⟨fun hf => ?_, fun l hf => ⟨fun ho => ?_, fun ho ha => ?_, fun ho ha => ?_⟩⟩⟩
    · rw [hab]
      simp [show ((k.quad q).queue n).next = some r from hn, hs, show ((k.quad q).queue n).nextLate = false from hl, ha, abDenied]
    · have habort : k.abort q n i = ((k.updQuad q (fun d =>
          { d.updQueue n (fun w => { w with next := none }) with
             gathering := if d.gathering = some n then none else d.gathering
             gathered := if d.gathering = some n then [] else d.gathered })).emptyLaunch q n r 2, 1) := by
        rw [hab]
        simp [show ((k.quad q).queue n).next = some r from hn, hs, show ((k.quad q).queue n).nextLate = false from hl, ha, abAborted]
      rw [habort]
      refine ⟨rfl, ?_, ?_⟩
      · simp only [Chip.emptyLaunch, Chip.updQuad_upd, Chip.quad_upd_self]
        exact congrArg WQueue.next (Quad.queue_upd_self (k.quad q) n (fun w => { w with next := none }))
      · simp only [Chip.emptyLaunch, Chip.updQuad_upd, Chip.quad_upd_self, List.map_append]
        rfl
    · rw [hlaunch h, Chip.abortLaunch, show (k.quad q).launches.find? _ = none from hf]; rfl
    · rw [hlaunch h, Chip.abortLaunch, show (k.quad q).launches.find? _ = some l from hf]
      exact if_pos (Option.isSome_iff_ne_none.2 ho)
    · rw [hlaunch h, Chip.abortLaunch, show (k.quad q).launches.find? _ = some l from hf]
      simp [ho, ha, abDenied]
    · rw [hlaunch h, Chip.abortLaunch, show (k.quad q).launches.find? _ = some l from hf]
      simp [ho, ha, abAborted]

end Sys2Proof.Machine
end

section
/-! PROOFS. The hasp banks: operations, waits, notifiers and their commands (R284-R308). -/

namespace Sys2Proof.Machine

/-- A table mapped entry by entry, where the default maps to itself. -/
theorem tblGet_mapKey {α : Type} (d : α) (f : Nat → α → α) (h : ∀ k, f k d = d) (m : SMap α) (k : Nat) :
    tblGet d (m.map (fun e => (e.1, f e.1 e.2))) k = f k (tblGet d m k) := by
  induction m with
  | nil => exact (h k).symm
  | cons e m ih =>
    obtain ⟨j, v⟩ := e
    simp only [List.map_cons, tblGet]
    split
    case isTrue hj => rw [hj]
    case isFalse => exact ih

/-! ## Notifiers (R308) -/

section Notifiers

variable (d : Quad) (n : Nat)

/-- Notifier `n` of a quadrant. -/
def Quad.notifier (d : Quad) (n : Nat) : Notifier := tblGet Notifier.reset d.notifiers n

/-- A notifier after it has been evaluated. -/
def Quad.evaluated (d : Quad) (x : Notifier) : Notifier := if d.fires x then { x with fired := true } else x

theorem Quad.notifier_eval (m : Nat) :
    (d.evalNotifier n).notifier m = if m = n then d.evaluated (d.notifier n) else d.notifier m := by
  simp only [Quad.evalNotifier, Quad.evaluated]
  by_cases h : d.fires (tblGet Notifier.reset d.notifiers n) = true
  · rw [if_pos h, if_pos (show d.fires (d.notifier n) = true from h)]
    exact tblGet_put ..
  · rw [if_neg h, if_neg (show ¬ d.fires (d.notifier n) = true from h)]
    split
    case isTrue hm => rw [hm]
    case isFalse => rfl

theorem Quad.evalNotifier_frame : d.evalNotifier n = { d with notifiers := (d.evalNotifier n).notifiers } := by
  simp only [Quad.evalNotifier]
  split <;> rfl

/-- The evaluation of the notifiers of hasp `i` among the first `m`. -/
def Quad.evalHaspTo (d : Quad) (i m : Nat) : Quad :=
  (List.range m).foldl (fun q n => if (tblGet Notifier.reset q.notifiers n).index.toNat = i then q.evalNotifier n else q) d

theorem Quad.evaluated_congr {d e : Quad} (h : e.hasps = d.hasps) (x : Notifier) : e.evaluated x = d.evaluated x := by
  have hf : e.fires x = d.fires x := by unfold Quad.fires Quad.hasp; rw [h]
  simp only [Quad.evaluated, hf]

theorem Quad.evalHaspTo_spec (i m : Nat) : (d.evalHaspTo i m) = { d with notifiers := (d.evalHaspTo i m).notifiers } ∧
    ∀ n, (d.evalHaspTo i m).notifier n =
      if n < m ∧ (d.notifier n).index.toNat = i then d.evaluated (d.notifier n) else d.notifier n := by
  induction m with
  | zero => exact ⟨rfl, fun n => by simp [Quad.evalHaspTo]⟩
  | succ m ih =>
    obtain ⟨hf, hn⟩ := ih
    have hself : (d.evalHaspTo i m).notifier m = d.notifier m := (hn m).trans (if_neg (fun h => absurd h.1 (lt_irrefl m)))
    have hstep : d.evalHaspTo i (m + 1) =
        if ((d.evalHaspTo i m).notifier m).index.toNat = i then (d.evalHaspTo i m).evalNotifier m else d.evalHaspTo i m := by
      simp only [Quad.evalHaspTo, List.range_succ, List.foldl_append, List.foldl_cons, List.foldl_nil]
      rfl
    have hh : (d.evalHaspTo i m).hasps = d.hasps := by rw [hf]
    rw [hstep, hself]
    by_cases hi : (d.notifier m).index.toNat = i
    · rw [if_pos hi]
      refine ⟨?_, fun n => ?_⟩
      · rw [Quad.evalNotifier_frame, hf]
      · rw [Quad.notifier_eval, hself, Quad.evaluated_congr hh]
        by_cases hm : n = m
        · subst hm
          rw [if_pos rfl, if_pos ⟨Nat.lt_succ_self n, hi⟩]
        · rw [if_neg hm, hn n]
          exact if_congr (and_congr_left' (by omega)) rfl rfl
    · rw [if_neg hi]
      refine ⟨hf, fun n => (hn n).trans (if_congr ?_ rfl rfl)⟩
      constructor
      · exact fun h => ⟨by omega, h.2⟩
      · rintro ⟨hlt, hx⟩
        refine ⟨?_, hx⟩
        have : n ≠ m := fun e => hi (e ▸ hx)
        omega

end Notifiers

/-! ## Operations (R284, R287) -/

section Apply

variable (h : Hasp) (v : BitVec 48) (err : Bool)

/-- R284: an addition saturates. -/
theorem Hasp.apply_add : (h.apply .add v err).1.count.toNat = min (h.count.toNat + v.toNat) (2 ^ 48 - 1) ∧
    (h.apply .add v err).1.sat = (h.sat || decide (2 ^ 48 ≤ h.count.toNat + v.toNat)) ∧ (h.apply .add v err).1.err = (h.err || err) ∧
    h.count.toNat ≤ (h.apply .add v err).1.count.toNat := by
  have hc := h.count.isLt
  by_cases hs : 2 ^ 48 ≤ h.count.toNat + v.toNat
  · simp only [Hasp.apply, Hasp.add, if_pos hs, BitVec.toNat_allOnes, decide_eq_true hs, Bool.or_true, true_and]
    omega
  · simp only [Hasp.apply, Hasp.add, if_neg hs, BitVec.toNat_add, decide_eq_false hs, Bool.or_false, true_and]
    omega

theorem Hasp.apply_set : (h.apply .set v err).1.count = v ∧ (h.apply .set v err).1.sat = h.sat ∧ (h.apply .set v err).1.err = (h.err || err) :=
  ⟨rfl, rfl, rfl⟩

theorem Hasp.apply_reset : (h.apply .reset v err).1.count = 0 ∧ (h.apply .reset v err).1.sat = false ∧ (h.apply .reset v err).1.err = err :=
  ⟨rfl, rfl, rfl⟩

end Apply

section Bank

variable (k : Chip) (q i : Nat) (act : HaspAct) (v : BitVec 48) (err : Bool)

/-- The quadrant of a bank that has applied an operation, before its notifiers are evaluated. -/
def Quad.counted (d : Quad) (i : Nat) (act : HaspAct) (v : BitVec 48) (err : Bool) : Quad :=
  { d with hasps := tblPut Hasp.reset d.hasps i ((d.hasp i).apply act v err).1, satev := d.satev || ((d.hasp i).apply act v err).2 }

theorem Quad.evalHasp_eq (d : Quad) : d.evalHasp i = d.evalHaspTo i 64 := rfl

/-- The bank counts, evaluates the notifiers of the hasp, and ends the waits that the count satisfies. -/
theorem Chip.bankApply_eq : k.bankApply q i act v err = (k.updQuad q (fun d => (d.counted i act v err).evalHaspTo i 64)).wakeWaits
    (BitVec.ofNat 14 (q * 4096 + i)) (((k.quad q).hasp i).apply act v err).1.count := by
  simp only [Chip.bankApply, Quad.evalHasp_eq]
  exact congrArg (Chip.wakeWaits · _ _) (Chip.updQuad_congr rfl)

/-- The bank itself, and the quadrants of the others. -/
theorem Chip.bankApply_quad (r : Nat) : (k.bankApply q i act v err).quad r =
    if r = q then ((k.quad q).counted i act v err).evalHaspTo i 64 else k.quad r := by
  rw [Chip.bankApply_eq]
  have hw (j : Chip) (h : BitVec 14) (n : BitVec 48) : (j.wakeWaits h n).quad r = j.quad r := rfl
  rw [hw]
  split
  case isTrue hr => rw [hr, Chip.quad_upd_self]
  case isFalse hr => exact Chip.quad_upd_ne k _ hr

theorem Quad.hasp_evalHaspTo (d : Quad) (m j : Nat) : (d.evalHaspTo i m).hasp j = d.hasp j := by
  rw [(d.evalHaspTo_spec i m).1]
  rfl

theorem Quad.hasp_counted (d : Quad) (j : Nat) :
    (d.counted i act v err).hasp j = if j = i then ((d.hasp i).apply act v err).1 else d.hasp j := tblGet_put ..

/-- No operation on its way to a bank, and no store, changes. -/
theorem Chip.haspBehind_congr {k l : Chip} {c : Nat} (hc : l.cluster c = k.cluster c) (hq : ∀ r, (l.quad r).inbox = (k.quad r).inbox)
    (hp : l.isOwn = k.isOwn) (h : BitVec 14) (no : Nat) : l.haspBehind c h no = k.haspBehind c h no := by
  simp only [Chip.haspBehind, Chip.haspOps, Chip.hspStores, hc, hq, hp]

/-- R293: the clusters once the bank has ended the waits that the count satisfies. -/
theorem Chip.wakeWaits_cluster (j : Chip) (h : BitVec 14) (n : BitVec 48) (c : Nat) :
    (j.wakeWaits h n).cluster c = { j.cluster c with
      whEnded := (j.cluster c).whEnded ||
        (j.cluster c).waits.any (fun w => (w.hasp = h && decide (w.v.toNat ≤ n.toNat) && !j.haspBehind c h w.no) && !w.gate)
      waits := (j.cluster c).waits.filter (fun w => !(w.hasp = h && decide (w.v.toNat ≤ n.toNat) && !j.haspBehind c h w.no)) } :=
  tblGet_mapKey Cluster.reset (fun c x => { x with
      whEnded := x.whEnded || x.waits.any (fun w => (w.hasp = h && decide (w.v.toNat ≤ n.toNat) && !j.haspBehind c h w.no) && !w.gate)
      waits := x.waits.filter (fun w => !(w.hasp = h && decide (w.v.toNat ≤ n.toNat) && !j.haspBehind c h w.no)) })
    (fun _ => rfl) j.clusters c

section Frame

variable (F : Quad → Quad) (h : BitVec 14) (n : BitVec 48)

/-- The end of waits touches no byte, hart or record. -/
theorem Chip.wakeWaits_frame : (∀ a, ((k.updQuad q F).wakeWaits h n).byte a = k.byte a) ∧
    ((k.updQuad q F).wakeWaits h n).harts = k.harts ∧ ((k.updQuad q F).wakeWaits h n).mgmt = k.mgmt :=
  ⟨fun _ => rfl, rfl, rfl⟩

theorem Chip.haspBehind_updQuad (hF : (F (k.quad q)).inbox = (k.quad q).inbox) (c no : Nat) :
    (k.updQuad q F).haspBehind c h no = k.haspBehind c h no := by
  refine Chip.haspBehind_congr (l := k.updQuad q F) (k := k) (c := c) rfl (fun r => ?_) rfl h no
  by_cases hr : r = q
  · rw [hr, Chip.quad_upd_self, hF]
  · rw [Chip.quad_upd_ne _ _ hr]

/-- The clusters where the quadrant of the bank keeps the operations on their way. -/
theorem Chip.wakeWaits_updQuad (hF : (F (k.quad q)).inbox = (k.quad q).inbox) (c : Nat) :
    ((k.updQuad q F).wakeWaits h n).cluster c = { k.cluster c with
      whEnded := (k.cluster c).whEnded ||
        (k.cluster c).waits.any (fun w => w.hasp = h && decide (w.v.toNat ≤ n.toNat) && !k.haspBehind c h w.no && !w.gate)
      waits := (k.cluster c).waits.filter (fun w => !(w.hasp = h && decide (w.v.toNat ≤ n.toNat) && !k.haspBehind c h w.no)) } := by
  rw [Chip.wakeWaits_cluster]
  simp only [Chip.haspBehind_updQuad k q F h hF]
  rfl

end Frame

theorem Chip.bankApply_cluster (c : Nat) : (k.bankApply q i act v err).cluster c = { k.cluster c with
      whEnded := (k.cluster c).whEnded || (k.cluster c).waits.any (fun w => w.hasp = BitVec.ofNat 14 (q * 4096 + i) &&
        decide (w.v.toNat ≤ (((k.quad q).hasp i).apply act v err).1.count.toNat) && !k.haspBehind c (BitVec.ofNat 14 (q * 4096 + i)) w.no && !w.gate)
      waits := (k.cluster c).waits.filter (fun w => !(w.hasp = BitVec.ofNat 14 (q * 4096 + i) &&
        decide (w.v.toNat ≤ (((k.quad q).hasp i).apply act v err).1.count.toNat) && !k.haspBehind c (BitVec.ofNat 14 (q * 4096 + i)) w.no)) } := by
  rw [Chip.bankApply_eq]
  refine Chip.wakeWaits_updQuad k q _ _ _ ?_ c
  rw [(((k.quad q).counted i act v err).evalHaspTo_spec i 64).1]
  rfl

theorem Chip.bankApply_frame : (∀ a, (k.bankApply q i act v err).byte a = k.byte a) ∧ (k.bankApply q i act v err).harts = k.harts ∧
    (k.bankApply q i act v err).mgmt = k.mgmt := by
  rw [Chip.bankApply_eq]
  exact Chip.wakeWaits_frame k q _ _ _

end Bank

/-- Settles O35: the hasp by its operation, the notifiers by the evaluation, the waits by the wake. -/
theorem haspOperation : Obligations.HaspOperation := by
  intro k q i act v err hq hi h k1 g id
  have hquad (r : Nat) : k1.quad r = if r = q then ((k.quad q).counted i act v err).evalHaspTo i 64 else k.quad r :=
    Chip.bankApply_quad k q i act v err r
  have hself : k1.quad q = ((k.quad q).counted i act v err).evalHaspTo i 64 := (hquad q).trans (if_pos rfl)
  have hg : g = (h.apply act v err).1 := by
    refine (congrArg (Quad.hasp · i) hself).trans ?_
    rw [Quad.hasp_evalHaspTo, Quad.hasp_counted, if_pos rfl]
  refine ⟨fun ha => ?_, fun ha => ?_, fun ha => ?_, fun r j hne => ?_, fun n hn => ?_, fun c => ?_, fun a => ?_, ?_, ?_⟩
  · rw [hg, ha]; exact Hasp.apply_add h v err
  · rw [hg, ha]; exact Hasp.apply_set h v err
  · rw [hg, ha]; exact Hasp.apply_reset h v err
  · rw [hquad r]
    split
    case isTrue hr =>
      rw [Quad.hasp_evalHaspTo, Quad.hasp_counted, if_neg (fun hj => hne (by rw [hr, hj])), hr]
    case isFalse => rfl
  · intro x
    refine (congrArg (Quad.notifier · n) hself).trans ?_
    rw [((k.quad q).counted i act v err).evalHaspTo_spec i 64 |>.2 n]
    have hx : ((k.quad q).counted i act v err).notifier n = x := rfl
    have hf : x.index.toNat = i → ((k.quad q).counted i act v err).fires x = (x.en && (decide (x.thresh.toNat ≤ g.count.toNat) || (x.onErr && g.err))) := by
      intro hxi
      rw [hg]
      simp only [Quad.fires, hxi, Quad.hasp_counted, if_true]
      rfl
    rw [hx]
    by_cases hxi : x.index.toNat = i
    · rw [if_pos ⟨hn, hxi⟩, Quad.evaluated, hf hxi]
      exact if_congr (by simp [hxi]) rfl rfl
    · rw [if_neg (fun h => hxi h.2), if_neg (fun h => hxi h.1)]
  · have hc : k1.cluster c = _ := Chip.bankApply_cluster k q i act v err c
    rw [hc, hg]
    exact ⟨rfl, rfl, rfl⟩
  · exact (Chip.bankApply_frame k q i act v err).1 a
  · exact (Chip.bankApply_frame k q i act v err).2.1
  · exact (Chip.bankApply_frame k q i act v err).2.2

/-! ## The commands of the banks -/

/-- `HSP_NCFG` as a whole write sets it. -/
theorem Notifier.writeCfg_full (o : Notifier) (w : U64) : o.writeCfg { part := .full, val := w } = { o with
    index := w.extractLsb' 0 12, en := w.getLsbD 16, onErr := w.getLsbD 17, fired := o.fired && !w.getLsbD 18 } := by
  simp only [Notifier.writeCfg, regMerge_full, regSets_full]

section NotifierWrite

variable (d : Quad) (n : Nat) (f : Notifier → Notifier)

/-- A notifier register written, and the notifier evaluated. -/
def Quad.writeNotifier : Quad := { d with notifiers := tblMod Notifier.reset d.notifiers n f }.evalNotifier n

theorem Quad.writeNotifier_frame : d.writeNotifier n f = { d with notifiers := (d.writeNotifier n f).notifiers } := by
  unfold Quad.writeNotifier
  rw [Quad.evalNotifier_frame]

theorem Quad.writeNotifier_self : (d.writeNotifier n f).notifier n = d.evaluated (f (d.notifier n)) := by
  have hself : { d with notifiers := tblMod Notifier.reset d.notifiers n f }.notifier n = f (d.notifier n) := tblGet_mod_self ..
  unfold Quad.writeNotifier
  rw [Quad.notifier_eval, if_pos rfl, hself]
  rfl

theorem Quad.writeNotifier_ne {m : Nat} (h : m ≠ n) : (d.writeNotifier n f).notifier m = d.notifier m := by
  unfold Quad.writeNotifier
  rw [Quad.notifier_eval, if_neg h]
  exact tblGet_mod_ne _ _ _ h

theorem Quad.evaluated_eq (x : Notifier) : d.evaluated x = { x with fired := x.fired || d.fires x } := by
  unfold Quad.evaluated
  cases h : d.fires x <;> simp

/-- What a write to a notifier register leaves. -/
theorem Chip.writeNotifier_spec (k : Chip) (q n : Nat) (f : Notifier → Notifier) :
    let t := k.updQuad q (fun d => d.writeNotifier n f)
    tblGet Notifier.reset (t.quad q).notifiers n = (k.quad q).evaluated (f ((k.quad q).notifier n)) ∧
    (∀ m, m ≠ n → tblGet Notifier.reset (t.quad q).notifiers m = tblGet Notifier.reset (k.quad q).notifiers m) ∧
    t = k.updQuad q (fun d => { d with notifiers := (t.quad q).notifiers }) := by
  intro t
  have ht : t.quad q = (k.quad q).writeNotifier n f := Chip.quad_upd_self k q _
  refine ⟨?_, fun m hm => ?_, Chip.updQuad_congr ?_⟩
  · rw [ht]; exact Quad.writeNotifier_self _ n f
  · rw [ht]; exact Quad.writeNotifier_ne _ n f hm
  · rw [ht]; exact Quad.writeNotifier_frame _ n f

end NotifierWrite

/-- Settles O36: each command by the branch its state takes. -/
theorem haspRows : Obligations.HaspRows := by
  intro s c q i n index v ag h dev v42 w k x full
  refine ⟨fun o rest hb hm => ?_, fun o ho hany => ?_, fun y hy ht => ?_, fun hup => ⟨?_, ?_, ?_, fun hd => ?_, fun hd hp hr => ?_, fun hn => ?_⟩⟩
  · have hb' : (s.chip.cluster c).haspBuf = o :: rest := hb
    refine congrArg s.goes ?_
    dsimp only
    rw [hb', List.length_cons, Chip.releaseHasps, hb']
    exact if_pos hm
  · refine congrArg s.goes ?_
    dsimp only
    rw [show (s.chip.quad q).inbox[i]? = some o from ho]
    exact if_neg (ne_true_of_eq_false hany)
  · refine congrArg s.goes ?_
    dsimp only
    rw [show (s.chip.cluster c).waits.find? _ = some y from hy]
    refine (if_neg ht).trans (Chip.updCluster_congr ?_)
    simp only [Cluster.endWait, Bool.or_true, Bool.not_true, Bool.or_false]
  · exact congrArg s.goes (if_pos hup)
  · exact congrArg s.goes (if_pos hup)
  · exact congrArg s.goes (if_pos hup)
  · refine congrArg s.goes ((if_neg (by rw [show s.chip.bankUp q = true from hup]; decide)).trans (if_pos ?_))
    rcases hd with hd | hd | hd <;> simp [hd, k] <;> simp_all [k]
  · refine congrArg s.goes ((if_neg (by rw [show s.chip.bankUp q = true from hup]; decide)).trans (if_neg ?_))
    simp [show dev ≠ s.chip.fabric.devnum from hd, show s.chip.fabric.podMember = true from hp, show (s.chip.fabric.route dev.toNat).valid = true from hr]
  · intro o met a b
    have hc : (s.chip.bankUp q && decide (n < 64)) = true := Bool.and_eq_true_iff.2 ⟨hup, decide_eq_true hn⟩
    have hev (m : Notifier) : (k.quad q).evaluated m = { m with fired := m.fired || met m } := Quad.evaluated_eq _ m
    obtain ⟨ca, cne, cf⟩ := Chip.writeNotifier_spec k q n (·.writeCfg full)
    obtain ⟨ta, tne, tf⟩ := Chip.writeNotifier_spec k q n (fun x => { x with thresh := (regMerge (x.thresh.setWidth 64) full).setWidth 48 })
    refine ⟨⟨s.onChip (·.updQuad q (fun d => d.writeNotifier n (·.writeCfg full))), congrArg s.goes (if_pos hc), ?_, cne, cf⟩,
      ⟨s.onChip (·.updQuad q (fun d => d.writeNotifier n _)), congrArg s.goes (if_pos hc), ?_, tne, tf⟩⟩
    · refine ca.trans ?_
      rw [Notifier.writeCfg_full]
      exact hev a
    · refine ta.trans ?_
      have hb : ({ (k.quad q).notifier n with thresh := (regMerge (((k.quad q).notifier n).thresh.setWidth 64) full).setWidth 48 } : Notifier) = b := by
        rw [regMerge_full]
        refine congrArg (fun t => { o with thresh := t }) ?_
        ext j; simp
      exact (congrArg (k.quad q).evaluated hb).trans (hev b)

end Sys2Proof.Machine
end

section
/-! PROOFS. Launches: their start, the halt, the reset and the stop of clusters, fixed outcomes (R96, R106-R119). -/

namespace Sys2Proof.Machine

/-! ## The start of a launch (R106, R107) -/

section StartLaunch

variable (f : Nat → Nat → Cluster → Cluster)

/-- Clusters of a list updated, each by its place in the list. -/
def Chip.updEach (k : Chip) (l : List (Nat × Nat)) : Chip := l.foldl (fun k p => k.updCluster p.1 (f p.1 p.2)) k

theorem Chip.updEach_frame (k : Chip) (l : List (Nat × Nat)) : k.updEach f l = { k with clusters := (k.updEach f l).clusters } := by
  induction l generalizing k with
  | nil => rfl
  | cons p l ih =>
    refine (ih (k.updCluster p.1 (f p.1 p.2))).trans ?_
    rfl

theorem Chip.quad_updEach (k : Chip) (l : List (Nat × Nat)) (q : Nat) : (k.updEach f l).quad q = k.quad q := by
  rw [Chip.updEach_frame]
  rfl

theorem Chip.byte_updEach (k : Chip) (l : List (Nat × Nat)) (a : Nat) : (k.updEach f l).byte a = k.byte a := by
  rw [Chip.updEach_frame]
  rfl

theorem Chip.updEach_ne (k : Chip) (l : List (Nat × Nat)) {c : Nat} (h : ∀ p ∈ l, p.1 ≠ c) : (k.updEach f l).cluster c = k.cluster c := by
  induction l generalizing k with
  | nil => rfl
  | cons p l ih =>
    refine (ih (k.updCluster p.1 (f p.1 p.2)) (fun p hp => h p (List.mem_cons_of_mem _ hp))).trans ?_
    exact Chip.cluster_upd_ne k _ (h p List.mem_cons_self).symm

theorem Chip.updEach_mem (k : Chip) (l : List (Nat × Nat)) (hn : (l.map Prod.fst).Nodup) {c i : Nat} (h : (c, i) ∈ l) :
    (k.updEach f l).cluster c = f c i (k.cluster c) := by
  induction l generalizing k with
  | nil => cases h
  | cons p l ih =>
    obtain ⟨hp, hl⟩ := List.nodup_cons.1 hn
    have hstep : k.updEach f (p :: l) = (k.updCluster p.1 (f p.1 p.2)).updEach f l := rfl
    rw [hstep]
    rcases List.mem_cons.1 h with rfl | hmem
    · rw [Chip.updEach_ne f _ l (fun e he g => hp (List.mem_map.2 ⟨e, he, g⟩)), Chip.cluster_upd_self]
    · have hne : c ≠ p.1 := fun g => hp (g ▸ List.mem_map.2 ⟨(c, i), hmem, rfl⟩)
      rw [ih _ hl hmem, Chip.cluster_upd_ne k _ hne]

end StartLaunch

theorem quadClusters_nodup (q : Nat) : (quadClusters q).Nodup := by
  unfold quadClusters span
  exact List.Nodup.map (fun a b h => by simpa using h) List.nodup_range

/-- The scalar registers at the start of a launch (R106). -/
theorem Cluster.reg_begin (x : Cluster) (q n : Nat) (r : LaunchRec) (c rank count : Nat) (g : SReg) :
    (x.begin q n r c rank count).reg g = if g = 1 then r.arg else if g = 2 then BitVec.ofNat 64 rank
      else if g = 3 then BitVec.ofNat 64 count else if g = 4 then BitVec.ofNat 64 c else 0 := by
  simp only [Cluster.begin, Cluster.reg_setReg]
  have hz (y : Cluster) (hy : y.regs = []) : y.reg g = 0 := by simp [Cluster.reg, hy]
  rw [hz _ rfl]
  by_cases h1 : g = 1
  · subst h1; simp
  by_cases h2 : g = 2
  · subst h2; simp
  by_cases h3 : g = 3
  · subst h3; simp
  by_cases h4 : g = 4
  · subst h4; simp
  · simp only [h1, h2, h3, h4, false_and, if_false]

/-- What else a launch finds at a cluster. -/
theorem Cluster.begin_eq (x : Cluster) (q n : Nat) (r : LaunchRec) (c rank count : Nat) : ∃ regs, x.begin q n r c rank count = { x with
    st := .running, queue := BitVec.ofNat 10 (q * 256 + n), seq := r.seq, regs := regs, pc := r.entry,
    space := r.space.toNat, loops := [], stopIssued := false, faulted := none, errored := false,
    loads := [], stores := [], fence := none, lcHold := none, fetchRead := none, descRead := none,
    lockRead := none, queues := [], claims := [], waits := [], haspBuf := [], zoneHeld := none,
    prepared := [], feAt := none, whEnded := false } := by
  simp only [Cluster.begin, Cluster.setReg_eq]
  exact ⟨_, rfl⟩

/-- Settles O32: each cluster of the launch is begun once, by its rank. -/
theorem launchBegins : Obligations.LaunchBegins := by
  intro k q n r cs sorted k1
  have hcl (c : Nat) : k1.cluster c = (k.updEach (fun c i x => x.begin q n r c i sorted.length) sorted.zipIdx).cluster c := rfl
  have hnodup : (sorted.zipIdx.map Prod.fst).Nodup := by
    rw [List.zipIdx_map_fst]
    exact (quadClusters_nodup q).filter _
  refine ⟨?_, fun c hc => ?_, fun a => ?_, fun p hp => ?_, ?_, ?_⟩
  · intro i c hi x y
    have hy : y = x.begin q n r c i sorted.length :=
      (hcl c).trans (Chip.updEach_mem _ k _ hnodup (List.mk_mem_zipIdx_iff_getElem?.2 hi))
    have hreg : ∀ g : SReg, y.reg g = _ := fun g => (congrArg (Cluster.reg · g) hy).trans (Cluster.reg_begin x q n r c i sorted.length g)
    obtain ⟨regs, hb⟩ := Cluster.begin_eq x q n r c i sorted.length
    rw [← hy] at hb
    refine ⟨by rw [hb], by rw [hb], by rw [hb], by rw [hb], by rw [hb], hreg, ?_⟩
    rw [hb]
    simp [Cluster.canIssue]
  · refine (hcl c).trans (Chip.updEach_ne _ k _ fun p hp hpc => hc ?_)
    rw [← hpc]
    exact List.fst_mem_of_mem_zipIdx hp
  · exact (Chip.byte_updQuad _ q _ a).trans (Chip.byte_updEach (fun c i x => x.begin q n r c i sorted.length) k sorted.zipIdx a)
  · exact (Chip.quad_upd_ne _ _ hp).trans (Chip.quad_updEach (fun c i x => x.begin q n r c i sorted.length) k sorted.zipIdx p)
  · have hq : k1.quad q = _ := Chip.quad_upd_self _ q _
    rw [hq]
    exact congrArg WQueue.next (Quad.queue_upd_self _ n (fun w => { w with next := none, nextLate := false }))
  · have hq : k1.quad q = _ := Chip.quad_upd_self _ q _
    rw [hq]
    refine (List.map_append ..).trans (congrArg (· ++ _) ?_)
    exact congrArg (fun d : Quad => d.launches.map _)
      (Chip.quad_updEach (fun c i x => x.begin q n r c i sorted.length) k sorted.zipIdx q)

end Sys2Proof.Machine
end

section
/-! PROOFS. How a cluster leaves its launch, is gated and is reset (R96, R110, R117-R119). -/

namespace Sys2Proof.Machine

/-! ## A cluster without a launch -/

/-- A landing zone write reaches the movers and the landing zones alone. -/
theorem Cluster.writeZone_eq (x : Cluster) (z : Nat) (w : RegW) :
    ∃ m y, x.writeZone z w = { x with movers := m, zones := y } := by
  unfold Cluster.writeZone
  rw [Cluster.discardIf_eq]
  exact ⟨_, _, rfl⟩

theorem Cluster.applyHeld_eq (x : Cluster) : ∃ m y h, x.applyHeld = { x with movers := m, zones := y, zoneHeld := h } := by
  unfold Cluster.applyHeld
  split
  next no z w _ =>
    split
    · obtain ⟨m, y, h⟩ := Cluster.writeZone_eq { x with zoneHeld := none } z w
      exact ⟨m, y, none, h⟩
    · exact ⟨_, _, _, rfl⟩
  next => exact ⟨_, _, _, rfl⟩

/-- R118: what a cluster that leaves its launch keeps. -/
theorem Cluster.retire_eq (x : Cluster) : ∃ m y h, x.retire = { x with
    movers := m, zones := y, zoneHeld := h, st := if x.errored then .reset else .idle, waits := [] } := by
  obtain ⟨m, y, h, ha⟩ := Cluster.applyHeld_eq x
  refine ⟨m, y, h, ?_⟩
  unfold Cluster.retire
  rw [ha]

/-- A launch once a cluster has left it. -/
def Launch.leave (l : Launch) (c : Nat) (t : Nat) : Launch :=
  if l.running.contains c then { l with running := l.running.filter (· ≠ c), stopAt := t } else l

theorem Launch.leave_running (l : Launch) (c t : Nat) : c ∉ (l.leave c t).running := by
  unfold Launch.leave
  by_cases h : l.running.contains c = true
  · rw [if_pos h]
    simp
  · rw [if_neg h]
    exact fun g => h (List.contains_iff_mem.2 g)

theorem Launch.leave_outcome (l : Launch) (c t : Nat) : (l.leave c t).id = l.id ∧ (l.leave c t).outcome = l.outcome := by
  unfold Launch.leave
  split <;> exact ⟨rfl, rfl⟩

theorem Chip.leaveLaunch_launches (k : Chip) (c : Nat) : ((k.leaveLaunch c).quad (c / 24)).launches =
    (k.quad (c / 24)).launches.map (fun l => l.leave c (k.quad (c / 24)).aclk) := by
  unfold Chip.leaveLaunch
  rw [Chip.quad_upd_self]
  rfl

/-! ## Reset (R118) -/

theorem tblGet_filterKeys {α : Type} (d : α) (m : SMap α) (p : Nat → Bool) (k : Nat) :
    tblGet d (m.filter (fun e => p e.1)) k = if p k then tblGet d m k else d := by
  induction m with
  | nil => simp
  | cons e m ih =>
    obtain ⟨j, v⟩ := e
    by_cases hp : p j = true
    · rw [List.filter_cons_of_pos (p := fun e : Nat × α => p e.1) (a := (j, v)) hp]
      simp only [tblGet, ih]
      by_cases hj : j = k
      · subst hj; simp [hp]
      · simp [hj]
    · rw [List.filter_cons_of_neg (p := fun e : Nat × α => p e.1) (a := (j, v)) hp, ih]
      by_cases hj : j = k
      · subst hj; simp [hp]
      · simp [tblGet, hj]

/-- The store of a cluster after it has been written to zero. -/
theorem Chip.byte_zeroStore (k : Chip) (c a : Nat) : (k.zeroStore c).byte a =
    if storeAddr c 0 ≤ a ∧ a < storeAddr c 0 + 2 ^ 22 then 0 else k.byte a := by
  have h := tblGet_filterKeys (0 : Byte) k.mem (fun e => !(storeAddr c 0 ≤ e && e < storeAddr c 0 + 2 ^ 22)) a
  refine Eq.trans h ?_
  by_cases hc : storeAddr c 0 ≤ a ∧ a < storeAddr c 0 + 2 ^ 22
  · rw [if_pos hc, if_neg (by simpa using hc)]
  · rw [if_neg hc, if_pos (by simp only [Bool.not_eq_true', Bool.and_eq_false_iff, decide_eq_false_iff_not]; tauto)]
    rfl

/-- What a reset leaves of a cluster. -/
def Cluster.afterReset (x : Cluster) : Cluster := { Cluster.reset with
  st := .idle, queue := x.queue, seq := x.seq, nextNo := x.nextNo, nextId := x.nextId, ranges := x.ranges }

/-- Settles O33: each command by the state of its cluster; the reset by its three parts. -/
theorem clusterRows : Obligations.ClusterRows := by
  refine ⟨fun s c => ?_, fun s c => ?_⟩
  · intro k x q left
    refine ⟨fun hf hst => ?_, fun l hl => ⟨fun he => ?_, fun code addr he hfa hst hf => ?_⟩, fun hn he hst => ?_, fun hst => ?_, fun hp hst => ?_, ?_⟩
    · refine congrArg s.goes (if_pos ?_)
      rw [show s.chip.finished c = true from hf, Bool.true_and]
      rcases hst with ⟨h1, h2, h3, h4⟩ | h1
      · simp [show (s.chip.cluster c).st = .running from h1, show (s.chip.cluster c).stopIssued = true from h2,
          show (s.chip.cluster c).faulted = none from h3, show (s.chip.cluster c).errored = false from h4]
      · simp [show (s.chip.cluster c).st = .stopping from h1]
    · refine congrArg s.goes ?_
      dsimp only
      rw [show (s.chip.quad (c / 24)).launchOf c = some l from hl]
      exact if_pos he
    · refine congrArg s.goes ?_
      dsimp only
      rw [show (s.chip.quad (c / 24)).launchOf c = some l from hl]
      refine (if_neg (ne_true_of_eq_false he)).trans ?_
      rw [show (s.chip.cluster c).faulted = some (code, addr) from hfa]
      exact if_pos (by simp [show (s.chip.cluster c).st = .running from hst, show s.chip.finished c = true from hf])
    · refine congrArg s.goes ?_
      dsimp only
      rw [show (s.chip.quad (c / 24)).launchOf c = none from hn]
      refine if_pos ?_
      rw [show (s.chip.cluster c).errored = true from he, Bool.true_and, Chip.freeCluster, Bool.or_eq_true, decide_eq_true_eq, decide_eq_true_eq]
      exact hst
    · exact congrArg s.goes (if_pos hst)
    · exact congrArg s.goes (if_pos (by simp [show (s.chip.quad (c / 24)).pgate = true from hp, show (s.chip.cluster c).st = .idle from hst]))
    · intro y
      have hy : y = x.retire := Chip.cluster_upd_self (k.leaveLaunch c) c _
      obtain ⟨m, z, hz, hr⟩ := Cluster.retire_eq x
      rw [← hy] at hr
      have hl : (left.quad q).launches = _ := Chip.leaveLaunch_launches k c
      refine ⟨by rw [hr], by rw [hr], by rw [hr], by rw [hr], by rw [hr], by rw [hr], fun l hmem => ?_, ?_, fun d hd => ?_, fun a => ?_⟩
      · rw [hl, List.mem_map] at hmem
        obtain ⟨l', -, rfl⟩ := hmem
        exact Launch.leave_running l' c _
      · rw [hl, List.map_map]
        refine List.map_congr_left fun l' _ => ?_
        obtain ⟨hid, ho⟩ := Launch.leave_outcome l' c (k.quad (c / 24)).aclk
        exact Prod.ext hid ho
      · exact Chip.cluster_upd_ne (k.leaveLaunch c) _ hd
      · exact (Chip.byte_updCluster (k.leaveLaunch c) c _ a).trans (Chip.byte_updQuad k _ _ a)
  · intro k x hst hm
    have hc : ((s.chip.cluster c).st = .reset && [0, 1].all (fun m => ((s.chip.cluster c).mover m).cmds.all (fun d => d.phase = .drain))) = true := by
      simp only [List.all_cons, List.all_nil, Bool.and_true, Bool.and_eq_true, List.all_eq_true, decide_eq_true_eq]
      exact ⟨hst, fun d hd => hm 0 (by decide) d hd, fun d hd => hm 1 (by decide) d hd⟩
    refine ⟨?_, fun j => ?_⟩
    · intro t
      have hexec : exec (.clusterReset c) s = .next (if (t.chip.cluster c).stores.isEmpty
          then t.onChip (fun k => (k.leaveLaunch c).resetCluster c) else t) := congrArg Host.Outcome.next (if_pos hc)
      refine ⟨fun h => ?_, fun h => ?_⟩
      · rw [hexec, if_pos (List.isEmpty_iff.2 h)]
      · rw [hexec, if_neg (fun g => h (List.isEmpty_iff.1 g))]
    · intro p y
      refine ⟨Chip.cluster_upd_self ((j.purgeCache c).zeroStore c) c Cluster.afterReset, fun a => ?_, fun d hd => ?_, fun i h => ?_⟩
      · refine (Chip.byte_updQuad _ _ _ a).trans ((Chip.byte_updCluster _ _ _ a).trans ?_)
        exact Chip.byte_zeroStore p c a
      · exact Chip.cluster_upd_ne ((j.purgeCache c).zeroStore c) Cluster.afterReset hd
      · refine congrArg (fun d : SMap Hasp => tblGet Hasp.reset d h) ?_
        by_cases hi : i = c / 24
        · rw [hi]
          unfold Chip.resetCluster
          rw [Chip.quad_upd_self]
          rfl
        · exact congrArg Quad.hasps (Chip.quad_upd_ne _ _ hi)

end Sys2Proof.Machine
end

section
/-! PROOFS. A fixed outcome stops the clusters that run (R116, R117). -/

namespace Sys2Proof.Machine

/-! ## What a cancelled operation reaches -/

/-- Nothing of cluster `c` has changed but its units and tables, and no quadrant. -/
def Chip.SameButUnits (c : Nat) (k j : Chip) : Prop :=
  j.quads = k.quads ∧ ∃ v m l, j.cluster c = { k.cluster c with vunits := v, munits := m, lut := l }

section Units

variable {c : Nat} {k j l : Chip}

theorem Chip.SameButUnits.refl : Chip.SameButUnits c k k := ⟨rfl, _, _, _, rfl⟩

theorem Chip.SameButUnits.trans (h : Chip.SameButUnits c k j) (g : Chip.SameButUnits c j l) : Chip.SameButUnits c k l := by
  obtain ⟨hq, v, m, t, hc⟩ := h
  obtain ⟨gq, v', m', t', gc⟩ := g
  exact ⟨gq.trans hq, v', m', t', by rw [gc, hc]⟩

theorem Chip.SameButUnits.foldl {α : Type} (f : Chip → α → Chip) (hf : ∀ j a, Chip.SameButUnits c j (f j a)) (xs : List α) (k : Chip) :
    Chip.SameButUnits c k (xs.foldl f k) := by
  induction xs generalizing k with
  | nil => exact .refl
  | cons a xs ih => exact (hf k a).trans (ih _)

/-- A step that keeps quadrants and clusters. -/
theorem Chip.SameButUnits.of_eq (hq : j.quads = k.quads) (hc : j.clusters = k.clusters) : Chip.SameButUnits c k j :=
  ⟨hq, (k.cluster c).vunits, (k.cluster c).munits, (k.cluster c).lut, by unfold Chip.cluster; rw [hc]⟩

/-- A step that updates units of the cluster. -/
theorem Chip.SameButUnits.upd (f : Cluster → Cluster) (hf : ∀ x : Cluster, ∃ v m l, f x = { x with vunits := v, munits := m, lut := l })
    (hq : j.quads = k.quads) (hc : j.clusters = k.clusters) : Chip.SameButUnits c k (j.updCluster c f) := by
  have hj : j.cluster c = k.cluster c := by unfold Chip.cluster; rw [hc]
  obtain ⟨v, m, l, h⟩ := hf (k.cluster c)
  exact ⟨hq, v, m, l, by rw [Chip.cluster_upd_self, hj, h]⟩

theorem Cluster.updMUnit_units (u : Nat) (f : MUnit → MUnit) (x : Cluster) : ∃ v m l, x.updMUnit u f = { x with vunits := v, munits := m, lut := l } :=
  ⟨_, _, _, rfl⟩

theorem Cluster.updVUnit_units (u : Nat) (f : VUnit → VUnit) (x : Cluster) : ∃ v m l, x.updVUnit u f = { x with vunits := v, munits := m, lut := l } :=
  ⟨_, _, _, rfl⟩

theorem Chip.cancelMatrix_units (u : Nat) (ran : MUnit) : Chip.SameButUnits c k (k.cancelMatrix c u ran) :=
  .upd (k := k) _ (Cluster.updMUnit_units u _) rfl rfl

theorem Chip.freeRows_units (u bytes : Nat) (xs : List Nat) (put : VUnit → Nat → Nat → VUnit) :
    Chip.SameButUnits c k (k.freeRows c u bytes xs put) := by
  unfold Chip.freeRows
  refine .foldl _ (fun j key => ?_) _ k
  exact .upd (k := j) _ (Cluster.updVUnit_units u _) rfl rfl

theorem Chip.cancelVector_units (u : Nat) (use : RegUse) (ran : VUnit) : Chip.SameButUnits c k (k.cancelVector c u use ran) := by
  unfold Chip.cancelVector
  refine Chip.SameButUnits.trans (Chip.SameButUnits.trans ?_ (Chip.freeRows_units ..)) (Chip.freeRows_units ..)
  exact .upd (k := k) _ (Cluster.updVUnit_units u _) rfl rfl

theorem Chip.cancelDrain_units (u : Nat) : Chip.SameButUnits c k (k.cancelDrain c u) := by
  unfold Chip.cancelDrain
  split
  · exact Chip.cancelMatrix_units u _
  · exact .refl

theorem Chip.cancelOp_units (e : Nat) (o : EngEnt) (began : Bool) : Chip.SameButUnits c k (k.cancelOp c e o began) := by
  unfold Chip.cancelOp
  split
  · split
    · exact .upd (k := k) _ (fun x => ⟨x.vunits, x.munits, _, rfl⟩) rfl rfl
    · exact .refl
  · exact .refl
  · dsimp only
    split
    · exact Chip.cancelVector_units ..
    · exact Chip.cancelMatrix_units ..

theorem Chip.spoilStore_units (d lo hi : Nat) : Chip.SameButUnits c k (k.spoilStore d lo hi) := by
  unfold Chip.spoilStore
  refine .foldl _ (fun j o => ?_) _ k
  exact .of_eq rfl rfl

/-- R117: the cancelled engines leave their queues and claims empty. -/
theorem Chip.cancelEngines_spec : (k.cancelEngines c).quads = k.quads ∧ ∃ v m l, (k.cancelEngines c).cluster c = { k.cluster c with
    vunits := v, munits := m, lut := l, queues := [], claims := (k.cluster c).claims.filter (fun a => 7 ≤ a.eng) } := by
  have h0 := Chip.SameButUnits.foldl (c := c) (fun k u => k.cancelDrain c u) (fun j u => Chip.cancelDrain_units u) (List.range 4) k
  have h1 := h0.trans (Chip.SameButUnits.foldl (c := c) (fun j e => (tblGet [] (k.cluster c).queues e).zipIdx.foldl
    (fun k' p => k'.cancelOp c e p.1 (p.2 = 0 && k.mayStart c e p.1)) j)
    (fun j e => .foldl _ (fun _ _ => Chip.cancelOp_units ..) _ j) (List.range 7) _)
  have h2 := h1.trans (Chip.SameButUnits.foldl (c := c) (fun j (a : Claim) => j.spoilStore c a.lo a.hi) (fun j a => Chip.spoilStore_units ..)
    ((k.cluster c).claims.filter (fun a => a.write && a.eng < 7)) _)
  obtain ⟨hq, v, m, l, hc⟩ := h2
  refine ⟨hq, v, (List.range 4).foldl (fun m u => tblMod MUnit.reset m u (fun y => { y with drain := none })) m, l, ?_⟩
  unfold Chip.cancelEngines
  dsimp only
  rw [Chip.cluster_upd_self, hc]

end Units

/-! ## Stopped clusters -/

section Stop

variable {k : Chip} {c : Nat}

/-- The movers of a stopped cluster: what was issued ahead is dropped, and each queued command ends with `ABORTED`. -/
def Cluster.abortMovers (x : Cluster) : Cluster :=
  [0, 1].foldl (fun x m => x.updMover m (fun v => { v with cmds := v.cmds.map MovCmd.abort })) x

theorem Cluster.abortMovers_eq (x : Cluster) : ∃ m, x.abortMovers = { x with movers := m } := ⟨_, rfl⟩

theorem Cluster.abortMovers_cmds (x : Cluster) {m : Nat} (hm : m < 2) :
    (x.abortMovers.mover m).cmds = (x.mover m).cmds.map MovCmd.abort := by
  obtain rfl | rfl : m = 0 ∨ m = 1 := by omega
  · simp only [Cluster.abortMovers, List.foldl_cons, List.foldl_nil, Cluster.mover_upd_ne _ _ (show (0 : Nat) ≠ 1 by decide), Cluster.mover_upd_self]
  · simp only [Cluster.abortMovers, List.foldl_cons, List.foldl_nil, Cluster.mover_upd_ne _ _ (show (1 : Nat) ≠ 0 by decide), Cluster.mover_upd_self]

/-- A discard keeps every command that was not issued ahead. -/
theorem Cluster.mem_discardIf (x : Cluster) {m : Nat} (hm : m < 2) (p : MovCmd → Bool) {d : MovCmd} (hs : d.speculative = false)
    (hd : d ∈ (x.mover m).cmds) : d ∈ ((x.discardIf p).mover m).cmds := by
  have hkeep (l : List MovCmd) (h : d ∈ l) : d ∈ l.filterMap (fun m => if m.speculative && p m then m.discard else some m) :=
    List.mem_filterMap.2 ⟨d, h, by simp [hs]⟩
  unfold Cluster.discardIf
  obtain rfl | rfl : m = 0 ∨ m = 1 := by omega
  · rw [Cluster.discardOf_mover_ne _ _ (by decide), Cluster.discardOf_cmds]
    exact hkeep _ hd
  · rw [Cluster.discardOf_cmds, Cluster.discardOf_mover_ne _ _ (by decide)]
    exact hkeep _ hd

theorem MovCmd.abort_phase (d : MovCmd) : d.abort.phase ≠ .queued := by
  unfold MovCmd.abort
  split
  · exact fun h => nomatch h
  · assumption

/-- A cluster whose run-ahead state and waits are dropped. -/
def Cluster.dropAhead (x : Cluster) : Cluster :=
  { x.discardRunAhead with waits := [], fetchRead := none, descRead := none, lockRead := none }

theorem Cluster.dropAhead_eq (x : Cluster) : ∃ mv z, x.discardIf (fun _ => true) = { x with movers := mv, zones := z } ∧
    x.dropAhead = { x with
      movers := mv, zones := z, prepared := [], feAt := none, waits := [], fetchRead := none, descRead := none, lockRead := none } := by
  obtain ⟨mv, z, hdis⟩ : ∃ mv z, x.discardIf (fun _ => true) = { x with movers := mv, zones := z } := ⟨_, _, Cluster.discardIf_eq _ _⟩
  refine ⟨mv, z, hdis, ?_⟩
  simp only [Cluster.dropAhead, Cluster.discardRunAhead, hdis]

/-- A cluster that is stopped, once its engines are cancelled (R117). -/
def Cluster.stopped (x : Cluster) : Cluster := { x.dropAhead.abortMovers.endStream with st := .stopping, fence := none }

theorem Cluster.stopped_eq (x : Cluster) : ∃ mv z, x.stopped = { x with
      movers := mv, zones := z, prepared := [], feAt := none, waits := [], fetchRead := none, descRead := none, lockRead := none
      stream := Stream.reset, st := .stopping, fence := none } ∧
    ∀ m, m < 2 → ∃ l : List MovCmd, (tblGet Mover.reset mv m).cmds = l.map MovCmd.abort ∧
      ∀ d ∈ (x.mover m).cmds, d.speculative = false → d ∈ l := by
  obtain ⟨mv, z, hdis, hdrop⟩ := Cluster.dropAhead_eq x
  obtain ⟨ma, habort⟩ := Cluster.abortMovers_eq x.dropAhead
  refine ⟨ma, z, ?_, fun m hm => ⟨(tblGet Mover.reset mv m).cmds, ?_, fun d hd hs => ?_⟩⟩
  · unfold Cluster.stopped
    rw [habort, hdrop]
    rfl
  · have h := Cluster.abortMovers_cmds x.dropAhead hm
    rw [habort, hdrop] at h
    exact h
  · have h := Cluster.mem_discardIf x hm (fun _ => true) hs hd
    rw [hdis] at h
    exact h

/-- R117: what the stop of a running cluster with no access outstanding leaves. -/
theorem Chip.stopCluster_spec (hr : (k.cluster c).st = .running) (hs : (k.cluster c).stores = []) (hl : (k.cluster c).loads = []) :
    (k.stopCluster c).quads = k.quads ∧
    ∃ y, (k.stopCluster c).cluster c = y ∧ y.st = .stopping ∧ y.waits = [] ∧ y.fence = none ∧ y.queues = [] ∧ y.prepared = [] ∧
      y.claims = (k.cluster c).claims.filter (fun a => 7 ≤ a.eng) ∧
      ∀ m, m < 2 → ∃ l : List MovCmd, (y.mover m).cmds = l.map MovCmd.abort ∧
        ∀ d ∈ ((k.cluster c).mover m).cmds, d.speculative = false → d ∈ l := by
  obtain ⟨hq, v, mu, lut, hc⟩ := Chip.cancelEngines_spec (k := k) (c := c)
  have hstop : k.stopCluster c = ((k.cancelEngines c).updCluster c Cluster.stopped).drainAll c := by
    refine (if_neg (not_not.2 hr)).trans ?_
    exact congrArg (Chip.drainAll · c) (Chip.updCluster_upd ..)
  obtain ⟨mv, z, hst, hcmds⟩ := Cluster.stopped_eq ((k.cancelEngines c).cluster c)
  have hcl : ((k.cancelEngines c).updCluster c Cluster.stopped).cluster c = _ := (Chip.cluster_upd_self _ c _).trans hst
  have hempty : ((k.cancelEngines c).updCluster c Cluster.stopped).drainAll c = (k.cancelEngines c).updCluster c Cluster.stopped :=
    Chip.drainAll_of_empty (by rw [hcl, hc]; exact hl) (by rw [hcl, hc]; exact hs)
  rw [hstop, hempty]
  refine ⟨hq, _, hcl, rfl, rfl, rfl, ?_, rfl, ?_, fun m hm => ?_⟩
  · rw [hc]
  · rw [hc]
  · rw [hc] at hcmds
    exact hcmds m hm

end Stop

/-- Settles O34: an outcome that is fixed stays; the one cluster that runs is stopped. -/
theorem outcomeFixed : Obligations.OutcomeFixed := by
  intro k q l o
  refine ⟨fun h => if_pos (Option.isSome_iff_ne_none.2 h), fun ho c hr hst hstores hloads => ?_⟩
  intro x y
  let k1 := k.updQuad q (·.updLaunch l.id (fun l => { l with outcome := some o }))
  have hfix : k.fixOutcome q l o = k1.stopCluster c := by
    refine (if_neg (by rw [ho]; decide)).trans ?_
    rw [hr]
    rfl
  obtain ⟨hq, y', hy, h1, h2, h3, h4, h5, h6, h7⟩ := Chip.stopCluster_spec (k := k1) (c := c) hst hstores hloads
  have hyy : y = y' := (congrArg (Chip.cluster · c) hfix).trans hy
  have hclaims : y.claims = x.claims.filter (fun a => 7 ≤ a.eng) := by rw [hyy]; exact h6
  rw [← hyy] at h1 h2 h3 h4 h5 h7
  refine ⟨fun m hm hid => ?_, h1, h2, h3, h4, h5, fun a ha => ?_, fun a ha h => ?_, fun m hm => ?_⟩
  · rw [hfix, Chip.quad, hq] at hm
    have hm' : m ∈ (k1.quad q).launches := hm
    rw [Chip.quad_upd_self] at hm'
    obtain ⟨l', -, rfl⟩ := List.mem_map.1 hm'
    by_cases h : l'.id = l.id
    · rw [if_pos h]
    · rw [if_neg h] at hid
      exact absurd hid h
  · rw [hclaims] at ha
    simpa using (List.mem_filter.1 ha).2
  · rw [hclaims]
    exact List.mem_filter.2 ⟨ha, decide_eq_true h⟩
  · obtain ⟨cmds, hcmds, hin⟩ := h7 m hm
    refine ⟨fun d hd => ?_, fun d hd hsp => ⟨fun hp => ?_, fun hp => ?_⟩⟩
    · rw [hcmds] at hd
      obtain ⟨d', -, rfl⟩ := List.mem_map.1 hd
      exact d'.abort_phase
    · rw [hcmds]
      exact List.mem_map.2 ⟨d, hin d hd hsp, if_pos hp⟩
    · rw [hcmds]
      exact List.mem_map.2 ⟨d, hin d hd hsp, if_neg hp⟩

end Sys2Proof.Machine
end

section
/-! PROOFS. Launch records are read, started and completed (R103-R111, R530). -/

namespace Sys2Proof.Machine

/-! ## A record is read (R103-R105) -/

section Read

variable {k : Chip} {q n : Nat}

/-- The line of the record at `HEAD`. -/
def Chip.recordLine (k : Chip) (q n : Nat) : Nat := paLocal (((k.quad q).queue n).slotAddr ((k.quad q).queue n).head)

/-- Whether the record at `HEAD` lies in memory that its quadrant reaches. -/
def Chip.recordReadable (k : Chip) (q n : Nat) : Bool :=
  k.isOwn (((k.quad q).queue n).slotAddr ((k.quad q).queue n).head) && cacheable (k.recordLine q n) &&
    decide (k.reachMem (some q) (k.recordLine q n) = 0)

variable (h : k.recordAwaited q n = true)
include h

theorem Chip.not_idle_of_recordAwaited : ¬ (!(k.quad q).enable || (k.quad q).orphaned || !((k.quad q).queue n).enable ||
    ((k.quad q).queue n).stopped || ((k.quad q).queue n).head = ((k.quad q).queue n).tail || ((k.quad q).queue n).next.isSome) = true := by
  unfold Chip.recordAwaited at h
  simp only [Bool.and_eq_true, Bool.not_eq_true', decide_eq_true_eq, Option.isNone_iff_eq_none] at h
  obtain ⟨⟨⟨⟨⟨h1, h2⟩, h3⟩, h4⟩, h5⟩, h6⟩ := h
  simp [h1, h2, h3, h4, h5, h6]

/-- R103: a read that fails stops the queue. -/
theorem Chip.readRecord_unreadable (hr : k.recordReadable q n = false) : k.readRecord q n = k.ringError q n := by
  unfold Chip.readRecord
  refine (if_neg (Chip.not_idle_of_recordAwaited h)).trans (if_pos ?_)
  unfold Chip.recordReadable Chip.recordLine at hr
  rw [Bool.and_eq_false_iff, Bool.and_eq_false_iff, decide_eq_false_iff_not] at hr
  rw [Bool.or_eq_true, Bool.or_eq_true, Bool.not_eq_true', Bool.not_eq_true', decide_eq_true_eq]
  exact hr

variable {k1 : Chip} {bs : Bytes} {p : Bool} (hr : k.recordReadable q n = true) (hread : k.cohRead (k.recordLine q n) 128 = (k1, (bs, p)))
include hr hread

theorem Chip.readRecord_of_read : k.readRecord q n =
    let r := decodeRecord (k.recordLine q n) (ofBytes bs)
    let k2 := k1.updQuad q (·.updQueue n (fun w => { w with
      head := w.head + 1, nextLate := false, aborts := w.aborts.filter (· ≠ r.seq) }))
    if p then k1.ringError q n
    else if r.seq ≠ ((k.quad q).queue n).head then k1
    else if k2.recordBad q r then k2.emptyLaunch q n r 5
    else if ((k.quad q).queue n).aborts.contains r.seq && r.abortable then k2.emptyLaunch q n r 2
    else k2.updQuad q (·.updQueue n (fun w => { w with next := some r })) := by
  unfold Chip.recordReadable Chip.recordLine at hr
  rw [Bool.and_eq_true, Bool.and_eq_true, decide_eq_true_eq] at hr
  obtain ⟨⟨h1, h2⟩, h3⟩ := hr
  unfold Chip.readRecord
  refine (if_neg (Chip.not_idle_of_recordAwaited h)).trans ((if_neg ?_).trans ?_)
  · rw [Bool.or_eq_true, Bool.or_eq_true, Bool.not_eq_true', Bool.not_eq_true', decide_eq_true_eq, h1, h2]
    exact fun g => g.elim (fun g => g.elim (fun g => nomatch g) (fun g => nomatch g)) (fun g => g h3)
  · unfold Chip.recordLine at hread
    rw [hread]
    rfl

end Read

/-! ## The dispatcher (R107, R108) -/

section Dispatch

variable {k : Chip} {q : Nat} (he : (k.quad q).enable = true) (ho : (k.quad q).orphaned = false)
include he ho

theorem Chip.dispatch_none (hg : ((k.updQuad q Quad.choose).quad q).gathering = none) : k.dispatch q = k.updQuad q Quad.choose := by
  simp only [Chip.dispatch, he, ho, Bool.not_true, Bool.or_self, Bool.false_eq_true, if_false, hg]

theorem Chip.dispatch_some {n : Nat} {r : LaunchRec} (hg : ((k.updQuad q Quad.choose).quad q).gathering = some n)
    (hn : (((k.updQuad q Quad.choose).quad q).queue n).next = some r) : k.dispatch q =
    let k1 := k.updQuad q Quad.choose
    let kept := (k1.quad q).gathered.filter k1.freeCluster
    let avail := (quadClusters q).filter (fun c => k1.freeCluster c && !kept.contains c)
    let p := k1.pick q r avail (r.need q - kept.length)
    if r.need q ≤ (kept ++ p.1).length then
      (p.2.startLaunch q n r (kept ++ p.1)).updQuad q (fun d => { d with gathering := none, gathered := [], rr := n })
    else (p.2.updQuad q (fun d => { d with gathered := kept ++ p.1 })).startOther q n r := by
  simp only [Chip.dispatch, he, ho, Bool.not_true, Bool.or_self, Bool.false_eq_true, if_false, hg, hn]

end Dispatch

/-! ## The commit point (R110, R111) -/

section Commit

variable {k : Chip} {q id : Nat} {l : Launch} (hl : (k.quad q).launches.find? (fun l => l.id = id) = some l) (hr : l.running = [])

/-- What a launch that commits answers. -/
def Launch.answer (l : Launch) : HeldComp :=
  l.completion (l.outcome.getD (1, (0xFF, (0, 0)))) (if l.all.isEmpty then 0 else l.stopAt / 600 - l.startAt / 600)

/-- The module without a launch that has committed. -/
def Chip.committed (k : Chip) (q id : Nat) : Chip := k.updQuad q (fun d => { d with launches := d.launches.filter (fun x => x.id ≠ id) })

include hl hr

theorem Chip.commit_held (ho : (k.quad q).orphaned = true) (ha : areaOf l.answer.addr = .lpddr) (hh : (k.quad q).held.length < 24) :
    k.commit q id = (k.committed q id).updQuad q (fun d => { d with held := d.held ++ [l.answer] }) := by
  unfold Chip.commit
  dsimp only
  rw [hl]
  dsimp only
  rw [hr]
  refine (if_neg (by decide)).trans ((if_pos ?_).trans (if_neg (not_le.2 hh)))
  rw [ho, Bool.true_and, decide_eq_true_eq]
  exact ha

theorem Chip.commit_written (ho : (k.quad q).orphaned = false ∨ areaOf l.answer.addr ≠ .lpddr) (hm : k.reachMem (some q) l.answer.addr = 0) :
    k.commit q id = (k.committed q id).writeCompletion q l.answer := by
  unfold Chip.commit
  dsimp only
  rw [hl]
  dsimp only
  rw [hr]
  refine (if_neg (by decide)).trans ((if_neg ?_).trans (if_neg (not_not.2 hm)))
  rw [Bool.and_eq_true, decide_eq_true_eq]
  rintro ⟨h1, h2⟩
  exact ho.elim (fun h => Bool.noConfusion (h.symm.trans h1)) (fun h => h h2)

end Commit

/-- Settles O31: the three commands of the dispatcher, each by its branches. -/
theorem launchRows : Obligations.LaunchRows := by
  refine ⟨fun s q n => ?_, fun s q => ?_, fun s q id l => ?_⟩
  · intro k d w pa la readable ringErr hup hn haw
    have hread : exec (.launchRecordRead q n) s = s.goes (k.readRecord q n) :=
      congrArg s.goes (if_pos (Bool.and_eq_true_iff.2 ⟨hup, decide_eq_true hn⟩))
    refine ⟨fun k1 h => ?_, fun hr => ?_, fun hr k1 bs p hc => ?_⟩
    · have hk : k.readRecord q n = k1 := by
        have := hread.symm.trans h
        injection this with this
        exact congrArg State.chip this
      have hstale : exec (.queueStale q n) s = s.goes (k.staleRead q n) :=
        congrArg s.goes (if_pos (by
          rw [Bool.and_eq_true, Bool.and_eq_true]
          exact ⟨⟨hup, decide_eq_true hn⟩, haw⟩))
      rw [hstale, Chip.staleRead, hk]
      refine congrArg s.goes (if_congr ?_ rfl rfl)
      rw [Bool.and_eq_true, decide_eq_true_eq]
    · rw [hread, Chip.readRecord_unreadable haw hr]
      rfl
    · have hk := Chip.readRecord_of_read haw hr hc
      intro r k2
      refine ⟨fun hp => ?_, fun hp hs => ?_, fun hp hs => ?_⟩
      · rw [hread, hk]
        exact congrArg s.goes (if_pos hp)
      · rw [hread, hk]
        exact congrArg s.goes ((if_neg (ne_true_of_eq_false hp)).trans (if_pos hs))
      · rw [hread, hk]
        refine congrArg s.goes ((if_neg (ne_true_of_eq_false hp)).trans ((if_neg (not_not.2 hs)).trans ?_))
        refine if_congr Iff.rfl rfl (if_congr ?_ rfl rfl)
        rw [Bool.and_eq_true, List.contains_iff_mem]
        exact Iff.rfl
  · intro k1 d hup he ho
    have hexec : exec (.launchStart q) s = s.goes (s.chip.dispatch q) := congrArg s.goes (if_pos hup)
    refine ⟨fun hg => ?_, fun n r hg hn => ?_⟩
    · rw [hexec, Chip.dispatch_none he ho hg]
    · intro kept avail more k2 hp
      have hk := Chip.dispatch_some he ho hg hn
      rw [hexec, hk]
      have hp' : (s.chip.updQuad q Quad.choose).pick q r ((quadClusters q).filter (fun c => (s.chip.updQuad q Quad.choose).freeCluster c &&
          !((((s.chip.updQuad q Quad.choose).quad q).gathered.filter (s.chip.updQuad q Quad.choose).freeCluster)).contains c))
          (r.need q - ((((s.chip.updQuad q Quad.choose).quad q).gathered.filter (s.chip.updQuad q Quad.choose).freeCluster)).length) = (more, k2) := hp
      dsimp only
      rw [hp']
      exact ⟨fun h => congrArg s.goes (if_pos h), fun h => congrArg s.goes (if_neg (not_le.2 h))⟩
  · intro k d o la area gone h hup hl hr
    have hexec : exec (.launchCompletion q id) s = s.goes (k.commit q id) := congrArg s.goes (if_pos hup)
    refine ⟨fun ho ha hh => ?_, fun ho hm => ?_⟩
    · rw [hexec, Chip.commit_held hl hr ho ha hh]
      rfl
    · rw [hexec, Chip.commit_written hl hr ho hm]
      rfl

end Sys2Proof.Machine
end

section
/-! PROOFS. The Tumbler commands of families 0x01 to 0x04 (R473, R481-R491). -/

namespace Sys2Proof.Machine

/-! ## Rows of a running command -/

section Rows

variable {s : State} {mb op : Nat} (h : s.commandRuns mb op)

/-- The context of a running command without input. -/
def State.ctx (s : State) (mb : Nat) : CmdCtx :=
  { mb := mb, slot := (s.chip.box mb).copied, begun := (s.chip.box mb).begun, input := some [], room := (s.chip.box mb).outRoom 0 }

include h

theorem State.recheck_of_runs : s.recheck mb = s := by
  obtain ⟨hst, -, -⟩ := h
  simp [State.recheck, hst]

/-- A row of an opcode without input ends as its function says. -/
theorem State.row {f : State → CmdCtx → CmdEnd} {e : CmdEnd} (hop : (cmdInfo op).map (·.nIn) = some 0) (hf : f s (s.ctx mb) = e) :
    runCommand mb op f s = e.1.answers mb e.2 := by
  obtain ⟨c, hc, hn⟩ := Option.map_eq_some_iff.1 hop
  unfold runCommand
  rw [State.runRow_of_noInput h hc hn, ← hf]
  rfl

theorem State.row_end {f : State → CmdCtx → CmdEnd} {t : State} {st : Nat} {res : List U64} (hop : (cmdInfo op).map (·.nIn) = some 0)
    (hf : f s (s.ctx mb) = cmdEnd t st res) : runCommand mb op f s = t.answers mb (some (mbResult st res)) :=
  State.row h hop hf

theorem State.row_wait {f : State → CmdCtx → CmdEnd} {t : State} (hop : (cmdInfo op).map (·.nIn) = some 0)
    (hf : f s (s.ctx mb) = (t, none)) : runCommand mb op f s = t.answers mb none :=
  State.row h hop hf

theorem State.runReset_of_runs {check : State → CmdCtx → Option Nat} {act : CmdCtx → State → State} : s.runReset mb op check act =
    match check s { s.ctx mb with room := 0 } with
    | some st => s.onChip (fun k => k.updBox mb (fun b => { b with result := some (mbResult st []), begun := true }))
    | none => act { s.ctx mb with room := 0 } (s.endCommand mb (mbResult mbDone [])) := by
  have hr := State.recheck_of_runs h
  obtain ⟨h1, h2, h3⟩ := h
  simp only [State.runReset, hr, h1, h2, h3, Option.isNone_none, decide_true, Bool.and_self, if_true]
  rfl

end Rows

/-- A refusal where an index or a value is too large. -/
theorem or_decide {p q : Prop} [Decidable p] [Decidable q] : (decide p || decide q) = true ↔ p ∨ q := by
  rw [Bool.or_eq_true, decide_eq_true_eq, decide_eq_true_eq]

theorem or_decide₃ {p q r : Prop} [Decidable p] [Decidable q] [Decidable r] :
    (decide p || decide q || decide r) = true ↔ p ∨ q ∨ r := by
  rw [Bool.or_eq_true, or_decide, decide_eq_true_eq, or_assoc]

section Rows

variable {s : State} {mb : Nat} {c : CmdCtx}

theorem cmdOut_eq (s : State) (c : CmdCtx) (res : List U64) (bs : Bytes) : cmdOut s c res bs =
    (s, some (if bs.length ≤ c.room then { mbResult 0 res with out := some bs } else mbResult 3 [])) := by
  unfold cmdOut
  split <;> rfl

/-- A command that answers data ends with it, or with `BAD_ARG` where it does not fit. -/
theorem State.row_out {op : Nat} {f : State → CmdCtx → CmdEnd} {bs : Bytes} (h : s.commandRuns mb op)
    (hop : (cmdInfo op).map (·.nIn) = some 0) (hf : f s (s.ctx mb) = cmdOut s (s.ctx mb) [] bs) : runCommand mb op f s =
      if bs.length ≤ (s.chip.box mb).outRoom 0 then s.answers mb (some { mbResult 0 [] with out := some bs }) else s.refuses mb 3 := by
  rw [State.row h hop (hf.trans (cmdOut_eq ..))]
  by_cases hb : bs.length ≤ (s.chip.box mb).outRoom 0
  · rw [if_pos hb, if_pos (show bs.length ≤ (s.ctx mb).room from hb)]
  · rw [if_neg hb, if_neg (show ¬ bs.length ≤ (s.ctx mb).room from hb)]
    rfl

end Rows

/-! ## Device states (R481) -/

section Dstate

variable {s : State} {mb : Nat} (h : s.commandRuns mb 0x0201)
include h

theorem execSetDstate_of_row (h3 : (slotArg (s.chip.box mb).copied 0).toNat ≠ 3) : execSetDstate mb s = runCommand mb 0x0201 setDstate s := by
  have hne : slotArg (s.chip.box mb).copied 0 ≠ 3 := fun g => h3 (by rw [g]; rfl)
  unfold execSetDstate
  rw [State.recheck_of_runs h]
  exact congrArg Host.Outcome.next (if_neg hne)

theorem execSetDstate_of_three (h3 : (slotArg (s.chip.box mb).copied 0).toNat = 3) : execSetDstate mb s =
    .next (match s.dstateRefusal 3 with
      | some st => s.onChip (fun k => k.updBox mb (fun b => { b with result := some (mbResult st []), begun := true }))
      | none => (s.endCommand mb (mbResult mbDone [])).powerDown) := by
  have he : slotArg (s.chip.box mb).copied 0 = 3 := BitVec.eq_of_toNat_eq h3
  unfold execSetDstate
  rw [State.recheck_of_runs h]
  refine congrArg Host.Outcome.next ((if_pos he).trans ?_)
  rw [State.runReset_of_runs h]

/-- A refused transition answers why. -/
theorem setDstate_refused {st : Nat} (hb : (s.chip.box mb).begun = false ∨ (slotArg (s.chip.box mb).copied 0).toNat = 3)
    (hr : s.dstateRefusal (slotArg (s.chip.box mb).copied 0).toNat = some st) : execSetDstate mb s = s.refuses mb st := by
  by_cases h3 : (slotArg (s.chip.box mb).copied 0).toNat = 3
  · rw [execSetDstate_of_three h h3]
    rw [h3] at hr
    rw [hr]
    rfl
  · have hb' : (s.ctx mb).begun = false := hb.resolve_right h3
    have hr' : s.dstateRefusal ((s.ctx mb).arg 0) = some st := hr
    rw [execSetDstate_of_row h h3]
    refine State.row (e := (s, some (mbResult st []))) h rfl ?_
    simp only [setDstate, hb', hr', Bool.false_eq_true, if_false]
    rfl

/-- An allowed transition but to D3. -/
theorem setDstate_allowed {e : CmdEnd} (hb : (s.chip.box mb).begun = false) (hr : s.dstateRefusal (slotArg (s.chip.box mb).copied 0).toNat = none)
    (h3 : (slotArg (s.chip.box mb).copied 0).toNat ≠ 3)
    (he : (if (slotArg (s.chip.box mb).copied 0).toNat = 1 then cmdDone s.enterD1 []
      else if (slotArg (s.chip.box mb).copied 0).toNat = 2 then cmdDone s.enterD2 []
      else if s.power.dstate = 1 then cmdDone s.leaveD1 []
      else if s.leaveD2.links.rediscover.isEmpty then cmdDone (s.leaveD2.onPower (fun p => { p with moving := false })) []
      else (s.leaveD2, none)) = e) : execSetDstate mb s = e.1.answers mb e.2 := by
  rw [execSetDstate_of_row h h3]
  refine State.row h rfl (Eq.trans ?_ he)
  have hb' : (s.ctx mb).begun = false := hb
  have hr' : s.dstateRefusal ((s.ctx mb).arg 0) = none := hr
  simp only [setDstate, hb', hr', Bool.false_eq_true, if_false]
  rfl

end Dstate

/-! ## Regions (R491) -/

theorem Power.region_upd (p : Power) (n r : Nat) (f : Region → Region) :
    (p.updRegion n f).region r = if r = n then f (p.region r) else p.region r := by
  split
  case isTrue h => rw [h]; exact tblGet_mod_self ..
  case isFalse h => exact tblGet_mod_ne _ _ _ h

/-- Regions of a mask updated, each once. -/
theorem Power.foldl_updRegion (m : Nat) (f : Region → Region) (n : Nat) (p : Power) (r : Nat) :
    ((List.range n).foldl (fun p r => if bitOf m r then p.updRegion r f else p) p).region r =
      if r < n ∧ bitOf m r = true then f (p.region r) else p.region r := by
  induction n with
  | zero => simp
  | succ n ih =>
    rw [List.range_succ, List.foldl_append, List.foldl_cons, List.foldl_nil]
    by_cases hn : bitOf m n = true
    · rw [if_pos hn, Power.region_upd, ih]
      by_cases hr : r = n
      · subst hr
        simp [hn]
      · rw [if_neg hr]
        exact if_congr (and_congr_left' (by omega)) rfl rfl
    · rw [if_neg hn, ih]
      refine if_congr ⟨fun g => ⟨by omega, g.2⟩, fun g => ⟨?_, g.2⟩⟩ rfl rfl
      have : r ≠ n := fun e => hn (e ▸ g.2)
      omega

/-- A frequency of R489 is taken, and answers once the root runs at it or a limiter has fixed a lower target. -/
theorem setFixedFreq_ok {c : CmdCtx} (h0 : c.arg 0 % 100 = 0) (h1 : 2600 ≤ c.arg 0) (h2 : c.arg 0 ≤ 8400) (s : State) : setFixedFreq s c =
    let s1 := if c.begun then s else s.onPower (fun p => p.fix (c.arg 0))
    if s1.power.root = c.arg 0 || (c.begun && s1.power.limiter ≠ 0 && s1.power.target < c.arg 0) then
      cmdDone s1 [BitVec.ofNat 64 s1.power.root]
    else (s1, none) := by
  exact if_neg (fun g => by have := or_decide₃.1 g; omega)

theorem wqAbort_args {c : CmdCtx} (h0 : c.arg 0 < 4) (h1 : c.arg 1 < 256) (h2 : c.arg 2 < 65536) :
    ¬ (decide (4 ≤ c.arg 0) || decide (256 ≤ c.arg 1) || decide (65536 ≤ c.arg 2)) = true := by
  rw [or_decide₃]
  omega

theorem wqAbort_bad {c : CmdCtx} (h : 4 ≤ c.arg 0 ∨ 256 ≤ c.arg 1 ∨ 65536 ≤ c.arg 2) (s : State) : wqAbort s c = cmdEnd s 3 [] :=
  if_pos (or_decide₃.2 h)

/-- Settles O52: each row is its function at the context of the running command. -/
theorem informationAndPowerCommands : Obligations.InformationAndPowerCommands := by
  intro s mb k p b arg done output
  refine ⟨fun h hr => ?_, fun h => ?_, fun h => ?_, fun h => ⟨fun st hb hr => ?_, fun hr => ⟨fun hb ha => ?_, fun hb ha => ?_,
    fun hb ha hd => ?_, fun hb ha hd hre => ?_, fun ha => ?_⟩, fun hb ha hm hre => ?_⟩, fun h => ⟨fun h0 hc => ?_, fun h0 => ?_, fun h0 hc => ?_⟩,
    fun h => ⟨fun ha => ?_, fun h0 h1 => ?_⟩, fun h => ⟨fun ha => ?_, fun ha h0 => ?_, fun ha h0 => ?_⟩,
    fun h => ⟨fun ha => ?_, fun h0 h1 hu => ?_, fun h0 h1 hu => ⟨fun hs => ?_, fun hs => ?_⟩⟩, fun h => ⟨fun ha => ?_, fun h0 h1 => ?_⟩,
    fun h => ⟨fun ha => ?_, fun h0 h1 => ?_⟩, fun h => ?_, fun h => ⟨fun ha => ?_, fun h0 h1 h2 => ⟨fun hb => ?_, fun hb => ?_⟩⟩,
    fun h => ⟨fun hf => ?_, fun hf => ?_⟩, fun h => ⟨fun ha => ?_, fun ha => ?_⟩,
    fun h => ⟨fun ha => ?_, fun h0 h1 h2 => ⟨fun hu => ?_, fun hu j r hj => ?_⟩⟩, fun h => ⟨fun ha => ?_, fun h0 h1 => ?_⟩⟩
  · refine State.row_end (f := getCaps) h rfl ?_
    have hrec : (match s.boot.phase with | .recovery _ => true | _ => false) = false := by
      cases hp : s.boot.phase with
      | recovery why => exact absurd hp (hr why)
      | _ => rfl
    simp only [getCaps, hrec, Bool.false_eq_true, if_false]
    rfl
  · exact State.row_out (f := getTopology) h rfl rfl
  · exact State.row_end (f := getStatus) h rfl rfl
  · exact setDstate_refused h hb hr
  · have ha' : (slotArg (s.chip.box mb).copied 0).toNat = 1 := ha
    exact setDstate_allowed h hb hr (by omega) (if_pos ha)
  · have ha' : (slotArg (s.chip.box mb).copied 0).toNat = 2 := ha
    exact setDstate_allowed h hb hr (by omega) ((if_neg (by omega)).trans (if_pos ha))
  · have ha' : (slotArg (s.chip.box mb).copied 0).toNat = 0 := ha
    exact setDstate_allowed h hb hr (by omega) ((if_neg (by omega)).trans ((if_neg (by omega)).trans (if_pos hd)))
  · have ha' : (slotArg (s.chip.box mb).copied 0).toNat = 0 := ha
    have hne : ¬ s.power.dstate = 1 := fun g => absurd (g.symm.trans hd) (by decide)
    exact setDstate_allowed h hb hr (by omega) ((if_neg (by omega)).trans ((if_neg (by omega)).trans ((if_neg hne).trans
      (if_neg (fun g => hre (List.isEmpty_iff.1 g))))))
  · refine (execSetDstate_of_three h ha).trans ?_
    rw [ha] at hr
    rw [hr]
    rfl
  · refine (execSetDstate_of_row h ha).trans (State.row_end (f := setDstate) h rfl ?_)
    refine (if_pos hb).trans (if_pos ?_)
    rw [show s.power.moving = true from hm, Bool.true_and]
    exact List.isEmpty_iff.2 hre
  · refine State.row_end (f := setPowerCap) h rfl (if_pos ?_)
    rw [Bool.and_eq_true, decide_eq_true_eq, decide_eq_true_eq]
    exact ⟨h0, hc⟩
  · refine State.row_end (f := setPowerCap) h rfl ((if_neg ?_).trans ?_)
    · rw [Bool.and_eq_true, decide_eq_true_eq]
      exact fun g => g.1 h0
    · rw [show (s.ctx mb).arg 0 = 0 from h0]
      rfl
  · refine State.row_end (f := setPowerCap) h rfl ((if_neg ?_).trans ?_)
    · rw [Bool.and_eq_true, decide_eq_true_eq, decide_eq_true_eq]
      exact fun g => absurd g.2 (not_lt.2 hc)
    · simp only [show (s.ctx mb).arg 0 ≠ 0 from h0, if_false]
      rfl
  · exact State.row_end (f := setRampTable) h rfl (if_pos (or_decide.2 ha))
  · refine ⟨_, State.row_end (f := setRampTable) h rfl (if_neg (fun g => (or_decide.1 g).elim (not_le.2 h0) (not_le.2 h1))), ?_, fun r hr => ?_⟩
    · exact congrArg Mailbox.result (Chip.box_upd _ mb _)
    · refine (Power.foldl_updRegion (arg 0) _ 12 s.power r).trans ?_
      exact if_congr (and_iff_right hr) rfl rfl
  · exact State.row_end (f := setHbmMap) h rfl (if_pos (by rw [show s.chip.pkgAllowed = false from ha]; rfl))
  · exact State.row_end (f := setHbmMap) h rfl ((if_neg (by rw [show s.chip.pkgAllowed = true from ha]; decide)).trans (if_pos h0))
  · exact State.row_end (f := setHbmMap) h rfl ((if_neg (by rw [show s.chip.pkgAllowed = true from ha]; decide)).trans (if_neg (not_le.2 h0)))
  · exact State.row_end (f := setShelfSplit) h rfl (if_pos (or_decide.2 ha))
  · refine State.row_end (f := setShelfSplit) h rfl ((if_neg (fun g => (or_decide.1 g).elim (not_le.2 h0) (not_le.2 h1))).trans (if_pos ?_))
    rw [show s.chip.bankUp ((s.ctx mb).arg 0) = false from hu]; rfl
  · refine State.row_end (f := setShelfSplit) h rfl ((if_neg (fun g => (or_decide.1 g).elim (not_le.2 h0) (not_le.2 h1))).trans
      ((if_neg ?_).trans (if_pos (Option.isSome_iff_ne_none.2 hs))))
    rw [show s.chip.bankUp ((s.ctx mb).arg 0) = true from hu]; decide
  · refine State.row_end (f := setShelfSplit) h rfl ((if_neg (fun g => (or_decide.1 g).elim (not_le.2 h0) (not_le.2 h1))).trans
      ((if_neg ?_).trans (if_neg (fun g => Option.isSome_iff_ne_none.1 g hs))))
    rw [show s.chip.bankUp ((s.ctx mb).arg 0) = true from hu]; decide
  · exact State.row_end (f := setScPolicy) h rfl (if_pos (or_decide.2 ha))
  · exact State.row_end (f := setScPolicy) h rfl (if_neg (fun g => (or_decide.1 g).elim (not_le.2 h0) (not_le.2 h1)))
  · exact State.row_end (f := setPcieWidth) h rfl (if_pos (or_decide.2 ha))
  · exact State.row_end (f := setPcieWidth) h rfl (if_neg (fun g => (or_decide.1 g).elim (not_le.2 h0) (not_le.2 h1)))
  · exact State.row_end (f := getClocks) h rfl rfl
  · refine State.row_end (f := setFixedFreq) h rfl (if_pos (or_decide₃.2 ha))
  · have hok := setFixedFreq_ok (c := s.ctx mb) h0 h1 h2 s
    have hb' : (s.ctx mb).begun = false := hb
    rw [hb'] at hok
    by_cases hroot : p.root = arg 0
    · rw [if_pos hroot]
      exact State.row_end (f := setFixedFreq) h rfl (hok.trans (if_pos (Bool.or_eq_true_iff.2 (Or.inl (decide_eq_true hroot)))))
    · rw [if_neg hroot]
      refine State.row_wait (f := setFixedFreq) h rfl (hok.trans (if_neg (fun g => hroot ?_)))
      rw [Bool.or_eq_true, decide_eq_true_eq, Bool.false_and, Bool.false_and] at g
      exact g.resolve_right Bool.false_ne_true
  · have hok := setFixedFreq_ok (c := s.ctx mb) h0 h1 h2 s
    have hb' : (s.ctx mb).begun = true := hb
    rw [hb'] at hok
    have hcond : (decide (p.root = arg 0) || (true && decide (p.limiter ≠ 0) && decide (p.target < arg 0))) = true ↔
        p.root = arg 0 ∨ (p.limiter ≠ 0 ∧ p.target < arg 0) := by
      simp only [Bool.true_and, Bool.or_eq_true, Bool.and_eq_true, decide_eq_true_eq]
    by_cases hroot : p.root = arg 0 ∨ (p.limiter ≠ 0 ∧ p.target < arg 0)
    · rw [if_pos hroot]
      refine State.row_end (f := setFixedFreq) h rfl (hok.trans (if_pos (hcond.2 hroot)))
    · rw [if_neg hroot]
      refine State.row_wait (f := setFixedFreq) h rfl (hok.trans (if_neg (fun g => hroot (hcond.1 g))))
  · exact State.row_end (f := clearFixedFreq) h rfl (if_pos (by rw [show s.power.fixed = false from hf]; rfl))
  · exact State.row_end (f := clearFixedFreq) h rfl (if_neg (by rw [show s.power.fixed = true from hf]; decide))
  · exact State.row_end (f := setBoost) h rfl (if_pos ha)
  · exact State.row_end (f := setBoost) h rfl (if_neg (not_le.2 ha))
  · exact State.row_end (f := wqAbort) h rfl (wqAbort_bad (c := s.ctx mb) ha s)
  · refine State.row_end (f := wqAbort) h rfl ((if_neg (wqAbort_args (c := s.ctx mb) h0 h1 h2)).trans (if_pos ?_))
    rw [show s.chip.bankUp ((s.ctx mb).arg 0) = false from hu]; rfl
  · refine State.row_end (f := wqAbort) h rfl ((if_neg (wqAbort_args (c := s.ctx mb) h0 h1 h2)).trans ((if_neg ?_).trans ?_))
    · rw [show s.chip.bankUp ((s.ctx mb).arg 0) = true from hu]; decide
    · rw [show s.chip.abort ((s.ctx mb).arg 0) ((s.ctx mb).arg 1) (BitVec.ofNat 16 ((s.ctx mb).arg 2)) = (j, r) from hj]
  · exact State.row_end (f := wqStatus) h rfl (if_pos (or_decide.2 ha))
  · exact State.row_end (f := wqStatus) h rfl (if_neg (fun g => (or_decide.1 g).elim (not_le.2 h0) (not_le.2 h1)))

end Sys2Proof.Machine
end

section
/-! PROOFS. The Tumbler commands of families 0x05 and 0x06 (R364-R366, R377, R389-R391, R399-R410, R473). -/

namespace Sys2Proof.Machine

/-! ## Rows with an input buffer -/

/-- The context of a running command with one input buffer. -/
def State.ctxIn (s : State) (mb : Nat) (inp : Option Bytes) : CmdCtx :=
  { mb := mb, slot := (s.chip.box mb).copied, begun := (s.chip.box mb).begun, input := inp, room := (s.chip.box mb).outRoom 1 }

section Input

variable {s : State} {mb op : Nat} {j : Chip} {inp : Option Bytes} {f : State → CmdCtx → CmdEnd}
  (h : s.commandRuns mb op) (hop : (cmdInfo op).map (·.nIn) = some 1) (hb : s.chip.cmdInput mb = (j, inp))
include h hop hb

theorem State.rowIn {e : CmdEnd} (hf : f { s with chip := j } (s.ctxIn mb inp) = e) : runCommand mb op f s = e.1.answers mb e.2 := by
  obtain ⟨c, hc, hn⟩ := Option.map_eq_some_iff.1 hop
  unfold runCommand
  rw [State.runRow_of_input h hc (by rw [hn]; decide) hb, hn, ← hf]
  rfl

theorem State.rowIn_end {t : State} {st : Nat} {res : List U64} (hf : f { s with chip := j } (s.ctxIn mb inp) = cmdEnd t st res) :
    runCommand mb op f s = t.answers mb (some (mbResult st res)) := State.rowIn h hop hb hf

theorem State.rowIn_wait {t : State} (hf : f { s with chip := j } (s.ctxIn mb inp) = (t, none)) :
    runCommand mb op f s = t.answers mb none := State.rowIn h hop hb hf

end Input

/-! ## Spaces (R364-R366, R377) -/

section Space

variable {s : State} {c : CmdCtx}

theorem CmdCtx.spaceRec_none (h : 2 ≤ c.arg 1 ∨ 256 ≤ c.arg 2 ∨ 65536 < c.arg 3 ∨ 2 ^ 44 ≤ c.arg 4) : c.spaceRec = none := by
  refine if_neg ?_
  simp only [Bool.and_eq_true, decide_eq_true_eq]
  omega

theorem CmdCtx.spaceRec_some (h1 : c.arg 1 < 2) (h2 : c.arg 2 < 256) (h3 : c.arg 3 ≤ 65536) (h4 : c.arg 4 < 2 ^ 44) : c.spaceRec =
    some { en := decide (c.arg 1 = 1), domain := BitVec.ofNat 8 (c.arg 2), count := BitVec.ofNat 17 (c.arg 3),
           tbase := BitVec.ofNat 44 (c.arg 4) } := by
  refine if_pos ?_
  simp only [Bool.and_eq_true, decide_eq_true_eq]
  exact ⟨⟨⟨h1, h2⟩, h3⟩, h4⟩

variable (hb : c.begun = false)
include hb

theorem spaceSet_named (ht : c.arg 0 = 0 ∨ 4096 ≤ c.arg 0) : spaceSet s c = cmdEnd s 3 [] := by
  refine (if_neg (ne_true_of_eq_false hb)).trans (if_pos ?_)
  rw [or_decide]
  exact ht

theorem spaceSet_args (hr : c.spaceRec = none) : spaceSet s c = cmdEnd s 3 [] := by
  refine (if_neg (ne_true_of_eq_false hb)).trans ?_
  rw [hr]
  exact ite_self _

section Args

variable {r : SpaceRec} (hr : c.spaceRec = some r)
include hr

theorem spaceSet_table (hk : s.chip.tableOk r = false) : spaceSet s c = cmdEnd s 3 [] := by
  refine (if_neg (ne_true_of_eq_false hb)).trans ?_
  simp only [hr, hk, Bool.not_false, if_true]
  exact ite_self _

theorem spaceSet_taken (h0 : c.arg 0 ≠ 0) (ht : c.arg 0 < 4096) (hk : s.chip.tableOk r = true) : spaceSet s c =
    let k := { s.chip with spaces := tblPut SpaceRec.reset s.chip.spaces (c.arg 0) r }
    if (s.chip.space (c.arg 0)).en && s.chip.space (c.arg 0) ≠ r then ({ s with chip := k.startInval (c.arg 0) (.command c.mb) }, none)
    else cmdDone { s with chip := k } [] := by
  refine (if_neg (ne_true_of_eq_false hb)).trans ((if_neg ?_).trans ?_)
  · rw [or_decide]
    omega
  · simp only [hr, hk, Bool.not_true, Bool.false_eq_true, if_false]

end Args

theorem spaceInval_named (ht : c.arg 0 = 0 ∨ 4096 ≤ c.arg 0) : spaceInval s c = cmdEnd s 3 [] := by
  refine (if_neg (ne_true_of_eq_false hb)).trans (if_pos ?_)
  rw [or_decide]
  exact ht

theorem spaceInval_ok (h0 : c.arg 0 ≠ 0) (ht : c.arg 0 < 4096) :
    spaceInval s c = ({ s with chip := s.chip.startInval (c.arg 0) (.command c.mb) }, none) := by
  refine (if_neg (ne_true_of_eq_false hb)).trans (if_neg ?_)
  rw [or_decide]
  omega

/-! ## Relocation (R389, R390) -/

/-- Whether the arguments of `RELOCATE` name an entry and fit their fields. -/
def State.relocates (s : State) (c : CmdCtx) : Bool :=
  !(!c.relocArgs || !(s.chip.space (c.arg 0)).en || (s.chip.space (c.arg 0)).count.toNat ≤ c.arg 1)

omit hb in
theorem State.relocates_iff : s.relocates c = true ↔ c.arg 0 ≠ 0 ∧ c.arg 0 < 4096 ∧ c.arg 2 < 2 ^ 40 ∧ c.arg 3 ≤ 2 ∧ c.arg 4 < 2 ∧
    (s.chip.space (c.arg 0)).en = true ∧ c.arg 1 < (s.chip.space (c.arg 0)).count.toNat := by
  simp only [State.relocates, CmdCtx.relocArgs, Bool.not_eq_true', Bool.or_eq_false_iff, Bool.not_eq_false', Bool.and_eq_true,
    decide_eq_true_eq, decide_eq_false_iff_not, not_le, and_assoc]

theorem relocate_bad (h : s.relocates c = false) : relocate s c = cmdEnd s 3 [] :=
  (if_neg (ne_true_of_eq_false hb)).trans (if_pos (by simpa only [State.relocates, Bool.not_eq_false'] using h))

variable (h : s.relocates c = true)
include h

theorem relocate_busy (hr : s.chip.relocating ≠ none) : relocate s c = cmdEnd s 1 [] := by
  refine (if_neg (ne_true_of_eq_false hb)).trans ((if_neg ?_).trans (if_pos (Option.isSome_iff_ne_none.2 hr)))
  exact ne_true_of_eq_false (by simpa only [State.relocates, Bool.not_eq_true'] using h)

theorem relocate_read (hr : s.chip.relocating = none) : relocate s c = match s.chip.tumblerEntry (c.arg 0) (c.arg 1) with
  | (k, none) => cmdEnd { s with chip := k } 9 []
  | (k, some x) =>
    if !k.movable (decodeRange x) (c.arg 2) (c.arg 3) (c.arg 4 = 1) then cmdEnd { s with chip := k } 3 []
    else ({ s with chip := { k with relocating := some ({
        mb := c.mb, space := c.arg 0, index := c.arg 1, pstart := c.arg 2, tier := c.arg 3, coh := c.arg 4 = 1,
        oldStart := (decodeRange x).pstart.toNat, len := (decodeRange x).len.toNat, oldLpddr := inLpddr (decodeRange x).first
        inval := k.nextInv, copied := 0 } : Relocation) }.startInval (c.arg 0) (.command c.mb) }, none) := by
  refine (if_neg (ne_true_of_eq_false hb)).trans ((if_neg ?_).trans ((if_neg ?_).trans ?_))
  · exact ne_true_of_eq_false (by simpa only [State.relocates, Bool.not_eq_true'] using h)
  · rw [hr]; decide
  · rfl

end Space

/-! ## Images (R399-R403, R408) -/

section Flash

variable {s : State} {c : CmdCtx}

theorem imgCreate_denied (h0 : c.arg 0 ≠ 0) (h : s.chip.flash.sparePct.toNat < 2 ∨ userUnits < s.chip.flash.used + (c.arg 0 + 65535) / 65536) :
    imgCreate s c = cmdEnd s 4 [] :=
  (if_neg h0).trans (if_pos (or_decide.2 h))

theorem imgCreate_ok {i o : Nat} (h0 : c.arg 0 ≠ 0) (hs : 2 ≤ s.chip.flash.sparePct.toNat)
    (hu : s.chip.flash.used + (c.arg 0 + 65535) / 65536 ≤ userUnits) (hi : s.chip.flash.freeId = some i)
    (ho : s.chip.flash.place ((c.arg 0 + 65535) / 65536 * 65536) = some o) : imgCreate s c =
    cmdEnd (s.onChip (fun k => k.onFlash (fun f => { f.dropData o ((c.arg 0 + 65535) / 65536 * 65536) with images := f.images ++
      [({ id := i, st := .writing, offset := o, length := c.arg 0, digest := 0, damaged := false } : Image)] }))) 0
      [BitVec.ofNat 64 i, BitVec.ofNat 64 o] := by
  refine (if_neg h0).trans ((if_neg (fun g => (or_decide.1 g).elim (not_lt.2 hs) (not_lt.2 hu))).trans ?_)
  simp only [hi, ho]
  rfl

section Write

variable {i : Image} (hi : s.chip.flash.image (c.arg 0) = some i)
include hi

theorem imgWrite_denied (h : i.st ≠ .writing) : imgWrite s c = cmdEnd s 4 [] := by
  simp only [imgWrite, hi]
  exact if_pos h

variable (hw : i.st = .writing)
include hw

theorem imgWrite_bad (h : c.arg 1 % 512 ≠ 0 ∨ i.length < c.arg 1 + s.chip.inputLength c.mb) : imgWrite s c = cmdEnd s 3 [] := by
  simp only [imgWrite, hi]
  exact (if_neg (not_not.2 hw)).trans (if_pos (or_decide.2 h))

theorem imgWrite_stores {bs : Bytes} (h1 : c.arg 1 % 512 = 0) (h2 : c.arg 1 + s.chip.inputLength c.mb ≤ i.length) (hbs : c.input = some bs) :
    imgWrite s c = cmdEnd { s with chip := s.chip.writeImage (i.offset + c.arg 1) bs } 0 [BitVec.ofNat 64 bs.length] := by
  simp only [imgWrite, hi, hbs]
  exact (if_neg (not_not.2 hw)).trans (if_neg (fun g => (or_decide.1 g).elim (fun g => g h1) (not_lt.2 h2)))

/-- R401: a source that is poisoned leaves what was written undefined. -/
theorem imgWrite_lost {bs : Bytes} {l : Chip} (h1 : c.arg 1 % 512 = 0) (h2 : c.arg 1 + s.chip.inputLength c.mb ≤ i.length)
    (hbs : c.input = none) (hf : s.chip.freshBytes (s.chip.inputLength c.mb) = (bs, l)) :
    imgWrite s c = cmdEnd { s with chip := l.writeImage (i.offset + c.arg 1) bs } 9 [] := by
  simp only [imgWrite, hi, hbs, hf]
  exact (if_neg (not_not.2 hw)).trans (if_neg (fun g => (or_decide.1 g).elim (fun g => g h1) (not_lt.2 h2)))

end Write

section Seal

variable {i : Image} (hi : s.chip.flash.image (c.arg 0) = some i)
include hi

theorem imgSeal_denied (h : i.st ≠ .writing) : imgSeal s c = cmdEnd s 4 [] := by
  simp only [imgSeal, hi, h, ne_eq, not_false_eq_true, if_true]
  rfl

variable (hw : i.st = .writing)
include hw

theorem imgSeal_small (h : c.room < 64) : imgSeal s c = cmdEnd s 3 [] := by
  simp only [imgSeal, hi, hw, ne_eq, not_true_eq_false, if_false, h, if_true]
  rfl

variable (hr : 64 ≤ c.room)
include hr

/-- R402: a read of the image that ends uncorrectable leaves it as it is. -/
theorem imgSeal_unread (h : (Config.freeBits s.chip.free).getLsbD 0 = true) :
    imgSeal s c = cmdEnd { s with chip := { s.chip with free := s.chip.free + 1 } } 9 [] := by
  simp only [imgSeal, hi, hw, ne_eq, not_true_eq_false, if_false, if_neg (not_lt.2 hr), Chip.fresh, h, if_true]
  rfl

/-- R402: the digest of the image seals it. -/
theorem imgSeal_sealed (h : (Config.freeBits s.chip.free).getLsbD 0 = false) : imgSeal s c =
    (({ s with chip := { s.chip with free := s.chip.free + 1 } } : State).onChip (fun k => k.onFlash (fun f =>
      f.updImage i.id (fun j => { j with st := .sealed, digest := sha512 (s.chip.flash.imageBytes i) }))),
      some { mbResult 0 (digestWords (sha512 (s.chip.flash.imageBytes i))) with
        out := some (toBytes 64 (sha512 (s.chip.flash.imageBytes i)).toNat) }) := by
  simp only [imgSeal, hi, hw, ne_eq, not_true_eq_false, if_false, if_neg (not_lt.2 hr), Chip.fresh, h, Bool.false_eq_true]
  generalize sha512 (s.chip.flash.imageBytes i) = d
  exact if_pos (by rw [toBytes_length]; exact hr)

end Seal

section Erase

variable (hb : c.begun = false)
include hb

theorem imgErase_none (hi : s.chip.flash.image (c.arg 0) = none) : imgErase s c = cmdEnd s 3 [] := by
  simp only [imgErase, hb, hi, Bool.false_eq_true, if_false]
  rfl

variable {i : Image} (hi : s.chip.flash.image (c.arg 0) = some i)
include hi

theorem imgErase_denied (h : i.st = .erasing) : imgErase s c = cmdEnd s 4 [] := by
  simp only [imgErase, hb, hi, h, Bool.false_eq_true, if_false, if_true]
  rfl

theorem imgErase_begun (h : i.st ≠ .erasing) :
    imgErase s c = (s.onChip (fun k => k.onFlash (fun f => f.updImage i.id (fun i => { i with st := .erasing }))), none) := by
  simp only [imgErase, hb, hi, h, Bool.false_eq_true, if_false]

end Erase

theorem fltDefer_denied (h0 : 0 < c.arg 0) (h1 : c.arg 0 ≤ 60) (h : s.chip.flash.defer ≠ none ∨ s.chip.mgmt.now < s.chip.flash.deferNot) :
    fltDefer s c = cmdEnd s 4 [] := by
  refine (if_neg (not_lt.2 h1)).trans ((if_neg (by omega)).trans (if_pos ?_))
  rw [Bool.or_eq_true, Option.isSome_iff_ne_none, decide_eq_true_eq]
  exact h

theorem fltDefer_begins (h0 : 0 < c.arg 0) (h1 : c.arg 0 ≤ 60) (h : s.chip.flash.defer = none) (h2 : s.chip.flash.deferNot ≤ s.chip.mgmt.now) :
    fltDefer s c = cmdEnd (s.onChip (fun k => k.onFlash (fun f =>
      { f with defer := some (s.chip.mgmt.now, s.chip.mgmt.now + c.arg 0 * refclkSecond) }.refresh))) 0 [BitVec.ofNat 64 (c.arg 0)] := by
  refine (if_neg (not_lt.2 h1)).trans ((if_neg (by omega)).trans (if_neg ?_))
  rw [Bool.or_eq_true, Option.isSome_iff_ne_none, decide_eq_true_eq]
  exact fun g => g.elim (fun g => g h) (not_lt.2 h2)

end Flash

/-- Settles O53: each row is its function at the context of the running command. -/
theorem spaceAndFlashCommands : Obligations.SpaceAndFlashCommands := by
  refine ⟨fun s mb => ?_, fun s mb => ?_⟩
  · intro k b arg t old r k1 hb
    have hbeg : (s.ctx mb).begun = false := hb
    refine ⟨fun h => ⟨fun hbad => ?_, fun h0 ht ha1 ha2 ha3 ha4 hok => ?_⟩, fun h => ⟨fun ht => ?_, fun h0 ht => ?_⟩,
      fun h => ⟨fun ht => ?_, fun ht => ?_⟩, fun h => ⟨fun hbad => ?_, fun h0 ht h2 h3 h4 he hc => ⟨fun hr => ?_, fun hr j x hj => ?_⟩⟩⟩
    · refine State.row_end (f := spaceSet) h rfl ?_
      by_cases ht : t = 0 ∨ 4096 ≤ t
      · exact spaceSet_named hbeg ht
      by_cases hargs : 2 ≤ arg 1 ∨ 256 ≤ arg 2 ∨ 65536 < arg 3 ∨ 2 ^ 44 ≤ arg 4
      · exact spaceSet_args hbeg (CmdCtx.spaceRec_none (c := s.ctx mb) hargs)
      · have hk : k.tableOk r = false := by tauto
        have ⟨ha1, ha2, ha3, ha4⟩ : arg 1 < 2 ∧ arg 2 < 256 ∧ arg 3 ≤ 65536 ∧ arg 4 < 2 ^ 44 := by omega
        have hr : (s.ctx mb).spaceRec = some r := CmdCtx.spaceRec_some (c := s.ctx mb) ha1 ha2 ha3 ha4
        exact spaceSet_table hbeg hr hk
    · have hr : (s.ctx mb).spaceRec = some r := CmdCtx.spaceRec_some (c := s.ctx mb) ha1 ha2 ha3 ha4
      have hset := spaceSet_taken (s := s) hbeg hr h0 ht hok
      refine ⟨fun hold => ?_, fun hen hne => ?_⟩
      · refine State.row_end (f := spaceSet) h rfl (hset.trans (if_neg ?_))
        rw [Bool.and_eq_true, decide_eq_true_eq]
        exact fun g => hold.elim (fun e => Bool.noConfusion (e.symm.trans g.1)) (fun e => g.2 e)
      · refine State.row_wait (f := spaceSet) h rfl (hset.trans (if_pos ?_))
        rw [Bool.and_eq_true, decide_eq_true_eq]
        exact ⟨hen, hne⟩
    · exact State.row_end (f := spaceInval) h rfl (spaceInval_named hbeg ht)
    · exact State.row_wait (f := spaceInval) h rfl (spaceInval_ok hbeg h0 ht)
    · exact State.row_end (f := spaceGet) h rfl (if_pos ht)
    · exact State.row_end (f := spaceGet) h rfl (if_neg (not_le.2 ht))
    · refine State.row_end (f := relocate) h rfl (relocate_bad hbeg ?_)
      refine Bool.eq_false_iff.2 (fun g => ?_)
      obtain ⟨g0, g1, g2, g3, g4, ge, gc⟩ := State.relocates_iff.1 g
      rcases hbad with e | e | e | e | e | e | e
      · exact g0 e
      · exact absurd g1 (not_lt.2 e)
      · exact absurd g2 (not_lt.2 e)
      · exact absurd g3 (not_le.2 e)
      · exact absurd g4 (not_lt.2 e)
      · exact Bool.noConfusion (e.symm.trans ge)
      · exact absurd gc (not_lt.2 e)
    · exact State.row_end (f := relocate) h rfl (relocate_busy hbeg (State.relocates_iff.2 ⟨h0, ht, h2, h3, h4, he, hc⟩) hr)
    · have hrel := relocate_read hbeg (State.relocates_iff.2 ⟨h0, ht, h2, h3, h4, he, hc⟩) hr
      rw [show s.chip.tumblerEntry ((s.ctx mb).arg 0) ((s.ctx mb).arg 1) = (j, x) from hj] at hrel
      refine ⟨fun hx => ?_, fun y hx => ⟨fun hm => ?_, fun hm => ?_⟩⟩
      · rw [hx] at hrel
        exact State.row_end (f := relocate) h rfl hrel
      · rw [hx] at hrel
        refine State.row_end (f := relocate) h rfl (hrel.trans (if_pos ?_))
        rw [show j.movable (decodeRange y) ((s.ctx mb).arg 2) ((s.ctx mb).arg 3) ((s.ctx mb).arg 4 = 1) = false from hm]
        rfl
      · rw [hx] at hrel
        refine State.row_wait (f := relocate) h rfl (hrel.trans (if_neg ?_))
        rw [show j.movable (decodeRange y) ((s.ctx mb).arg 2) ((s.ctx mb).arg 3) ((s.ctx mb).arg 4 = 1) = true from hm]
        decide
  · intro k f b now arg list onF done
    refine ⟨fun h => ⟨fun hl => ?_, fun hl => ?_⟩, fun h => ⟨fun h0 => ?_, fun h0 hs => ?_, fun h0 hs hu i o hi ho => ?_⟩, fun h j inp hin => ?_,
      fun h i hi => ?_, fun h hb => ⟨fun hi => ?_, fun i hi => ⟨fun hst => ?_, fun hst => ?_⟩⟩,
      fun h => ⟨fun h0 => ?_, fun h0 hd => ?_, fun h0 x y hd => ?_, fun h0 h1 => ⟨fun hd => ?_, fun hd hn => ?_⟩⟩⟩
    · exact State.row_end (f := imgList) h rfl (if_pos hl)
    · exact State.row (f := imgList) h rfl (if_neg (not_lt.2 hl))
    · exact State.row_end (f := imgCreate) h rfl (if_pos h0)
    · exact State.row_end (f := imgCreate) h rfl (imgCreate_denied (c := s.ctx mb) h0 hs)
    · exact State.row_end (f := imgCreate) h rfl (imgCreate_ok (c := s.ctx mb) h0 hs hu hi ho)
    · refine ⟨fun hi => ?_, fun i hi => ⟨fun hst => ?_, fun hst hbad => ?_, fun hst h1 h2 => ⟨fun bs hbs => ?_, fun hbs bs l hf => ?_⟩⟩⟩
      · refine State.rowIn_end (f := imgWrite) h rfl hin ?_
        simp only [imgWrite, show j.flash.image ((s.ctxIn mb inp).arg 0) = none from hi]
        rfl
      · exact State.rowIn_end (f := imgWrite) h rfl hin (imgWrite_denied (s := { s with chip := j }) (c := s.ctxIn mb inp) hi hst)
      · exact State.rowIn_end (f := imgWrite) h rfl hin (imgWrite_bad (s := { s with chip := j }) (c := s.ctxIn mb inp) hi hst hbad)
      · exact State.rowIn_end (f := imgWrite) h rfl hin (imgWrite_stores (s := { s with chip := j }) (c := s.ctxIn mb inp) hi hst h1 h2 hbs)
      · exact State.rowIn_end (f := imgWrite) h rfl hin (imgWrite_lost (s := { s with chip := j }) (c := s.ctxIn mb inp) hi hst h1 h2 hbs hf)
    · intro bad j
      refine ⟨fun hst => ?_, fun hst hr => ?_, fun hst hr hbad => ?_, fun hst hr hbad => ?_⟩
      · exact State.row_end (f := imgSeal) h rfl (imgSeal_denied (c := s.ctx mb) hi hst)
      · exact State.row_end (f := imgSeal) h rfl (imgSeal_small (c := s.ctx mb) hi hst hr)
      · exact State.row_end (f := imgSeal) h rfl (imgSeal_unread (c := s.ctx mb) hi hst hr hbad)
      · exact State.row (f := imgSeal) h rfl (imgSeal_sealed (c := s.ctx mb) hi hst hr hbad)
    · exact State.row_end (f := imgErase) h rfl (imgErase_none (c := s.ctx mb) hb hi)
    · exact State.row_end (f := imgErase) h rfl (imgErase_denied (c := s.ctx mb) hb hi hst)
    · exact State.row_wait (f := imgErase) h rfl (imgErase_begun (c := s.ctx mb) hb hi hst)
    · exact State.row_end (f := fltDefer) h rfl (if_pos h0)
    · refine State.row_end (f := fltDefer) h rfl ((if_neg (by rw [show (s.ctx mb).arg 0 = 0 from h0]; decide)).trans ((if_pos h0).trans ?_))
      rw [show s.chip.flash.defer = none from hd]
      rfl
    · refine State.row_end (f := fltDefer) h rfl ((if_neg (by rw [show (s.ctx mb).arg 0 = 0 from h0]; decide)).trans ((if_pos h0).trans ?_))
      rw [show s.chip.flash.defer = some (x, y) from hd]
      rfl
    · exact State.row_end (f := fltDefer) h rfl (fltDefer_denied (c := s.ctx mb) h0 h1 hd)
    · exact State.row_end (f := fltDefer) h rfl (fltDefer_begins (c := s.ctx mb) h0 h1 hd hn)

end Sys2Proof.Machine
end

section
/-! PROOFS. The Tumbler commands of families 0x07 and 0x08 (R431, R432, R455, R473, R504-R523). -/

namespace Sys2Proof.Machine

/-- A command that answers words and data ends with them, or with `BAD_ARG` where the data does not fit. -/
theorem State.row_output {s : State} {mb op : Nat} {f : State → CmdCtx → CmdEnd} {res : List U64} {bs : Bytes} (h : s.commandRuns mb op)
    (hop : (cmdInfo op).map (·.nIn) = some 0) (hf : f s (s.ctx mb) = cmdOut s (s.ctx mb) res bs) : runCommand mb op f s =
      if bs.length ≤ (s.chip.box mb).outRoom 0 then s.answers mb (some { mbResult 0 res with out := some bs }) else s.refuses mb 3 := by
  rw [State.row h hop (hf.trans (cmdOut_eq ..))]
  by_cases hb : bs.length ≤ (s.chip.box mb).outRoom 0
  · rw [if_pos hb, if_pos (show bs.length ≤ (s.ctx mb).room from hb)]
  · rw [if_neg hb, if_neg (show ¬ bs.length ≤ (s.ctx mb).room from hb)]
    rfl

/-! ## Pod configuration, check and relay (R431, R432) -/

section Pod

variable {s : State} {c : CmdCtx} {bs : Bytes} (hi : c.input = some bs)

section Configure

include hi

theorem podConfigure_shape (ht : podTopology (c.arg 1) (podEntries (bs.length / 16) bs).length s.chip.portList.length = none) :
    podConfigure s c = cmdEnd s 3 [] := by
  simp only [podConfigure, hi, ht]
  rfl

variable {t : Topology} (ht : podTopology (c.arg 1) (podEntries (bs.length / 16) bs).length s.chip.portList.length = some t)
include ht

section First

variable (hb : c.begun = false)
include hb

theorem podConfigure_list (hl : bs.length % 16 ≠ 0 ∨ s.podListOk (podEntries (bs.length / 16) bs) = false) :
    podConfigure s c = cmdEnd s 3 [] := by
  simp only [podConfigure, hi, ht, hb, Bool.false_eq_true, if_false]
  refine if_pos ?_
  rw [Bool.or_eq_true, decide_eq_true_eq, Bool.not_eq_true']
  exact hl

variable (h16 : bs.length % 16 = 0) (hl : s.podListOk (podEntries (bs.length / 16) bs) = true)
include h16 hl

theorem podConfigure_busy (ha : s.chip.fabric.awaited ≠ []) : podConfigure s c = cmdEnd s 1 [] := by
  have hne : s.chip.fabric.awaited.isEmpty = false := Bool.eq_false_iff.2 (fun g => ha (List.isEmpty_iff.1 g))
  simp only [podConfigure, hi, ht, hb, h16, hl, hne, Bool.false_eq_true, if_false, ne_eq, not_true_eq_false, decide_false, Bool.not_true,
    Bool.or_self, Bool.not_false, if_true]
  rfl

theorem podConfigure_sends (ha : s.chip.fabric.awaited = []) : podConfigure s c = (s.onChip (fun k => k.onFabric (fun f =>
    ((podEntries (bs.length / 16) bs).filter (fun e => !e.path.isEmpty)).foldl (fun f e =>
      f.sendConfig (BitVec.ofNat 64 (c.arg 0)) t (podEntries (bs.length / 16) bs) e) f)), none) := by
  simp only [podConfigure, hi, ht, hb, h16, hl, ha, Bool.false_eq_true, if_false, ne_eq, not_true_eq_false, decide_false, Bool.not_true,
    Bool.or_self, List.isEmpty_nil]

end First

section Later

variable (hb : c.begun = true)
include hb

theorem podConfigure_waits (ha : s.chip.fabric.awaited ≠ []) : podConfigure s c = (s, none) := by
  have hne : s.chip.fabric.awaited.isEmpty = false := Bool.eq_false_iff.2 (fun g => ha (List.isEmpty_iff.1 g))
  simp only [podConfigure, hi, ht, hb, hne, Bool.false_eq_true, if_false, if_true]

theorem podConfigure_takes (ha : s.chip.fabric.awaited = []) {e : PodEntry}
    (he : (podEntries (bs.length / 16) bs).find? (fun e => e.path.isEmpty) = some e) : podConfigure s c =
    cmdEnd (s.onChip (fun k => k.configurePod (k.podRecordOf (BitVec.ofNat 64 (c.arg 0)) t e.dev (podEntries (bs.length / 16) bs)))) 0 [] := by
  simp only [podConfigure, hi, ht, hb, ha, he, List.isEmpty_nil, if_true]
  rfl

end Later

end Configure

theorem podCheck_busy (hb : c.begun = false) (hk : s.chip.checker ≠ none) : podCheck s c = cmdEnd s 1 [] := by
  refine if_pos ?_
  rw [hb, Option.isSome_iff_ne_none.2 hk]
  rfl

/-- R432: the check answers when no module is silent. -/
theorem podCheck_state (hk : c.begun = false → s.chip.checker = none) : podCheck s c =
    let s1 := if c.begun then s else s.onChip Chip.pingAll
    (s1, if s1.chip.fabric.podSilent = [] then some s1.chip.fabric.podAnswer else none) := by
  have hc : ¬ (!c.begun && s.chip.checker.isSome) = true := by
    cases hb : c.begun
    · rw [hk hb]; decide
    · exact Bool.false_ne_true
  refine (if_neg hc).trans ?_
  by_cases he : (if c.begun then s else s.onChip Chip.pingAll).chip.fabric.podSilent = []
  · rw [if_pos (List.isEmpty_iff.2 he)]
    dsimp only
    rw [if_pos he]
  · rw [if_neg (fun g => he (List.isEmpty_iff.1 g))]
    dsimp only
    rw [if_neg he]

section Relay

variable (hb : c.begun = false)
include hb

theorem podRelay_device (h : 64 ≤ c.arg 0 ∨ c.arg 0 = s.chip.fabric.devnum.toNat) : podRelay s c = cmdEnd s 3 [] := by
  simp only [podRelay, hb, Bool.false_eq_true, if_false]
  exact if_pos (or_decide.2 h)

variable (h0 : c.arg 0 < 64) (hd : c.arg 0 ≠ s.chip.fabric.devnum.toNat)
include h0 hd hi

theorem podRelay_length (hl : bs.length < 64 ∨ 1728 < bs.length) : podRelay s c = cmdEnd s 3 [] := by
  simp only [podRelay, hb, hi, Bool.false_eq_true, if_false]
  exact (if_neg (fun g => (or_decide.1 g).elim (not_le.2 h0) hd)).trans (if_pos (or_decide.2 hl))

theorem podRelay_sends (h1 : 64 ≤ bs.length) (h2 : bs.length ≤ 1728) : podRelay s c =
    let seq := s.chip.fabric.mseq + 1
    let dst : BitVec 6 := BitVec.ofNat 6 (c.arg 0)
    let body := toBytes 8 s.boot.ownerId.toNat ++ [BitVec.ofNat 8 (relayBox c.mb), 0, 0, 0, 0, 0, 0, 0] ++ bs
    let out : RelayOut := { mseq := seq, dst := dst, mb := c.mb, body := body, resent := 0 }
    (s.onChip (fun k =>
      (k.onFabric (fun f => { f with mseq := seq, relays := f.relays ++ [out] })).sendRelay 2 dst seq body), none) := by
  simp only [podRelay, hb, hi, Bool.false_eq_true, if_false]
  refine (if_neg (fun g => (or_decide.1 g).elim (not_le.2 h0) hd)).trans (if_neg (fun g => ?_))
  exact (or_decide.1 g).elim (not_lt.2 h1) (not_lt.2 h2)

end Relay

end Pod

/-! ## Firmware (R516, R517) -/

section Firmware

variable {s : State} {c : CmdCtx}

/-- The arguments of `FW_STAGE` and `FW_ACTIVATE` name no slot of a kind. -/
theorem fwStage_args (h : 2 ≤ c.arg 0 ∨ c.arg 1 = 0 ∨ 3 ≤ c.arg 1) : fwStage s c = cmdEnd s 3 [] := if_pos (or_decide₃.2 h)

theorem fwActivate_args (h : 2 ≤ c.arg 0 ∨ c.arg 1 = 0 ∨ 3 ≤ c.arg 1) : fwActivate s c = cmdEnd s 3 [] := if_pos (or_decide₃.2 h)

section Named

variable (h0 : c.arg 0 < 2) (h1 : c.arg 1 ≠ 0) (h2 : c.arg 1 < 3)
include h0 h1 h2

theorem fw_named : ¬ (decide (2 ≤ c.arg 0) || decide (c.arg 1 = 0) || decide (3 ≤ c.arg 1)) = true := by
  rw [or_decide₃]
  omega

theorem fwStage_unread (hi : c.input = none) : fwStage s c = cmdEnd s 9 [] := by
  refine (if_neg (fw_named h0 h1 h2)).trans ?_
  rw [hi]
  rfl

section Image

variable {bs : Bytes} (hi : c.input = some bs)
include hi

/-- R516: the second part writes the image. -/
theorem fwStage_second (hb : c.begun = true) : fwStage s c = cmdEnd { s with
    boot := s.boot.updKind (c.arg 1) (fun k => k.updSlot (decide (c.arg 0 = 1)) (fun _ => stagedSlot (s.boot.parseImage (c.arg 1) bs)))
    chip := s.chip.fwEvent (decide (c.arg 0 = 1)) 1 } 0 [] := by
  refine (if_neg (fw_named h0 h1 h2)).trans ?_
  rw [hi]
  exact if_pos hb

variable (hb : c.begun = false)
include hb

theorem fwStage_denied (h : (s.boot.kind (c.arg 1)).running = some (decide (c.arg 0 = 1)) ∨
    (s.boot.kind (c.arg 1)).preferred = decide (c.arg 0 = 1)) : fwStage s c = cmdEnd s 4 [] := by
  refine (if_neg (fw_named h0 h1 h2)).trans ?_
  rw [hi]
  exact (if_neg (ne_true_of_eq_false hb)).trans (if_pos (or_decide.2 h))

variable (hr : (s.boot.kind (c.arg 1)).running ≠ some (decide (c.arg 0 = 1))) (hp : (s.boot.kind (c.arg 1)).preferred ≠ decide (c.arg 0 = 1))
include hr hp

/-- R516: the first part erases the slot where no other mailbox uses the kind and the image is good. -/
theorem fwStage_first : fwStage s c = if s.boot.kindBusy c.mb (c.arg 1) = true then cmdEnd s 1 []
    else if s.boot.slotOk (c.arg 1) (stagedSlot (s.boot.parseImage (c.arg 1) bs)) = true then
      ({ s with boot := { s.boot.updKind (c.arg 1) (fun k => k.updSlot (decide (c.arg 0 = 1)) (fun _ => emptySlot)) with
        staging := s.boot.staging ++ [(c.mb, c.arg 1)] } }, none)
    else cmdEnd s 3 [] := by
  refine (if_neg (fw_named h0 h1 h2)).trans ?_
  rw [hi]
  refine (if_neg (ne_true_of_eq_false hb)).trans ((if_neg (fun g => (or_decide.1 g).elim hr hp)).trans ?_)
  refine if_congr Iff.rfl rfl ?_
  cases s.boot.slotOk (c.arg 1) (stagedSlot (s.boot.parseImage (c.arg 1) bs)) <;> rfl

end Image

/-- R517: a valid slot is made preferred. -/
theorem fwActivate_eq : fwActivate s c = if s.boot.kindBusy c.mb (c.arg 1) = true then cmdEnd s 1 []
    else if s.boot.slotOk (c.arg 1) ((s.boot.kind (c.arg 1)).slot (decide (c.arg 0 = 1))) = true then
      cmdEnd { s with
        boot := { s.boot.updKind (c.arg 1) (fun k => { k with preferred := decide (c.arg 0 = 1) }) with
          staging := s.boot.staging ++ [(c.mb, c.arg 1)] }
        chip := s.chip.fwEvent (decide (c.arg 0 = 1)) 2 } 0 []
    else cmdEnd s 4 [] := by
  refine (if_neg (fw_named h0 h1 h2)).trans ?_
  refine if_congr Iff.rfl rfl ?_
  cases s.boot.slotOk (c.arg 1) ((s.boot.kind (c.arg 1)).slot (decide (c.arg 0 = 1))) <;> rfl

end Named

end Firmware

/-! ## Debug unlock and guests (R455, R523) -/

section Guests

variable {s : State} {c : CmdCtx} {bs : Bytes} (hi : c.input = some bs)
include hi

theorem debugUnlock_ok (h : s.unlockOk bs = true) :
    debugUnlock s c = cmdEnd { s with boot := Boot.unlock { s.boot with challenge := none } bs } 0 [] := by
  simp only [debugUnlock, hi]
  exact if_pos h

theorem debugUnlock_denied (h : s.unlockOk bs = false) :
    debugUnlock s c = cmdEnd { s with boot := { s.boot with challenge := none } } 4 [] := by
  simp only [debugUnlock, hi]
  exact if_neg (ne_true_of_eq_false h)

theorem mbAssign_lists (hg : guestLists bs = none) : mbAssign s c = cmdEnd s 3 [] := by
  simp only [mbAssign, hi, hg]
  rfl

/-- The window that the arguments of `MB_ASSIGN` give a mailbox. -/
def State.assigned (s : State) (c : CmdCtx) : Mailbox :=
  s.chip.setWindow { s.chip.box (c.arg 0) with winErr := false } (slotArg c.slot 1) (slotArg c.slot 2)

variable {l : GuestLists} (hg : guestLists bs = some l)
include hg

theorem mbAssign_eq : mbAssign s c = if c.arg 0 < 8 ∨ 12 ≤ c.arg 0 ∨ (s.chip.box (c.arg 0)).st = .check ∨ (s.chip.box (c.arg 0)).st = .running ∨
      (s.assigned c).winErr = true then cmdEnd s 3 []
    else cmdEnd (s.onChip (fun k => k.updBox (c.arg 0) (fun b => { b with
      opened := true, wbase := (s.assigned c).wbase, nbufs := (s.assigned c).nbufs, log2sz := (s.assigned c).log2sz
      wen := (s.assigned c).wen, guest := l }))) 0 [] := by
  simp only [mbAssign, hi, hg]
  refine if_congr ?_ rfl rfl
  rw [Bool.or_eq_true, Bool.or_eq_true, or_decide₃, decide_eq_true_eq]
  unfold State.assigned
  tauto

end Guests

/-- Settles O54: each row is its function at the context of the running command. -/
theorem podAndSecurityCommands : Obligations.PodAndSecurityCommands := by
  refine ⟨fun s mb => ?_, fun s mb => ?_⟩
  · intro k b arg near podId
    refine ⟨fun h => ?_, fun h j bs hin => ?_, fun h => ⟨fun hb hk => ?_, fun hb hk => ?_, fun hb => ?_⟩, fun h hb j bs hin => ?_⟩
    · exact State.row_output (f := podNeighbours) h rfl rfl
    · intro s1 es
      refine ⟨fun ht => ?_, fun t ht => ⟨fun hb => ⟨fun hl => ?_, fun h16 hl => ⟨fun ha => ?_, fun ha => ?_⟩⟩, fun hb => ⟨fun ha => ?_, fun ha e he => ?_⟩⟩⟩
      · exact State.rowIn_end (f := podConfigure) h rfl hin (podConfigure_shape (s := s1) (c := s.ctxIn mb (some bs)) rfl ht)
      · exact State.rowIn_end (f := podConfigure) h rfl hin (podConfigure_list (s := s1) (c := s.ctxIn mb (some bs)) rfl ht hb hl)
      · exact State.rowIn_end (f := podConfigure) h rfl hin (podConfigure_busy (s := s1) (c := s.ctxIn mb (some bs)) rfl ht hb h16 hl ha)
      · exact State.rowIn_wait (f := podConfigure) h rfl hin (podConfigure_sends (s := s1) (c := s.ctxIn mb (some bs)) rfl ht hb h16 hl ha)
      · exact State.rowIn_wait (f := podConfigure) h rfl hin (podConfigure_waits (s := s1) (c := s.ctxIn mb (some bs)) rfl ht hb ha)
      · exact State.rowIn_end (f := podConfigure) h rfl hin (podConfigure_takes (s := s1) (c := s.ctxIn mb (some bs)) rfl ht hb ha he)
    · refine ⟨_, State.row_end (f := podCheck) h rfl (podCheck_busy (c := s.ctx mb) hb hk), ?_⟩
      exact congrArg Mailbox.result (Chip.box_upd _ mb _)
    · have hc := podCheck_state (s := s) (c := s.ctx mb) (fun _ => hk)
      rw [show (s.ctx mb).begun = false from hb] at hc
      exact State.row (f := podCheck) h rfl hc
    · have hc := podCheck_state (s := s) (c := s.ctx mb) (fun g => Bool.noConfusion (g.symm.trans hb))
      rw [show (s.ctx mb).begun = true from hb] at hc
      exact State.row (f := podCheck) h rfl hc
    · refine ⟨fun hd => ?_, fun h0 hd => ⟨fun hl => ?_, fun h1 h2 => ?_⟩⟩
      · exact State.rowIn_end (f := podRelay) h rfl hin (podRelay_device (s := { s with chip := j }) (c := s.ctxIn mb (some bs)) hb hd)
      · exact State.rowIn_end (f := podRelay) h rfl hin (podRelay_length (s := { s with chip := j }) (c := s.ctxIn mb (some bs)) rfl hb h0 hd hl)
      · exact State.rowIn_wait (f := podRelay) h rfl hin (podRelay_sends (s := { s with chip := j }) (c := s.ctxIn mb (some bs)) rfl hb h0 hd h1 h2)
  · intro k b x arg done output
    refine ⟨fun h => ?_, fun h => ?_, fun h j inp hin => ?_, fun h j inp hin => ?_, fun h => ?_, fun h rs j hf => ?_, fun h j bs hin => ?_,
      fun h j bs hin => ?_⟩
    · exact State.row_output (f := getMeasurements) h rfl rfl
    · exact State.row_output (f := attestQuote) h rfl rfl
    · refine ⟨fun hn => ?_, fun bs hbs => ⟨fun hok => ?_, fun hok => ?_⟩⟩
      · refine State.rowIn_end (f := ownerEnroll) h rfl hin ?_
        simp only [ownerEnroll, State.ctxIn, hn]
        rfl
      · refine State.rowIn_end (f := ownerEnroll) h rfl hin ?_
        simp only [ownerEnroll, State.ctxIn, hbs]
        exact if_pos hok
      · refine State.rowIn_end (f := ownerEnroll) h rfl hin ?_
        simp only [ownerEnroll, State.ctxIn, hbs]
        exact if_neg (ne_true_of_eq_false hok)
    · refine ⟨fun ha => ?_, fun h0 h1 h2 => ⟨fun hn => ?_, fun bs hbs => ?_⟩⟩
      · exact State.rowIn_end (f := fwStage) h rfl hin (fwStage_args (c := s.ctxIn mb inp) ha)
      · exact State.rowIn_end (f := fwStage) h rfl hin (fwStage_unread (c := s.ctxIn mb inp) h0 h1 h2 hn)
      · intro sl
        refine ⟨fun hb => ?_, fun hb => ⟨fun hd => ?_, fun hr hp => ?_⟩⟩
        · exact State.rowIn_end (f := fwStage) h rfl hin (fwStage_second (s := { s with chip := j }) (c := s.ctxIn mb inp) h0 h1 h2 hbs hb)
        · exact State.rowIn_end (f := fwStage) h rfl hin (fwStage_denied (s := { s with chip := j }) (c := s.ctxIn mb inp) h0 h1 h2 hbs hb hd)
        · have hfirst := fwStage_first (s := { s with chip := j }) (c := s.ctxIn mb inp) h0 h1 h2 hbs hb hr hp
          refine ⟨fun hk => ?_, fun hk hok => ?_, fun hk hok => ?_⟩
          · exact State.rowIn_end (f := fwStage) h rfl hin (hfirst.trans (if_pos hk))
          · exact State.rowIn_end (f := fwStage) h rfl hin (hfirst.trans ((if_neg (ne_true_of_eq_false hk)).trans (if_neg (ne_true_of_eq_false hok))))
          · exact State.rowIn_wait (f := fwStage) h rfl hin (hfirst.trans ((if_neg (ne_true_of_eq_false hk)).trans (if_pos hok)))
    · refine ⟨fun ha => ?_, fun h0 h1 h2 => ?_⟩
      · exact State.row_end (f := fwActivate) h rfl (fwActivate_args (c := s.ctx mb) ha)
      · have hact := fwActivate_eq (s := s) (c := s.ctx mb) h0 h1 h2
        refine ⟨fun hk => ?_, fun hk hok => ?_, fun hk hok => ?_⟩
        · exact State.row_end (f := fwActivate) h rfl (hact.trans (if_pos hk))
        · exact State.row_end (f := fwActivate) h rfl (hact.trans ((if_neg (ne_true_of_eq_false hk)).trans (if_neg (ne_true_of_eq_false hok))))
        · exact State.row_end (f := fwActivate) h rfl (hact.trans ((if_neg (ne_true_of_eq_false hk)).trans (if_pos hok)))
    · refine State.row_end (f := debugChallenge) h rfl ?_
      simp only [debugChallenge, show s.chip.freshBytes 32 = (rs, j) from hf]
      rfl
    · refine ⟨fun hok => ?_, fun hok => ?_⟩
      · exact State.rowIn_end (f := debugUnlock) h rfl hin (debugUnlock_ok (s := { s with chip := j }) (c := s.ctxIn mb (some bs)) rfl hok)
      · exact State.rowIn_end (f := debugUnlock) h rfl hin (debugUnlock_denied (s := { s with chip := j }) (c := s.ctxIn mb (some bs)) rfl hok)
    · refine ⟨fun hg => ?_, fun l hg => ?_⟩
      · exact State.rowIn_end (f := mbAssign) h rfl hin (mbAssign_lists (s := { s with chip := j }) (c := s.ctxIn mb (some bs)) rfl hg)
      · have has := mbAssign_eq (s := { s with chip := j }) (c := s.ctxIn mb (some bs)) rfl hg
        refine ⟨fun hbad => ?_, fun h1 h2 hst hw => ?_⟩
        · exact State.rowIn_end (f := mbAssign) h rfl hin (has.trans (if_pos hbad))
        · refine State.rowIn_end (f := mbAssign) h rfl hin (has.trans (if_neg ?_))
          rintro (g | g | g | g | g)
          · exact absurd g (not_lt.2 h1)
          · exact absurd g (not_le.2 h2)
          · exact hst.elim (fun e => nomatch e.symm.trans g) (fun e => nomatch e.symm.trans g)
          · exact hst.elim (fun e => nomatch e.symm.trans g) (fun e => nomatch e.symm.trans g)
          · exact Bool.noConfusion (hw.symm.trans g)

end Sys2Proof.Machine
end

section
/-! PROOFS. The Tumbler commands of families 0x09, 0x0A, 0x0B and 0x0F (R473, R498-R501, R522-R539). -/

namespace Sys2Proof.Machine

/-! ## Data that fits its buffer -/

theorem flatMap_toBytes_length {α : Type} (f : α → Nat) (l : List α) : (l.flatMap (fun r => toBytes 64 (f r))).length = 64 * l.length := by
  induction l with
  | nil => rfl
  | cons a l ih => rw [List.flatMap_cons, List.length_append, ih, toBytes_length, List.length_cons]; omega

/-- A command whose data always fits ends with it. -/
theorem State.row_fits {s : State} {mb op : Nat} {f : State → CmdCtx → CmdEnd} {res : List U64} {bs : Bytes} (h : s.commandRuns mb op)
    (hop : (cmdInfo op).map (·.nIn) = some 0) (hl : bs.length ≤ (s.chip.box mb).outRoom 0) (hf : f s (s.ctx mb) = cmdOut s (s.ctx mb) res bs) :
    runCommand mb op f s = s.answers mb (some { mbResult 0 res with out := some bs }) :=
  (State.row_output h hop hf).trans (if_pos hl)

/-! ## Resets that answer first (R471) -/

section Resets

variable {s : State} {mb : Nat}

theorem execResetDevice_of_runs (h : s.commandRuns mb 0x0A01) :
    execResetDevice mb s = .next (s.endCommand mb (mbResult 0 [])).commandedReset := by
  unfold execResetDevice
  rw [State.runReset_of_runs h]
  rfl

theorem execResetHost_of_runs (h : s.commandRuns mb 0x0A02) : execResetHost mb s = .next (s.endCommand mb (mbResult 0 [])).hostReset := by
  unfold execResetHost
  rw [State.runReset_of_runs h]
  rfl

variable (h : s.commandRuns mb 0x0A03)
include h

theorem execResetQuadrant_bad (hq : 4 ≤ (s.ctx mb).arg 0) : execResetQuadrant mb s = s.refuses mb 3 := by
  unfold execResetQuadrant
  rw [State.runReset_of_runs h]
  have hc : (if 4 ≤ ({ s.ctx mb with room := 0 } : CmdCtx).arg 0 then some mbBadArg else none) = some mbBadArg := if_pos hq
  simp only [hc]
  rfl

theorem execResetQuadrant_ok (hq : (s.ctx mb).arg 0 < 4) : execResetQuadrant mb s =
    .next (((s.endCommand mb (mbResult 0 [])).drainQuad ((s.ctx mb).arg 0)).quadReset ((s.ctx mb).arg 0)) := by
  unfold execResetQuadrant
  rw [State.runReset_of_runs h]
  have hc : (if 4 ≤ ({ s.ctx mb with room := 0 } : CmdCtx).arg 0 then some mbBadArg else none) = none := if_neg (not_le.2 hq)
  simp only [hc]
  rfl

end Resets

/-! ## Reattachment and debug reads (R344, R522, R531) -/

section Rows

variable {s : State} {c : CmdCtx}

section Reattach

variable (hq : c.arg 0 < 4)
include hq

theorem reattach_already (ho : (s.chip.quad (c.arg 0)).orphaned = false) : reattach s c = cmdEnd s 7 [] := by
  refine (if_neg (not_le.2 hq)).trans (if_pos ?_)
  rw [ho]; rfl

variable (ho : (s.chip.quad (c.arg 0)).orphaned = true)
include ho

theorem reattach_fault (h : s.links.hingeState (c.arg 0) ≠ .active ∨ s.chip.hostOpen = false) : reattach s c = cmdEnd s 9 [] := by
  refine (if_neg (not_le.2 hq)).trans ((if_neg (by rw [ho]; decide)).trans (if_pos ?_))
  rw [Bool.or_eq_true, decide_eq_true_eq, Bool.not_eq_true']
  exact h

theorem reattach_ok (h : s.links.hingeState (c.arg 0) = .active) (hh : s.chip.hostOpen = true) :
    reattach s c = cmdEnd (s.onChip (fun k => k.reattach (c.arg 0))) 0 [] := by
  refine (if_neg (not_le.2 hq)).trans ((if_neg (by rw [ho]; decide)).trans (if_neg ?_))
  rw [Bool.or_eq_true, decide_eq_true_eq, Bool.not_eq_true']
  exact fun g => g.elim (fun g => g h) (fun g => Bool.noConfusion (g.symm.trans hh))

end Reattach

/-- A physical address names a directory line of this module. -/
theorem dirRead_named : (!s.chip.isOwn (c.arg 0) || !(areaOf (paLocal (c.arg 0)) = .lpddr || areaOf (paLocal (c.arg 0)) = .hbm) ||
      !s.chip.populated (paLocal (c.arg 0))) = true ↔
    s.chip.isOwn (c.arg 0) = false ∨ (areaOf (paLocal (c.arg 0)) ≠ .lpddr ∧ areaOf (paLocal (c.arg 0)) ≠ .hbm) ∨
      s.chip.populated (paLocal (c.arg 0)) = false := by
  rw [Bool.or_eq_true, Bool.or_eq_true, Bool.not_eq_true', Bool.not_eq_true', Bool.not_eq_true', Bool.or_eq_false_iff,
    decide_eq_false_iff_not, decide_eq_false_iff_not, or_assoc]

theorem dirRead_bad (h : s.chip.isOwn (c.arg 0) = false ∨ (areaOf (paLocal (c.arg 0)) ≠ .lpddr ∧ areaOf (paLocal (c.arg 0)) ≠ .hbm) ∨
      s.chip.populated (paLocal (c.arg 0)) = false) : dirRead s c = cmdEnd s 3 [] := by
  unfold dirRead
  dsimp only
  rw [if_pos (dirRead_named.2 h)]
  rfl

section Dir

variable (h1 : s.chip.isOwn (c.arg 0) = true) (h2 : areaOf (paLocal (c.arg 0)) = .lpddr ∨ areaOf (paLocal (c.arg 0)) = .hbm)
  (h3 : s.chip.populated (paLocal (c.arg 0)) = true)
include h1 h2 h3

theorem dirRead_ok : ¬ (!s.chip.isOwn (c.arg 0) || !(areaOf (paLocal (c.arg 0)) = .lpddr || areaOf (paLocal (c.arg 0)) = .hbm) ||
      !s.chip.populated (paLocal (c.arg 0))) = true := by
  rw [dirRead_named]
  rintro (g | ⟨g, g'⟩ | g)
  · exact Bool.noConfusion (g.symm.trans h1)
  · exact h2.elim g g'
  · exact Bool.noConfusion (g.symm.trans h3)

theorem dirRead_unreached (h : s.chip.tmbReach (paLocal (c.arg 0)) ≠ stOk) : dirRead s c = cmdEnd s 9 [] := by
  unfold dirRead
  dsimp only
  rw [if_neg (dirRead_ok (s := s) (c := c) h1 h2 h3), if_pos h]
  rfl

theorem dirRead_entry (h : s.chip.tmbReach (paLocal (c.arg 0)) = stOk) : dirRead s c = cmdEnd s 0 ((List.range 4).map (fun i =>
    (((s.chip.home (s.chip.homeOf (paLocal (c.arg 0) / 128))).entry (paLocal (c.arg 0) / 128)).bits (paLocal (c.arg 0) / 128)).extractLsb' (64 * i) 64)) := by
  unfold dirRead
  dsimp only
  rw [if_neg (dirRead_ok (s := s) (c := c) h1 h2 h3), if_neg (not_not.2 h)]
  rfl

end Dir

theorem regPeek_other (h : s.chip.isOwn (c.arg 0) = false) : regPeek s c = cmdEnd s 3 [] := by
  unfold regPeek
  simp only [h, Bool.not_false, if_true]
  rfl

theorem regPeek_ok {l : RegLoc} (h : s.chip.isOwn (c.arg 0) = true) (hr : s.regCheck none (paLocal (c.arg 0)) 8 = .ok l) :
    regPeek s c = cmdEnd s 0 [s.regRead .tumbler l (paLocal (c.arg 0)) 8] := by
  unfold regPeek
  simp only [h, hr, Bool.not_true, Bool.false_eq_true, if_false]
  rfl

end Rows

/-- Settles O55: each row is its function at the context of the running command. -/
theorem managementCommands : Obligations.ManagementCommands := by
  intro s mb k b arg pa la done output ended
  refine ⟨fun h => ?_, fun h => ?_, fun h => ?_, fun h => ?_, fun h => ?_, fun h => ⟨fun hq => ?_, fun hq => ?_⟩, fun h => ⟨fun hq => ?_, fun hq =>
    ⟨fun ho => ?_, fun ho => ⟨fun hf => ?_, fun ha hh => ?_⟩⟩⟩, fun h => ?_, fun h => ?_, fun h => ⟨fun ha => ?_, fun ha => ?_⟩,
    fun h => ⟨fun hbad => ?_, fun h1 h2 h3 => ⟨fun hr => ?_, fun hr => ?_⟩⟩, fun h => ⟨fun ho => ?_, fun ho l hl => ?_⟩⟩
  · refine State.row_fits (f := errRead) h rfl ?_ rfl
    rw [flatMap_toBytes_length]
    exact le_trans (Nat.mul_le_mul_left 64 (List.length_take_le _ _)) (Nat.mul_div_le _ 64)
  · exact State.row_end (f := errClear) h rfl rfl
  · exact State.row_fits (f := logRead) h rfl (List.length_take_le _ _) rfl
  · exact execResetDevice_of_runs h
  · exact execResetHost_of_runs h
  · exact execResetQuadrant_bad h hq
  · exact execResetQuadrant_ok h hq
  · exact State.row_end (f := reattach) h rfl (if_pos hq)
  · exact State.row_end (f := reattach) h rfl (reattach_already (c := s.ctx mb) hq ho)
  · exact State.row_end (f := reattach) h rfl (reattach_fault (c := s.ctx mb) hq ho hf)
  · exact State.row_end (f := reattach) h rfl (reattach_ok (c := s.ctx mb) hq ho ha hh)
  · exact State.row_output (f := energyRead) h rfl rfl
  · exact State.row_output (f := telemRead) h rfl rfl
  · exact State.row_end (f := eventMask) h rfl (if_pos ha)
  · refine (State.row_end (f := eventMask) h rfl (if_neg (not_le.2 ha))).trans ?_
    exact congrArg s.goes (Chip.updBox_upd k mb _ _)
  · exact State.row_end (f := dirRead) h rfl (dirRead_bad (c := s.ctx mb) hbad)
  · exact State.row_end (f := dirRead) h rfl (dirRead_unreached (c := s.ctx mb) h1 h2 h3 hr)
  · exact State.row_end (f := dirRead) h rfl (dirRead_entry (c := s.ctx mb) h1 h2 h3 hr)
  · exact State.row_end (f := regPeek) h rfl (regPeek_other (c := s.ctx mb) ho)
  · exact State.row_end (f := regPeek) h rfl (regPeek_ok (c := s.ctx mb) ho hl)

end Sys2Proof.Machine
end

section
/-! PROOFS. The remote session of MB14 and the SMBus target (R520, R553-R555). -/

namespace Sys2Proof.Machine

/-! ## A mailbox write changes the dies alone -/

/-- A state that differs in the dies alone. -/
def State.DiesOnly (s t : State) : Prop := ∃ k, t = { s with chip := k }

section DiesOnly

variable {s t u : State}

theorem State.DiesOnly.refl (s : State) : s.DiesOnly s := ⟨s.chip, rfl⟩

theorem State.DiesOnly.onChip (s : State) (f : Chip → Chip) : s.DiesOnly (s.onChip f) := ⟨f s.chip, rfl⟩

theorem State.DiesOnly.trans (h : s.DiesOnly t) (g : t.DiesOnly u) : s.DiesOnly u := by
  obtain ⟨k, rfl⟩ := h
  obtain ⟨j, rfl⟩ := g
  exact ⟨j, rfl⟩

theorem State.DiesOnly.pins (h : s.DiesOnly t) : t.pins = s.pins := by
  obtain ⟨k, rfl⟩ := h
  rfl

theorem State.DiesOnly.ite {p : Prop} [Decidable p] (h : s.DiesOnly t) (g : s.DiesOnly u) : s.DiesOnly (if p then t else u) := by
  split
  · exact h
  · exact g

theorem State.checkCommand_diesOnly (s : State) (mb : Nat) : s.DiesOnly (s.checkCommand mb).1 := by
  simp only [State.checkCommand]
  split
  · exact .refl s
  · split
    · exact .refl s
    · split
      · exact .refl s
      · exact ⟨_, rfl⟩

theorem State.recheck_diesOnly (s : State) (mb : Nat) : s.DiesOnly (s.recheck mb) := by
  refine .ite (.refl s) ?_
  dsimp only
  split
  · exact ⟨_, rfl⟩
  next k1 _ => exact (State.DiesOnly.trans ⟨k1, rfl⟩ (State.checkCommand_diesOnly _ mb)).trans (.onChip _ _)

theorem State.ringDoorbell_diesOnly (s : State) (mb : Nat) (tag : BitVec 16) : s.DiesOnly (s.ringDoorbell mb tag) :=
  .ite (.refl s) (.ite (.onChip s _) ((State.DiesOnly.onChip s _).trans (State.recheck_diesOnly _ mb)))

theorem State.boxRegWrite_diesOnly (s : State) (ag : Agent) (n o : Nat) (w : RegW) : s.DiesOnly (s.boxRegWrite ag n o w) := by
  refine .ite ?_ (.ite (.onChip s _) (.ite (.onChip s _) (.ite ?_ (.ite ?_ (.ite (.ite (.onChip s _) (.refl s)) (.refl s))))))
  · exact State.DiesOnly.ite (State.ringDoorbell_diesOnly s n _) (.refl s)
  · exact .onChip s _
  · exact .onChip s _

theorem State.boxWrite_diesOnly (s : State) (ag : Agent) (n o size : Nat) (v : U64) : s.DiesOnly (s.boxWrite ag n o size v) :=
  .ite (.refl s) (.ite (.onChip s _) (.ite (State.boxRegWrite_diesOnly s ag n _ _) (.ite (.onChip s _) (.refl s))))

end DiesOnly

/-! ## The SMBus target (R554) -/

section Smbus

variable {s : State} {pec ok : Bool} {f : State → State}

theorem State.smbUp_iff : s.smbUp = true ↔ s.pins.pgood = true ∧ s.boot.phase ≠ .off := by
  rw [State.smbUp, Bool.and_eq_true, decide_eq_true_eq]

theorem State.smbServe_ok (hu : s.smbUp = true) (hp : pec = true) (ho : ok = true) : s.smbServe pec ok f = f s := by
  simp only [State.smbServe, hu, hp, ho, Bool.and_self, if_true]

theorem State.smbServe_down (h : s.smbUp ≠ true ∨ pec = false) : s.smbServe pec ok f = s.smbRefuse := by
  refine if_neg (fun g => ?_)
  obtain ⟨⟨hu, hp⟩, -⟩ : (s.smbUp = true ∧ pec = true) ∧ ok = true := by simpa only [Bool.and_eq_true] using g
  exact h.elim (fun e => e hu) (fun e => Bool.noConfusion (e.symm.trans hp))

theorem State.smbServe_bad (h : ok ≠ true) : s.smbServe pec ok f = s.smbRefuse :=
  if_neg (fun g => h (Bool.and_eq_true_iff.1 g).2)

theorem Pins.smbRoom_iff {p : Pins} {n : Nat} : p.smbRoom n = true ↔ 8 ≤ n ∧ n ≤ 32 ∧ n % 8 = 0 ∧ p.smbOff.toNat + n ≤ 0x1000 := by
  simp only [Pins.smbRoom, Bool.and_eq_true, decide_eq_true_eq, and_assoc]

/-- The pointer, and what selects the mailbox, after whole double words have been written. -/
theorem State.smbWrite_pins (n j : Nat) (hj : j ≤ n) (s : State) (bs : Bytes) (hl : bs.length = 8 * j) :
    (s.smbWrite n bs).pins = { s.pins with smbOff := s.pins.smbOff + BitVec.ofNat 13 (8 * j) } := by
  induction n generalizing j s bs with
  | zero =>
    obtain rfl : j = 0 := by omega
    simp [State.smbWrite]
  | succ n ih =>
    cases j with
    | zero =>
      rw [List.length_eq_zero_iff.1 hl]
      simp [State.smbWrite]
    | succ j =>
      have hne : ¬ bs.isEmpty = true := fun g => by
        rw [List.isEmpty_iff.1 g] at hl
        exact absurd hl.symm (by rw [List.length_nil]; omega)
      rw [State.smbWrite, if_neg hne, ih j (by omega) _ _ (by rw [List.length_drop, hl]; omega), State.smbAdvance,
        (State.boxWrite_diesOnly s _ _ _ _ _).pins]
      refine congrArg (fun o => { s.pins with smbOff := o }) ?_
      rw [BitVec.add_assoc, ← BitVec.ofNat_add]
      exact congrArg (fun m => s.pins.smbOff + BitVec.ofNat 13 m) (by omega)

end Smbus

/-- Settles O56: each command by whether its target is served. -/
theorem remoteRows : Obligations.RemoteRows := by
  intro s slot body data word n pec k b opened nack up room bx o
  have hup : up ↔ s.smbUp = true := State.smbUp_iff.symm
  have hroom (m : Nat) : room m ↔ s.pins.smbRoom m = true := Pins.smbRoom_iff.symm
  refine ⟨fun h1 h2 h3 h4 => ?_, rfl, fun hs hl => ⟨fun hst ho => ?_, fun hst => ?_⟩, rfl, fun hd => ?_, fun hu hp => ⟨fun hw ho => ?_, fun hw => ?_,
    fun hr => ?_, fun hr => ?_, fun hr => ?_, fun hr => ?_⟩, fun hu hq => ?_, fun h12 h13 => ?_⟩
  · refine congrArg Host.Outcome.next (if_pos ?_)
    rw [h1, h2, show (s.chip.box 14).opened = true from h3, show (s.chip.ethPort 0).up = true from h4]
    rfl
  · have hc : ¬ (!s.boot.session || decide (1664 < body.length)) = true := by
      rw [hs, decide_eq_false (not_lt.2 hl)]; decide
    have hst' : (decide ((s.chip.box 14).st = .check) || decide ((s.chip.box 14).st = .running)) = true := or_decide.2 hst
    refine congrArg Host.Outcome.next ((if_neg hc).trans ?_)
    simp only [hst', if_true]
    refine (if_neg ?_).trans (if_pos hst')
    rw [show (s.chip.box 14).opened = true from ho]; decide
  · have hc : ¬ (!s.boot.session || decide (1664 < body.length)) = true := by
      rw [hs, decide_eq_false (not_lt.2 hl)]; decide
    have hst' : (decide ((s.chip.box 14).st = .check) || decide ((s.chip.box 14).st = .running)) = false := by
      rcases hst with h | h <;> rw [show (s.chip.box 14).st = _ from h] <;> rfl
    refine congrArg Host.Outcome.next ((if_neg hc).trans ?_)
    simp only [hst', Bool.false_eq_true, if_false]
  · have hd' : s.smbUp ≠ true ∨ pec = false := hd.imp_left (fun h g => h (hup.2 g))
    exact ⟨congrArg Host.Outcome.next (State.smbServe_down hd'), congrArg Host.Outcome.next (State.smbServe_down hd'),
      congrArg Host.Outcome.next (State.smbServe_down hd')⟩
  · exact congrArg Host.Outcome.next (State.smbServe_ok (hup.1 hu) hp (Bool.and_eq_true_iff.2 ⟨decide_eq_true hw, decide_eq_true ho⟩))
  · refine congrArg Host.Outcome.next (State.smbServe_bad (fun g => ?_))
    obtain ⟨g1, g2⟩ := Bool.and_eq_true_iff.1 g
    exact hw.elim (fun e => e (of_decide_eq_true g1)) (fun e => e (of_decide_eq_true g2))
  · exact congrArg Host.Outcome.next (State.smbServe_bad (fun g => hr ((hroom _).2 g)))
  · obtain ⟨h8, h32, hmod, hend⟩ := hr
    have hpins : (s.smbWrite 4 data).pins = _ := State.smbWrite_pins 4 (data.length / 8) (by omega) s data (by omega)
    refine ⟨(s.smbWrite 4 data).smbAnswer [], congrArg Host.Outcome.next (State.smbServe_ok (hup.1 hu) hp ((hroom _).1 ⟨h8, h32, hmod, hend⟩)),
      rfl, ?_, ?_, fun h => ?_⟩
    · exact (congrArg (fun p : Pins => p.smbSel) hpins :)
    · refine (congrArg (fun p : Pins => p.smbOff.toNat) hpins).trans ?_
      have : s.pins.smbOff.toNat + data.length ≤ 0x1000 := hend
      simp only [BitVec.toNat_add, BitVec.toNat_ofNat]
      omega
    · have hne : ¬ data.isEmpty = true := fun g => by rw [List.isEmpty_iff.1 g] at h; exact absurd h (by decide)
      have hdrop : data.drop 8 = [] := List.drop_eq_nil_of_le (by omega)
      have htake : data.take 8 = data := List.take_of_length_le (by omega)
      have hw : s.smbWrite 4 data = (s.boxWrite .tumbler s.pins.smbBox s.pins.smbOff.toNat 8 (BitVec.ofNat 64 (ofBytes data))).smbAdvance 8 := by
        rw [State.smbWrite, if_neg hne, hdrop, htake]
        rfl
      rw [hw]
      rfl
  · exact congrArg Host.Outcome.next (State.smbServe_bad (fun g => hr ((hroom _).2 g)))
  · exact congrArg Host.Outcome.next (State.smbServe_ok (hup.1 hu) hp ((hroom _).1 hr))
  · refine congrArg Host.Outcome.next (State.smbServe_ok (hup.1 hu) rfl ?_)
    have hall : [12, 13].all (fun n => decide ((s.chip.box n).prod = (s.chip.box n).cons)) = false := by
      simp only [List.all_cons, List.all_nil, Bool.and_true, Bool.and_eq_false_iff, decide_eq_false_iff_not]
      exact hq
    rw [State.smbAlertN, hall, hu.1]
    rfl
  · refine congrArg Host.Outcome.next (State.smbServe_bad ?_)
    have hall : [12, 13].all (fun n => decide ((s.chip.box n).prod = (s.chip.box n).cons)) = true := by
      simp only [List.all_cons, List.all_nil, Bool.and_true, Bool.and_eq_true, decide_eq_true_eq]
      exact ⟨h12, h13⟩
    rw [State.smbAlertN, hall, Bool.or_true]
    decide

end Sys2Proof.Machine
end

section
/-! PROOFS. Boot and the pins (R54, R55, R508, R547-R552). -/

namespace Sys2Proof.Machine

/-! ## A confirmed slot (R508) -/

section Confirm

variable (k : FwKind) {b : Bool} {i : FwImage}

theorem FwKind.slot_upd (c : Bool) (f : Slot → Slot) : (k.updSlot b f).slot c = if c = b then f (k.slot c) else k.slot c := by
  cases b <;> cases c <;> rfl

/-- R508: what the confirmation of the running slot leaves. -/
theorem FwKind.confirm_spec (hb : k.running = some b) (hi : (k.slot b).image = some i) : k.confirm.floor = max k.floor (min i.svn 256) ∧
    (k.confirm.slot b).confirmed = true ∧ (k.confirm.slot b).trials = 0 ∧ (k.confirm.slot b).image = some i ∧
    k.confirm.slot (!b) = k.slot (!b) := by
  have hc : k.confirm = { k.updSlot b (fun s => { s with confirmed := true, trials := 0 }) with floor := max k.floor (min i.svn 256) } := by
    simp only [FwKind.confirm, hb, hi]
  have hslot (c : Bool) : k.confirm.slot c = (k.updSlot b (fun s => { s with confirmed := true, trials := 0 })).slot c := by
    rw [hc]
    rfl
  refine ⟨by rw [hc], ?_, ?_, ?_, ?_⟩
  · rw [hslot, FwKind.slot_upd, if_pos rfl]
  · rw [hslot, FwKind.slot_upd, if_pos rfl]
  · rw [hslot, FwKind.slot_upd, if_pos rfl]
    exact hi
  · rw [hslot, FwKind.slot_upd, if_neg (by cases b <;> decide)]

end Confirm

/-- The rails are down and memory reads zero. -/
theorem State.depower_lost (s : State) : s.depower.pins.pgood = false ∧ s.depower.pins.rails = [] ∧ ∀ a, s.depower.chip.byte a = 0 :=
  ⟨rfl, rfl, fun _ => rfl⟩

/-- Settles O58: each row by its condition; what the pins bring falls to `depower`, `trip` and `powerOn`. -/
theorem bootAndPinRows : Obligations.BootAndPinRows := by
  intro s mv rail p down onPins try'
  refine ⟨fun h => ?_, fun h => ?_, fun h => ?_, fun t ht hnow b hb i hi => ?_, fun h => ?_, rfl, rfl, fun h => ?_, rfl, fun h => ?_, fun h => ?_, rfl, rfl,
    fun h => ?_, fun h => ?_, fun h => ?_, fun hv hp => ?_⟩
  · refine congrArg Host.Outcome.next (if_pos ?_)
    rw [Bool.or_eq_true, Bool.not_eq_true']
    exact h.imp_right (fun g => Bool.eq_false_iff.2 (fun e => g (List.isEmpty_iff.1 e)))
  · exact congrArg Host.Outcome.next (if_pos h)
  · exact congrArg Host.Outcome.next (if_neg (ne_true_of_eq_false h))
  · obtain ⟨h1, h2, h3, h4, h5⟩ := FwKind.confirm_spec s.boot.hart hb hi
    refine ⟨{ s with boot := { s.boot with hart := s.boot.hart.confirm, releasedAt := none }
                     chip := s.chip.fwEvent (s.boot.hart.running.getD false) 3 }, ?_, h1, rfl, h2, h3, h4, h5, rfl⟩
    refine congrArg Host.Outcome.next ?_
    rw [ht]
    exact if_pos hnow
  · exact congrArg Host.Outcome.next (if_neg (ne_true_of_eq_false h))
  · exact congrArg Host.Outcome.next (if_neg (ne_true_of_eq_false h))
  · exact congrArg Host.Outcome.next (if_pos h)
  · exact congrArg Host.Outcome.next (if_neg (not_lt.2 h))
  · exact congrArg Host.Outcome.next (if_pos h)
  · exact congrArg Host.Outcome.next (if_pos h)
  · exact congrArg Host.Outcome.next (if_neg (ne_true_of_eq_false h))
  · have hc : (s.pins.vinOk && s.pins.pgood) = true := by rw [show s.pins.vinOk = true from hv, show s.pins.pgood = true from hp]; rfl
    obtain ⟨h1, h2, h3⟩ := State.depower_lost s
    refine ⟨_, rfl, rfl, ?_, ?_, fun a => ?_⟩
    · rw [if_pos hc]; exact h1
    · rw [if_pos hc]; exact h2
    · rw [if_pos hc]; exact h3 a

end Sys2Proof.Machine
end

section
/-! PROOFS. Writes to the register space (O60): where an address lies, which register a place holds, and the
registers that have no command of their own. -/

namespace Sys2Proof.Machine

variable (s : State) (ag : Agent)

/-! ## The checks of a write -/

theorem execRegisterWrite_stopped {addr size : Nat} {v : U64} (h : s.agentRuns ag = false) :
    exec (.registerWrite ag addr size v) s = .next s :=
  congrArg Host.Outcome.next (if_pos (by simp [h]))

theorem execRegisterWrite_outside {addr size : Nat} {v : U64} (h : s.agentRuns ag = true)
    (ho : s.chip.isOwn addr = false ∨ areaOf (paLocal addr) ≠ .regs) :
    exec (.registerWrite ag addr size v) s = .next (s.regRefused ag addr ftNothing) := by
  refine congrArg Host.Outcome.next ((if_neg (by simp [h])).trans (if_pos ?_))
  rcases ho with ho | ho <;> simp [ho]

theorem execRegisterWrite_inside {addr size : Nat} {v : U64} (h : s.agentRuns ag = true)
    (ho : s.chip.isOwn addr = true) (ha : areaOf (paLocal addr) = .regs) :
    (s.regCheck (agentQuad ag) (paLocal addr) size = .nothing →
      exec (.registerWrite ag addr size v) s = .next (s.regRefused ag addr ftNothing)) ∧
    (s.regCheck (agentQuad ag) (paLocal addr) size = .misaligned →
      exec (.registerWrite ag addr size v) s = .next (s.regRefused ag addr ftMisaligned)) ∧
    (s.regCheck (agentQuad ag) (paLocal addr) size = .lost →
      exec (.registerWrite ag addr size v) s = .next (s.regLost ag addr (toBytes size v.toNat))) ∧
    (∀ l, s.regCheck (agentQuad ag) (paLocal addr) size = .ok l →
      exec (.registerWrite ag addr size v) s = .next (s.regWrite ag l size v)) := by
  have e : exec (.registerWrite ag addr size v) s = execRegisterWrite ag addr size v s := rfl
  rw [e]
  unfold execRegisterWrite
  rw [if_neg (by simp [h]), if_neg (by simp [ho, ha])]
  refine ⟨fun hc => ?_, fun hc => ?_, fun hc => ?_, fun l hc => ?_⟩ <;> rw [hc]

theorem State.regCheck_misaligned {src : Option Nat} {la size : Nat} {l : RegLoc} (hl : s.chip.regLoc la = some l)
    (h : ¬(la % size = 0 ∧ (size = 4 ∨ size = 8 ∨ l.dataArea = true ∧ (size = 1 ∨ size = 2)))) :
    s.regCheck src la size = .misaligned := by
  unfold State.regCheck
  rw [hl, State.regCheckAt_some, if_neg h]

theorem State.regCheck_lost {src : Option Nat} {la size : Nat} {l : RegLoc} (hl : s.chip.regLoc la = some l)
    (h : la % size = 0 ∧ (size = 4 ∨ size = 8 ∨ l.dataArea = true ∧ (size = 1 ∨ size = 2)))
    (hq : ∃ q, l.quadOf = some q ∧ s.regShut src q = true) : s.regCheck src la size = .lost := by
  obtain ⟨q, hq, hs⟩ := hq
  unfold State.regCheck
  rw [hl, State.regCheckAt_some, if_pos h, hq]
  exact if_pos hs

theorem State.regCheck_ok {src : Option Nat} {la size : Nat} {l : RegLoc} (hl : s.chip.regLoc la = some l)
    (h : la % size = 0 ∧ (size = 4 ∨ size = 8 ∨ l.dataArea = true ∧ (size = 1 ∨ size = 2)))
    (hq : ¬∃ q, l.quadOf = some q ∧ s.regShut src q = true) : s.regCheck src la size = .ok l := by
  unfold State.regCheck
  rw [hl, State.regCheckAt_some, if_pos h]
  cases hl : l.quadOf with
  | none => rfl
  | some q => exact if_neg (fun hs => hq ⟨q, hl, hs⟩)

/-! ## Places whose register has a command -/

/-- A full write of 8 bytes. -/
@[simp] theorem regWOf_eight (o : Nat) (v : U64) : regWOf o 8 v = { part := .full, val := v } := rfl

variable (v : U64)

theorem State.regWrite_dsp {q o : Nat} (h : o < 0x10000) (h8 : o % 8 = 0) :
    s.regWrite ag (.quad q o) 8 v = s.dspWrite q o { part := .full, val := v } := by
  show s.quadWrite ag q (o / 8 * 8) _ = _
  rw [Nat.div_mul_cancel (Nat.dvd_of_mod_eq_zero h8)]
  unfold State.quadWrite
  rw [show o / 0x10000 = 0 by omega, Nat.mod_eq_of_lt h, regWOf_eight] <;> rfl

theorem State.regWrite_hsp {q o : Nat} (h : o < 0x10000) (h8 : o % 8 = 0) :
    s.regWrite ag (.quad q (0x10000 + o)) 8 v = s.hspWrite ag q o { part := .full, val := v } := by
  show s.quadWrite ag q ((0x10000 + o) / 8 * 8) _ = _
  rw [show (0x10000 + o) / 8 * 8 = 0x10000 + o by omega]
  unfold State.quadWrite
  rw [show (0x10000 + o) / 0x10000 = 1 by omega, show (0x10000 + o) % 0x10000 = o by omega, regWOf_eight] <;> rfl

theorem State.regWrite_queueCfg {q n : Nat} (hn : n < 256) : s.regWrite ag (.quad q (0x1008 + 32 * n)) 8 v =
    s.afterCmd (execDspQcfgWrite q n { part := .full, val := v } s) := by
  rw [State.regWrite_dsp s ag v (by omega) (by omega)]
  unfold State.dspWrite
  rw [if_neg (by omega), if_neg (by omega), if_neg (by omega), if_pos (by simp; omega), if_neg (by omega),
    if_pos (by omega), show (0x1008 + 32 * n - 0x1000) / 32 = n by omega]

theorem State.regWrite_queueDb {q n : Nat} (hn : n < 256) : s.regWrite ag (.quad q (0x1010 + 32 * n)) 8 v =
    s.afterCmd (execDspQdb q n { part := .full, val := v } s) := by
  rw [State.regWrite_dsp s ag v (by omega) (by omega)]
  unfold State.dspWrite
  rw [if_neg (by omega), if_neg (by omega), if_neg (by omega), if_pos (by simp; omega), if_neg (by omega),
    if_neg (by omega), if_pos (by omega), show (0x1010 + 32 * n - 0x1000) / 32 = n by omega]

theorem State.regWrite_notifierCfg {q n : Nat} (hn : n < 64) : s.regWrite ag (.quad q (0x19000 + 16 * n)) 8 v =
    s.afterCmd (execHspNcfgWrite q n { part := .full, val := v } s) := by
  rw [show 0x19000 + 16 * n = 0x10000 + (0x9000 + 16 * n) by omega, State.regWrite_hsp s ag v (by omega) (by omega)]
  unfold State.hspWrite
  rw [if_neg (by omega), if_neg (by omega), if_neg (by omega), if_pos (by simp; omega), if_pos (by omega),
    show (0x9000 + 16 * n - 0x9000) / 16 = n by omega]

theorem State.regWrite_notifierThr {q n : Nat} (hn : n < 64) : s.regWrite ag (.quad q (0x19008 + 16 * n)) 8 v =
    s.afterCmd (execHspNthrWrite q n { part := .full, val := v } s) := by
  rw [show 0x19008 + 16 * n = 0x10000 + (0x9008 + 16 * n) by omega, State.regWrite_hsp s ag v (by omega) (by omega)]
  unfold State.hspWrite
  rw [if_neg (by omega), if_neg (by omega), if_neg (by omega), if_pos (by simp; omega), if_neg (by omega),
    show (0x9008 + 16 * n - 0x9000) / 16 = n by omega]

theorem State.regWrite_sensor {n : Nat} (hn : n < 3) : s.regWrite ag (.thm (8 * n)) 8 v =
    s.afterCmd (execThmClrMax (20 + n) { part := .full, val := v } s) := by
  show (if 8 * n / 8 < 3 then _ else _) = _
  rw [Nat.mul_div_cancel_left _ (by omega), if_pos hn, regWOf_eight]

/-! ## Mailboxes -/

theorem State.regWrite_box_unreached {mb o size : Nat} (h : agentReaches ag mb = false) :
    s.regWrite ag (.tmb mb o) size v = s :=
  if_pos (by rw [h]; rfl)

theorem State.regWrite_boxReg {mb o : Nat} (h : agentReaches ag mb = true) (h1 : 0x80 ≤ o) (h2 : o < 0x100) (h8 : o % 8 = 0) :
    s.regWrite ag (.tmb mb o) 8 v = s.boxRegWrite ag mb o { part := .full, val := v } := by
  show s.boxWrite ag mb o 8 v = _
  unfold State.boxWrite
  rw [if_neg (by simp [h]), if_neg (by omega), if_pos (by simp [h1, h2]), regWOf_eight,
    Nat.div_mul_cancel (Nat.dvd_of_mod_eq_zero h8)]

theorem State.regWrite_boxCause {mb : Nat} (h : agentReaches ag mb = true) : s.regWrite ag (.tmb mb 0x88) 8 v =
    { s with chip := s.chip.updBox mb (fun b => { b with
        dbBusy := b.dbBusy && !v.getLsbD 2, winErr := b.winErr && !v.getLsbD 3 }) } := by
  rw [State.regWrite_boxReg s ag v h (by omega) (by omega) rfl]
  simp only [State.boxRegWrite, Nat.reduceEqDiff, if_false, if_true, regSets_full]
  rfl

theorem State.regWrite_inline {mb i : Nat} (h : agentReaches ag mb = true) (hi : i < 0x700 / 8) :
    s.regWrite ag (.tmb mb (0x100 + 8 * i)) 8 v = { s with chip := s.chip.updBox mb (fun b =>
        { b with inl := putBytes b.inl (8 * i) (toBytes 8 v.toNat) }) } := by
  show s.boxWrite ag mb (0x100 + 8 * i) 8 v = _
  unfold State.boxWrite
  rw [if_neg (by simp [h]), if_neg (by omega), if_neg (by simp), if_pos (by simp; omega),
    show 0x100 + 8 * i - 0x100 = 8 * i by omega]
  rfl

theorem State.regWrite_slot {mb i : Nat} (h : agentReaches ag mb = true) (hi : i < 8) :
    s.regWrite ag (.tmb mb (8 * i)) 8 v =
      { s with chip := s.chip.updBox mb (fun b => { b with cmd := slotPut b.cmd (8 * i) 8 v }) } := by
  show s.boxWrite ag mb (8 * i) 8 v = _
  unfold State.boxWrite
  rw [if_neg (by simp [h]), if_pos (by omega)]
  rfl

/-- The words of a slot after a write of one of them. -/
theorem slotPut_word (c : BitVec 512) {i j : Nat} (hi : i < 8) (hj : j < 8) :
    (slotPut c (8 * i) 8 v).extractLsb' (64 * j) 64 = if j = i then v else c.extractLsb' (64 * j) 64 := by
  refine BitVec.eq_of_getLsbD_eq fun b hb => ?_
  have hmask : (BitVec.ofNat 512 (2 ^ (8 * 8) - 1) <<< (8 * (8 * i))).getLsbD (64 * j + b) = decide (j = i) := by
    rw [BitVec.getLsbD_shiftLeft, BitVec.getLsbD_ofNat, Nat.testBit_two_pow_sub_one]
    by_cases h : j = i
    · subst h; simp; omega
    · simp [h]; omega
  simp only [slotPut, BitVec.getLsbD_extractLsb', hb, decide_true, Bool.true_and, BitVec.getLsbD_or,
    BitVec.getLsbD_and, BitVec.getLsbD_not, hmask]
  by_cases h : j = i
  · subst h
    have hp : 64 * j + b < 512 := by omega
    have hs : ¬64 * j + b < 8 * (8 * j) := by omega
    have hd : 64 * j + b - 8 * (8 * j) = b := by omega
    simp [BitVec.getLsbD_shiftLeft, hp, hs, hd, hb]
  · have hp : 64 * j + b < 512 := by omega
    simp [h, hp, BitVec.getLsbD_extractLsb', hb]

/-! ## `HSP_OP` -/

theorem State.regWrite_hspOp (q : Nat) : s.regWrite ag (.quad q 0x18000) 8 v =
    s.hspOpWrite q { part := .full, val := v } := by
  rw [State.regWrite_hsp s ag v (o := 0x8000) (by omega) rfl]
  rfl

theorem State.hspOpWrite_op {q n : Nat} (hr : v.extractLsb' 14 2 = 0) (hn : (v.extractLsb' 12 2).toNat = n) :
    (n = 0 → s.hspOpWrite q { part := .full, val := v } =
      s.afterCmd (execHspOpAdd q (v.extractLsb' 0 12) (v.extractLsb' 16 48) s)) ∧
    (n = 1 → s.hspOpWrite q { part := .full, val := v } =
      s.afterCmd (execHspOpSet q (v.extractLsb' 0 12) (v.extractLsb' 16 48) s)) ∧
    (n = 2 → v.extractLsb' 16 48 = 0 → s.hspOpWrite q { part := .full, val := v } =
      s.afterCmd (execHspOpReset q (v.extractLsb' 0 12) s)) ∧
    (n = 3 → s.hspOpWrite q { part := .full, val := v } = s) := by
  unfold State.hspOpWrite
  dsimp only
  rw [if_neg (by simp [hr]), hn]
  refine ⟨?_, ?_, ?_, ?_⟩ <;> rintro rfl
  · rfl
  · rfl
  · exact fun hx => if_pos hx
  · rfl

/-! ## The obligation -/

theorem State.regRefused_hart (h addr code : Nat) :
    ((s.regRefused (.hart h) addr code).chip.hart h).trap = some { cause := 7, tval := BitVec.ofNat 64 addr } ∧
    (∀ r, ((s.regRefused (.hart h) addr code).chip.hart h).reg r = (s.chip.hart h).reg r) ∧
    ∀ a, (s.regRefused (.hart h) addr code).chip.byte a = s.chip.byte a := by
  have e : (s.regRefused (.hart h) addr code).chip.hart h =
      { s.chip.hart h with trap := some { cause := 7, tval := BitVec.ofNat 64 addr } } :=
    Chip.hart_upd_self s.chip h (fun x => { x with trap := some { cause := 7, tval := BitVec.ofNat 64 addr } })
  exact ⟨congrArg Hart.trap e, fun r => (congrArg (fun x : Hart => x.reg r) e :), fun a => rfl⟩

/-- Settles O60. -/
theorem registerWrites : Obligations.RegisterWrites := by
  unfold Obligations.RegisterWrites
  intro s ag addr size v
  refine ⟨execRegisterWrite_stopped s ag, fun hr => ⟨execRegisterWrite_outside s ag hr, fun ho ha => ⟨fun hl => ?_, fun l hl => ?_⟩⟩,
    fun c => rfl, fun h => State.regRefused_hart s h addr 4, fun q c n hn => ?_, fun mb hmb hr => ?_,
    fun mb hr o => State.regWrite_box_unreached s ag v hr, fun c => ⟨?_, ?_⟩,
    fun o => ⟨rfl, rfl, rfl, rfl, rfl⟩, fun q => ?_⟩
  · exact (execRegisterWrite_inside s ag hr ho ha).1 (State.regCheck_none hl)
  · intro allowed shut
    obtain ⟨-, hmis, hlost, hok⟩ := execRegisterWrite_inside s ag (size := size) (v := v) hr ho ha
    exact ⟨fun h => hmis (State.regCheck_misaligned s hl h), fun h hq => hlost (State.regCheck_lost s hl h hq),
      fun h hq => hok l (State.regCheck_ok s hl h hq)⟩
  · refine ⟨?_, ?_, ?_, ?_, ?_, ?_, ?_, fun hn => ⟨?_, ?_⟩, fun hn => ?_⟩
    · rw [State.regWrite_dsp s ag v (by omega) rfl]; rfl
    · rw [State.regWrite_dsp s ag v (by omega) rfl]; rfl
    · rw [State.regWrite_dsp s ag v (by omega) rfl]; rfl
    · rw [State.regWrite_queueCfg s ag v hn]; rfl
    · rw [State.regWrite_queueDb s ag v hn]; rfl
    · rfl
    · rfl
    · rw [State.regWrite_notifierCfg s ag v hn]; rfl
    · rw [State.regWrite_notifierThr s ag v hn]; rfl
    · rw [State.regWrite_sensor s ag v hn]; rfl
  · refine ⟨?_, ?_, ?_, State.regWrite_boxCause s ag v hr, fun i => State.regWrite_inline s ag v hr, fun i hi j hj =>
      ⟨?_, slotPut_word v _ hi hj⟩⟩
    · rw [State.regWrite_boxReg s ag v hr (by omega) (by omega) rfl]; rfl
    · rw [State.regWrite_boxReg s ag v hr (by omega) (by omega) rfl]; rfl
    · rw [State.regWrite_boxReg s ag v hr (by omega) (by omega) rfl]; rfl
    · rw [State.regWrite_slot s ag v hr hi]
      exact (congrArg Mailbox.cmd (Chip.box_upd s.chip mb
        (fun b => { b with cmd := slotPut b.cmd (8 * i) 8 v }))).symm
  · show s.clusterWrite ag c 0x280 _ = _
    simp only [State.clusterWrite, Cluster.writeReg, regWOf_eight, regSets_full]
    rfl
  · show s.clusterWrite ag c 0x288 _ = _
    simp only [State.clusterWrite, Cluster.writeReg, regWOf_eight, regSets_full]
    rfl
  · intro i hr
    rw [State.regWrite_hspOp]
    obtain ⟨hadd, hset, hreset, hnone⟩ := State.hspOpWrite_op s v (q := q) hr rfl
    exact ⟨fun h => by rw [hadd (by rw [h]; rfl)]; rfl, fun h => by rw [hset (by rw [h]; rfl)]; rfl,
      fun h hx => by rw [hreset (by rw [h]; rfl) hx]; rfl, fun h => hnone (by rw [h]; rfl)⟩

end Sys2Proof.Machine
end

section
/-! PROOFS. Mailboxes (O50): doorbells and windows, the checks of a command, and its completion. -/

namespace Sys2Proof.Machine

/-! ## What reports leave of a mailbox -/

/-- The fields of a mailbox that only its own command writes. -/
def Mailbox.SameCommand (b c : Mailbox) : Prop :=
  c.rsp = b.rsp ∧ c.st = b.st ∧ c.result = b.result ∧ c.inl = b.inl

theorem Mailbox.push_room {b : Mailbox} (x : BitVec 512) (h : b.held < 32) :
    (b.push x).cons = b.cons ∧ (b.push x).st = b.st ∧ (b.push x).prod = b.prod + 1 ∧
      tblGet 0 (b.push x).evq (b.prod.toNat % 32) = x := by
  unfold Mailbox.push
  rw [if_neg (by omega)]
  exact ⟨rfl, rfl, rfl, tblGet_put_self _ _ _ _⟩

theorem Mailbox.push_sameCommand (b : Mailbox) (r : BitVec 512) : b.SameCommand (b.push r) := by
  unfold Mailbox.push
  split <;> exact ⟨rfl, rfl, rfl, rfl⟩

theorem Mgmt.post_sameCommand (m : Mgmt) (kind : BitVec 16) (sev unit : Nat) (d : List Nat) (n : Nat) :
    (m.box n).SameCommand ((m.post kind sev unit d).box n) := by
  rw [Mgmt.post_box]
  split
  · exact Mailbox.push_sameCommand _ _
  · exact ⟨rfl, rfl, rfl, rfl⟩

theorem Mailbox.SameCommand.trans {a b c : Mailbox} (h : a.SameCommand b) (h' : b.SameCommand c) : a.SameCommand c := by
  obtain ⟨h1, h2, h3, h4⟩ := h
  obtain ⟨h5, h6, h7, h8⟩ := h'
  exact ⟨h5.trans h1, h6.trans h2, h7.trans h3, h8.trans h4⟩

theorem Mgmt.record_sameCommand (m : Mgmt) (sev : Nat) (e : ErrInfo) (c n : Nat) :
    (m.box n).SameCommand ((m.record sev e c).box n) :=
  Mgmt.post_sameCommand { m with
    bank := (bankAdd m.bank (errRecord m.errNext sev e (BitVec.ofNat 32 c) m.now)).1
    errNext := m.errNext + 1
    errOverflow := m.errOverflow || (bankAdd m.bank (errRecord m.errNext sev e (BitVec.ofNat 32 c) m.now)).2
    log := if logsNow m sev e then m.log ++ [errRecord m.errNext sev e (BitVec.ofNat 32 c) m.now] else m.log
    logged := if logsNow m sev e && sev = 0 then
        ((e.cls.toNat, e.struct.toNat), m.now) ::
          m.logged.filter (fun p => p.1 ≠ (e.cls.toNat, e.struct.toNat))
      else m.logged } 0x0501 (min sev 2) e.quad.toNat [m.log.length] n

theorem Chip.toBank_sameCommand (k : Chip) (quad : Option Nat) (src : Option (Nat × Nat)) (act : HaspAct) (hasp : BitVec 14)
    (v : BitVec 48) (err : Bool) (n : Nat) : (k.box n).SameCommand ((k.toBank quad src act hasp v err).box n) := by
  unfold Chip.toBank
  split
  · exact ⟨rfl, rfl, rfl, rfl⟩
  · exact Mgmt.record_sameCommand _ _ _ _ _

theorem Chip.byte_toBank (k : Chip) (quad : Option Nat) (src : Option (Nat × Nat)) (act : HaspAct) (hasp : BitVec 14)
    (v : BitVec 48) (err : Bool) (a : Nat) : (k.toBank quad src act hasp v err).byte a = k.byte a := by
  unfold Chip.toBank
  split <;> rfl

/-! ## Doorbells (R460, R466) -/

section Doorbell

variable {s : State} {mb : Nat}

/-- A slot that names no buffer. -/
theorem slotBufs_of_none {c : BitVec 512} (h : slotNbuf c = 0) : slotBufs c = [] := by
  simp [slotBufs, h]

theorem Chip.wellMade_of_noBufs {k : Chip} {c : CmdInfo} (h : slotBufs (k.box mb).copied = []) :
    (k.wellMade mb c).1 = k := by
  simp [Chip.wellMade, h]

theorem State.checkCommand_state (h : slotBufs (s.chip.box mb).copied = []) : (s.checkCommand mb).1 = s := by
  have hw := fun c => Chip.wellMade_of_noBufs (c := c) h
  unfold State.checkCommand
  dsimp only
  cases hc : cmdInfo (slotOp (s.chip.box mb).copied) with
  | none => rfl
  | some c =>
    dsimp only
    split
    · rfl
    · split
      · rfl
      · show ({ s with chip := (s.chip.wellMade mb c).1 } : State) = s
        rw [hw c]

/-- The copied slot of a mailbox in `CHECK`. -/
def State.copied (s : State) (mb : Nat) : State :=
  s.onChip (fun k => k.updBox mb (fun b => { b with copied := b.cmd }))

theorem State.copied_box : ((s.copied mb).chip.box mb) = { s.chip.box mb with copied := (s.chip.box mb).cmd } :=
  Chip.box_upd s.chip mb (fun b => { b with copied := b.cmd })

/-- A doorbell whose tag is not the slot's waits. -/
theorem State.recheck_waits (hst : (s.chip.box mb).st = .check) (ht : slotTag (s.chip.box mb).cmd ≠ (s.chip.box mb).dbTag) :
    s.recheck mb = s.copied mb := by
  have ha : (s.copied mb).chip.accepted mb = ((s.copied mb).chip, false) := by
    unfold Chip.accepted
    rw [State.copied_box]
    exact if_neg ht
  unfold State.recheck
  rw [if_neg (by simp [hst])]
  unfold State.copied State.onChip at ha ⊢
  dsimp only at ha ⊢
  rw [ha]

/-- A doorbell whose slot names no buffer is accepted, and its command checked. -/
theorem State.recheck_runs (hst : (s.chip.box mb).st = .check) (ht : slotTag (s.chip.box mb).cmd = (s.chip.box mb).dbTag)
    (hb : slotNbuf (s.chip.box mb).cmd = 0) :
    s.recheck mb = (s.copied mb).onChip (fun k => (k.setProgress mb 0).updBox mb (fun b => { b with
        st := .running, begun := false
        result := ((s.copied mb).checkCommand mb).2.map (fun n => mbResult n []) })) := by
  have hbox := State.copied_box (s := s) (mb := mb)
  have hbufs : slotBufs ((s.copied mb).chip.box mb).copied = [] := by rw [hbox]; exact slotBufs_of_none hb
  have ha : (s.copied mb).chip.accepted mb = ((s.copied mb).chip, true) := by
    unfold Chip.accepted Chip.handedOver
    dsimp only
    rw [hbufs, hbox]
    exact if_pos ht
  have hc := State.checkCommand_state hbufs
  unfold State.recheck
  rw [if_neg (by simp [hst])]
  unfold State.copied State.onChip at ha hc ⊢
  dsimp only at ha hc ⊢
  rw [ha]
  dsimp only
  rw [hc]

variable (ag : Agent) (tag : BitVec 16)

/-- The state in which a doorbell has been taken and its slot copied. -/
def State.rung (s : State) (mb : Nat) (tag : BitVec 16) : State :=
  s.onChip (fun k => k.updBox mb (fun b => { b with
    st := .check, copied := b.cmd, dbTag := tag, since := k.mgmt.now }))

theorem State.rung_box : (s.rung mb tag).chip.box mb = { s.chip.box mb with
    st := .check, copied := (s.chip.box mb).cmd, dbTag := tag, since := s.chip.mgmt.now } :=
  Chip.box_upd s.chip mb (fun b => { b with st := .check, copied := b.cmd, dbTag := tag, since := s.chip.mgmt.now })

/-- The slot of a doorbell just taken has been copied. -/
theorem State.rung_copied : (s.rung mb tag).copied mb = s.rung mb tag :=
  congrArg (fun k => ({ s with chip := k } : State)) (Chip.updBox_upd s.chip mb
    (fun b => { b with st := .check, copied := b.cmd, dbTag := tag, since := s.chip.mgmt.now })
    (fun b => { b with copied := b.cmd }))

variable {v : U64}

theorem execTmbDb_full (hmb : mb < 16) (hr : agentReaches ag mb = true) :
    exec (.tmbDb ag mb { part := .full, val := v }) s = .next (s.ringDoorbell mb (v.extractLsb' 0 16)) :=
  congrArg Host.Outcome.next (if_pos (by simp [hmb, hr]))

theorem State.ringDoorbell_takes (ho : (s.chip.box mb).opened = true)
    (hst : (s.chip.box mb).st = .idle ∨ (s.chip.box mb).st = .done) :
    s.ringDoorbell mb tag = (s.rung mb tag).recheck mb := by
  unfold State.ringDoorbell
  dsimp only
  rw [if_neg (by simp [ho]), if_neg (by rcases hst with h | h <;> simp [h])]
  rfl

theorem State.ringDoorbell_waits (ho : (s.chip.box mb).opened = true)
    (hst : (s.chip.box mb).st = .idle ∨ (s.chip.box mb).st = .done) (ht : slotTag (s.chip.box mb).cmd ≠ tag) :
    s.ringDoorbell mb tag = s.rung mb tag := by
  rw [State.ringDoorbell_takes tag ho hst, State.recheck_waits (by rw [State.rung_box]) (by rw [State.rung_box]; exact ht),
    State.rung_copied]

theorem State.ringDoorbell_runs (ho : (s.chip.box mb).opened = true)
    (hst : (s.chip.box mb).st = .idle ∨ (s.chip.box mb).st = .done) (ht : slotTag (s.chip.box mb).cmd = tag)
    (hb : slotNbuf (s.chip.box mb).cmd = 0) :
    s.ringDoorbell mb tag = (s.rung mb tag).onChip (fun k => (k.setProgress mb 0).updBox mb (fun b => { b with
        st := .running, begun := false
        result := ((s.rung mb tag).checkCommand mb).2.map (fun n => mbResult n []) })) := by
  rw [State.ringDoorbell_takes tag ho hst, State.recheck_runs (by rw [State.rung_box]) (by rw [State.rung_box]; exact ht)
    (by rw [State.rung_box]; exact hb), State.rung_copied]

/-- A requirement that has failed for 10 µs (R466). -/
theorem State.doorbellStale_ends (hst : (s.chip.box mb).st = .check) (ht : slotTag (s.chip.box mb).cmd ≠ (s.chip.box mb).dbTag)
    (hmb : mb ≠ 14) : exec (.doorbellStale mb) s =
      s.goes ((s.chip.updBox mb (fun b => { b with copied := b.cmd })).respondBox mb (mbResult mbStale [])) := by
  refine Eq.trans (b := execDoorbellStale mb s) rfl ?_
  unfold execDoorbellStale
  rw [State.recheck_waits hst ht]
  dsimp only
  rw [State.copied_box, if_pos hst]
  exact congrArg Host.Outcome.next (if_neg (by simp [hmb]))

/-! ## Windows and event queues (R462, R474) -/

theorem execTmbWcfgWrite_full (hmb : mb < 16) (hr : agentReaches ag mb = true) :
    exec (.tmbWcfgWrite ag mb { part := .full, val := v }) s =
      s.goes (s.chip.writeWindow mb ((s.chip.box mb).wbase.setWidth 64 <<< 12) v) := by
  refine (congrArg s.goes (if_pos (by simp [hmb, hr]))).trans ?_
  simp only [regMerge_full]

theorem Chip.writeWindow_refused {k : Chip} {base cfg : U64} (hl : boxClass mb = .l)
    (hst : (k.box mb).wen = true ∨ (k.box mb).st = .check ∨ (k.box mb).st = .running) :
    k.writeWindow mb base cfg = k.updBox mb (fun b => { b with winErr := true }) := by
  unfold Chip.writeWindow
  dsimp only
  rw [if_neg (by simp [hl]), if_pos (by rcases hst with h | h | h <;> simp [h])]

theorem Chip.writeWindow_set {k : Chip} {base cfg : U64} (hl : boxClass mb = .l) (hw : (k.box mb).wen = false)
    (hst : (k.box mb).st = .idle ∨ (k.box mb).st = .done) :
    k.writeWindow mb base cfg = k.updBox mb (fun b => k.setWindow b base cfg) := by
  unfold Chip.writeWindow
  dsimp only
  rw [if_neg (by simp [hl]), if_neg (by rcases hst with h | h <;> simp [h, hw, hl])]

theorem extract_base (x : BitVec 44) : (x.setWidth 64 <<< 12 : U64).extractLsb' 12 44 = x := by
  refine BitVec.eq_of_getLsbD_eq fun i hi => ?_
  have h1 : 12 + i < 64 := by omega
  have h2 : i < 64 := by omega
  simp [BitVec.getLsbD_shiftLeft, hi, h1, h2]

/-- A configuration word keeps the base of the window. -/
theorem Chip.setWindow_base (k : Chip) (b : Mailbox) (cfg : U64) : k.setWindow b (b.wbase.setWidth 64 <<< 12) cfg =
    (let b1 := { b with nbufs := cfg.extractLsb' 0 13, log2sz := cfg.extractLsb' 16 4, wen := false }
     if cfg.getLsbD 20 then (if k.windowOk b1 then { b1 with wen := true } else { b1 with winErr := true }) else b1) := by
  unfold Chip.setWindow
  rw [extract_base]

theorem execTmbEvptrWrite_full (hmb : mb < 16) (hr : agentReaches ag mb = true) :
    exec (.tmbEvptrWrite ag mb { part := .full, val := v }) s = s.goes
      ((s.chip.updBox mb (fun b => { b with cons := v.extractLsb' 16 16 })).onMgmt (fun m => m.reportLost mb)) := by
  refine (congrArg s.goes (if_pos (by simp [hmb, hr]))).trans ?_
  simp only [Chip.writeEvptr, regMerge_full]

/-- The mailbox in which dropped events have been reported, where its queue has room. -/
def Mailbox.reported (b : Mailbox) (x : BitVec 512) : Mailbox :=
  if b.lost ≠ 0 ∧ b.held < 32 then { b.push x with lost := 0 } else b

theorem Mgmt.reportLost_box (m : Mgmt) : (m.reportLost mb).box mb =
    (m.box mb).reported (eventRecord 0x0002 m.evseq 1 7 m.now (eventDetail [(m.box mb).lost.toNat])) := by
  unfold Mgmt.reportLost Mailbox.reported
  dsimp only
  split
  · exact Mgmt.box_upd m mb (fun b => { b.push (eventRecord 0x0002 m.evseq 1 7 m.now
      (eventDetail [(m.box mb).lost.toNat])) with lost := 0 })
  · rfl

theorem Mailbox.reported_rows (b : Mailbox) (x : BitVec 512) :
    (b.reported x).cons = b.cons ∧ (b.reported x).st = b.st ∧
    (b.lost = 0 ∨ 32 ≤ b.held → (b.reported x).prod = b.prod ∧ (b.reported x).lost = b.lost ∧ (b.reported x).evq = b.evq) ∧
    (b.lost ≠ 0 → ¬32 ≤ b.held → (b.reported x).prod = b.prod + 1 ∧ (b.reported x).lost = 0 ∧
      tblGet 0 (b.reported x).evq (b.prod.toNat % 32) = x) := by
  unfold Mailbox.reported
  by_cases h : b.lost ≠ 0 ∧ b.held < 32
  · rw [if_pos h]
    obtain ⟨hl, hf⟩ := h
    obtain ⟨hc, hs, hp, he⟩ := Mailbox.push_room x hf
    refine ⟨hc, hs, fun h => ?_, fun _ _ => ⟨hp, rfl, he⟩⟩
    rcases h with h | h
    · exact absurd h hl
    · omega
  · rw [if_neg h]
    exact ⟨rfl, rfl, fun _ => ⟨rfl, rfl, rfl⟩, fun hl hf => absurd ⟨hl, Nat.lt_of_not_le hf⟩ h⟩

theorem Chip.writeEvptr_box (k : Chip) (x : BitVec 16) :
    ((k.updBox mb (fun b => { b with cons := x })).onMgmt (fun m => m.reportLost mb)).box mb =
      ({ k.box mb with cons := x } : Mailbox).reported
        (eventRecord 0x0002 k.mgmt.evseq 1 7 k.mgmt.now (eventDetail [(k.box mb).lost.toNat])) := by
  have hb : (k.mgmt.updBox mb (fun b => { b with cons := x })).box mb = { k.box mb with cons := x } :=
    Mgmt.box_upd k.mgmt mb _
  refine (Mgmt.reportLost_box (k.mgmt.updBox mb (fun b => { b with cons := x }))).trans ?_
  rw [hb]
  rfl

end Doorbell

/-! ## Completion (R464, R468) -/

section Completion

variable (k : Chip) (mb : Nat) (r : MbResult)

/-- The mailbox with its answer in the response slot. -/
def Mailbox.answered (b : Mailbox) (r : MbResult) : Mailbox :=
  { b with
    rsp := rspSlot r.status.toNat (slotTag b.copied) (finalProgress b.copied r.status.toNat) r.res
    st := .done, result := none, begun := false }

/-- The completion addition of a command that asks for one. -/
def Chip.addCompletion (j : Chip) (c : BitVec 512) (r : MbResult) : Chip :=
  if slotHen c then j.toBank none none .add (slotHasp c) 1 (r.status.toNat ≠ mbDone && r.status.toNat ≠ mbAlready) else j

theorem Chip.respondBox_eq : k.respondBox mb r =
    (let j := (k.updBox mb (·.answered r)).addCompletion (k.box mb).copied r
     if (k.box mb).mask.getLsbD 0 then
       j.post 0x0001 0 7 [mb, (slotTag (k.box mb).copied).toNat, r.status.toNat] else j) := by
  have e : k.updBox mb (·.answered r) = k.updBox mb (fun b => { b with
      rsp := rspSlot r.status.toNat (slotTag (k.box mb).copied)
        (finalProgress (k.box mb).copied r.status.toNat) r.res
      st := .done, result := none, begun := false }) := Chip.updBox_congr rfl
  rw [e]
  rfl

theorem Chip.addCompletion_sameCommand (j : Chip) (c : BitVec 512) :
    (j.box mb).SameCommand ((j.addCompletion c r).box mb) := by
  unfold Chip.addCompletion
  split
  · exact Chip.toBank_sameCommand _ _ _ _ _ _ _ _
  · exact ⟨rfl, rfl, rfl, rfl⟩

theorem Chip.respondBox_command : ((k.box mb).answered r).SameCommand ((k.respondBox mb r).box mb) := by
  have h := Chip.addCompletion_sameCommand mb r (k.updBox mb (·.answered r)) (k.box mb).copied
  rw [Chip.box_upd] at h
  rw [Chip.respondBox_eq]
  dsimp only
  split
  · exact h.trans (Mgmt.post_sameCommand _ _ _ _ _ _)
  · exact h

theorem Chip.byte_respondBox (a : Nat) : (k.respondBox mb r).byte a = k.byte a := by
  have h : ((k.updBox mb (·.answered r)).addCompletion (k.box mb).copied r).byte a = k.byte a := by
    unfold Chip.addCompletion
    split
    · exact Chip.byte_toBank _ _ _ _ _ _ _ _
    · rfl
  rw [Chip.respondBox_eq]
  dsimp only
  split
  · exact h
  · exact h

theorem Chip.respondBox_inbox (hh : slotHen (k.box mb).copied = true)
    (hu : k.bankUp (haspQuad (slotHasp (k.box mb).copied)) = true) :
    ((k.respondBox mb r).quad (haspQuad (slotHasp (k.box mb).copied))).inbox =
      (k.quad (haspQuad (slotHasp (k.box mb).copied))).inbox ++
        [({ quad := none, src := none, act := .add, index := haspIndex (slotHasp (k.box mb).copied), v := 1
            err := decide (r.status.toNat ≠ 0 ∧ r.status.toNat ≠ 7) } : BankOp)] := by
  have ha : (((k.updBox mb (·.answered r)).addCompletion (k.box mb).copied r).quad
      (haspQuad (slotHasp (k.box mb).copied))).inbox =
      (k.quad (haspQuad (slotHasp (k.box mb).copied))).inbox ++
        [({ quad := none, src := none, act := .add, index := haspIndex (slotHasp (k.box mb).copied), v := 1
            err := decide (r.status.toNat ≠ mbDone) && decide (r.status.toNat ≠ mbAlready) } : BankOp)] := by
    unfold Chip.addCompletion Chip.toBank
    have hu : (k.updBox mb (·.answered r)).bankUp (haspQuad (slotHasp (k.box mb).copied)) = true := hu
    rw [if_pos hh, hu, if_pos (by rfl)]
    exact congrArg Quad.inbox (Chip.quad_upd_self _ _ _)
  have hd : (decide (r.status.toNat ≠ mbDone) && decide (r.status.toNat ≠ mbAlready)) =
      decide (r.status.toNat ≠ 0 ∧ r.status.toNat ≠ 7) := (Bool.decide_and _ _).symm
  rw [Chip.respondBox_eq]
  dsimp only
  rw [← hd]
  split
  · exact ha
  · exact ha

theorem Chip.respondBox_plain (hh : slotHen (k.box mb).copied = false) (hm : (k.box mb).mask.getLsbD 0 = false) :
    k.respondBox mb r = k.updBox mb (·.answered r) := by
  rw [Chip.respondBox_eq]
  dsimp only [Chip.addCompletion]
  rw [if_neg (ne_true_of_eq_false hm), if_neg (ne_true_of_eq_false hh)]

theorem Chip.respondBox_event (hh : slotHen (k.box mb).copied = false) (hmb : mb < 16)
    (hm : (k.box mb).mask.getLsbD 0 = true) (hheld : (k.box mb).held < 32) :
    (k.respondBox mb r).box mb = ((k.box mb).answered r).push (eventRecord 1 k.mgmt.evseq 0 7 k.mgmt.now
        (eventDetail [mb, (slotTag (k.box mb).copied).toNat, r.status.toNat])) ∧
    (k.respondBox mb r).mgmt.evseq = k.mgmt.evseq + 1 := by
  have e : k.respondBox mb r = (k.updBox mb (·.answered r)).post 0x0001 0 7
      [mb, (slotTag (k.box mb).copied).toNat, r.status.toNat] := by
    rw [Chip.respondBox_eq]
    dsimp only [Chip.addCompletion]
    rw [if_pos hm, if_neg (ne_true_of_eq_false hh)]
  have hb : (k.updBox mb (·.answered r)).mgmt.box mb = (k.box mb).answered r := Chip.box_upd _ _ _
  rw [e]
  refine ⟨(Mgmt.post_box _ _ _ _ _ _).trans ?_, rfl⟩
  rw [hb, if_pos ⟨hmb, hm⟩]
  rfl

/-- A command that names no buffer returns none. -/
theorem State.endCommand_plain (s : State) (hmb : mb < 14) (hb : slotBufs (s.chip.box mb).copied = []) :
    s.endCommand mb r = { s with
      chip := (s.chip.endSplit mb).respondBox mb r
      boot := { s.boot with staging := s.boot.staging.filter (fun x => x.1 ≠ mb) } } := by
  have hbox : (s.chip.endSplit mb).box mb = s.chip.box mb := rfl
  have hret : (s.chip.endSplit mb).endCommand mb r = (s.chip.endSplit mb).respondBox mb r := by
    unfold Chip.endCommand Chip.returnBufs
    dsimp only
    rw [hbox, hb]
    rfl
  unfold State.endCommand
  dsimp only
  rw [if_pos (by omega)]
  unfold State.sessionReply
  rw [if_neg (by simp; omega)]
  simp only [State.onChip, State.releaseWork, hret]

theorem State.commandComplete_ends {s : State} (hst : (s.chip.box mb).st = .running) (hr : (s.chip.box mb).result = some r) :
    exec (.commandComplete mb) s = .next (s.endCommand mb r) := by
  have h : s.recheck mb = s := if_pos (by simp [hst])
  refine Eq.trans (b := execCommandComplete mb s) rfl ?_
  unfold execCommandComplete
  rw [h]
  dsimp only
  rw [hr]
  exact congrArg Host.Outcome.next (if_pos hst)

end Completion

/-! ## The bound of a command (R469) -/

section Bound

variable {k : Chip} {mb : Nat} {c : CmdInfo}

theorem cmdInfo_op {op : Nat} (h : cmdInfo op = some c) : c.op = op := by
  simpa using List.find?_some h

/-- A relay from this mailbox whose inner command has no bound. -/
def RelayOut.slowAt (mb : Nat) (x : RelayOut) : Prop :=
  x.mb = mb ∧ ∃ i, cmdInfo (ofBytes ((x.body.drop 16).take 2)) = some i ∧ i.slow = true

theorem Chip.unbounded_iff (hc : cmdInfo (slotOp (k.box mb).copied) = some c) :
    k.unbounded mb = true ↔ c.slow = true ∨ ∃ x ∈ k.fabric.relays, x.slowAt mb := by
  unfold Chip.unbounded RelayOut.slowAt
  dsimp only
  rw [hc, Bool.or_eq_true, List.any_eq_true]
  refine or_congr_right (exists_congr fun x => and_congr_right fun _ => ?_)
  rw [Bool.and_eq_true, decide_eq_true_eq]
  refine and_congr_right fun _ => ?_
  cases cmdInfo (ofBytes ((x.body.drop 16).take 2)) <;> simp

theorem Chip.commandTimeout_unbounded (h : k.unbounded mb = true) : k.commandTimeout mb = k :=
  if_neg (by simp [h])

theorem Chip.commandTimeout_bounded (hst : (k.box mb).st = .running) (hr : (k.box mb).result = none)
    (hu : k.unbounded mb = false) (hop : slotOp (k.box mb).copied ≠ 0x0703) : k.commandTimeout mb =
    { k.updBox mb (fun b => { b with result := some (mbResult mbTimeout []) }) with
      invals := k.invals.map (fun i => if i.origin = .command mb then { i with origin := .command 0xFFFF } else i)
      fabric := { k.fabric with relays := k.fabric.relays.filter (fun x => x.mb ≠ mb) } } := by
  unfold Chip.commandTimeout
  dsimp only
  rw [if_pos (by simp [hst, hr, hu]), if_neg (by simp [hop])]

end Bound

/-! ## The checks of a command (R467) -/

section Checks

variable {s : State} {mb : Nat} {c : CmdInfo}

/-- Whether the issuer of a command may issue it, with the unlock that family 0x0F asks for. -/
def State.mayRun (s : State) (mb : Nat) (c : CmdInfo) : Prop :=
  (s.chip.box mb).mayIssue mb c = true ∧
    (slotOp (s.chip.box mb).copied / 256 = 0x0F → s.boot.debugLevel.getLsbD 1 = true)

theorem State.checkCommand_unknown (h : cmdInfo (slotOp (s.chip.box mb).copied) = none) : (s.checkCommand mb).2 = some 2 := by
  unfold State.checkCommand
  dsimp only
  rw [h]
  rfl

/-- Outside recovery the checks are those of R467 in their order. -/
theorem State.checkCommand_known (hp : ∀ why, s.boot.phase ≠ .recovery why)
    (h : cmdInfo (slotOp (s.chip.box mb).copied) = some c) : (s.checkCommand mb).2 =
    if (s.chip.box mb).mayIssue mb c &&
        (slotOp (s.chip.box mb).copied / 256 ≠ 0x0F || s.boot.debugLevel.getLsbD 1) then
      (if !s.chip.unitsThere c (s.chip.box mb).copied then some mbNotPresent
       else if (s.chip.wellMade mb c).2 then none else some mbBadArg)
    else some mbDenied := by
  have late : ∀ e : Option Nat, (match e with
      | some st => (s, some st)
      | none =>
        if !s.chip.unitsThere c (s.chip.box mb).copied then (s, some mbNotPresent)
        else ({ s with chip := (s.chip.wellMade mb c).1 }, if (s.chip.wellMade mb c).2 then none else some mbBadArg)).2 =
      if e = none then
        (if !s.chip.unitsThere c (s.chip.box mb).copied then some mbNotPresent
         else if (s.chip.wellMade mb c).2 then none else some mbBadArg)
      else e := by
    intro e
    cases e with
    | some st => rfl
    | none => rw [if_pos rfl]; dsimp only; split <;> rfl
  unfold State.checkCommand
  dsimp only
  rw [h]
  refine (late _).trans ?_
  cases hq : s.boot.phase with
  | recovery why => exact absurd hq (hp why)
  | _ =>
    dsimp only
    by_cases hm : ((s.chip.box mb).mayIssue mb c &&
        (slotOp (s.chip.box mb).copied / 256 ≠ 0x0F || s.boot.debugLevel.getLsbD 1)) = true
    · rw [if_pos hm, if_pos hm, if_pos rfl]
    · rw [if_neg hm, if_neg hm, if_neg (by simp)]

theorem State.mayRun_iff : s.mayRun mb c ↔ ((s.chip.box mb).mayIssue mb c &&
    (slotOp (s.chip.box mb).copied / 256 ≠ 0x0F || s.boot.debugLevel.getLsbD 1)) = true := by
  unfold State.mayRun
  rw [Bool.and_eq_true, Bool.or_eq_true, decide_eq_true_eq]
  exact and_congr_right fun _ => imp_iff_not_or

/-- A run of checks that one of them ends stays ended. -/
theorem foldl_snd_false {α β : Type} (f : α × Bool → β → α × Bool) (hf : ∀ a b, a.2 = false → (f a b).2 = false)
    (l : List β) (a : α × Bool) (h : a.2 = false ∨ ∃ b ∈ l, ∀ a, (f a b).2 = false) : (l.foldl f a).2 = false := by
  induction l generalizing a with
  | nil => simpa using h
  | cons x l ih =>
    refine ih (f a x) ?_
    rcases h with h | ⟨b, hb, h⟩
    · exact Or.inl (hf a x h)
    · rcases List.mem_cons.1 hb with rfl | hb
      · exact Or.inl (h a)
      · exact Or.inr ⟨b, hb, h⟩

/-- The shape of a slot that its command asks for. -/
def CmdInfo.fits (c : CmdInfo) (slot : BitVec 512) : Bool :=
  !slotReserved slot && slotNbuf slot = c.nIn + c.nOut && (span c.nArgs (6 - c.nArgs)).all (fun i => slotArg slot i = 0)

theorem CmdInfo.fits_iff {slot : BitVec 512} : c.fits slot = true ↔ slotReserved slot = false ∧
    slotNbuf slot = c.nIn + c.nOut ∧ ∀ i, c.nArgs ≤ i → i < 6 → slotArg slot i = 0 := by
  unfold CmdInfo.fits
  simp only [Bool.and_eq_true, Bool.not_eq_true', decide_eq_true_eq, List.all_eq_true, mem_span, and_assoc]
  refine and_congr_right fun _ => and_congr_right fun _ => forall_congr' fun i => ?_
  exact ⟨fun h h1 h2 => h ⟨h1, by omega⟩, fun h hi => h hi.1 (by omega)⟩

theorem Chip.wellMade_bad {k : Chip} (h : c.fits (k.box mb).copied = false ∨
    ∃ j, j < min 4 (slotNbuf (k.box mb).copied) ∧ (k.box mb).bufSpot (slotBuf (k.box mb).copied j) = none) :
    (k.wellMade mb c).2 = false := by
  refine foldl_snd_false _ (fun a j ha => ?_) _ _ (h.imp_right ?_)
  · obtain ⟨j', ok⟩ := a
    obtain rfl : ok = false := ha
    dsimp only
    split <;> rfl
  · rintro ⟨j, hj, hn⟩
    refine ⟨j, by simpa [slotBufs] using hj, fun a => ?_⟩
    dsimp only
    rw [hn]

theorem Chip.wellMade_good {k : Chip} (h : c.fits (k.box mb).copied = true) (hb : slotNbuf (k.box mb).copied = 0) :
    (k.wellMade mb c).2 = true := by
  unfold Chip.wellMade
  dsimp only
  rw [slotBufs_of_none hb]
  exact h

theorem State.checkCommand_rows (hp : ∀ why, s.boot.phase ≠ .recovery why)
    (h : cmdInfo (slotOp (s.chip.box mb).copied) = some c) :
    (¬s.mayRun mb c → (s.checkCommand mb).2 = some 4) ∧
    (s.mayRun mb c → s.chip.unitsThere c (s.chip.box mb).copied = false → (s.checkCommand mb).2 = some 6) ∧
    (s.mayRun mb c → s.chip.unitsThere c (s.chip.box mb).copied = true →
      (s.checkCommand mb).2 = if (s.chip.wellMade mb c).2 then none else some 3) := by
  have e := State.checkCommand_known hp h
  rw [State.mayRun_iff]
  refine ⟨fun hm => ?_, fun hm hu => ?_, fun hm hu => ?_⟩
  · rw [e, if_neg hm]; rfl
  · rw [e, if_pos hm, if_pos (by simp [hu])]; rfl
  · rw [e, if_pos hm, if_neg (by simp [hu])]; rfl

end Checks

/-! ## The obligation -/

/-- Settles O50. -/
theorem mailboxRows : Obligations.MailboxRows := by
  unfold Obligations.MailboxRows
  refine ⟨fun s ag mb v => ?_, fun k mb r => ?_, fun s mb hp => ?_⟩
  · intro k b w upd
    refine ⟨fun hmb hr => ⟨fun ho => ?_, fun ho hst => ?_, fun ho hst => ?_, fun hl hst => ?_, fun hl hw hst => ?_,
      fun hg => ?_, ?_⟩, fun hst ht hmb => State.doorbellStale_ends hst ht hmb,
      fun r hst hr => ⟨State.commandComplete_ends mb r hst hr, fun hmb hb => State.endCommand_plain mb r s hmb hb⟩,
      fun c hst hr hc => ?_⟩
    · rw [execTmbDb_full ag hmb hr]
      exact congrArg Host.Outcome.next (if_pos (by simp only [show (s.chip.box mb).opened = false from ho]; rfl))
    · rw [execTmbDb_full ag hmb hr]
      refine congrArg Host.Outcome.next ((if_neg ?_).trans (if_pos ?_))
      · simp only [show (s.chip.box mb).opened = true from ho]; decide
      · rw [or_decide]; exact hst
    · refine ⟨fun ht => ?_, fun ht hb bad hbad => ?_⟩
      · rw [execTmbDb_full ag hmb hr, State.ringDoorbell_waits _ ho hst ht]
        rfl
      · rw [execTmbDb_full ag hmb hr, State.ringDoorbell_runs _ ho hst ht hb, ← hbad]
        rfl
    · rw [execTmbWcfgWrite_full ag hmb hr, Chip.writeWindow_refused hl hst]
    · rw [execTmbWcfgWrite_full ag hmb hr, Chip.writeWindow_set hl hw hst]
      exact congrArg s.goes (Chip.updBox_congr (Chip.setWindow_base s.chip b v))
    · rw [execTmbWcfgWrite_full ag hmb hr]
      exact congrArg s.goes (if_pos hg)
    · refine ⟨_, execTmbEvptrWrite_full ag hmb hr, ?_⟩
      have hb := Chip.writeEvptr_box (mb := mb) s.chip (v.extractLsb' 16 16)
      intro c full
      rw [show c = _ from hb]
      exact Mailbox.reported_rows _ _
    · intro inner
      have hi := Chip.unbounded_iff hc
      refine ⟨fun h => ?_, fun hs hn hop => ⟨_, congrArg s.goes (Chip.commandTimeout_bounded hst hr ?_ ?_), ?_, ?_, ?_, ?_⟩⟩
      · exact congrArg s.goes (Chip.commandTimeout_unbounded (hi.2 h))
      · rw [← Bool.not_eq_true, hi]
        rintro (h | ⟨x, hx, h⟩)
        · rw [hs] at h; cases h
        · exact hn x hx h
      · rw [← cmdInfo_op hc]; exact hop
      · exact Chip.box_upd s.chip mb (fun b => { b with result := some (mbResult mbTimeout []) })
      · exact fun n hn => Chip.box_upd_ne s.chip (fun b => { b with result := some (mbResult mbTimeout []) }) hn
      · intro x hx
        exact of_decide_eq_true (List.mem_filter.1 hx).2
      · exact fun a => rfl
  · intro b c st t
    obtain ⟨hrsp, hst, hres, hinl⟩ := Chip.respondBox_command k mb r
    refine ⟨hrsp, hst, hres, hinl, Chip.byte_respondBox k mb r, Chip.respondBox_inbox k mb r, fun hh hm => ?_,
      fun hh hmb hm hheld => ?_⟩
    · refine (Chip.respondBox_plain k mb r hh hm).trans (Chip.updBox_congr rfl)
    · obtain ⟨hbox, hseq⟩ := Chip.respondBox_event k mb r hh hmb hm hheld
      obtain ⟨-, -, hp, he⟩ := Mailbox.push_room (b := (k.box mb).answered r) (eventRecord 1 k.mgmt.evseq 0 7 k.mgmt.now
        (eventDetail [mb, (slotTag (k.box mb).copied).toNat, r.status.toNat])) hheld
      exact ⟨(congrArg Mailbox.prod hbox).trans hp,
        (congrArg (fun x : Mailbox => tblGet 0 x.evq (b.prod.toNat % 32)) hbox).trans he, hseq⟩
  · refine ⟨State.checkCommand_unknown, fun c hc => ?_⟩
    intro may
    obtain ⟨hno, hunit, hmade⟩ := State.checkCommand_rows hp hc
    refine ⟨hno, hunit, fun hm hu => ⟨fun hbad => ?_, fun h1 h2 h3 h4 => ?_⟩⟩
    · rw [hmade hm hu, Chip.wellMade_bad]
      · rfl
      · by_cases hf : c.fits (s.chip.box mb).copied = true
        · obtain ⟨f1, f2, f3⟩ := CmdInfo.fits_iff.1 hf
          rcases hbad with h | h | h | ⟨i, hi, hi6, h⟩
          · rw [f1] at h; cases h
          · exact absurd f2 h
          · exact Or.inr h
          · exact absurd (f3 i hi hi6) h
        · exact Or.inl (Bool.eq_false_of_not_eq_true hf)
    · rw [hmade hm hu, Chip.wellMade_good (CmdInfo.fits_iff.2 ⟨h1, h2.trans h3.symm, h4⟩) h2]
      rfl

end Sys2Proof.Machine
end

section
/-! PROOFS. Range translation (O40): lookups, the steps of a walk, and invalidation. -/

namespace Sys2Proof.Machine

/-! ## Lookups (R371, R374, R375) -/

section Lookup

variable {k : Chip} {c space : Nat} {va : U64} {kind : XKind}

theorem Chip.translate_invalidating (h : k.invalidating space = true) : k.translate c space va kind = (k, .wait) :=
  if_pos h

theorem Chip.uncovered_iff : k.uncovered space va = true ↔ space = 0 ∨ (k.space space).en = false ∨ 2 ^ 57 ≤ va.toNat := by
  unfold Chip.uncovered
  simp only [Bool.or_eq_true, decide_eq_true_eq, Bool.not_eq_true', or_assoc]

theorem Chip.translate_uncovered (h : k.invalidating space = false) (hu : k.uncovered space va = true) :
    k.translate c space va kind = (k, .fail 1) :=
  (if_neg (ne_true_of_eq_false h)).trans (if_pos hu)

/-- An entry of the cluster's own cache serves the address. -/
theorem Chip.translate_hit (h : k.invalidating space = false) (hu : k.uncovered space va = false) {x : CachedRange}
    (hx : findRange (k.cluster c).ranges space va = some x) :
    (k.translate c space va kind).2 = if x.ent.permits kind then .ok x.ent else .fail 2 := by
  have hl : k.lookup c space va = (k.fillCluster c x, some x.ent) := by
    unfold Chip.lookup
    rw [hx]
  unfold Chip.translate
  rw [if_neg (ne_true_of_eq_false h), if_neg (ne_true_of_eq_false hu), hl]
  rfl

theorem RangeEnt.covers_iff {e : RangeEnt} : e.covers va = true ↔
    e.vstart.toNat * 65536 ≤ va.toNat ∧ va.toNat < (e.vstart.toNat + e.len.toNat) * 65536 := by
  unfold RangeEnt.covers
  rw [Bool.and_eq_true, decide_eq_true_eq, decide_eq_true_eq]

theorem findRange_covers {l : List CachedRange} {x : CachedRange} (h : findRange l space va = some x) :
    x.ent.covers va = true := by
  have := List.find?_some h
  exact (Bool.and_eq_true_iff.1 this).2

end Lookup

/-! ## Walks (R371, R374) -/

section Walks

variable {k k1 : Chip} {q : Nat} {w : Walk} {e : RangeEnt} {st : Nat}

/-- The steps of a walk by the entry that its middle read finds. -/
theorem Chip.walkStep_rows (hw : w.lo < w.hi) (hr : k.readEntry q w.space ((w.lo + w.hi - 1) / 2) = (k1, (e, st))) :
    (st ≠ 0 → k.walkStep q w = (k1.walkFailed q w.space w.va st, .inr (.failed st))) ∧
    (st = 0 → w.va.toNat < e.vstart.toNat * 65536 → k.walkStep q w = (k1, .inl { w with hi := (w.lo + w.hi - 1) / 2 })) ∧
    (st = 0 → ¬w.va.toNat < e.vstart.toNat * 65536 → e.covers w.va = false →
      k.walkStep q w = (k1, .inl { w with lo := (w.lo + w.hi - 1) / 2 + 1 })) ∧
    (st = 0 → e.covers w.va = true →
      (e.v = false → k.walkStep q w = (k1, .inr .none)) ∧
      (e.v = true → e.malformed = true → k.walkStep q w = (k1.noteMalformed q w.space w.va, .inr .none)) ∧
      (e.v = true → e.malformed = false → k.walkStep q w = (k1, .inr (.found e)))) := by
  have hs : k.walkStep q w =
      (if st ≠ stOk then (k1.walkFailed q w.space w.va st, .inr (.failed st))
      else if w.va.toNat < e.vstart.toNat * 65536 then (k1, .inl { w with hi := (w.lo + w.hi - 1) / 2 })
      else if !e.covers w.va then (k1, .inl { w with lo := (w.lo + w.hi - 1) / 2 + 1 })
      else if !e.v then (k1, .inr .none)
      else if e.malformed then (k1.noteMalformed q w.space w.va, .inr .none)
      else (k1, .inr (.found e))) := by
    unfold Chip.walkStep
    rw [if_neg (by omega)]
    dsimp only
    rw [hr]
  rw [hs]
  refine ⟨fun h => if_pos h, fun h hl => ?_, fun h hl hc => ?_, fun h hc => ?_⟩
  · rw [if_neg (show ¬st ≠ stOk from not_not.2 h), if_pos hl]
  · rw [if_neg (show ¬st ≠ stOk from not_not.2 h), if_neg hl, if_pos (by simp [hc])]
  · have hl : ¬w.va.toNat < e.vstart.toNat * 65536 := Nat.not_lt.2 (RangeEnt.covers_iff.1 hc).1
    rw [if_neg (show ¬st ≠ stOk from not_not.2 h), if_neg hl, if_neg (by simp [hc])]
    exact ⟨fun hv => if_pos (by simp [hv]), fun hv hm => by rw [if_neg (by simp [hv]), if_pos hm],
      fun hv hm => by rw [if_neg (by simp [hv]), if_neg (ne_true_of_eq_false hm)]⟩

variable {s : State} {space : Nat} {va : U64}

theorem execWalkEntryRead_goesOn {w' : Walk} (hf : (s.chip.quad q).walking.find? (fun w => w.space = space && w.va = va) = some w)
    (hs : s.chip.walkStep q w = (k1, .inl w')) : exec (.walkEntryRead q space va) s =
      s.goes (k1.updQuad q (fun d => { d with walking := d.walking.map (fun x => if x = w then w' else x) })) := by
  refine Eq.trans (b := execWalkEntryRead q space va s) rfl ?_
  unfold execWalkEntryRead State.onChip
  dsimp only
  rw [hf]
  dsimp only
  rw [hs]
  rfl

theorem execWalkEntryRead_ends {r : WalkEnd} (hf : (s.chip.quad q).walking.find? (fun w => w.space = space && w.va = va) = some w)
    (hs : s.chip.walkStep q w = (k1, .inr r)) : exec (.walkEntryRead q space va) s = s.goes (k1.endWalk q w r) := by
  refine Eq.trans (b := execWalkEntryRead q space va s) rfl ?_
  unfold execWalkEntryRead State.onChip
  dsimp only
  rw [hf]
  dsimp only
  rw [hs]
  rfl

end Walks

/-! ## Invalidation (R377-R382) -/

/-- A table mapped entry by entry: an entry that is not there stays away. -/
theorem tblGet_map_or {α : Type} (d : α) (f : α → α) (m : SMap α) (n : Nat) :
    tblGet d (m.map (fun e => (e.1, f e.2))) n = f (tblGet d m n) ∨
      tblGet d (m.map (fun e => (e.1, f e.2))) n = d ∧ tblGet d m n = d := by
  induction m with
  | nil => exact Or.inr ⟨rfl, rfl⟩
  | cons e m ih =>
    obtain ⟨j, v⟩ := e
    simp only [List.map_cons, tblGet]
    split
    · exact Or.inl rfl
    · exact ih

section Invalidation

variable (k : Chip) (space : Nat) (o : InvOrigin)

theorem Cluster.atInval_ranges (x : Cluster) : ∀ r ∈ (x.atInval space).ranges, r.space ≠ space := by
  intro r hr
  exact of_decide_eq_true (List.mem_filter.1 hr).2

theorem Cluster.atInval_reg (x : Cluster) (r : SReg) : (x.atInval space).reg r = x.reg r := by
  refine Cluster.reg_congr (y := x) ?_ r
  show (x.discardIf (fun m => m.touches space || m.space = space)).regs = x.regs
  rw [Cluster.discardIf_eq]

theorem Chip.startInval_cluster (c : Nat) : (k.startInval space o).cluster c = (k.cluster c).atInval space ∨
    (k.startInval space o).cluster c = Cluster.reset ∧ k.cluster c = Cluster.reset :=
  tblGet_map_or Cluster.reset (·.atInval space) k.clusters c

theorem Chip.startInval_ranges (c : Nat) : ∀ r ∈ ((k.startInval space o).cluster c).ranges, r.space ≠ space := by
  rcases k.startInval_cluster space o c with h | ⟨h, -⟩ <;> rw [h]
  · exact Cluster.atInval_ranges space _
  · exact fun r hr => absurd hr List.not_mem_nil

theorem Chip.startInval_reg (c : Nat) (r : SReg) : ((k.startInval space o).cluster c).reg r = (k.cluster c).reg r := by
  rcases k.startInval_cluster space o c with h | ⟨h, h'⟩
  · rw [h, Cluster.atInval_reg]
  · rw [h, h']

/-- A quadrant at the start point of an invalidation. -/
def Quad.atInval (d : Quad) (space : Nat) : Quad :=
  { d with
    l2 := d.l2.filterMap (fun p =>
      let l := p.2.filter (fun r => r.space ≠ space)
      if l = [] then none else some (p.1, l))
    walking := d.walking.filter (fun w => w.space ≠ space)
    ended := d.ended.filter (fun w => w.space ≠ space) }

theorem Chip.startInval_walking (p : Nat) : ∀ w ∈ ((k.startInval space o).quad p).walking, w.space ≠ space := by
  have h : (k.startInval space o).quad p = (k.quad p).atInval space ∨
      (k.startInval space o).quad p = Quad.reset ∧ k.quad p = Quad.reset :=
    tblGet_map_or Quad.reset (·.atInval space) k.quads p
  rcases h with h | ⟨h, -⟩ <;> rw [h]
  · exact fun w hw => of_decide_eq_true (List.mem_filter.1 hw).2
  · exact fun w hw => absurd hw List.not_mem_nil

theorem Chip.startInval_invalidating : (k.startInval space o).invalidating space = true := by
  simp [Chip.invalidating, Chip.startInval]

variable {k} {s : State}

/-- A full write to `XLT_INVAL_SPACE` (R382). -/
theorem execXltInvalSpace_full {q : Nat} {v : U64} (hq : s.chip.bankUp q = true) :
    exec (.xltInvalSpace q { part := .full, val := v }) s =
      if (s.chip.quad q).invBusy = true ∨ v.toNat % 4096 = 0 ∨
          (v.getLsbD 12 = true ∧ s.chip.bankUp (haspQuad (v.extractLsb' 16 14)) = false) then
        s.goes (s.chip.updQuad q (fun d => { d with invDropped := true }))
      else s.goes ((s.chip.updQuad q (fun d => { d with invBusy := true })).startInval (v.toNat % 4096)
        (.register q (v.getLsbD 12) (v.extractLsb' 16 14))) := by
  have hv : regBits { part := .full, val := v } &&& regMask { part := .full, val := v } = v := by
    show v &&& 0xFFFFFFFFFFFFFFFF = v
    rw [show (0xFFFFFFFFFFFFFFFF : U64) = BitVec.allOnes 64 by decide, BitVec.and_allOnes]
  have hsp : (v.extractLsb' 0 12).toNat = v.toNat % 4096 := by simp [BitVec.extractLsb'_toNat]
  refine (congrArg s.goes (if_pos (by simp [hq]))).trans ?_
  unfold Chip.writeInval
  dsimp only
  rw [hv, hsp]
  by_cases h : (s.chip.quad q).invBusy = true ∨ v.toNat % 4096 = 0 ∨
      (v.getLsbD 12 = true ∧ s.chip.bankUp (haspQuad (v.extractLsb' 16 14)) = false)
  · rw [if_pos h, if_pos]
    simpa only [Bool.or_eq_true, decide_eq_true_eq, Bool.and_eq_true, Bool.not_eq_true', or_assoc] using h
  · rw [if_neg h, if_neg]
    simpa only [Bool.or_eq_true, decide_eq_true_eq, Bool.and_eq_true, Bool.not_eq_true', or_assoc] using h

/-- An invalidation whose transfers have all ended completes (R379). -/
theorem execInvalidationComplete_rows {id : Nat} {i : Invalidation} (hi : s.chip.invals.find? (fun i => i.id = id) = some i)
    (hw : i.waits.any s.chip.inFlight = false) :
    (∀ r, s.chip.relocating.filter (fun r => r.inval = id) = some r →
      exec (.invalidationComplete id) s = s.goes (s.chip.relocateOn r)) ∧
    (s.chip.relocating.filter (fun r => r.inval = id) = none → exec (.invalidationComplete id) s =
      s.goes ({ s.chip with invals := s.chip.invals.filter (fun i => i.id ≠ id) }.invalDone i.origin)) := by
  have e : exec (.invalidationComplete id) s = execInvalidationComplete id s := rfl
  rw [e]
  unfold execInvalidationComplete State.onChip
  dsimp only
  rw [hi]
  dsimp only
  rw [if_neg (ne_true_of_eq_false hw)]
  refine ⟨fun r hr => ?_, fun hr => ?_⟩ <;> rw [hr] <;> rfl

end Invalidation

/-! ## The obligation -/

/-- Settles O40. -/
theorem translationRows : Obligations.TranslationRows := by
  unfold Obligations.TranslationRows
  refine ⟨fun k c space va kind => ⟨Chip.translate_invalidating, fun hi hu => Chip.translate_uncovered hi (Chip.uncovered_iff.2 hu),
    fun hi h0 hen hva x hx => ?_⟩, fun s q space id va v => ?_⟩
  · have hu : k.uncovered space va = false := by
      rw [← Bool.not_eq_true, Chip.uncovered_iff]
      rintro (h | h | h)
      · exact h0 h
      · rw [hen] at h; cases h
      · omega
    obtain ⟨h1, h2⟩ := RangeEnt.covers_iff.1 (findRange_covers hx)
    refine ⟨?_, h1, h2, rfl⟩
    rw [Chip.translate_hit hi hu hx]
    cases kind <;> rfl
  · intro k
    refine ⟨fun w k1 e st hf hw hr => ?_, fun w hf hw => ?_, fun hq => execXltInvalSpace_full hq, fun i hi hw => ?_, fun o => ?_⟩
    · intro goesOn
      obtain ⟨hbad, hlow, hhigh, hin⟩ := Chip.walkStep_rows hw hr
      refine ⟨fun h => execWalkEntryRead_ends hf (hbad h), fun h hl => execWalkEntryRead_goesOn hf (hlow h hl),
        fun h hh hl => execWalkEntryRead_goesOn hf (hhigh h (Nat.not_lt.2 hl) ?_), fun h hc => ?_⟩
      · rw [← Bool.not_eq_true, RangeEnt.covers_iff]
        exact fun hc => absurd hc.2 (Nat.not_lt.2 hh)
      · obtain ⟨hno, hmal, hfound⟩ := hin h hc
        exact ⟨fun hv => execWalkEntryRead_ends hf (hno hv), fun hv hm => execWalkEntryRead_ends hf (hmal hv hm),
          fun hv hm => execWalkEntryRead_ends hf (hfound hv hm)⟩
    · exact execWalkEntryRead_ends hf (if_pos hw)
    · obtain ⟨hsome, hnone⟩ := execInvalidationComplete_rows hi hw
      refine ⟨fun r hr hid => hsome r ?_, fun hr => hnone ?_⟩
      · rw [show s.chip.relocating = some r from hr, Option.filter_some, if_pos (by simpa using hid)]
      · cases h : s.chip.relocating with
        | none => rfl
        | some r => rw [Option.filter_some, if_neg (by simpa using hr r h)]
    · intro t
      exact ⟨Chip.startInval_ranges k space o, Chip.startInval_walking k space o, Chip.startInval_invalidating k space o,
        Chip.startInval_reg k space o, fun a => rfl⟩

end Sys2Proof.Machine
end

section
/-! PROOFS. The flash tier (O41): reads and their steps, background work, deferrals and erases. -/

namespace Sys2Proof.Machine

/-! ## Blocks -/

@[simp] theorem Flash.block_refresh (f : Flash) (b : Nat) : f.refresh.block b = f.block b := rfl

@[simp] theorem Flash.block_upd (f : Flash) (b : Nat) (g : FBlock → FBlock) : (f.updBlock b g).block b = g (f.block b) :=
  tblGet_mod_self _ _ _ _

theorem FBlock.read_due (b : FBlock) (n : Nat) : (b.read n).due = true ↔ b.due = true ∨ 60000 ≤ b.reads + n := by
  unfold FBlock.read
  rw [Bool.or_eq_true, decide_eq_true_eq]

/-- The wear of the tier touches its percentages alone (R410). -/
theorem Chip.rewear_spec (k : Chip) : (∃ w p l, k.rewear.flash = { k.flash with wearPct := w, sparePct := p, lowPosted := l }) ∧
    (∀ a, k.rewear.byte a = k.byte a) := by
  unfold Chip.rewear
  dsimp only
  split
  · exact ⟨⟨_, _, _, rfl⟩, fun _ => rfl⟩
  · exact ⟨⟨_, _, _, rfl⟩, fun _ => rfl⟩

theorem Flash.mayMove_iff {f : Flash} {b : Nat} : f.mayMove b = true ↔ f.ready = true ∧ (90000 ≤ (f.block b).reads ∨
    f.anyForced = false ∧ f.defer = none ∧ (f.dueOrder.contains b = false ∨ f.dueOrder.head? = some b)) := by
  unfold Flash.mayMove FBlock.forced
  simp only [Bool.and_eq_true, Bool.or_eq_true, decide_eq_true_eq, Bool.not_eq_true', Option.isNone_iff_eq_none, and_assoc]

/-! ## Reads (R404, R563) -/

section Reads

variable {s : State} {id : Nat} {r : FlashReq}

theorem execFlashRead_passes (hr : s.chip.flash.reqs.find? (fun r => r.id = id) = some r)
    (hl : s.links.hingeState (r.cluster / 24) = .active) (z : FlashServe) :
    exec (.flashRead id z) s = s.goes (s.chip.serveFlash r z) := by
  refine Eq.trans (b := execFlashRead id z s) rfl ?_
  unfold execFlashRead
  rw [hr]
  exact congrArg Host.Outcome.next (if_pos (decide_eq_true hl))

theorem execFlashRead_stands (hr : s.chip.flash.reqs.find? (fun r => r.id = id) = some r)
    (hl : s.links.hingeState (r.cluster / 24) ≠ .active) (z : FlashServe) :
    exec (.flashRead id z) s = .next s := by
  refine Eq.trans (b := execFlashRead id z s) rfl ?_
  unfold execFlashRead
  rw [hr]
  exact congrArg Host.Outcome.next (if_neg (by simpa [State.flashPasses] using hl))

theorem execFlashReadTimeout_passes (hr : s.chip.flash.reqs.find? (fun r => r.id = id) = some r)
    (hl : s.links.hingeState (r.cluster / 24) = .active) :
    exec (.flashReadTimeout id) s = s.goes ((((s.chip.takeFlash r).onFlash (fun f =>
      { f with timeout := satAdd f.timeout 1 })).flashAnswer r false).damage r.cluster r.mover r.off) := by
  refine Eq.trans (b := execFlashReadTimeout id s) rfl ?_
  unfold execFlashReadTimeout
  rw [hr]
  exact congrArg Host.Outcome.next (if_neg (by simp [State.flashPasses, hl]))

theorem execFlashReadTimeout_stands (hr : s.chip.flash.reqs.find? (fun r => r.id = id) = some r)
    (hl : s.links.hingeState (r.cluster / 24) ≠ .active) : exec (.flashReadTimeout id) s = .next s := by
  refine Eq.trans (b := execFlashReadTimeout id s) rfl ?_
  unfold execFlashReadTimeout
  rw [hr]
  exact congrArg Host.Outcome.next (if_pos (by simpa [State.flashPasses] using hl))

theorem Chip.takeFlash_reads (k : Chip) (r : FlashReq) : ((k.takeFlash r).flash.block (r.off / blockBytes)).reads =
    (k.flash.block (r.off / blockBytes)).reads + 1 :=
  congrArg FBlock.reads (Flash.block_upd { k.flash with reqs := k.flash.reqs.filter (fun x => x.id ≠ r.id) }
    (r.off / blockBytes) (·.read 1))

end Reads

/-! ## Background work (R406-R410) -/

section Background

variable {s : State} {b : Nat}

theorem execFlashBackgroundRelocate_waits (h : s.chip.flash.mayMove b = false) :
    exec (.flashBackgroundRelocate b) s = .next s :=
  congrArg s.goes (if_neg (ne_true_of_eq_false h))

theorem execFlashBackgroundRelocate_moves (h : s.chip.flash.mayMove b = true) : ∃ t : State,
    exec (.flashBackgroundRelocate b) s = .next t ∧
    t.chip.flash.block b = { reads := 0, erases := (s.chip.flash.block b).erases + 1, due := false } ∧
    t.chip.flash.data = s.chip.flash.data ∧ t.chip.flash.images = s.chip.flash.images ∧
    (∀ a, t.chip.byte a = s.chip.byte a) := by
  obtain ⟨⟨w, p, l, hf⟩, hb⟩ := (s.chip.onFlash (fun f => (f.updBlock b FBlock.cycled).refresh)).rewear_spec
  refine ⟨_, congrArg s.goes (if_pos h), ?_, ?_, ?_, hb⟩
  · refine (congrArg (fun f : Flash => f.block b) hf).trans ?_
    exact Flash.block_upd s.chip.flash b FBlock.cycled
  · exact (congrArg Flash.data hf :)
  · exact (congrArg Flash.images hf :)

/-- The flash tier after the scrub of a block. -/
def Flash.scrubbed (f : Flash) (b : Nat) (bad : Bool) : Flash :=
  (f.updBlock b (fun x => { x.read blockPages with due := (x.read blockPages).due || bad })).refresh

theorem execFlashScrub_runs {bad : Bool} (hr : s.chip.flash.ready = true) (hd : s.chip.flash.defer = none) :
    exec (.flashScrub b bad) s = s.goes (s.chip.onFlash (fun f => f.scrubbed b bad)) :=
  congrArg s.goes (if_pos (by rw [hr, hd]; rfl))

theorem Flash.block_scrubbed (f : Flash) (bad : Bool) : (f.scrubbed b bad).block b =
    { (f.block b).read blockPages with due := ((f.block b).read blockPages).due || bad } :=
  Flash.block_upd f b (fun x => { x.read blockPages with due := (x.read blockPages).due || bad })

end Background

/-! ## Erases (R403) -/

section Erase

theorem Flash.eraseBlocks_eq (f : Flash) (i : Image) : ∃ bs, f.eraseBlocks i = { f with blocks := bs } := by
  unfold Flash.eraseBlocks
  generalize span _ _ = l
  induction l generalizing f with
  | nil => exact ⟨f.blocks, rfl⟩
  | cons b l ih =>
    obtain ⟨bs, h⟩ := ih (f.updBlock b FBlock.cycled)
    exact ⟨bs, h⟩

theorem Flash.image_filter (f : Flash) (id : Nat) :
    (f.images.filter (fun x => x.id ≠ id)).find? (fun i => i.id = id) = none := by
  rw [List.find?_eq_none]
  intro x hx
  simpa using (List.mem_filter.1 hx).2

/-- The flash tier without an image and what its span holds. -/
def Flash.erased (f : Flash) (i : Image) (id : Nat) : Flash :=
  ({ (f.eraseBlocks i).dropData i.offset i.span with
    images := f.images.filter (fun x => x.id ≠ id)
    readers := f.readers.filter (fun r => r.1 ≠ id) }).refresh

theorem Flash.data_erased (f : Flash) (i : Image) (id : Nat) : (f.erased i id).data =
    f.data.filter (fun e => e.1 < i.offset || i.offset + i.span ≤ e.1) := by
  obtain ⟨bs, h⟩ := f.eraseBlocks_eq i
  show (f.eraseBlocks i).data.filter _ = _
  rw [h]

theorem Chip.answerCommand_flash (k : Chip) (mb op : Nat) (r : MbResult) : (k.answerCommand mb op r).flash = k.flash := by
  unfold Chip.answerCommand
  dsimp only
  split <;> rfl

theorem execImageEraseDone_frees {s : State} {id : Nat} {i : Image} (hi : s.chip.flash.image id = some i)
    (hst : i.st = .erasing) (hh : s.chip.imageHeld id = false) : ∃ t : State, exec (.imageEraseDone id) s = .next t ∧
    ∃ w p l, t.chip.flash = { s.chip.flash.erased i id with wearPct := w, sparePct := p, lowPosted := l } := by
  obtain ⟨⟨w, p, l, hf⟩, -⟩ := (s.chip.onFlash (fun f => f.erased i id)).rewear_spec
  have he : exec (.imageEraseDone id) s = execImageEraseDone id s := rfl
  have hc : ¬(i.st ≠ .erasing || s.chip.imageHeld id) = true := by simp [hst, hh]
  cases hm : s.chip.eraser id with
  | none =>
    refine ⟨s.onChip (fun k => (k.onFlash (fun f => f.erased i id)).rewear), ?_, w, p, l, hf⟩
    rw [he]
    unfold execImageEraseDone State.onChip
    dsimp only
    rw [hi]
    dsimp only
    rw [if_neg hc, hm] <;> rfl
  | some mb =>
    refine ⟨s.onChip (fun k => (k.onFlash (fun f => f.erased i id)).rewear.answerCommand mb 0x0605 (mbResult mbDone [])), ?_,
      w, p, l, (Chip.answerCommand_flash _ _ _ _).trans hf⟩
    rw [he]
    unfold execImageEraseDone State.onChip
    dsimp only
    rw [hi]
    dsimp only
    rw [if_neg hc, hm] <;> rfl

end Erase

/-! ## The obligation -/

/-- Settles O41. -/
theorem flashRows : Obligations.FlashRows := by
  unfold Obligations.FlashRows
  intro s id b bad k onF
  refine ⟨fun r hr => ⟨fun hl => ⟨?_, ?_, ?_, ?_, ?_, execFlashReadTimeout_passes hr hl⟩,
      fun hl => ⟨execFlashRead_stands hr hl, execFlashReadTimeout_stands hr hl⟩, rfl, Chip.takeFlash_reads _ _⟩,
    ⟨fun h => ?_, fun hr h => ?_⟩, fun hr hd => ⟨_, execFlashScrub_runs hr hd, ?_⟩, fun hu => ?_, fun x y hd => ?_,
    fun i hi hst hh => ?_⟩
  · exact execFlashRead_passes hr hl .hard
  · exact execFlashRead_passes hr hl .shifted
  · exact execFlashRead_passes hr hl .soft
  · exact execFlashRead_passes hr hl .rebuilt
  · exact execFlashRead_passes hr hl .failed
  · exact execFlashBackgroundRelocate_waits (Bool.eq_false_of_not_eq_true (mt Flash.mayMove_iff.1 h))
  · exact execFlashBackgroundRelocate_moves (Flash.mayMove_iff.2 ⟨hr, h⟩)
  · have hb : ((s.chip.onFlash (fun f => f.scrubbed b bad)).flash).block b = _ := Flash.block_scrubbed k.flash bad
    refine ⟨congrArg FBlock.reads hb, ?_⟩
    rw [show (_ : Bool) = _ from congrArg FBlock.due hb]
    dsimp only
    rw [Bool.or_eq_true, FBlock.read_due, or_assoc, or_comm (b := bad = true)]
  · exact congrArg Host.Outcome.next (if_pos hu)
  · refine ⟨(s.onChip (fun k => k.onFlash (fun f => { f with defer := none, deferNot := y + (y - x) }.refresh))), ?_, rfl, rfl⟩
    refine Eq.trans (b := execFlashDeferEnd s) rfl ?_
    unfold execFlashDeferEnd State.onChip
    dsimp only
    rw [show s.chip.flash.defer = some (x, y) from hd]
  · obtain ⟨t, ht, w, p, l, hf⟩ := execImageEraseDone_frees hi hst hh
    refine ⟨t, ht, ?_, (congrArg Flash.images hf :), fun o h1 h2 => ?_⟩
    · rw [hf]
      exact Flash.image_filter k.flash id
    · rw [show t.chip.flash.data = (k.flash.erased i id).data from (congrArg Flash.data hf :), Flash.data_erased,
        tblGet_filterKeys 0 k.flash.data (fun a => a < i.offset || i.offset + i.span ≤ a), if_neg]
      simp only [Bool.or_eq_true, decide_eq_true_eq]
      omega

end Sys2Proof.Machine
end

section
/-! PROOFS. Corrected and uncorrectable errors (O42), by the structure they are found in. -/

namespace Sys2Proof.Machine

variable (s : State) (e : ErrInfo)

/-! ## Corrected errors (R532, R540) -/

theorem Chip.correctedAt_path (k : Chip) (h : e.struct = strLink ∨ e.struct = strFlash) : k.correctedAt e = k :=
  if_pos (or_decide.2 h)

theorem Chip.correctedAt_counted (k : Chip) (h9 : e.struct ≠ strLink) (h10 : e.struct ≠ strFlash) : k.correctedAt e =
    if e.struct = strHbm then
      ((k.countCe e).onMgmt (·.corrected { e with cls := 1, level := 0 })).rowError (paLocal e.paddr.toNat)
    else (k.countCe e).onMgmt (·.corrected { e with cls := 1, level := 0 }) := by
  refine if_neg ?_
  rw [or_decide]
  exact not_or.2 ⟨h9, h10⟩

/-! ## Uncorrectable errors (R532, R535) -/

/-- The containment of an uncorrectable error by the number of its structure. -/
theorem State.uncorrectableAt_rows :
    (e.struct = 1 → s.uncorrectableAt e = s.onChip (fun k => (k.cacheData e).ueRecord 1 0 e)) ∧
    (e.struct = 2 ∨ e.struct = 8 →
      s.uncorrectableAt e = s.onChip (fun k => (k.poisonAt (paLocal e.paddr.toNat)).ueRecord 1 0 e)) ∧
    (e.struct = 3 → s.uncorrectableAt e = s.onChip (fun k =>
      (if k.clusterPresent e.cluster.toNat then
        k.updCluster e.cluster.toNat (fun x => { x with errored := true }) else k).ueRecord 1 2 e)) ∧
    (e.struct = 4 → s.uncorrectableAt e = s.controlError e) ∧
    (e.struct = 5 → s.uncorrectableAt e =
      s.onChip (fun k => (k.corruptHasp e.quad.toNat (e.detail.toNat % 4096)).ueRecord 1 0 e)) ∧
    (e.struct = 6 → s.uncorrectableAt e = s.onChip (fun k => k.dropEntry e)) ∧
    (e.struct = 7 → s.uncorrectableAt e = s.onChip (fun k =>
      ((k.poisonAt (paLocal e.paddr.toNat)).ueRecord 1 0 e).repairRow (paLocal e.paddr.toNat))) ∧
    (e.struct = 9 → s.uncorrectableAt e = s.onChip (fun k => k.fecUncorrectable e)) ∧
    (e.struct = 10 → s.uncorrectableAt e = s) ∧
    (10 < e.struct.toNat → s.uncorrectableAt e = s.onChip (fun k => k.ueRecord 1 e.level.toNat e)) := by
  unfold State.uncorrectableAt
  dsimp only
  refine ⟨fun h => ?_, fun h => ?_, fun h => ?_, fun h => ?_, fun h => ?_, fun h => ?_, fun h => ?_, fun h => ?_, fun h => ?_,
    fun h => ?_⟩
  case refine_2 => rcases h with h | h <;> rw [h] <;> rfl
  case refine_10 =>
    obtain ⟨n, hn⟩ : ∃ n, e.struct.toNat = n + 11 := ⟨e.struct.toNat - 11, by omega⟩
    rw [hn]
    rfl
  all_goals rw [h]; rfl

theorem execCorrectedError_eq : exec (.correctedError e) s = .next (s.onChip (fun k => k.correctedAt e)) := rfl

theorem execUncorrectableError_eq : exec (.uncorrectableError e) s = .next (s.uncorrectableAt e) := rfl

theorem Chip.poisonAt_populated {k : Chip} {la : Nat} (h : k.populated la = true) : k.poisonAt la = k.setPoison (lineOf la) true :=
  if_pos h

theorem State.controlError_hart (ha : e.agent = 13) (hh : e.hart.toNat < 64) : s.controlError e =
    s.onChip (fun k => (k.updHart e.hart.toNat (fun x => { x with stopped := true })).ueRecord 2 0 e) := by
  unfold State.controlError State.onChip
  rw [if_pos ha]
  dsimp only
  rw [if_pos hh]

theorem State.controlError_quad (ha : e.agent ≠ 13) (hq : e.quad.toNat < 4) :
    s.controlError e = (s.onChip (fun k => k.ueRecord 2 3 e)).makeUnusable e.quad.toNat := by
  unfold State.controlError
  rw [if_neg ha, if_pos hq]

theorem State.controlError_package (ha : e.agent ≠ 13) (hq : 4 ≤ e.quad.toNat) :
    s.controlError e = (s.onChip (fun k => k.ueRecord 2 4 e)).packageError := by
  unfold State.controlError
  rw [if_neg ha, if_neg (by omega)]

theorem Chip.fecUncorrectable_other (k : Chip) (h : e.agent ≠ 15) : k.fecUncorrectable e = k :=
  if_neg (fun hc => h (of_decide_eq_true (Bool.and_eq_true_iff.1 hc).1))

theorem Chip.fecUncorrectable_port (k : Chip) {n : Nat} (hn : n < 12) (ha : e.agent = 15)
    (hd : e.detail = BitVec.ofNat 64 (256 * n)) (hp : k.fabPresent n = true) : k.fecUncorrectable e =
    k.onFabric (fun f => f.updPort n (fun p => { p with fecUncorr := satAdd p.fecUncorr 1 })) := by
  have h : e.detail.toNat / 256 % 256 = n := by
    rw [hd, BitVec.toNat_ofNat]
    omega
  unfold Chip.fecUncorrectable
  rw [h]
  exact if_pos (by simp [ha, hp])

/-- A report counts an error at a quadrant and leaves its hasps. -/
theorem Chip.hasp_ueRecord (k : Chip) (sev level q i : Nat) : ((k.ueRecord sev level e).quad q).hasp i = (k.quad q).hasp i := by
  show ((k.countUe e).quad q).hasp i = _
  unfold Chip.countUe
  split
  · rfl
  · by_cases hq : q = e.quad.toNat
    · subst hq
      rw [Chip.quad_upd_self]
      rfl
    · rw [Chip.quad_upd_ne _ _ hq]

/-- A quadrant with a corrupt hasp, whose notifiers are evaluated. -/
def Quad.corrupted (d : Quad) (i : Nat) : Quad :=
  { d with hasps := tblPut Hasp.reset d.hasps i { count := BitVec.allOnes 48, err := true, sat := true } }.evalHasp i

theorem Chip.corruptHasp_eq (k : Chip) (q i : Nat) : k.corruptHasp q i = if !k.quadPresent q then k
    else (k.updQuad q (·.corrupted i)).wakeWaits (BitVec.ofNat 14 (q * 4096 + i)) (BitVec.allOnes 48) := rfl

/-- A corrupt hasp reads all ones with its flags (R532). -/
theorem Chip.corruptHasp_hasp {k : Chip} {q : Nat} (i : Nat) (h : k.quadPresent q = true) :
    ((k.corruptHasp q i).quad q).hasp i = { count := BitVec.allOnes 48, err := true, sat := true } := by
  have hw (j : Chip) (g : BitVec 14) (n : BitVec 48) : (j.wakeWaits g n).quad q = j.quad q := rfl
  rw [Chip.corruptHasp_eq, if_neg (by simp [h]), hw, Chip.quad_upd_self]
  unfold Quad.corrupted
  rw [Quad.evalHasp_eq, Quad.hasp_evalHaspTo]
  exact tblGet_put_self Hasp.reset (k.quad q).hasps i { count := BitVec.allOnes 48, err := true, sat := true }

theorem Chip.byte_corruptHasp (k : Chip) (q i a : Nat) : (k.corruptHasp q i).byte a = k.byte a := by
  rw [Chip.corruptHasp_eq]
  split
  · rfl
  · exact (Chip.wakeWaits_frame k q (·.corrupted i) _ _).1 a

theorem Chip.byte_ueRecord (k : Chip) (sev level a : Nat) : (k.ueRecord sev level e).byte a = k.byte a := by
  show (k.countUe e).byte a = k.byte a
  unfold Chip.countUe
  split <;> rfl

theorem errHits_of_covers {e : ErrInfo} {r : CachedRange} (hs : r.space = e.space.toNat) (hc : r.ent.covers e.vaddr = true) :
    errHits e r = true := by
  unfold errHits findRange
  simp [hs, hc]

/-- The entries of a cluster's range cache and loop predictor that an error names are dropped (R532). -/
theorem Chip.dropEntry_cluster {k : Chip} (h : k.clusterPresent e.cluster.toNat = true) :
    (∀ r ∈ ((k.dropEntry e).cluster e.cluster.toNat).ranges, r.space = e.space.toNat → r.ent.covers e.vaddr = false) ∧
    ∀ p ∈ ((k.dropEntry e).cluster e.cluster.toNat).preds, p.pc ≠ e.vaddr := by
  have hd : (k.dropEntry e).cluster e.cluster.toNat = { k.cluster e.cluster.toNat with
      ranges := (k.cluster e.cluster.toNat).ranges.filter (fun r => !errHits e r)
      preds := (k.cluster e.cluster.toNat).preds.filter (fun p => p.pc ≠ e.vaddr) } := by
    unfold Chip.dropEntry
    rw [if_pos h]
    exact Chip.cluster_upd_self k _ (fun x => { x with
      ranges := x.ranges.filter (fun r => !errHits e r)
      preds := x.preds.filter (fun p => p.pc ≠ e.vaddr) })
  rw [hd]
  refine ⟨fun r hr hs => ?_, fun p hp => of_decide_eq_true (List.mem_filter.1 hp).2⟩
  have hn := (List.mem_filter.1 hr).2
  refine Bool.eq_false_of_not_eq_true fun hc => ?_
  rw [errHits_of_covers hs hc] at hn
  exact absurd hn (by decide)

/-! ## Patrol scrub (R533) -/

theorem execPatrolScrub_reads {line : Nat} (hc : cacheable (line * 128) = true) (hp : s.chip.populated (line * 128) = true) :
    exec (.patrolScrub line .clean) s = .next s ∧
    exec (.patrolScrub line .corrected) s = .next (s.onChip (fun k => k.correctedAt (k.scrubInfo line))) ∧
    exec (.patrolScrub line .uncorrectable) s = .next (s.uncorrectableAt (s.chip.scrubInfo line)) := by
  have h : ¬(!(cacheable (line * 128) && s.chip.populated (line * 128))) = true := by simp [hc, hp]
  exact ⟨congrArg Host.Outcome.next (if_neg h), congrArg Host.Outcome.next (if_neg h), congrArg Host.Outcome.next (if_neg h)⟩

/-! ## The obligation -/

/-- Settles O42. -/
theorem errorRows : Obligations.ErrorRows := by
  unfold Obligations.ErrorRows
  intro s e line k la
  obtain ⟨h1, h28, h3, h4, h5, h6, h7, h9, h10, hrest⟩ := State.uncorrectableAt_rows s e
  refine ⟨fun h => ?_, fun h => ?_, fun n hn hst ha hd hp => ?_, fun h7 h9 h10 => ?_, fun h => ?_, fun h => ?_, fun h hp => ?_,
    fun h hp => ?_, fun h ha hh => ?_, fun h ha hq => ?_, fun h ha hq => ?_, fun h hp => ⟨_, execUncorrectableError_eq s e, ?_, ?_⟩,
    fun h hp => ⟨_, execUncorrectableError_eq s e, ?_⟩, fun h hp => ?_, fun h => ?_, fun hc hp => ⟨?_, ?_, ?_⟩⟩
  · exact congrArg s.goes (Chip.correctedAt_path e s.chip h)
  · rw [execUncorrectableError_eq]
    rcases h with h | ⟨h, ha⟩
    · rw [h10 h]; rfl
    · rw [h9 h]
      exact congrArg s.goes (Chip.fecUncorrectable_other e s.chip ha)
  · rw [execUncorrectableError_eq, h9 hst]
    exact congrArg s.goes (Chip.fecUncorrectable_port e s.chip hn ha hd hp)
  · exact congrArg s.goes ((Chip.correctedAt_counted e s.chip h9 h10).trans (if_neg h7))
  · have h9 : e.struct ≠ strLink := by rw [h]; decide
    have h10 : e.struct ≠ strFlash := by rw [h]; decide
    exact congrArg s.goes ((Chip.correctedAt_counted e s.chip h9 h10).trans (if_pos h))
  · rw [execUncorrectableError_eq, h1 h]; rfl
  · rw [execUncorrectableError_eq, h28 h]
    exact congrArg (fun j : Chip => s.goes (j.ueRecord 1 0 e)) (Chip.poisonAt_populated hp)
  · rw [execUncorrectableError_eq, h3 h]
    exact congrArg (fun j : Chip => s.goes (j.ueRecord 1 2 e)) (if_pos hp)
  · rw [execUncorrectableError_eq, h4 h, State.controlError_hart s e ha hh]; rfl
  · rw [execUncorrectableError_eq, h4 h, State.controlError_quad s e ha hq]; rfl
  · rw [execUncorrectableError_eq, h4 h, State.controlError_package s e ha hq]; rfl
  · rw [h5 h]
    exact (Chip.hasp_ueRecord e _ 1 0 _ _).trans (Chip.corruptHasp_hasp _ hp)
  · intro a
    rw [h5 h]
    exact (Chip.byte_ueRecord e _ 1 0 a).trans (Chip.byte_corruptHasp _ _ _ a)
  · rw [h6 h]
    exact Chip.dropEntry_cluster e hp
  · rw [execUncorrectableError_eq, h7 h]
    exact congrArg (fun j : Chip => s.goes ((j.ueRecord 1 0 e).repairRow la)) (Chip.poisonAt_populated hp)
  · rw [execUncorrectableError_eq, hrest h]; rfl
  · exact (execPatrolScrub_reads s hc hp).1
  · rw [(execPatrolScrub_reads s hc hp).2.1, execCorrectedError_eq]
    dsimp only [State.onChip]
  · rw [(execPatrolScrub_reads s hc hp).2.2, execUncorrectableError_eq]

end Sys2Proof.Machine
end

section
/-! PROOFS. Packets at a port (O45) and management packets (O46). -/

namespace Sys2Proof.Machine

/-! ## Packets taken from a port (R418, R421, R423, R426) -/

section Packets

variable {k : Chip} {n typ : Nat} {p : Packet} {f : Chip → Chip}

/-- The fabric without a packet that was taken from a port. -/
def Chip.consumed (k : Chip) (n : Nat) (p : Packet) : Chip := k.onFabric (fun f => f.consume n p)

/-- Whether port `n` may give a packet now. -/
def Chip.gives (k : Chip) (n : Nat) (p : Packet) : Prop :=
  (k.fabric.port n).st = .active ∧
    ((k.fabric.port n).inq.any (fun x => x.pk = p) && keyBlocked (k.fabric.port n).inq p) = false

theorem Chip.takePacket_malformed (h : k.gives n p) (hm : pkMalformed p = true) : k.takePacket n p typ f =
    (k.consumed n p).onFabric (fun f => { f with malformed := satAdd f.malformed 1 }) := by
  obtain ⟨ha, hb⟩ := h
  unfold Chip.takePacket
  dsimp only
  rw [if_neg (by rw [hb, ha]; decide), if_pos hm]
  rfl

/-- A well-made packet of the type that is taken: expired, for another module, refused or performed. -/
theorem Chip.takePacket_typed (h : k.gives n p) (hm : pkMalformed p = false) (ht : (pkType p).toNat = typ) (h6 : typ ≠ 6) :
    k.takePacket n p typ f =
      if 700 ≤ pkLife p + ((k.fabric.port n).received p).residence then
        (k.consumed n p).onFabric (fun f => { f with expired := satAdd f.expired 1 })
      else if pkDst p ≠ k.fabric.devnum then
        (k.consumed n p).onFabric (fun g => g.forward (k.fabric.arrival n) ((k.consumed n p).portReach (some (n / 3)))
          ((k.fabric.port n).received p))
      else if pkRefused p ((k.consumed n p).fabric.reqs.any (fun r => r.tag = pkTag p)) then
        (k.consumed n p).onFabric (fun f => { f with malformed := satAdd f.malformed 1 })
      else f (k.consumed n p) := by
  obtain ⟨ha, hb⟩ := h
  have hx : pkExpired p (pkLife p + ((k.fabric.port n).received p).residence) =
      decide (700 ≤ pkLife p + ((k.fabric.port n).received p).residence) := by
    unfold pkExpired
    rw [show decide (pkType p ≠ 6) = true from decide_eq_true (fun h => h6 (by rw [← ht, h]; rfl)), Bool.and_true]
  unfold Chip.takePacket
  dsimp only
  rw [if_neg (by rw [hb, ha]; decide), if_neg (ne_true_of_eq_false hm), if_neg (not_not.2 ht), hx]
  simp only [decide_eq_true_eq]
  rfl

/-- What the four outcomes of a packet are, one for each kind of request. -/
theorem Chip.takePacket_rows (h : k.gives n p) (h6 : typ ≠ 6) :
    (pkMalformed p = true → k.takePacket n p typ f =
      (k.consumed n p).onFabric (fun f => { f with malformed := satAdd f.malformed 1 })) ∧
    ((pkType p).toNat = typ →
      (pkMalformed p = false → 700 ≤ pkLife p + ((k.fabric.port n).received p).residence → k.takePacket n p typ f =
        (k.consumed n p).onFabric (fun f => { f with expired := satAdd f.expired 1 })) ∧
      (pkMalformed p = false → pkLife p + ((k.fabric.port n).received p).residence < 700 → pkDst p ≠ k.fabric.devnum →
        k.takePacket n p typ f = (k.consumed n p).onFabric (fun g => g.forward (k.fabric.arrival n)
          ((k.consumed n p).portReach (some (n / 3))) ((k.fabric.port n).received p))) ∧
      (pkMalformed p = false → pkLife p + ((k.fabric.port n).received p).residence < 700 → pkDst p = k.fabric.devnum →
        (pkRefused p ((k.consumed n p).fabric.reqs.any (fun r => r.tag = pkTag p)) = true → k.takePacket n p typ f =
          (k.consumed n p).onFabric (fun f => { f with malformed := satAdd f.malformed 1 })) ∧
        (pkRefused p ((k.consumed n p).fabric.reqs.any (fun r => r.tag = pkTag p)) = false →
          k.takePacket n p typ f = f (k.consumed n p)))) := by
  refine ⟨Chip.takePacket_malformed h, fun ht => ⟨fun hm hl => ?_, fun hm hl hd => ?_, fun hm hl hd => ⟨fun hr => ?_, fun hr => ?_⟩⟩⟩
  · rw [Chip.takePacket_typed h hm ht h6, if_pos hl]
  · rw [Chip.takePacket_typed h hm ht h6, if_neg (by omega), if_pos hd]
  · rw [Chip.takePacket_typed h hm ht h6, if_neg (by omega), if_neg (not_not.2 hd), if_pos hr]
  · rw [Chip.takePacket_typed h hm ht h6, if_neg (by omega), if_neg (not_not.2 hd), if_neg (ne_true_of_eq_false hr)]

end Packets

section Rows

variable {s : State} {n : Nat} {p : Packet}

/-- The rows of a command that takes a packet of type `typ` and gives it to `f`. -/
theorem State.packetRow {i : Instr} {typ : Nat} {f : Chip → Chip} {t : Chip} (h : s.chip.gives n p) (h6 : typ ≠ 6)
    (hi : exec i s = s.goes (s.chip.takePacket n p typ f)) (ht : f (s.chip.consumed n p) = t) :
    (pkMalformed p = true → exec i s =
      s.goes ((s.chip.consumed n p).onFabric (fun f => { f with malformed := satAdd f.malformed 1 }))) ∧
    ((pkType p).toNat = typ →
      (pkMalformed p = false → 700 ≤ pkLife p + ((s.chip.fabric.port n).received p).residence → exec i s =
        s.goes ((s.chip.consumed n p).onFabric (fun f => { f with expired := satAdd f.expired 1 }))) ∧
      (pkMalformed p = false → pkLife p + ((s.chip.fabric.port n).received p).residence < 700 → pkDst p ≠ s.chip.fabric.devnum →
        exec i s = s.goes ((s.chip.consumed n p).onFabric (fun g => g.forward (s.chip.fabric.arrival n)
          ((s.chip.consumed n p).portReach (some (n / 3))) ((s.chip.fabric.port n).received p)))) ∧
      (pkMalformed p = false → pkLife p + ((s.chip.fabric.port n).received p).residence < 700 → pkDst p = s.chip.fabric.devnum →
        (pkRefused p ((s.chip.consumed n p).fabric.reqs.any (fun r => r.tag = pkTag p)) = true → exec i s =
          s.goes ((s.chip.consumed n p).onFabric (fun f => { f with malformed := satAdd f.malformed 1 }))) ∧
        (pkRefused p ((s.chip.consumed n p).fabric.reqs.any (fun r => r.tag = pkTag p)) = false → exec i s = s.goes t))) := by
  obtain ⟨h1, h2⟩ := Chip.takePacket_rows (f := f) h h6
  rw [hi, ← ht]
  refine ⟨fun hm => congrArg s.goes (h1 hm), fun hty => ?_⟩
  obtain ⟨h3, h4, h5⟩ := h2 hty
  exact ⟨fun hm hl => congrArg s.goes (h3 hm hl), fun hm hl hd => congrArg s.goes (h4 hm hl hd), fun hm hl hd =>
    ⟨fun hr => congrArg s.goes ((h5 hm hl hd).1 hr), fun hr => congrArg s.goes ((h5 hm hl hd).2 hr)⟩⟩

/-- A request that has had no acknowledgement ends with the status of R427. -/
theorem execRemoteTimeout_ends {tag : Nat} {r : RemoteReq}
    (hr : s.chip.fabric.reqs.find? (fun r => r.tag.toNat = tag) = some r) : exec (.remoteTimeout tag) s =
      s.goes ((s.chip.onFabric (fun f => { f with timeouts := satAdd f.timeouts 1 })).remoteEnd r 5 []) := by
  refine Eq.trans (b := execRemoteTimeout tag s) rfl ?_
  unfold execRemoteTimeout State.onChip
  dsimp only
  rw [hr] <;> rfl

end Rows

/-- Settles O45. -/
theorem packetRows : Obligations.PacketRows := by
  unfold Obligations.PacketRows
  intro s n p tag k k1 qd life q la bs known row reach bank hact hblock
  have h : s.chip.gives n p := ⟨hact, hblock⟩
  refine ⟨?_, ?_, ?_, ?_, ?_, fun r hr => execRemoteTimeout_ends hr⟩
  · exact State.packetRow (i := .writePacket n p) (typ := 1) (f := fun k => k.performWrite n p) h (by decide) rfl rfl
  · exact State.packetRow (i := .readPacket n p) (typ := 2) (f := fun k => k.performRead n p) h (by decide) rfl rfl
  · exact State.packetRow (i := .atomicPacket n p) (typ := 5) (f := fun k => k.performAtomic n p) h (by decide) rfl rfl
  · exact State.packetRow (i := .haspAddPacket n p) (typ := 4) (f := fun k => k.performHaspAdd n p) h (by decide) rfl rfl
  · exact State.packetRow (i := .readResp n p) (typ := 3) h (by decide) rfl rfl

end Sys2Proof.Machine
end

section
/-! PROOFS. Management packets (O46): what is discarded, passed on and served here, and the pod record. -/

namespace Sys2Proof.Machine

/-! ## Management packets taken from a port (R418, R429) -/

section Mgmt

variable {s : State} {n kind : Nat} {p : Packet} {f : State → State}

/-- The state without a packet that was taken from a port. -/
def State.consumed (s : State) (n : Nat) (p : Packet) : State := s.onChip (fun k => k.onFabric (fun f => f.consume n p))

/-- A management packet at a port that carries one. -/
def State.carries (s : State) (n : Nat) (p : Packet) : Prop :=
  ((s.chip.fabric.port n).st = .link ∨ (s.chip.fabric.port n).st = .active) ∧ pkType p = 6

theorem State.carries_not (h : s.carries n p) : ¬(!s.chip.fabric.linked n || pkType p ≠ 6) = true := by
  obtain ⟨hl, ht⟩ := h
  have hl : s.chip.fabric.linked n = true := or_decide.2 hl
  simp [hl, ht]

theorem State.takeMgmt_malformed (h : s.carries n p) (hm : pkMalformed p = true ∨ mgBad p = true) :
    s.takeMgmt n p kind f =
      (s.consumed n p).onChip (fun k => k.onFabric (fun f => { f with malformed := satAdd f.malformed 1 })) := by
  unfold State.takeMgmt
  dsimp only
  rw [if_neg (State.carries_not h), if_pos (Bool.or_eq_true_iff.2 hm)]
  rfl

theorem State.takeMgmt_typed (h : s.carries n p) (hk : mgKind p = kind) (hm : pkMalformed p = false) (hb : mgBad p = false) :
    s.takeMgmt n p kind f =
      if mgDirected p then
        (if mgHops p < mgPathLen p then
          (s.consumed n p).onChip (fun k => k.onFabric (fun f => f.sendVia (mgHop p (mgHops p))
            { (s.chip.fabric.port n).received p with pk := mgNextHop p }))
        else f (s.consumed n p))
      else if pkDst p ≠ s.chip.fabric.devnum then
        (s.consumed n p).onChip (fun k => k.onFabric (fun f =>
          f.forward (f.arrival n) (k.portReach (some (n / 3))) ((s.chip.fabric.port n).received p)))
      else f (s.consumed n p) := by
  unfold State.takeMgmt
  dsimp only
  rw [if_neg (State.carries_not h), if_neg (by rw [hm, hb]; decide), if_neg (not_not.2 hk)]
  rfl

/-- The rows of a command that takes a management packet of a kind and gives it to `f`. -/
theorem State.mgmtRow {i : Instr} {t : State} (h : s.carries n p) (hi : exec i s = .next (s.takeMgmt n p kind f))
    (ht : f (s.consumed n p) = t) :
    (pkMalformed p = true ∨ mgBad p = true → exec i s =
      .next ((s.consumed n p).onChip (fun k => k.onFabric (fun f => { f with malformed := satAdd f.malformed 1 })))) ∧
    (mgKind p = kind → pkMalformed p = false → mgBad p = false →
      (mgDirected p = true → mgHops p < mgPathLen p → exec i s = .next ((s.consumed n p).onChip (fun k => k.onFabric (fun f =>
        f.sendVia (mgHop p (mgHops p)) { (s.chip.fabric.port n).received p with pk := mgNextHop p })))) ∧
      (mgDirected p = false → pkDst p ≠ s.chip.fabric.devnum → exec i s = .next ((s.consumed n p).onChip (fun k =>
        k.onFabric (fun f => f.forward (f.arrival n) (k.portReach (some (n / 3))) ((s.chip.fabric.port n).received p))))) ∧
      ((mgDirected p = true ∧ mgPathLen p ≤ mgHops p) ∨ (mgDirected p = false ∧ pkDst p = s.chip.fabric.devnum) →
        exec i s = .next t)) := by
  rw [hi, ← ht]
  refine ⟨fun hm => by rw [State.takeMgmt_malformed h hm], fun hk hm hb => ?_⟩
  rw [State.takeMgmt_typed h hk hm hb]
  refine ⟨fun hd hp => by rw [if_pos hd, if_pos hp], fun hd hp => by rw [if_neg (ne_true_of_eq_false hd), if_pos hp], ?_⟩
  rintro (⟨hd, hp⟩ | ⟨hd, hp⟩)
  · rw [if_pos hd, if_neg (Nat.not_lt.2 hp)]
  · rw [if_neg (ne_true_of_eq_false hd), if_neg (not_not.2 hp)]

end Mgmt

/-! ## Relays (R431) -/

theorem execRelayResendTimer_rows {s : State} {mseq : BitVec 32} {x : RelayOut}
    (hx : s.chip.fabric.relays.find? (fun x => x.mseq = mseq) = some x) : exec (.relayResendTimer mseq) s = s.goes
      (if x.resent < 3 then
        (s.chip.onFabric (fun f => { f with relays := f.relays.map (fun y =>
          if y.mseq = mseq then { y with resent := y.resent + 1 } else y) })).sendRelay 2 x.dst mseq x.body
      else
        (s.chip.onFabric (fun f => { f with relays := f.relays.filter (fun y => y.mseq ≠ mseq) })).answerCommand
          x.mb 0x0704 (mbResult mbTimeout [])) := by
  refine Eq.trans (b := execRelayResendTimer mseq s) rfl ?_
  unfold execRelayResendTimer State.onChip
  dsimp only
  rw [hx] <;> rfl

/-! ## The pod record (R432) -/

section Record

theorem Fabric.port_upd_self (f : Fabric) (n : Nat) (g : Port → Port) : (f.updPort n g).port n = g (f.port n) :=
  tblGet_mod_self _ _ _ _

theorem Fabric.port_upd_ne (f : Fabric) {n m : Nat} (g : Port → Port) (h : m ≠ n) : (f.updPort n g).port m = f.port m :=
  tblGet_mod_ne _ _ _ h

/-- Ports changed one by one: only the ports of the fabric differ. -/
theorem Fabric.foldl_updPort_eq (g : Port → Port) (l : List Nat) (f : Fabric) :
    ∃ ps, l.foldl (fun f n => f.updPort n g) f = { f with ports := ps } := by
  induction l generalizing f with
  | nil => exact ⟨f.ports, rfl⟩
  | cons n l ih =>
    obtain ⟨ps, h⟩ := ih (f.updPort n g)
    exact ⟨ps, h⟩

/-- A property that every changed port takes on holds of each of them in the end. -/
theorem Fabric.foldl_updPort_port (g : Port → Port) (P : Port → Prop) (hg : ∀ x, P (g x)) (l : List Nat) (f : Fabric) (m : Nat)
    (h : m ∈ l ∨ P (f.port m)) : P ((l.foldl (fun f n => f.updPort n g) f).port m) := by
  induction l generalizing f with
  | nil => exact h.resolve_left List.not_mem_nil
  | cons n l ih =>
    refine ih (f.updPort n g) ?_
    by_cases hm : m = n
    · subst hm
      rw [Fabric.port_upd_self]
      exact Or.inr (hg _)
    · rw [Fabric.port_upd_ne f g hm]
      exact h.imp_left (fun h => (List.mem_cons.1 h).resolve_left hm)

/-- A port that is off or in training. -/
def Port.resting (p : Port) : Prop := p.st = .off ∨ p.st = .training

/-- A port that starts to train touches the ports alone, and rests. -/
theorem Chip.portTrain_fabric (k : Chip) (n : Nat) : (∃ ps, (k.portTrain n).fabric = { k.fabric with ports := ps }) ∧
    ∀ m, (k.fabric.port m).resting → ((k.portTrain n).fabric.port m).resting := by
  unfold Chip.portTrain
  split
  · refine ⟨⟨_, rfl⟩, fun m h => ?_⟩
    show ((k.fabric.updPort n (fun p => { p.restart with st := .training, retrains := satAdd p.retrains 1 })).port m).resting
    by_cases hm : m = n
    · subst hm
      rw [Fabric.port_upd_self]
      exact Or.inr rfl
    · rw [Fabric.port_upd_ne _ _ hm]
      exact h
  · exact ⟨⟨k.fabric.ports, rfl⟩, fun m h => h⟩

theorem Chip.foldl_portTrain (l : List Nat) (k : Chip) :
    (∃ ps, (l.foldl (fun k n => k.portTrain n) k).fabric = { k.fabric with ports := ps }) ∧
    ∀ m, (k.fabric.port m).resting → ((l.foldl (fun k n => k.portTrain n) k).fabric.port m).resting := by
  induction l generalizing k with
  | nil => exact ⟨⟨k.fabric.ports, rfl⟩, fun m h => h⟩
  | cons n l ih =>
    obtain ⟨⟨ps, hf⟩, hr⟩ := k.portTrain_fabric n
    obtain ⟨⟨qs, hg⟩, hs⟩ := ih (k.portTrain n)
    exact ⟨⟨qs, by rw [List.foldl_cons, hg, hf]⟩, fun m h => hs m (hr m h)⟩

/-- A port that the new record takes out of the pod. -/
def Port.podOff (p : Port) : Port := { p.restart with st := .off, gvalid := false }

/-- The fabric with every port out of the pod. -/
def Fabric.podOff (f : Fabric) : Fabric := (List.range 12).foldl (fun (f : Fabric) n => f.updPort n Port.podOff) f

theorem Fabric.port_podOff (f : Fabric) {m : Nat} (hm : m < 12) : (f.podOff.port m).st = .off :=
  Fabric.foldl_updPort_port Port.podOff (fun p => p.st = .off) (fun _ => rfl) (List.range 12) f m (Or.inl (List.mem_range.2 hm))

/-- The record applied to the fabric of a module. -/
def Chip.recorded (k : Chip) (r : PodRecord) : Chip :=
  k.onFabric (fun f => { f.podOff with podRec := some r }.applyRecord k.variantIx k.portList)

theorem Chip.recorded_fabric (k : Chip) (r : PodRecord) : (k.recorded r).fabric = { k.fabric.podOff with
    podRec := some r, devnum := r.devnum, podMember := false, rt := buildRoutes r.topology r.devnum.toNat
    lgrp := buildGroups r.topology k.variantIx r.devnum.toNat k.portList } := by
  unfold Chip.recorded Chip.onFabric
  dsimp only
  generalize k.fabric.podOff = g
  generalize k.variantIx = v
  generalize k.portList = l
  rfl

theorem Chip.configurePod_eq (k : Chip) (r : PodRecord) :
    k.configurePod r = (List.range 12).foldl (fun k n => k.portTrain n) (k.recorded r) := rfl

theorem Chip.configurePod_rows (k : Chip) (r : PodRecord) :
    let g := (k.configurePod r).fabric
    g.podRec = some r ∧ g.devnum = r.devnum ∧ g.podMember = false ∧ g.rt = buildRoutes r.topology r.devnum.toNat ∧
    g.lgrp = buildGroups r.topology k.variantIx r.devnum.toNat k.portList ∧
    ∀ m, m < 12 → (g.port m).st = .off ∨ (g.port m).st = .training := by
  obtain ⟨⟨ps, hf⟩, hr⟩ := Chip.foldl_portTrain (List.range 12) (k.recorded r)
  have hports (m : Nat) : (k.recorded r).fabric.port m = k.fabric.podOff.port m := by
    rw [k.recorded_fabric r]
    unfold Fabric.port
    dsimp only
  rw [← Chip.configurePod_eq] at hf hr
  rw [k.recorded_fabric r] at hf
  have hall (m : Nat) (hm : m < 12) : ((k.configurePod r).fabric.port m).resting := by
    refine hr m (Or.inl ?_)
    rw [hports m]
    exact k.fabric.port_podOff hm
  generalize (k.configurePod r).fabric = g at hf hall
  subst hf
  exact ⟨rfl, rfl, rfl, rfl, rfl, hall⟩

end Record

/-! ## The obligation -/

/-- Settles O46. -/
theorem podRows : Obligations.PodRows := by
  unfold Obligations.PodRows
  intro s n p rec' ri mseq f f0 s1 onFab row
  refine ⟨fun hl ht => ?_, fun x hx => ?_, Chip.configurePod_rows s.chip rec'⟩
  · have h : s.carries n p := ⟨hl, ht⟩
    refine ⟨?_, ?_, ?_, ?_, ?_⟩
    · exact State.mgmtRow (i := .config n p rec') (kind := 4) h rfl rfl
    · exact State.mgmtRow (i := .configAck n p) (kind := 5) h rfl rfl
    · exact State.mgmtRow (i := .ping n p) (kind := 6) h rfl rfl
    · exact State.mgmtRow (i := .relayCmd n p ri) (kind := 2) (f := fun s => s.takeRelay ri) h rfl rfl
    · exact State.mgmtRow (i := .relayRsp n p) (kind := 3) h rfl rfl
  · rw [execRelayResendTimer_rows hx]
    exact ⟨fun h => congrArg s.goes (if_pos h), fun h => congrArg s.goes (if_neg (Nat.not_lt.2 h))⟩

end Sys2Proof.Machine
end

section
/-! PROOFS. Accesses, fences and cache management of a hart (O47). -/

namespace Sys2Proof.Machine

/-! ## Accesses (R437, R443) -/

section Access

variable {s : State} {h : Nat}

theorem execHartLoad_waits {a : HartLd} (hw : (s.chip.readyHart h).hartWaits h a.pa (2 ^ a.size.toNat) a.page
    (loadClass a.page a.pa) 0 = true) : exec (.hartLoad h a) s = s.goes (s.chip.readyHart h) := by
  refine Eq.trans (b := execHartLoad h a s) rfl ?_
  unfold execHartLoad State.onChip
  dsimp only
  rw [if_pos hw]
  rfl

theorem execHartLoad_goes {a : HartLd} {t : HartSpot} (hw : (s.chip.readyHart h).hartWaits h a.pa (2 ^ a.size.toNat) a.page
    (loadClass a.page a.pa) 0 = false)
    (ht : (s.chip.readyHart h).hartSpot a.pa (2 ^ a.size.toNat) a.page a.fetch false false = t) :
    (t = .line → exec (.hartLoad h a) s = s.goes ((s.chip.readyHart h).hartLineLoad h a)) ∧
    (t = .mem → exec (.hartLoad h a) s = s.goes ((s.chip.readyHart h).hartMemLoad h a)) ∧
    (t = .reg → exec (.hartLoad h a) s = .next (({ s with chip := s.chip.readyHart h } : State).hartRegLoad h a)) ∧
    (t = .remote → exec (.hartLoad h a) s = s.goes ((s.chip.readyHart h).hartRemoteLoad h a)) ∧
    (t = .io → exec (.hartLoad h a) s = s.goes ((s.chip.readyHart h).hartIoLoad h a)) ∧
    (∀ r, t = .refused r → exec (.hartLoad h a) s =
      s.goes ((s.chip.readyHart h).hartRefuse h (ldCause a) a.va a.pa r)) := by
  have e : exec (.hartLoad h a) s = execHartLoad h a s := rfl
  rw [e]
  unfold execHartLoad State.onChip
  dsimp only
  rw [if_neg (ne_true_of_eq_false hw), ht]
  refine ⟨?_, ?_, ?_, ?_, ?_, fun r => ?_⟩ <;> rintro rfl <;> rfl

/-- Where the bytes of a store go, by its target. -/
theorem State.hartStore_goes {s : State} {va : U64} {pa : Nat} {page : PageType} {bs : Bytes} {t : HartSpot}
    (ht : s.chip.hartSpot pa bs.length page false false false = t) :
    (t = .line → s.hartStore h va pa page bs = s.goes (s.chip.hartLineStore h pa bs)) ∧
    (t = .mem → s.hartStore h va pa page bs = s.goes (s.chip.hartMemStore h pa bs)) ∧
    (t = .reg → s.hartStore h va pa page bs = .next (s.hartRegStore h va pa bs)) ∧
    (t = .remote → s.hartStore h va pa page bs = s.goes (s.chip.hartRemoteStore h pa bs)) ∧
    (t = .io → s.hartStore h va pa page bs = s.goes (s.chip.hartIoStore pa bs)) ∧
    (∀ r, t = .refused r → s.hartStore h va pa page bs = s.goes (s.chip.hartRefuse h causeStore va pa r)) := by
  unfold State.hartStore
  dsimp only
  rw [ht]
  refine ⟨?_, ?_, ?_, ?_, ?_, fun r => ?_⟩ <;> rintro rfl <;> rfl

theorem execHartStore_waits {b : HartSt} (hw : (s.chip.readyHart h).hartWaits h b.pa (2 ^ b.size.toNat) b.page
    (storeClass b.page b.pa) b.rs = true) : exec (.hartStore h b) s = s.goes (s.chip.readyHart h) :=
  if_pos hw

theorem execHartStore_goes {b : HartSt} (hw : (s.chip.readyHart h).hartWaits h b.pa (2 ^ b.size.toNat) b.page
    (storeClass b.page b.pa) b.rs = false) : exec (.hartStore h b) s =
      ({ s with chip := s.chip.readyHart h } : State).hartStore h b.va b.pa b.page
        (toBytes (2 ^ b.size.toNat) (((s.chip.readyHart h).hart h).reg b.rs).toNat) :=
  if_neg (ne_true_of_eq_false hw)

theorem execHartAmo_goes {m : HartAmoF} {t : HartSpot} (hw : (s.chip.readyHart h).hartWaits h m.pa (if m.dword then 8 else 4)
    m.page (if m.page = .io then 12 else 3) m.rs = false)
    (ht : (s.chip.readyHart h).hartSpot m.pa (if m.dword then 8 else 4) m.page false true (m.op = .lr || m.op = .sc) = t) :
    (t = .line → exec (.hartAmo h m) s = s.goes ((s.chip.readyHart h).hartLineAmo h m)) ∧
    (t = .mem → exec (.hartAmo h m) s = s.goes ((s.chip.readyHart h).hartMemAmo h m)) ∧
    (t = .reg → exec (.hartAmo h m) s = s.goes ((s.chip.readyHart h).hartRefuse h (amoCause m) m.va m.pa
      (({ s with chip := s.chip.readyHart h } : State).amoRecorded m))) ∧
    (t = .remote → exec (.hartAmo h m) s = s.goes ((s.chip.readyHart h).hartRemoteAmo h m)) ∧
    (t = .io → exec (.hartAmo h m) s = s.goes ((s.chip.readyHart h).hartRefuse h (amoCause m) m.va m.pa false)) ∧
    (∀ r, t = .refused r → exec (.hartAmo h m) s =
      s.goes ((s.chip.readyHart h).hartRefuse h (amoCause m) m.va m.pa r)) := by
  have e : exec (.hartAmo h m) s = execHartAmo h m s := rfl
  rw [e]
  unfold execHartAmo State.onChip
  dsimp only
  rw [if_neg (ne_true_of_eq_false hw), ht]
  refine ⟨?_, ?_, ?_, ?_, ?_, fun r => ?_⟩ <;> rintro rfl <;> rfl

end Access

/-! ## Fences (R320) -/

section Fences

variable {k : Chip} {h : Nat}

theorem Chip.hartFenceDone_plain {pred : BitVec 4} : k.hartFenceDone h false pred = true ↔
    (∀ x ∈ (k.hart h).accs, k.isOwn x.pa = true → x.fenceBits &&& pred = 0) ∧
    (∀ x ∈ (k.hart h).stores, k.isOwn x.pa = true → storeClass .pma x.pa &&& pred = 0) := by
  unfold Chip.hartFenceDone
  simp only [Bool.false_eq_true, if_false, Bool.and_eq_true, List.all_eq_true, Bool.or_eq_true, Bool.not_eq_true',
    decide_eq_true_eq, ← Bool.not_eq_true, ← imp_iff_not_or]

theorem Chip.hartFenceDone_pod {pred : BitVec 4} : k.hartFenceDone h true pred = true ↔
    (k.hart h).accs = [] ∧ (k.hart h).stores = [] := by
  unfold Chip.hartFenceDone
  simp only [if_true, Bool.and_eq_true, List.isEmpty_iff]

/-- Whether a fence is complete does not depend on the fence that stands. -/
theorem Chip.hartFenceDone_updFence (pod : Bool) (pred : BitVec 4) (f : Option (Bool × (BitVec 4 × BitVec 4))) :
    (k.updHart h (fun x => { x with fence := f })).hartFenceDone h pod pred = k.hartFenceDone h pod pred := by
  unfold Chip.hartFenceDone
  rw [Chip.hart_upd_self]
  rfl

/-- A fence of a hart that runs and has none ends at once, or stands. -/
theorem Chip.beginHartFence_runs {pod : Bool} {pred succ : BitVec 4} (hr : ((k.readyHart h).hart h).running = true)
    (hs : ((k.readyHart h).hart h).stopped = false) (hf : ((k.readyHart h).hart h).fence = none) :
    k.beginHartFence h pod pred succ = (k.readyHart h).updHart h (fun x => { x with
      fence := if (k.readyHart h).hartFenceDone h pod pred then none else some (pod, (pred, succ)) }) := by
  have he : (((k.readyHart h).updHart h (fun x => { x with fence := some (pod, (pred, succ)) })).hart h).fence =
      some (pod, (pred, succ)) := congrArg Hart.fence (Chip.hart_upd_self _ _ _)
  unfold Chip.beginHartFence
  dsimp only
  rw [if_neg (by simp [hr, hs, hf])]
  unfold Chip.endHartFence
  rw [he]
  dsimp only
  rw [Chip.hartFenceDone_updFence]
  split
  · exact Chip.updHart_upd _ _ _ _
  · rfl

end Fences

/-! ## Cache management (R438) -/

section Cbo

variable {k : Chip} {h pa : Nat} {f : Chip → Nat → Chip}

theorem Chip.cboLine_runs (hw : (k.readyHart h).hartWaits h pa 1 .pma 3 0 = false) (ho : (k.readyHart h).hartOrdered pa = true)
    (hs : ∀ x ∈ ((k.readyHart h).hart h).stores, lineOf (paLocal x.pa) ≠ lineOf (paLocal pa))
    (ha : ∀ x ∈ ((k.readyHart h).hart h).accs, lineOf (paLocal pa) ∉ linesOf (paLocal x.pa) x.bytes) :
    k.cboLine h pa f = f (k.readyHart h) (lineOf (paLocal pa)) := by
  have h1 : ((k.readyHart h).hart h).stores.any (fun s => lineOf (paLocal s.pa) = lineOf (paLocal pa)) = false := by
    rw [List.any_eq_false]
    exact fun x hx => by simpa using hs x hx
  have h2 : ((k.readyHart h).hart h).accs.any (fun a => (linesOf (paLocal a.pa) a.bytes).contains (lineOf (paLocal pa))) = false := by
    rw [List.any_eq_false]
    exact fun x hx => by simpa using ha x hx
  unfold Chip.cboLine
  dsimp only
  rw [h1, h2, hw, ho]
  rfl

theorem Chip.cboLine_uncached (ho : (k.readyHart h).hartOrdered pa = false) : k.cboLine h pa f = k.readyHart h :=
  if_pos (by rw [ho, Bool.not_false, Bool.or_true])

theorem execCboInval_allowed {s : State} {va : U64} : exec (.cboInval h pa va true) s = exec (.cboFlush h pa va) s := by
  refine Eq.trans (b := execCboInval h pa va true s) rfl (Eq.trans (b := execCboFlush h pa va s) ?_ rfl)
  unfold execCboInval execCboFlush
  simp only [if_true]

theorem execCboInval_illegal {s : State} {va : U64} (hw : (s.chip.readyHart h).hartWaits h pa 1 .pma 3 0 = false) :
    exec (.cboInval h pa va false) s = s.goes ((s.chip.readyHart h).hartTrap h causeIllegal 0) := by
  refine Eq.trans (b := execCboInval h pa va false s) rfl ?_
  unfold execCboInval State.onChip
  dsimp only
  rw [if_neg Bool.false_ne_true, if_neg (ne_true_of_eq_false hw)]
  rfl

end Cbo

/-! ## The obligation -/

/-- Settles O47. -/
theorem hartRows : Obligations.HartRows := by
  unfold Obligations.HartRows
  refine ⟨fun s h a b m pa va => ?_, fun s h pred succ pa va => ?_⟩
  · intro k s0 la lb lm
    refine ⟨execHartLoad_waits, fun hw => ?_, execHartStore_waits, fun hw => ?_, fun hw => if_neg (ne_true_of_eq_false hw), fun hw => ?_⟩
    · cases ht : k.hartSpot a.pa la a.page a.fetch false false with
      | line => exact (execHartLoad_goes hw ht).1 rfl
      | mem => exact (execHartLoad_goes hw ht).2.1 rfl
      | reg => exact (execHartLoad_goes hw ht).2.2.1 rfl
      | remote => exact (execHartLoad_goes hw ht).2.2.2.1 rfl
      | io => exact (execHartLoad_goes hw ht).2.2.2.2.1 rfl
      | refused r => exact (execHartLoad_goes hw ht).2.2.2.2.2 r rfl
    · intro bs
      rw [execHartStore_goes hw]
      have hl : bs.length = lb := toBytes_length _ _
      cases ht : k.hartSpot b.pa lb b.page false false false with
      | line => exact (State.hartStore_goes (s := s0) (bs := bs) (by rw [hl]; exact ht)).1 rfl
      | mem => exact (State.hartStore_goes (s := s0) (bs := bs) (by rw [hl]; exact ht)).2.1 rfl
      | reg => exact (State.hartStore_goes (s := s0) (bs := bs) (by rw [hl]; exact ht)).2.2.1 rfl
      | remote => exact (State.hartStore_goes (s := s0) (bs := bs) (by rw [hl]; exact ht)).2.2.2.1 rfl
      | io => exact (State.hartStore_goes (s := s0) (bs := bs) (by rw [hl]; exact ht)).2.2.2.2.1 rfl
      | refused r => exact (State.hartStore_goes (s := s0) (bs := bs) (by rw [hl]; exact ht)).2.2.2.2.2 r rfl
    · cases ht : k.hartSpot m.pa lm m.page false true (m.op = .lr || m.op = .sc) with
      | line => exact (execHartAmo_goes hw ht).1 rfl
      | mem => exact (execHartAmo_goes hw ht).2.1 rfl
      | reg => exact (execHartAmo_goes hw ht).2.2.1 rfl
      | remote => exact (execHartAmo_goes hw ht).2.2.2.1 rfl
      | io => exact (execHartAmo_goes hw ht).2.2.2.2.1 rfl
      | refused r => exact (execHartAmo_goes hw ht).2.2.2.2.2 r rfl
  · intro k line e fenced flushed
    refine ⟨fun hr hs hf => ⟨congrArg s.goes (Chip.beginHartFence_runs hr hs hf), congrArg s.goes (Chip.beginHartFence_runs hr hs hf)⟩,
      fun hw => ⟨fun ho hst hacc => ⟨fun hm => ?_, fun hm => ?_, ?_, ?_⟩, fun ho => ⟨?_, ?_, ?_⟩, ?_⟩,
      Chip.hartFenceDone_plain, Chip.hartFenceDone_pod⟩
    · exact congrArg s.goes ((Chip.cboLine_runs hw ho hst hacc).trans (if_pos hm))
    · exact congrArg s.goes ((Chip.cboLine_runs hw ho hst hacc).trans (if_neg hm))
    · exact congrArg s.goes (Chip.cboLine_runs hw ho hst hacc)
    · rw [execCboInval_allowed]
      exact congrArg s.goes (Chip.cboLine_runs hw ho hst hacc)
    · exact congrArg s.goes (Chip.cboLine_uncached ho)
    · exact congrArg s.goes (Chip.cboLine_uncached ho)
    · rw [execCboInval_allowed]
      exact congrArg s.goes (Chip.cboLine_uncached ho)
    · exact execCboInval_illegal hw

end Sys2Proof.Machine
end

section
/-! PROOFS. A hart access to a line that it holds (O48): what a quiet hart does in one step. -/

namespace Sys2Proof.Machine

/-! ## What only a hart's own step changes -/

/-- Between two states nothing of memory, the units, the network and the other harts differs. -/
def Chip.OnlyHart (h : Nat) (k t : Chip) : Prop :=
  (∀ y, t.byte y = k.byte y) ∧ t.clusters = k.clusters ∧ t.quads = k.quads ∧ t.net = k.net ∧ ∀ j, j ≠ h → t.hart j = k.hart j

section Only

variable {h : Nat} {k t u : Chip}

theorem Chip.OnlyHart.refl : Chip.OnlyHart h k k := ⟨fun _ => rfl, rfl, rfl, rfl, fun _ _ => rfl⟩

theorem Chip.OnlyHart.trans (h1 : Chip.OnlyHart h k t) (h2 : Chip.OnlyHart h t u) : Chip.OnlyHart h k u := by
  obtain ⟨a1, a2, a3, a4, a5⟩ := h1
  obtain ⟨b1, b2, b3, b4, b5⟩ := h2
  exact ⟨fun y => (b1 y).trans (a1 y), b2.trans a2, b3.trans a3, b4.trans a4, fun j hj => (b5 j hj).trans (a5 j hj)⟩

theorem Chip.onlyHart_updHart (k : Chip) (f : Hart → Hart) : Chip.OnlyHart h k (k.updHart h f) :=
  ⟨fun _ => rfl, rfl, rfl, rfl, fun _ hj => Chip.hart_upd_ne k f hj⟩

theorem Chip.onlyHart_report (k : Chip) (sev : Nat) (e : ErrInfo) (n : Nat) : Chip.OnlyHart h k (k.report sev e n) :=
  ⟨fun _ => rfl, rfl, rfl, rfl, fun _ _ => rfl⟩

theorem Chip.onlyHart_noteWrite (k : Chip) (la n : Nat) : Chip.OnlyHart h k (k.noteWrite la n) :=
  ⟨fun _ => rfl, rfl, rfl, rfl, fun _ _ => rfl⟩

theorem Chip.onlyHart_fresh (k : Chip) : Chip.OnlyHart h k k.fresh.2 :=
  ⟨fun _ => rfl, rfl, rfl, rfl, fun _ _ => rfl⟩

theorem Chip.onlyHart_updLine (k : Chip) (hh : h < 64) (line : Nat) (f : CLine → CLine) :
    Chip.OnlyHart h k (k.updLine h line f) := by
  unfold Chip.updLine
  rw [if_pos hh]
  exact Chip.onlyHart_updHart k _

end Only

/-- Two harts that differ in their L1 copies alone. -/
def Hart.SameButL1 (x y : Hart) : Prop := ∃ i d, y = { x with l1i := i, l1d := d }

section L1

variable {h : Nat} (k : Chip)

theorem Hart.SameButL1.trans {x y z : Hart} (h1 : x.SameButL1 y) (h2 : y.SameButL1 z) : x.SameButL1 z := by
  obtain ⟨i, d, rfl⟩ := h1
  obtain ⟨i', d', rfl⟩ := h2
  exact ⟨i', d', rfl⟩

theorem Chip.fillL1i_spec (line : Nat) :
    Chip.OnlyHart h k (k.fillL1i h line) ∧ (k.hart h).SameButL1 ((k.fillL1i h line).hart h) := by
  unfold Chip.fillL1i
  dsimp only
  split
  · exact ⟨.refl, _, _, rfl⟩
  · split
    · exact ⟨Chip.onlyHart_updHart k _, _, _, Chip.hart_upd_self k h _⟩
    · exact ⟨(Chip.onlyHart_fresh k).trans (Chip.onlyHart_updHart _ _), _, _, Chip.hart_upd_self k.fresh.2 h _⟩

theorem Chip.fillL1d_spec (line : Nat) (dirty : Bool) :
    Chip.OnlyHart h k (k.fillL1d h line dirty) ∧ (k.hart h).SameButL1 ((k.fillL1d h line dirty).hart h) := by
  unfold Chip.fillL1d
  dsimp only
  split
  · exact ⟨Chip.onlyHart_updHart k _, _, _, Chip.hart_upd_self k h _⟩
  · split
    · exact ⟨Chip.onlyHart_updHart k _, _, _, Chip.hart_upd_self k h _⟩
    · exact ⟨(Chip.onlyHart_fresh k).trans (Chip.onlyHart_updHart _ _), _, _, Chip.hart_upd_self k.fresh.2 h _⟩

theorem Chip.fillL1_spec (fetch : Bool) (ls : List Nat) :
    Chip.OnlyHart h k (k.fillL1 h fetch ls) ∧ (k.hart h).SameButL1 ((k.fillL1 h fetch ls).hart h) := by
  induction ls generalizing k with
  | nil => exact ⟨.refl, _, _, rfl⟩
  | cons l ls ih =>
    have hl : Chip.OnlyHart h k (if fetch then k.fillL1i h l else k.fillL1d h l false) ∧
        (k.hart h).SameButL1 ((if fetch then k.fillL1i h l else k.fillL1d h l false).hart h) := by
      split
      · exact k.fillL1i_spec l
      · exact k.fillL1d_spec l false
    obtain ⟨h1, h2⟩ := ih (if fetch then k.fillL1i h l else k.fillL1d h l false)
    exact ⟨hl.1.trans h1, hl.2.trans h2⟩

end L1

/-! ## The lines of an L2 -/

section Lines

variable {h : Nat} {k t : Chip}

theorem Chip.cline_congr (hh : h < 64) (e : (t.hart h).l2 = (k.hart h).l2) (l : Nat) : t.cline h l = k.cline h l := by
  unfold Chip.cline
  rw [if_pos hh, if_pos hh, e]

theorem Chip.l2Bytes_congr (hh : h < 64) (e : (t.hart h).l2 = (k.hart h).l2) (la n : Nat) : t.l2Bytes h la n = k.l2Bytes h la n := by
  unfold Chip.l2Bytes
  simp only [Chip.cline_congr hh e]

theorem Chip.l2Poison_congr (hh : h < 64) (e : (t.hart h).l2 = (k.hart h).l2) (la n : Nat) : t.l2Poison h la n = k.l2Poison h la n := by
  unfold Chip.l2Poison
  simp only [Chip.cline_congr hh e]

theorem Hart.l1After_modified {x : Hart} {line : Nat} {e : CLine} (he : e.st = .m) : x.l1After line e = x := by
  unfold Hart.l1After
  rw [he]
  rfl

/-- A line that is then in M, and what the change leaves of its hart. -/
theorem Chip.updLine_modified (hh : h < 64) (line : Nat) {f : CLine → CLine} (hf : (f (k.cline h line)).st = .m) :
    (k.updLine h line f).cline h line = f (k.cline h line) ∧
    (∀ l, l ≠ line → (k.updLine h line f).cline h l = k.cline h l) ∧
    ∃ l2, (k.updLine h line f).hart h = { k.hart h with l2 := l2 } := by
  have hc : k.cline h line = tblGet CLine.none (k.hart h).l2 line := if_pos hh
  have hn : normLine (f (tblGet CLine.none (k.hart h).l2 line)) = f (k.cline h line) := by
    rw [← hc]
    unfold normLine
    rw [hf]
    rfl
  have hx : (k.updLine h line f).hart h =
      { k.hart h with l2 := tblPut CLine.none (k.hart h).l2 line (f (k.cline h line)) } := by
    unfold Chip.updLine
    rw [if_pos hh, Chip.hart_upd_self, hn]
    dsimp only
    rw [Hart.l1After_modified hf]
  refine ⟨?_, fun l hl => ?_, _, hx⟩
  · refine (if_pos hh).trans ?_
    rw [hx]
    exact tblGet_put_self _ _ _ _
  · refine (if_pos hh).trans (Eq.trans ?_ (if_pos hh).symm)
    rw [hx]
    exact tblGet_put_ne _ _ _ hl

end Lines

/-! ## A quiet hart, and its only access -/

section Drain

variable {h : Nat} {k : Chip} {a : HartAcc} {x : HartStore}

/-- A hart without anything outstanding. -/
def Hart.idle (x : Hart) : Prop := x.accs = [] ∧ x.stores = []

theorem Chip.drainHart_idle (hi : (k.hart h).idle) (n : Nat) : k.drainHart h n = k := by
  obtain ⟨ha, hs⟩ := hi
  cases n with
  | zero => rfl
  | succ n =>
    unfold Chip.drainHart
    rw [ha]
    dsimp only [List.find?_nil]
    rw [hs]
    dsimp only [List.find?_nil]
    exact if_pos rfl

theorem Chip.drainHart_access (ha : (k.hart h).accs = [a]) (ht : a.target = .line) (hi : ((k.tryHart h a).hart h).idle) (n : Nat) :
    k.drainHart h (n + 1) = k.tryHart h a := by
  have hf : (k.hart h).accs.find? (fun a => a.target = .line) = some a := by simp [ha, ht]
  unfold Chip.drainHart
  rw [hf]
  dsimp only
  rw [hi.2]
  dsimp only [List.find?_nil]
  rw [Chip.drainHart_idle hi]
  exact ite_self _

theorem Chip.drainHart_store (ha : (k.hart h).accs = []) (hs : (k.hart h).stores = [x]) (ho : k.hartOrdered x.pa = true)
    (hi : ((k.tryHartStore h x).hart h).idle) (n : Nat) : k.drainHart h (n + 1) = k.tryHartStore h x := by
  have hf : (k.hart h).stores.find? (fun s => k.hartOrdered s.pa) = some x := by simp [hs, ho]
  unfold Chip.drainHart
  rw [ha]
  dsimp only [List.find?_nil]
  rw [hf]
  dsimp only
  rw [Chip.drainHart_idle hi]
  exact ite_self _

theorem Hart.quiet_iff {x : Hart} : x.quiet = true ↔
    x.running = true ∧ x.stopped = false ∧ x.accs = [] ∧ x.stores = [] ∧ x.fence = none := by
  unfold Hart.quiet
  simp only [Bool.and_eq_true, Bool.not_eq_true', List.isEmpty_iff, Option.isNone_iff_eq_none, and_assoc]

theorem Chip.readyHart_quiet (hq : (k.hart h).quiet = true) : k.readyHart h = k := by
  obtain ⟨-, -, ha, hs, hf⟩ := Hart.quiet_iff.1 hq
  unfold Chip.readyHart Chip.drainHartAll
  rw [Chip.drainHart_idle ⟨ha, hs⟩]
  unfold Chip.endHartFence
  rw [hf]

theorem Chip.hartWaits_quiet (hq : (k.hart h).quiet = true) (pa n : Nat) (page : PageType) (bits : BitVec 4) (rs : SReg) :
    k.hartWaits h pa n page bits rs = false := by
  obtain ⟨hr, hst, ha, hs, hf⟩ := Hart.quiet_iff.1 hq
  unfold Chip.hartWaits Chip.hartBehind
  dsimp only
  rw [hr, hst, ha, hs, hf]
  simp

end Drain

/-! ## The end of an access (R437, R534) -/

section Finish

variable {h : Nat} {k : Chip} {a : HartAcc} {bs : Bytes}

/-- The hart without its only access. -/
def Hart.cleared (x : Hart) : Hart := { x with accs := [] }

theorem Chip.hart_cleared (ha : (k.hart h).accs = [a]) :
    (k.updHart h (fun x => { x with accs := x.accs.filter (·.id ≠ a.id) })).hart h = (k.hart h).cleared := by
  rw [Chip.hart_upd_self, ha]
  simp [Hart.cleared]

theorem overlay_nil (pa : Nat) : overlay pa bs [] = bs := rfl

/-- A load that finds good bytes writes its register; a fetch writes none. -/
theorem Chip.finishHart_load {signed fetch : Bool} (ha : (k.hart h).accs = [a]) (hs : (k.hart h).stores = [])
    (hk : a.kind = .load signed fetch) : Chip.OnlyHart h k (k.finishHart h a bs false) ∧
    (k.finishHart h a bs false).hart h =
      if fetch then (k.hart h).cleared else (k.hart h).cleared.setReg a.rd (extend a.bytes signed bs) := by
  unfold Chip.finishHart
  dsimp only
  rw [hk, hs, if_neg Bool.false_ne_true]
  simp only [List.filter_nil, List.map_nil, overlay_nil, ite_self]
  cases fetch with
  | true => exact ⟨Chip.onlyHart_updHart k _, Chip.hart_cleared ha⟩
  | false =>
    refine ⟨(Chip.onlyHart_updHart k _).trans (Chip.onlyHart_updHart _ _), ?_⟩
    rw [if_neg Bool.false_ne_true, Chip.hart_upd_self, Chip.hart_cleared ha, if_neg Bool.false_ne_true]

/-- An atomic writes its register. -/
theorem Chip.finishHart_amo {op : HartAmoOp} {v : U64} (ha : (k.hart h).accs = [a]) (hk : a.kind = .amo op v) :
    Chip.OnlyHart h k (k.finishHart h a bs false) ∧ (k.finishHart h a bs false).hart h = (k.hart h).cleared.setReg a.rd
      (if a.bytes = 4 then sext32 (ofBytes bs) else BitVec.ofNat 64 (ofBytes bs)) := by
  unfold Chip.finishHart
  dsimp only
  rw [hk, if_neg Bool.false_ne_true]
  refine ⟨(Chip.onlyHart_updHart k _).trans (Chip.onlyHart_updHart _ _), ?_⟩
  rw [if_neg Bool.false_ne_true, Chip.hart_upd_self, Chip.hart_cleared ha]

/-- A load of a poisoned line takes an access fault. -/
theorem Chip.finishHart_poison {signed fetch : Bool} (ha : (k.hart h).accs = [a]) (hs : (k.hart h).stores = [])
    (hk : a.kind = .load signed fetch) : Chip.OnlyHart h k (k.finishHart h a bs true) ∧
    (k.finishHart h a bs true).hart h = { (k.hart h).cleared with
      trap := some { cause := if fetch then causeFetch else causeLoad, tval := a.va } } := by
  unfold Chip.finishHart
  dsimp only
  rw [hk, if_pos rfl]
  refine ⟨(((Chip.onlyHart_updHart k _).trans (Chip.onlyHart_updHart _ _)).trans (Chip.onlyHart_updHart _ _)).trans
    (Chip.onlyHart_report _ _ _ _), ?_⟩
  show ((((k.updHart h (fun x => { x with accs := x.accs.filter (·.id ≠ a.id) })).updHart h (·.squash a.id)).hartTrap h _ a.va).hart h) = _
  unfold Chip.hartTrap
  rw [Chip.hart_upd_self, Chip.hart_upd_self, Chip.hart_cleared ha]
  unfold Hart.squash Hart.cleared
  simp [hs]

end Finish

end Sys2Proof.Machine
end

section
/-! PROOFS. A load, a store and an atomic of a quiet hart to a line that it holds (O48). -/

namespace Sys2Proof.Machine

section Push

variable {h : Nat} {k : Chip}

theorem Chip.pushAcc_idle (ha : (k.hart h).accs = []) (b : HartAcc) : Chip.OnlyHart h k (k.pushAcc h b) ∧
    (k.pushAcc h b).hart h = { k.hart h with accs := [b], nextId := (k.hart h).nextId + 1 } := by
  refine ⟨Chip.onlyHart_updHart k _, (Chip.hart_upd_self k h _).trans ?_⟩
  rw [ha]
  rfl

theorem Chip.pushHartStore_idle (hs : (k.hart h).stores = []) (pa : Nat) (bs : Bytes) (sent : Bool) :
    Chip.OnlyHart h k (k.pushHartStore h pa bs sent) ∧ (k.pushHartStore h pa bs sent).hart h = { k.hart h with
      stores := [({ id := (k.hart h).nextId, pa := pa, data := bs, sent := sent } : HartStore)]
      nextId := (k.hart h).nextId + 1 } := by
  refine ⟨Chip.onlyHart_updHart k _, (Chip.hart_upd_self k h _).trans ?_⟩
  rw [hs]
  rfl

end Push

/-! ## Loads -/

section Loads

variable {h : Nat} {k : Chip} {a : HartLd}

/-- A hart in which an access has come and gone. -/
def Hart.served (x : Hart) : Hart := { x with accs := [], nextId := x.nextId + 1 }

/-- The hart after a load, before its L1 copies are filled. -/
def Chip.loaded (k : Chip) (h : Nat) (a : HartLd) : Hart :=
  if k.l2Poison h (paLocal a.pa) (2 ^ a.size.toNat) then
    { (k.hart h).served with trap := some { cause := ldCause a, tval := a.va } }
  else if a.fetch then (k.hart h).served
  else (k.hart h).served.setReg a.rd (extend (2 ^ a.size.toNat) a.signed (k.l2Bytes h (paLocal a.pa) (2 ^ a.size.toNat)))

theorem Chip.loaded_idle (hs : (k.hart h).stores = []) : (k.loaded h a).idle := by
  unfold Chip.loaded
  split
  · exact ⟨rfl, hs⟩
  · split
    · exact ⟨rfl, hs⟩
    · rw [Hart.setReg_eq]
      exact ⟨rfl, hs⟩

/-- The performance of the only load of a hart whose lines are readable. -/
theorem Chip.tryHart_load {j : Chip} {b : HartAcc} {signed fetch : Bool} (hk : b.kind = .load signed fetch)
    (hr : (linesOf (paLocal b.pa) b.bytes).all (fun l => (j.cline h l).st.readable) = true)
    (ha : (j.hart h).accs = [b]) (hs : (j.hart h).stores = []) : Chip.OnlyHart h j (j.tryHart h b) ∧
    Hart.SameButL1 (if j.l2Poison h (paLocal b.pa) b.bytes then
        { (j.hart h).cleared with trap := some { cause := if fetch then causeFetch else causeLoad, tval := b.va } }
      else if fetch then (j.hart h).cleared
      else (j.hart h).cleared.setReg b.rd (extend b.bytes signed (j.l2Bytes h (paLocal b.pa) b.bytes)))
      ((j.tryHart h b).hart h) := by
  have ht : j.tryHart h b = (j.finishHart h b (j.l2Bytes h (paLocal b.pa) b.bytes) (j.l2Poison h (paLocal b.pa) b.bytes)).fillL1 h
      fetch (linesOf (paLocal b.pa) b.bytes) := by
    unfold Chip.tryHart
    dsimp only
    rw [hk]
    exact if_pos hr
  obtain ⟨hf, hl⟩ := (j.finishHart h b (j.l2Bytes h (paLocal b.pa) b.bytes) (j.l2Poison h (paLocal b.pa) b.bytes)).fillL1_spec
    (h := h) fetch (linesOf (paLocal b.pa) b.bytes)
  rw [ht]
  generalize j.l2Poison h (paLocal b.pa) b.bytes = p at *
  cases p with
  | true =>
    obtain ⟨ho, hx⟩ := Chip.finishHart_poison (bs := j.l2Bytes h (paLocal b.pa) b.bytes) ha hs hk
    rw [if_pos rfl, ← hx]
    exact ⟨ho.trans hf, hl⟩
  | false =>
    obtain ⟨ho, hx⟩ := Chip.finishHart_load (bs := j.l2Bytes h (paLocal b.pa) b.bytes) ha hs hk
    rw [if_neg Bool.false_ne_true, ← hx]
    exact ⟨ho.trans hf, hl⟩

theorem Chip.hartLineLoad_held (hh : h < 64) (ha : (k.hart h).accs = []) (hs : (k.hart h).stores = [])
    (hr : (linesOf (paLocal a.pa) (2 ^ a.size.toNat)).all (fun l => (k.cline h l).st.readable) = true) :
    Chip.OnlyHart h k (k.hartLineLoad h a) ∧ (k.loaded h a).SameButL1 ((k.hartLineLoad h a).hart h) := by
  obtain ⟨hp, hx⟩ := Chip.pushAcc_idle ha (k.hartAcc h a .line)
  have hl2 : ((k.pushAcc h (k.hartAcc h a .line)).hart h).l2 = (k.hart h).l2 := by rw [hx]
  have haccs : ((k.pushAcc h (k.hartAcc h a .line)).hart h).accs = [k.hartAcc h a .line] := by rw [hx]
  have hstores : ((k.pushAcc h (k.hartAcc h a .line)).hart h).stores = [] := by rw [hx]; exact hs
  have hclear : ((k.pushAcc h (k.hartAcc h a .line)).hart h).cleared = (k.hart h).served := by rw [hx]; rfl
  obtain ⟨ho, hsame⟩ := Chip.tryHart_load (h := h) (j := k.pushAcc h (k.hartAcc h a .line)) (b := k.hartAcc h a .line)
    (signed := a.signed) (fetch := a.fetch) rfl (by simp only [Chip.cline_congr hh hl2]; exact hr) haccs hstores
  rw [hclear, Chip.l2Poison_congr hh hl2, Chip.l2Bytes_congr hh hl2] at hsame
  have hidle : ((Chip.tryHart (k.pushAcc h (k.hartAcc h a .line)) h (k.hartAcc h a .line)).hart h).idle := by
    have hi := Chip.loaded_idle (a := a) hs
    obtain ⟨i, d, hy⟩ := hsame
    rw [hy]
    exact hi
  have ht : k.hartLineLoad h a = Chip.tryHart (k.pushAcc h (k.hartAcc h a .line)) h (k.hartAcc h a .line) := by
    unfold Chip.hartLineLoad
    dsimp only
    rw [hr, if_neg (by simp)]
    exact Chip.drainHart_access haccs rfl hidle _
  rw [ht]
  exact ⟨hp.trans ho, hsame⟩

end Loads

/-! ## Stores -/

section Stores

variable {h : Nat} {k : Chip}

/-- A target in the L2 is main memory of this module. -/
theorem Chip.hartSpot_line {pa n : Nat} {page : PageType} {fetch amo lrsc : Bool}
    (hl : k.hartSpot pa n page fetch amo lrsc = .line) : k.hartOrdered pa = true := by
  unfold Chip.hartSpot at hl
  dsimp only at hl
  unfold Chip.hartOrdered
  by_cases ho : k.isOwn pa = true
  · by_cases hc : cacheable (paLocal pa) = true
    · rw [ho, hc]; rfl
    · rw [if_neg (by simp [ho]), if_neg hc] at hl
      split at hl
      · cases hl
      · split at hl
        · split at hl
          · cases hl
          · split at hl <;> cases hl
        · split at hl
          · cases hl
          · split at hl
            · unfold Chip.ioSpot at hl
              split at hl
              · cases hl
              · split at hl
                · cases hl
                · split at hl <;> cases hl
            · cases hl
  · rw [if_pos (by simp [ho])] at hl
    split at hl
    · cases hl
    · split at hl <;> cases hl

theorem paLocal_mod_line (pa : Nat) : paLocal pa % 128 = pa % 128 := by
  unfold paLocal bitsOf
  omega

/-- Bytes that stay within their line. -/
theorem splitLine_one {pa : Nat} {bs : Bytes} (hb : paLocal pa % 128 + bs.length ≤ 128) : splitLine pa bs = [(pa, bs)] := by
  rw [paLocal_mod_line] at hb
  exact if_pos (by omega)

/-- The line of a store with the bytes in place. -/
def CLine.stored (e : CLine) (o : Nat) (bs : Bytes) : CLine := { e with st := .m, data := linePut e.data o bs }

/-- The performance of the only store of a hart whose line is writable. -/
theorem Chip.tryHartStore_held (hh : h < 64) {x : HartStore} (ha : (k.hart h).accs = []) (hs : (k.hart h).stores = [x])
    (hw : (k.cline h (lineOf (paLocal x.pa))).st.writable = true) :
    Chip.OnlyHart h k (k.tryHartStore h x) ∧
    (∃ l2 i d, (k.tryHartStore h x).hart h = { k.hart h with stores := [], l2 := l2, l1i := i, l1d := d }) ∧
    (k.tryHartStore h x).cline h (lineOf (paLocal x.pa)) =
      (k.cline h (lineOf (paLocal x.pa))).stored (paLocal x.pa % 128) x.data ∧
    (∀ l, l ≠ lineOf (paLocal x.pa) → (k.tryHartStore h x).cline h l = k.cline h l) := by
  have ht : k.tryHartStore h x = ((((k.updHart h (fun y => { y with stores := y.stores.filter (·.id ≠ x.id) })).updLine h
      (lineOf (paLocal x.pa)) (·.stored (paLocal x.pa % 128) x.data)).fillL1d h (lineOf (paLocal x.pa)) true).noteWrite
        (paLocal x.pa) x.data.length) := by
    unfold Chip.tryHartStore
    dsimp only
    rw [ha, if_neg (by simp), if_pos hw]
    rfl
  have hx : (k.updHart h (fun y => { y with stores := y.stores.filter (·.id ≠ x.id) })).hart h = { k.hart h with stores := [] } := by
    rw [Chip.hart_upd_self, hs]
    simp
  have hl2 : ((k.updHart h (fun y => { y with stores := y.stores.filter (·.id ≠ x.id) })).hart h).l2 = (k.hart h).l2 := by rw [hx]
  obtain ⟨hself, hne, l2, hupd⟩ := Chip.updLine_modified (k := k.updHart h (fun y => { y with stores := y.stores.filter (·.id ≠ x.id) }))
    hh (lineOf (paLocal x.pa)) (f := (·.stored (paLocal x.pa % 128) x.data)) rfl
  rw [ht]
  generalize hj : (k.updHart h (fun y => { y with stores := y.stores.filter (·.id ≠ x.id) })).updLine h
      (lineOf (paLocal x.pa)) (·.stored (paLocal x.pa % 128) x.data) = j at *
  obtain ⟨hf, i, d, hsame⟩ := j.fillL1d_spec (h := h) (lineOf (paLocal x.pa)) true
  have hj2 : ((j.fillL1d h (lineOf (paLocal x.pa)) true).hart h).l2 = (j.hart h).l2 := by rw [hsame]
  have hline (l : Nat) : ((j.fillL1d h (lineOf (paLocal x.pa)) true).noteWrite (paLocal x.pa) x.data.length).cline h l = j.cline h l :=
    Chip.cline_congr hh hj2 l
  refine ⟨?_, ⟨l2, i, d, ?_⟩, ?_, fun l hl => ?_⟩
  · rw [← hj] at hf ⊢
    exact (((Chip.onlyHart_updHart k _).trans (Chip.onlyHart_updLine _ hh _ _)).trans hf).trans (Chip.onlyHart_noteWrite _ _ _)
  · show (j.fillL1d h (lineOf (paLocal x.pa)) true).hart h = _
    rw [hsame, hupd, hx]
  · rw [hline, hself, Chip.cline_congr hh hl2]
  · rw [hline, hne l hl, Chip.cline_congr hh hl2]

theorem Chip.hartLineStore_held (hh : h < 64) {pa : Nat} {bs : Bytes} (ha : (k.hart h).accs = []) (hs : (k.hart h).stores = [])
    (ho : k.hartOrdered pa = true) (hb : paLocal pa % 128 + bs.length ≤ 128)
    (hw : (k.cline h (lineOf (paLocal pa))).st.writable = true) :
    Chip.OnlyHart h k (k.hartLineStore h pa bs) ∧
    (∃ n l2 i d, (k.hartLineStore h pa bs).hart h =
      { k.hart h with stores := [], nextId := n, l2 := l2, l1i := i, l1d := d }) ∧
    (k.hartLineStore h pa bs).cline h (lineOf (paLocal pa)) = (k.cline h (lineOf (paLocal pa))).stored (paLocal pa % 128) bs ∧
    (∀ l, l ≠ lineOf (paLocal pa) → (k.hartLineStore h pa bs).cline h l = k.cline h l) := by
  obtain ⟨hp, hx⟩ := Chip.pushHartStore_idle hs pa bs false
  have hl2 : ((k.pushHartStore h pa bs false).hart h).l2 = (k.hart h).l2 := by rw [hx]
  have haccs : ((k.pushHartStore h pa bs false).hart h).accs = [] := by rw [hx]; exact ha
  have hstores : ((k.pushHartStore h pa bs false).hart h).stores =
      [({ id := (k.hart h).nextId, pa := pa, data := bs, sent := false } : HartStore)] := by rw [hx]
  obtain ⟨hot, ⟨l2, i, d, ht⟩, hself, hne⟩ := Chip.tryHartStore_held hh haccs hstores
    (by rw [Chip.cline_congr hh hl2]; exact hw)
  have he : k.hartLineStore h pa bs = Chip.tryHartStore (k.pushHartStore h pa bs false) h
      { id := (k.hart h).nextId, pa := pa, data := bs, sent := false } := by
    unfold Chip.hartLineStore
    rw [splitLine_one hb]
    dsimp only [List.foldl_cons, List.foldl_nil]
    rw [hw, if_neg (by simp)]
    exact Chip.drainHart_store haccs hstores ho (by rw [ht]; exact ⟨haccs, rfl⟩) _
  rw [he]
  refine ⟨hp.trans hot, ⟨(k.hart h).nextId + 1, l2, i, d, ?_⟩, ?_, fun l hl => ?_⟩
  · rw [ht, hx]
  · rw [hself, Chip.cline_congr hh hl2]
  · rw [hne l hl, Chip.cline_congr hh hl2]

end Stores

/-! ## Atomics -/

section Atomics

variable {h : Nat} {k : Chip} {a : HartAcc} {op : HartAmoOp} {v : U64}

/-- The result of an atomic in the line of the L2. -/
def Chip.amoPut (k : Chip) (h : Nat) (a : HartAcc) (op : HartAmoOp) (v : U64) : Chip :=
  (k.updLine h (lineOf (paLocal a.pa)) (·.stored (paLocal a.pa % 128)
    (toBytes a.bytes (hartAmoResult op a.bytes (ofBytes (k.l2Bytes h (paLocal a.pa) a.bytes)) v.toNat)))).noteWrite
      (paLocal a.pa) a.bytes

theorem Chip.amoPut_spec (hh : h < 64) : Chip.OnlyHart h k (k.amoPut h a op v) ∧
    (∃ l2, (k.amoPut h a op v).hart h = { k.hart h with l2 := l2 }) ∧
    (k.amoPut h a op v).cline h (lineOf (paLocal a.pa)) = (k.cline h (lineOf (paLocal a.pa))).stored (paLocal a.pa % 128)
      (toBytes a.bytes (hartAmoResult op a.bytes (ofBytes (k.l2Bytes h (paLocal a.pa) a.bytes)) v.toNat)) ∧
    (∀ l, l ≠ lineOf (paLocal a.pa) → (k.amoPut h a op v).cline h l = k.cline h l) := by
  obtain ⟨hself, hne, hx⟩ := Chip.updLine_modified (k := k) hh (lineOf (paLocal a.pa)) (f := (·.stored (paLocal a.pa % 128)
    (toBytes a.bytes (hartAmoResult op a.bytes (ofBytes (k.l2Bytes h (paLocal a.pa) a.bytes)) v.toNat)))) rfl
  exact ⟨(Chip.onlyHart_updLine k hh _ _).trans (Chip.onlyHart_noteWrite _ _ _), hx, hself, hne⟩

/-- What an atomic leaves of its hart: the value in its register and the reservation. -/
def Chip.AmoDone (h : Nat) (a : HartAcc) (val : U64) (resv : Option (Nat × Nat)) (k t : Chip) : Prop :=
  ∃ l2, t.hart h = { (k.hart h).cleared.setReg a.rd val with resv := resv, l2 := l2 }

/-- An atomic that finds its value ends, with a reservation that its operation sets. -/
theorem Chip.finishAmo {j : Chip} {bs : Bytes} {l2 : SMap CLine} (hj : j.hart h = { k.hart h with l2 := l2 })
    (hkj : Chip.OnlyHart h k j) (ha : (k.hart h).accs = [a]) (hk : a.kind = .amo op v) :
    Chip.OnlyHart h k (j.finishHart h a bs false) ∧
    Chip.AmoDone h a (if a.bytes = 4 then sext32 (ofBytes bs) else BitVec.ofNat 64 (ofBytes bs)) (k.hart h).resv k
      (j.finishHart h a bs false) ∧ ((j.finishHart h a bs false).hart h).l2 = (j.hart h).l2 := by
  obtain ⟨ho, hx⟩ := Chip.finishHart_amo (k := j) (bs := bs) (by rw [hj]; exact ha) hk
  refine ⟨hkj.trans ho, ⟨l2, ?_⟩, ?_⟩
  · rw [hx, hj, Hart.setReg_eq, Hart.setReg_eq]
    rfl
  · rw [hx, Hart.setReg_eq]
    rfl

theorem Chip.setResv_done {t : Chip} {val : U64} {r resv : Option (Nat × Nat)} (hd : Chip.AmoDone h a val r k t) :
    Chip.AmoDone h a val resv k (t.updHart h (fun x => { x with resv := resv })) := by
  obtain ⟨l2, hx⟩ := hd
  exact ⟨l2, (Chip.hart_upd_self t h _).trans (by rw [hx])⟩

/-- What an atomic writes to its register (R437). -/
def Chip.amoValue (k : Chip) (h : Nat) (a : HartAcc) (op : HartAmoOp) : U64 :=
  if op = .sc then (if (k.hart h).resv = some (a.pa, a.bytes) then 0 else 1)
  else if a.bytes = 4 then sext32 (ofBytes (k.l2Bytes h (paLocal a.pa) a.bytes))
  else BitVec.ofNat 64 (ofBytes (k.l2Bytes h (paLocal a.pa) a.bytes))

/-- Whether an atomic leaves its line as it is: an LR, and an SC without its reservation. -/
def Chip.amoReads (k : Chip) (h : Nat) (a : HartAcc) (op : HartAmoOp) : Prop :=
  op = .lr ∨ op = .sc ∧ (k.hart h).resv ≠ some (a.pa, a.bytes)

/-- The value of an SC, for both sizes of an atomic. -/
theorem scValue {n : Nat} (hn : n = 4 ∨ n = 8) {x : Nat} (hx : x < 2) :
    (if n = 4 then sext32 (ofBytes (toBytes n x)) else BitVec.ofNat 64 (ofBytes (toBytes n x))) = BitVec.ofNat 64 x := by
  obtain rfl | rfl : x = 0 ∨ x = 1 := by omega
  · rcases hn with rfl | rfl <;> decide
  · rcases hn with rfl | rfl <;> decide

theorem Chip.amoInL2_spec (hh : h < 64) (ha : (k.hart h).accs = [a]) (hk : a.kind = .amo op v) (hn : a.bytes = 4 ∨ a.bytes = 8)
    (hp : (k.cline h (lineOf (paLocal a.pa))).poison = false) :
    Chip.OnlyHart h k (k.amoInL2 h a op v) ∧
    Chip.AmoDone h a (k.amoValue h a op) (if op = .lr then some (a.pa, a.bytes) else if op = .sc then none else (k.hart h).resv) k
      (k.amoInL2 h a op v) ∧
    (k.amoReads h a op → ∀ l, (k.amoInL2 h a op v).cline h l = k.cline h l) ∧
    (¬k.amoReads h a op → ∀ l, (k.amoInL2 h a op v).cline h l = (k.amoPut h a op v).cline h l) := by
  obtain ⟨hput, ⟨l2, hpx⟩, -, -⟩ := Chip.amoPut_spec (k := k) (h := h) (a := a) (op := op) (v := v) hh
  have hstay : k.hart h = { k.hart h with l2 := (k.hart h).l2 } := rfl
  by_cases hlr : op = .lr
  · subst hlr
    have he : k.amoInL2 h a .lr v = (k.finishHart h a (k.l2Bytes h (paLocal a.pa) a.bytes) false).updHart h (fun x =>
        { x with resv := some (a.pa, a.bytes) }) := if_neg (ne_true_of_eq_false hp)
    obtain ⟨ho, hd, hl⟩ := Chip.finishAmo (bs := k.l2Bytes h (paLocal a.pa) a.bytes) hstay .refl ha hk
    rw [he]
    refine ⟨ho.trans (Chip.onlyHart_updHart _ _), Chip.setResv_done hd, fun _ l => Chip.cline_congr hh ?_ l,
      fun hn => absurd (Or.inl rfl) hn⟩
    rw [Chip.hart_upd_self]
    exact hl
  · by_cases hsc : op = .sc
    · subst hsc
      have he : k.amoInL2 h a .sc v = (if (k.hart h).resv = some (a.pa, a.bytes) then
          (k.amoPut h a .sc v).finishHart h a (toBytes a.bytes 0) false
        else k.finishHart h a (toBytes a.bytes 1) false).updHart h (fun x => { x with resv := none }) :=
        if_neg (ne_true_of_eq_false hp)
      rw [he]
      by_cases hr : (k.hart h).resv = some (a.pa, a.bytes)
      · obtain ⟨ho, hd, hl⟩ := Chip.finishAmo (bs := toBytes a.bytes 0) hpx hput ha hk
        rw [scValue hn (by omega)] at hd
        have hv : k.amoValue h a .sc = BitVec.ofNat 64 0 := (if_pos rfl).trans (if_pos hr)
        rw [if_pos hr, hv]
        refine ⟨ho.trans (Chip.onlyHart_updHart _ _), Chip.setResv_done hd, fun h => ?_, fun _ l => Chip.cline_congr hh ?_ l⟩
        · rcases h with h | ⟨-, h⟩
          · cases h
          · exact absurd hr h
        · rw [Chip.hart_upd_self]
          exact hl
      · obtain ⟨ho, hd, hl⟩ := Chip.finishAmo (bs := toBytes a.bytes 1) hstay .refl ha hk
        rw [scValue hn (by omega)] at hd
        have hv : k.amoValue h a .sc = BitVec.ofNat 64 1 := (if_pos rfl).trans (if_neg hr)
        rw [if_neg hr, hv]
        refine ⟨ho.trans (Chip.onlyHart_updHart _ _), Chip.setResv_done hd, fun _ l => Chip.cline_congr hh ?_ l,
          fun h => absurd (Or.inr ⟨rfl, hr⟩) h⟩
        rw [Chip.hart_upd_self]
        exact hl
    · have he : k.amoInL2 h a op v = (k.amoPut h a op v).finishHart h a (k.l2Bytes h (paLocal a.pa) a.bytes) false := by
        unfold Chip.amoInL2
        dsimp only
        rw [if_neg (ne_true_of_eq_false hp)]
        cases op with
        | lr => exact absurd rfl hlr
        | sc => exact absurd rfl hsc
        | _ => rfl
      obtain ⟨ho, hd, hl⟩ := Chip.finishAmo (bs := k.l2Bytes h (paLocal a.pa) a.bytes) hpx hput ha hk
      have hv : k.amoValue h a op = _ := if_neg hsc
      rw [he, if_neg hlr, if_neg hsc, hv]
      refine ⟨ho, hd, fun h => ?_, fun _ l => Chip.cline_congr hh hl l⟩
      rcases h with h | ⟨h, -⟩
      · exact absurd h hlr
      · exact absurd h hsc

end Atomics

end Sys2Proof.Machine
end

section
/-! PROOFS. Every access of a quiet hart to a line that it holds (O48). -/

namespace Sys2Proof.Machine

section Amo

variable {h : Nat} {k : Chip} {m : HartAmoF}

/-- The size of an atomic. -/
def hartAmoBytes (m : HartAmoF) : Nat := if m.dword then 8 else 4

/-- A quiet hart's atomic on its line: it ends in its own step. -/
theorem Chip.hartLineAmo_held (hh : h < 64) (ha : (k.hart h).accs = []) (hs : (k.hart h).stores = [])
    (hl : linesOf (paLocal m.pa) (hartAmoBytes m) = [lineOf (paLocal m.pa)])
    (hst : if m.op = .lr then (k.cline h (lineOf (paLocal m.pa))).st.readable = true
      else (k.cline h (lineOf (paLocal m.pa))).st.writable = true)
    (hp : (k.cline h (lineOf (paLocal m.pa))).poison = false) :
    Chip.OnlyHart h k (k.hartLineAmo h m) ∧
    (∃ l2, (k.hartLineAmo h m).hart h = { (k.hart h).served.setReg m.rd (k.amoValue h (k.hartAmoAcc h m .line) m.op) with
      resv := if m.op = .lr then some (m.pa, (hartAmoBytes m)) else if m.op = .sc then none else (k.hart h).resv, l2 := l2 }) ∧
    (k.amoReads h (k.hartAmoAcc h m .line) m.op → ∀ l, (k.hartLineAmo h m).cline h l = k.cline h l) ∧
    (¬k.amoReads h (k.hartAmoAcc h m .line) m.op →
      (k.hartLineAmo h m).cline h (lineOf (paLocal m.pa)) = (k.cline h (lineOf (paLocal m.pa))).stored (paLocal m.pa % 128)
        (toBytes (hartAmoBytes m) (hartAmoResult m.op (hartAmoBytes m) (ofBytes (k.l2Bytes h (paLocal m.pa) (hartAmoBytes m))) ((k.hart h).reg m.rs).toNat)) ∧
      ∀ l, l ≠ lineOf (paLocal m.pa) → (k.hartLineAmo h m).cline h l = k.cline h l) := by
  obtain ⟨hpush, hx⟩ := Chip.pushAcc_idle ha (k.hartAmoAcc h m .line)
  have he : k.hartLineAmo h m = (k.pushAcc h (k.hartAmoAcc h m .line)).drainHartAll h := by
    unfold Chip.hartLineAmo
    dsimp only
    refine if_neg ?_
    rw [show (if m.op = .lr then (k.cline h (lineOf (paLocal m.pa))).st.readable
      else (k.cline h (lineOf (paLocal m.pa))).st.writable) = true by split at hst <;> simp_all]
    simp
  rw [he]
  have hb : (k.hartAmoAcc h m .line).bytes = (hartAmoBytes m) := rfl
  have hpa : (k.hartAmoAcc h m .line).pa = m.pa := rfl
  have hk : (k.hartAmoAcc h m .line).kind = .amo m.op ((k.hart h).reg m.rs) := rfl
  have ht : (k.hartAmoAcc h m .line).target = .line := rfl
  have hrd : (k.hartAmoAcc h m .line).rd = m.rd := rfl
  generalize k.hartAmoAcc h m .line = b at *
  have hl2 : ((k.pushAcc h b).hart h).l2 = (k.hart h).l2 := by rw [hx]
  have hresv : ((k.pushAcc h b).hart h).resv = (k.hart h).resv := by rw [hx]
  have haccs : ((k.pushAcc h b).hart h).accs = [b] := by rw [hx]
  have hstores : ((k.pushAcc h b).hart h).stores = [] := by rw [hx]; exact hs
  have hclear : ((k.pushAcc h b).hart h).cleared = (k.hart h).served := by rw [hx]; rfl
  have hval : (k.pushAcc h b).amoValue h b m.op = k.amoValue h b m.op := by
    unfold Chip.amoValue
    rw [hresv, Chip.l2Bytes_congr hh hl2]
  have hreads : (k.pushAcc h b).amoReads h b m.op ↔ k.amoReads h b m.op := by
    unfold Chip.amoReads
    rw [hresv]
  have hsize : b.bytes = 4 ∨ b.bytes = 8 := by
    rw [hb]
    unfold hartAmoBytes
    split <;> simp
  obtain ⟨hot, ⟨l2, hdone⟩, hread, hput⟩ := Chip.amoInL2_spec hh haccs hk hsize
    (by rw [hpa, Chip.cline_congr hh hl2]; exact hp)
  obtain ⟨-, -, hself, hne⟩ := Chip.amoPut_spec (k := k.pushAcc h b) (h := h) (a := b) (op := m.op) (v := (k.hart h).reg m.rs) hh
  have htry : (k.pushAcc h b).tryHart h b = (k.pushAcc h b).amoInL2 h b m.op ((k.hart h).reg m.rs) := by
    unfold Chip.tryHart
    dsimp only
    rw [hk]
    dsimp only
    rw [hstores, if_neg (by simp), hpa, hb, hl]
    refine if_pos ?_
    simp only [List.all_cons, List.all_nil, Bool.and_true, Chip.cline_congr hh hl2]
    split at hst <;> simp_all
  have hidle : (((k.pushAcc h b).tryHart h b).hart h).idle := by
    rw [htry, hdone, hclear, Hart.setReg_eq]
    exact ⟨rfl, hs⟩
  have hdrain : (k.pushAcc h b).drainHartAll h = (k.pushAcc h b).amoInL2 h b m.op ((k.hart h).reg m.rs) :=
    (Chip.drainHart_access haccs ht hidle _).trans htry
  rw [hdrain]
  refine ⟨hpush.trans hot, ⟨l2, ?_⟩, fun hr l => ?_, fun hr => ⟨?_, fun l hn => ?_⟩⟩
  · rw [hdone, hclear, hval, hrd, hresv, hpa, hb]
  · rw [hread (hreads.2 hr) l, Chip.cline_congr hh hl2]
  · rw [hput (mt hreads.1 hr), ← hpa, hself, hb, Chip.cline_congr hh hl2, Chip.l2Bytes_congr hh hl2]
  · rw [← hpa] at hn
    rw [hput (mt hreads.1 hr), hne l hn, Chip.cline_congr hh hl2]

end Amo

/-! ## The obligation -/

section Quiet

variable {s : State} {h : Nat} (hq : (s.chip.hart h).quiet = true)

include hq

theorem execHartLoad_quiet {a : HartLd} (ht : s.chip.hartSpot a.pa (2 ^ a.size.toNat) a.page a.fetch false false = .line) :
    exec (.hartLoad h a) s = s.goes (s.chip.hartLineLoad h a) := by
  have hr := Chip.readyHart_quiet hq
  have h1 := (execHartLoad_goes (s := s) (h := h) (a := a) (t := .line) (by rw [hr]; exact Chip.hartWaits_quiet hq _ _ _ _ _)
    (by rw [hr]; exact ht)).1 rfl
  rwa [hr] at h1

theorem execHartStore_quiet {b : HartSt} (ht : s.chip.hartSpot b.pa (2 ^ b.size.toNat) b.page false false false = .line) :
    exec (.hartStore h b) s = s.goes (s.chip.hartLineStore h b.pa
      (toBytes (2 ^ b.size.toNat) ((s.chip.hart h).reg b.rs).toNat)) := by
  have hr := Chip.readyHart_quiet hq
  have h1 := execHartStore_goes (s := s) (h := h) (b := b) (by rw [hr]; exact Chip.hartWaits_quiet hq _ _ _ _ _)
  rw [hr] at h1
  rw [h1]
  exact (State.hartStore_goes (s := { s with chip := s.chip }) (h := h) (t := .line) (by rw [toBytes_length]; exact ht)).1 rfl

theorem execHartAmo_quiet {m : HartAmoF} (ht : s.chip.hartSpot m.pa (if m.dword then 8 else 4) m.page false true
    (m.op = .lr || m.op = .sc) = .line) : exec (.hartAmo h m) s = s.goes (s.chip.hartLineAmo h m) := by
  have hr := Chip.readyHart_quiet hq
  have h1 := (execHartAmo_goes (s := s) (h := h) (m := m) (t := .line) (by rw [hr]; exact Chip.hartWaits_quiet hq _ _ _ _ _)
    (by rw [hr]; exact ht)).1 rfl
  rwa [hr] at h1

end Quiet

/-- The value that an atomic of a hart writes to its register. -/
theorem Chip.amoValue_acc (k : Chip) (h : Nat) (m : HartAmoF) : k.amoValue h (k.hartAmoAcc h m .line) m.op =
    if m.op = .sc then (if (k.hart h).resv = some (m.pa, if m.dword then 8 else 4) then 0 else 1)
    else if m.dword then BitVec.ofNat 64 (ofBytes (k.l2Bytes h (paLocal m.pa) (if m.dword then 8 else 4)))
    else sext32 (ofBytes (k.l2Bytes h (paLocal m.pa) (if m.dword then 8 else 4))) := by
  unfold Chip.amoValue Chip.hartAmoAcc
  dsimp only
  refine if_congr Iff.rfl rfl ?_
  cases hd : m.dword <;> simp

theorem Hart.reg_congr {x y : Hart} (h : x.x = y.x) (r : SReg) : x.reg r = y.reg r := by
  unfold Hart.reg
  rw [h]

/-- The register of a load: written by a load of good bytes. -/
theorem Chip.loaded_rows (k : Chip) (h : Nat) (a : HartLd) : (k.loaded h a).l2 = (k.hart h).l2 ∧
    (k.loaded h a).resv = (k.hart h).resv ∧ (k.loaded h a).mip24 = (k.hart h).mip24 ∧
    (k.l2Poison h (paLocal a.pa) (2 ^ a.size.toNat) = false → (k.loaded h a).trap = (k.hart h).trap ∧
      ∀ r, (k.loaded h a).reg r = if r = a.rd ∧ a.rd ≠ 0 ∧ a.fetch = false then
        extend (2 ^ a.size.toNat) a.signed (k.l2Bytes h (paLocal a.pa) (2 ^ a.size.toNat)) else (k.hart h).reg r) ∧
    (k.l2Poison h (paLocal a.pa) (2 ^ a.size.toNat) = true →
      (k.loaded h a).trap = some { cause := ldCause a, tval := a.va } ∧ ∀ r, (k.loaded h a).reg r = (k.hart h).reg r) := by
  unfold Chip.loaded
  cases k.l2Poison h (paLocal a.pa) (2 ^ a.size.toNat) with
  | true =>
    rw [if_pos rfl]
    exact ⟨rfl, rfl, rfl, fun h => (by cases h), fun _ => ⟨rfl, fun r => rfl⟩⟩
  | false =>
    rw [if_neg Bool.false_ne_true]
    cases hf : a.fetch with
    | true =>
      rw [if_pos rfl]
      refine ⟨rfl, rfl, rfl, fun _ => ⟨rfl, fun r => ?_⟩, fun h => (by cases h)⟩
      rw [if_neg (by simp)]
      rfl
    | false =>
      rw [if_neg Bool.false_ne_true]
      refine ⟨by rw [Hart.setReg_eq]; rfl, by rw [Hart.setReg_eq]; rfl, by rw [Hart.setReg_eq]; rfl,
        fun _ => ⟨by rw [Hart.setReg_eq]; rfl, fun r => ?_⟩, fun h => (by cases h)⟩
      rw [Hart.reg_setReg]
      simp only [and_true]
      rfl

/-- Settles O48. -/
theorem hartCacheAccess : Obligations.HartCacheAccess := by
  unfold Obligations.HartCacheAccess
  intro s h a b m x frame hh hq
  obtain ⟨-, -, ha, hs, -⟩ := Hart.quiet_iff.1 hq
  refine ⟨?_, ?_, ?_⟩
  · intro n la ht hr
    obtain ⟨⟨f1, f2, f3, f4, f5⟩, i, d, hx⟩ := Chip.hartLineLoad_held (a := a) hh ha hs hr
    obtain ⟨h1, h2, h3, hgood, hbad⟩ := s.chip.loaded_rows h a
    have hreg (r : SReg) : ((s.chip.hartLineLoad h a).hart h).reg r = (s.chip.loaded h a).reg r := Hart.reg_congr (by rw [hx]) r
    have htrap : ((s.chip.hartLineLoad h a).hart h).trap = (s.chip.loaded h a).trap := by rw [hx]
    refine ⟨_, execHartLoad_quiet hq ht, ⟨f1, f2, f3, f4, f5, ?_⟩, ?_, ?_, fun hp => ?_, fun hp => ?_⟩
    · exact (congrArg Hart.mip24 hx).trans h3
    · exact (congrArg Hart.l2 hx).trans h1
    · exact (congrArg Hart.resv hx).trans h2
    · exact ⟨htrap.trans (hgood hp).1, fun r => (hreg r).trans ((hgood hp).2 r)⟩
    · exact ⟨htrap.trans (hbad hp).1, fun r => (hreg r).trans ((hbad hp).2 r)⟩
  · intro n la ht hb hw
    obtain ⟨⟨f1, f2, f3, f4, f5⟩, ⟨i, l2, l1i, l1d, hx⟩, hself, hne⟩ := Chip.hartLineStore_held hh
      (bs := toBytes (2 ^ b.size.toNat) ((s.chip.hart h).reg b.rs).toNat) ha hs (Chip.hartSpot_line ht) (by rw [toBytes_length]; exact hb) hw
    have hexec := execHartStore_quiet hq ht
    generalize s.chip.hartLineStore h b.pa (toBytes (2 ^ b.size.toNat) ((s.chip.hart h).reg b.rs).toNat) = t at *
    refine ⟨_, hexec, ⟨f1, f2, f3, f4, f5, ?_⟩, ?_, fun r => ?_, ?_, ?_, ?_⟩
    · exact (congrArg Hart.mip24 hx :)
    · exact (congrArg Hart.trap hx :)
    · exact Hart.reg_congr (congrArg Hart.x hx :) r
    · exact (congrArg Hart.resv hx :)
    · exact hself
    · exact hne
  · intro n la old has ht hl st hp
    obtain ⟨⟨f1, f2, f3, f4, f5⟩, ⟨l2, hx⟩, hread, hput⟩ := Chip.hartLineAmo_held (m := m) hh ha hs hl st hp
    have hserved := Hart.setReg_eq (s.chip.hart h).served m.rd (s.chip.amoValue h (s.chip.hartAmoAcc h m .line) m.op)
    refine ⟨_, execHartAmo_quiet hq ht, ⟨f1, f2, f3, f4, f5, ?_⟩, ?_, fun r => ?_, ?_, ?_, fun l hn => ?_⟩
    · exact (congrArg Hart.mip24 hx).trans (congrArg Hart.mip24 hserved :)
    · exact (congrArg Hart.trap hx).trans (congrArg Hart.trap hserved :)
    · refine (Hart.reg_congr (congrArg Hart.x hx :) r).trans ((Hart.reg_setReg _ _ _ _).trans ?_)
      exact if_congr Iff.rfl (s.chip.amoValue_acc h m) rfl
    · exact (congrArg Hart.resv hx :)
    · by_cases hr : s.chip.amoReads h (s.chip.hartAmoAcc h m .line) m.op
      · exact (hread hr _).trans (if_pos hr).symm
      · exact (hput hr).1.trans (if_neg hr).symm
    · by_cases hr : s.chip.amoReads h (s.chip.hartAmoAcc h m .line) m.op
      · exact hread hr l
      · exact (hput hr).2 l hn

end Sys2Proof.Machine
end

section
/-! PROOFS. Requests of devices, PCIe completions and RDMA (O49). -/

namespace Sys2Proof.Machine

/-! ## Requests of devices (R448, R449) -/

section Requests

variable {k : Chip} {dev : Nat} {pasid : BitVec 20} {addr : U64} {bs : Bytes} {ep : Bool} {req : Option (BitVec 16)}

theorem Chip.devWrite_refused (h : Config.iommu dev pasid addr true = none) :
    k.devWrite dev pasid addr bs ep req = (k.report 1 (devErr req addr none) 1, true) := by
  unfold Chip.devWrite
  rw [h]

theorem Chip.devWrite_at {pa : Nat} {t : DevSpot} (h : Config.iommu dev pasid addr true = some pa)
    (ht : k.devSpot pa bs.length = t) :
    (t = .memory → (k.devWrite dev pasid addr bs ep req).1 = k.cohWrite (paLocal pa) bs ep) ∧
    (t = .msi → (k.devWrite dev pasid addr bs ep req).1 = { k with io := { k.io with
      msis := k.io.msis ++ [(paLocal pa, BitVec.ofNat 64 (ofBytes bs))] } }) ∧
    (t = .unreachable ∨ t = .refused →
      (k.devWrite dev pasid addr bs ep req).1 = k.report 1 (devErr req addr (some pa)) 1) := by
  unfold Chip.devWrite
  rw [h]
  dsimp only
  rw [ht]
  refine ⟨?_, ?_, ?_⟩
  · rintro rfl; rfl
  · rintro rfl; rfl
  · rintro (rfl | rfl) <;> rfl

theorem Chip.devRead_refused {n : Nat} (h : Config.iommu dev pasid addr false = none) :
    k.devRead dev pasid addr n req = (k.report 1 (devErr req addr none) 1, (cplUr, ([], false))) := by
  unfold Chip.devRead
  rw [h]

theorem Chip.devRead_at {pa n : Nat} {t : DevSpot} (h : Config.iommu dev pasid addr false = some pa) (ht : k.devSpot pa n = t) :
    (t = .memory → ∀ j bs p, k.cohRead (paLocal pa) n = (j, (bs, p)) → k.devRead dev pasid addr n req =
      (if p then j.report 1 { devErr req addr (some pa) with cls := 3 } 1 else j, (cplOk, (bs, p)))) ∧
    (t = .unreachable →
      k.devRead dev pasid addr n req = (k.report 1 (devErr req addr (some pa)) 1, (cplAbort, ([], false)))) ∧
    (t = .msi ∨ t = .refused →
      k.devRead dev pasid addr n req = (k.report 1 (devErr req addr (some pa)) 1, (cplUr, ([], false)))) := by
  unfold Chip.devRead
  rw [h]
  dsimp only
  rw [ht]
  refine ⟨?_, ?_, ?_⟩
  · rintro rfl j bs p hr
    dsimp only
    rw [hr]
  · rintro rfl; rfl
  · rintro (rfl | rfl) <;> rfl

end Requests

/-! ## PCIe (R447, R449) -/

section Pcie

variable {s : State} {f : PcieReq}

/-- A completion of a read of a PCIe function. -/
def Chip.completed (k : Chip) (f : PcieReq) (st : Nat) (bs : Bytes) : Chip :=
  { k with io := { k.io with completions := k.io.completions ++ [(f.requester, (st, bs))] } }

theorem execPcieRead_answers {len st : Nat} {j : Chip} {bs : Bytes} {p : Bool}
    (h : s.chip.devRead (pcieDev f) f.pasid f.addr len (some f.requester) = (j, (st, (bs, p)))) :
    exec (.pcieRead f len) s = s.goes (j.completed f (st + 256 * boolNat p) bs) := by
  refine Eq.trans (b := execPcieRead f len s) rfl ?_
  unfold execPcieRead State.onChip
  dsimp only
  rw [h]
  rfl

variable {h : Nat} {a : HartAcc}

theorem execPcieCompletion_rows (ha : (s.chip.hart h).pcieAcc = some a) (v : U64) :
    exec (.pcieCompletionTimeout h) s = s.goes (s.chip.pcieFailed h a) ∧
    exec (.pcieCompletion h v false) s = s.goes (s.chip.pcieFailed h a) ∧
    exec (.pcieCompletion h v true) s = s.goes (s.chip.finishHart h a (toBytes a.bytes v.toNat) false) := by
  have e1 : exec (.pcieCompletionTimeout h) s = execPcieCompletionTimeout h s := rfl
  have e2 (ok : Bool) : exec (.pcieCompletion h v ok) s = execPcieCompletion h v ok s := rfl
  rw [e1, e2, e2]
  unfold execPcieCompletionTimeout execPcieCompletion State.onChip
  dsimp only
  rw [ha]
  exact ⟨rfl, rfl, rfl⟩

theorem Chip.pcieFailed_hart (k : Chip) : (k.pcieFailed h a).hart h =
    { (k.hart h).squash a.id with trap := some { cause := causeLoad, tval := a.va } } := by
  show (((k.updHart h (·.squash a.id)).hartTrap h causeLoad a.va).hart h) = _
  unfold Chip.hartTrap
  rw [Chip.hart_upd_self, Chip.hart_upd_self]

theorem Chip.accs_setReg (j : Chip) (p : Prop) [Decidable p] (rd : SReg) (v : U64) :
    ((if p then j else j.updHart h (·.setReg rd v)).hart h).accs = (j.hart h).accs := by
  split
  · rfl
  · rw [Chip.hart_upd_self, Hart.setReg_eq]

/-- An access that ends with its data leaves those that wait beside it. -/
theorem Chip.finishHart_accs (k : Chip) (bs : Bytes) :
    ((k.finishHart h a bs false).hart h).accs = (k.hart h).accs.filter (·.id ≠ a.id) := by
  have hcl : (k.updHart h (fun x => { x with accs := x.accs.filter (·.id ≠ a.id) })).hart h =
      { k.hart h with accs := (k.hart h).accs.filter (·.id ≠ a.id) } := Chip.hart_upd_self k h _
  unfold Chip.finishHart
  dsimp only
  rw [if_neg Bool.false_ne_true]
  exact (Chip.accs_setReg _ _ _ _).trans (congrArg Hart.accs hcl :)

/-- A pin of INTx holds the level of its change, and drives its source of the APLIC (R445). -/
theorem Chip.aplicLevel_intx (k : Chip) {n : Nat} (hn : n < 8) : k.aplicLevel (32 + n) = tblGet false k.io.intx n := by
  unfold Chip.aplicLevel
  rw [if_neg (by omega), if_neg (by omega), if_neg (by simp; omega), if_neg (by simp; omega), if_pos (by simp; omega),
    Nat.add_sub_cancel_left]

end Pcie

/-! ## RDMA (R267, R331, R452) -/

section Rdma

variable {s : State} {r : RdmaReq}

theorem Chip.rdmaOpen_iff {k : Chip} : k.rdmaOpen r = true ↔ (k.ethPort r.port).up = true ∧ r.frame.bytes ≤ 9600 ∧
    2 ≤ k.qpState r.port r.qpn.toNat ∧ k.qpState r.port r.qpn.toNat ≤ 4 := by
  unfold Chip.rdmaOpen frameAccepted
  simp only [Bool.and_eq_true, decide_eq_true_eq, and_assoc]

theorem execRdmaWriteReceive_open {data : Bytes} (ho : s.chip.rdmaOpen r = true) {j : Chip} {bad : Bool}
    (hj : s.chip.rdmaWritePages r data (cuts 4096 (data.length + 1) r.addr.toNat data.length) = (j, bad)) :
    exec (.rdmaWriteReceive r data) s = s.goes (if bad then j.rdmaRefuse r else j.rdmaAnswer r (some [])) := by
  refine Eq.trans (b := execRdmaWriteReceive r data s) rfl ?_
  unfold execRdmaWriteReceive State.onChip
  dsimp only
  rw [if_neg (by simp [ho]), hj]
  rfl

theorem execRdmaReadReceive_open {len : Nat} (ho : s.chip.rdmaOpen r = true) {j : Chip} {x : Option Bytes}
    (hj : s.chip.rdmaReadPages r (cuts 4096 (len + 1) r.addr.toNat len) = (j, x)) :
    (∀ bs, x = some bs → exec (.rdmaReadReceive r len) s = s.goes (j.rdmaAnswer r (some bs))) ∧
    (x = none → exec (.rdmaReadReceive r len) s = s.goes (j.rdmaRefuse r)) := by
  have e : exec (.rdmaReadReceive r len) s = execRdmaReadReceive r len s := rfl
  rw [e]
  unfold execRdmaReadReceive State.onChip
  dsimp only
  rw [if_neg (by simp [ho]), hj]
  refine ⟨fun bs => ?_, ?_⟩ <;> rintro rfl <;> rfl

theorem execRdma_ends {id : Nat} {w : RdmaOut} (hw : s.chip.io.rdma.find? (fun w => w.id = id) = some w) :
    exec (.rdmaAckReceive id) s = s.goes (s.chip.rdmaEnd w (s.chip.rdmaStatus w stOk)) ∧
    exec (.rdmaWriteTimeout id) s = s.goes (s.chip.rdmaEnd w (s.chip.rdmaStatus w stTimeout)) := by
  have e1 : exec (.rdmaAckReceive id) s = execRdmaAckReceive id s := rfl
  have e2 : exec (.rdmaWriteTimeout id) s = execRdmaWriteTimeout id s := rfl
  rw [e1, e2]
  unfold execRdmaAckReceive execRdmaWriteTimeout State.onChip
  dsimp only
  rw [hw]
  exact ⟨rfl, rfl⟩

theorem execEthLinkChange_rows {e : Nat} {up : Bool} (h : (s.chip.ethPort e).up ≠ up) :
    let k0 := s.chip.updEth e (fun p => { p with up := up })
    let k1 : Chip := { k0 with io := { k0.io with edges := s.chip.io.edges ++ [12 + e] } }
    exec (.ethLinkChange e up) s = s.goes (if up then k1 else
      (s.chip.io.rdma.filter (fun w => epPort w.endpoint = e)).foldl (fun k w => k.rdmaEnd w stLinkLost) k1) :=
  congrArg s.goes (if_neg h)

end Rdma

/-! ## The obligation -/

/-- Settles O49. -/
theorem deviceRows : Obligations.DeviceRows := by
  unfold Obligations.DeviceRows
  refine ⟨fun s f data ro ep len h v p i level => ?_, fun s r data len id e up => ?_⟩
  · intro k dev err complete
    refine ⟨fun hi => ?_, fun pa hi => ?_, fun hi => ?_, fun pa hi => ⟨fun ht j bs bad hr => ?_, fun ht => ?_, fun ht => ?_⟩,
      fun a ha => ?_, _, rfl, tblGet_put_self false s.chip.io.intx (4 * p + i) level, fun hp hi => ?_,
      fun n hn => tblGet_put_ne false s.chip.io.intx level hn⟩
    · exact congrArg (fun x : Chip × Bool => s.goes x.1) (Chip.devWrite_refused (k := s.chip) hi)
    · cases ht : k.devSpot pa data.length with
      | memory => exact congrArg s.goes ((Chip.devWrite_at hi ht).1 rfl)
      | msi => exact congrArg s.goes ((Chip.devWrite_at hi ht).2.1 rfl)
      | unreachable => exact congrArg s.goes ((Chip.devWrite_at hi ht).2.2 (Or.inl rfl))
      | refused => exact congrArg s.goes ((Chip.devWrite_at hi ht).2.2 (Or.inr rfl))
    · exact execPcieRead_answers (Chip.devRead_refused (k := s.chip) hi)
    · have h1 := execPcieRead_answers (s := s) (f := f) (len := len) ((Chip.devRead_at (k := s.chip) hi rfl).1 ht j bs bad hr)
      rw [h1]
      cases bad <;> rfl
    · exact execPcieRead_answers ((Chip.devRead_at (k := s.chip) hi rfl).2.1 ht)
    · exact execPcieRead_answers ((Chip.devRead_at (k := s.chip) hi rfl).2.2 ht)
    · obtain ⟨h1, h2, h3⟩ := execPcieCompletion_rows ha v
      have hf := Chip.pcieFailed_hart (h := h) (a := a) s.chip
      refine ⟨h1, h2, h3, (congrArg Hart.trap hf :), fun b hb => ?_, Chip.finishHart_accs _ _⟩
      rw [show ((k.pcieFailed h a).hart h).accs = (k.hart h).accs.filter (fun x => x.id < a.id) from (congrArg Hart.accs hf :)] at hb
      exact of_decide_eq_true (List.mem_filter.1 hb).2
    · rw [Chip.aplicLevel_intx _ (by omega)]
      exact tblGet_put_self false s.chip.io.intx (4 * p + i) level
  · intro k answer pages
    refine ⟨Chip.rdmaOpen_iff, fun ho => ⟨congrArg s.goes (if_pos (congrArg not ho)), congrArg s.goes (if_pos (congrArg not ho))⟩,
      fun ho => ⟨fun j hj => execRdmaWriteReceive_open ho hj, fun j hj => execRdmaWriteReceive_open ho hj,
        fun j bs hj => (execRdmaReadReceive_open ho hj).1 bs rfl, fun j hj => (execRdmaReadReceive_open ho hj).2 rfl⟩,
      fun w hw => ?_, fun h => congrArg s.goes (if_pos h), fun h => ?_⟩
    · obtain ⟨h1, h2⟩ := execRdma_ends hw
      intro inRts
      rw [h1, h2]
      unfold Chip.rdmaStatus
      exact ⟨fun h => by rw [if_pos h, if_pos h]; exact ⟨rfl, rfl⟩, fun h => by rw [if_neg h, if_neg h]; exact ⟨rfl, rfl⟩⟩
    · intro k0 k1
      rw [execEthLinkChange_rows h]
      refine ⟨fun hu => ?_, fun hu => ?_⟩ <;> subst hu <;> rfl

end Sys2Proof.Machine
end

section
/-! PROOFS. Hinges: messages, flits, training and the rows of the hinge commands (O37). -/

namespace Sys2Proof.Machine

/-! ## Sides and bundles -/

@[simp] theorem Links.side_updSide_self (l : Links) (n : Nat) (f : Side → Side) :
    (l.updSide n f).side n = f (l.side n) := tblGet_mod_self _ _ _ _

theorem Links.side_updSide_ne (l : Links) {n m : Nat} (h : m ≠ n) (f : Side → Side) :
    (l.updSide n f).side m = l.side m := tblGet_mod_ne _ _ _ h

@[simp] theorem Side.bundle_updBundle_self (x : Side) (b : Nat) (f : Bundle → Bundle) :
    (x.updBundle b f).bundle b = f (x.bundle b) := tblGet_mod_self _ _ _ _

@[simp] theorem Links.mesh_pumpBundle (l : Links) (n b : Nat) : (l.pumpBundle n b).mesh = l.mesh := rfl

@[simp] theorem Links.mesh_takeAck (l : Links) (n b : Nat) (a : BitVec 8) : (l.takeAck n b a).mesh = l.mesh := rfl

@[simp] theorem Links.mesh_badCrc (l : Links) (n b : Nat) : (l.badCrc n b).mesh = l.mesh := rfl

@[simp] theorem Links.mesh_wantRetrain (l : Links) (n b : Nat) : (l.wantRetrain n b).mesh = l.mesh := by
  unfold Links.wantRetrain
  split <;> rfl

theorem Links.wantRetrain_active {l : Links} {n : Nat} (b : Nat) (h : (l.side n).st = .active) :
    l.wantRetrain n b = (l.updSide n (fun s => { s with wanted := true })).emitPlain n b 4 0 := if_pos h

@[simp] theorem Links.side_fileDisc (l : Links) (n m : Nat) (d : BitVec 512) :
    (l.fileDisc n d).side m = l.side m := by
  unfold Links.fileDisc
  split <;> rfl

@[simp] theorem Links.mesh_fileDisc (l : Links) (n : Nat) (d : BitVec 512) : (l.fileDisc n d).mesh = l.mesh := by
  unfold Links.fileDisc
  split <;> rfl

/-! ## Messages -/

/-- What a hinge does with a message, by its state. -/
theorem Links.send_rows (l : Links) (n : Nat) (m : NetMsg) :
    (l.hingeState (hingeOf n) = .active → l.send n m = l.sendActive n m) ∧
    (l.hingeState (hingeOf n) = .failed → l.send n m = { l with lost := l.lost ++ [m] }) ∧
    (l.hingeState (hingeOf n) ≠ .active → l.hingeState (hingeOf n) ≠ .failed →
      l.send n m = l.updSide n (fun s => { s with held := s.held ++ [m] })) := by
  unfold Links.send
  cases l.hingeState (hingeOf n) <;> simp

/-- Where a message that stands at a die goes, by its route. -/
theorem State.sendFrom_rows (s : State) (d : Nat) (m : NetMsg) :
    (∀ e, s.chip.route d m.dst = .side e → s.sendFrom d m = { s with links := s.links.send e m }) ∧
    (s.chip.route d m.dst = .hold → s.sendFrom d m = { s with links := { s.links with diag := s.links.diag ++ [(d, m)] } }) ∧
    (s.chip.route d m.dst = .lost → s.sendFrom d m = { s with links := { s.links with lost := s.links.lost ++ [m] } }) ∧
    (s.chip.route d m.dst = .here → s.sendFrom d m = s) := by
  unfold State.sendFrom
  refine ⟨fun e h => ?_, fun h => ?_, fun h => ?_, fun h => ?_⟩ <;> simp only [h]

/-! ## Flits -/

/-- The links once the flit in flight is taken from its wire. -/
def Links.taken (l : Links) (n b : Nat) : Links := { l with wire := dropWire n b l.wire }

@[simp] theorem Links.side_taken (l : Links) (n b m : Nat) : (l.taken n b).side m = l.side m := rfl

theorem Links.receive_bad {l : Links} {n b : Nat} {f : Flit} (hg : flitGood f = false) :
    l.receive n b f = (l.taken n b).badCrc n b := if_pos (by simp [hg])

/-- A good flit, by its type and place in the sequence. -/
theorem Links.receive_good {l : Links} {n b : Nat} {f : Flit} (hg : flitGood f = true) :
    let l1 := (l.taken n b).takeAck n b (flitAck f)
    let bu := (l1.side n).bundle b
    (flitType f = 0 → l.receive n b f = l1) ∧
    (flitType f = 1 → flitSeq f = bu.rxSeq + 1 → l.receive n b f = l1.takeMsg n b f) ∧
    (flitType f = 2 → flitSeq f = bu.rxSeq + 1 → l.receive n b f = l1.takeDisc n b f) ∧
    (flitType f = 1 ∨ flitType f = 2 → flitSeq f ≠ bu.rxSeq + 1 → bu.discarding = true → l.receive n b f = l1) ∧
    (flitType f = 1 ∨ flitType f = 2 → flitSeq f ≠ bu.rxSeq + 1 → bu.discarding = false →
      l.receive n b f = l1.wantRetrain n b) ∧
    (flitType f = 4 → l.receive n b f = l1.updSide n (fun s => { s with wanted := true })) ∧
    (flitType f = 5 → l.receive n b f = (l.taken n b).takeReplay n b (flitAck f)) ∧
    (6 ≤ (flitType f).toNat → l.receive n b f = l1.wantRetrain n b) := by
  have e : l.receive n b f =
      if flitType f = 5 then (l.taken n b).takeReplay n b (flitAck f)
      else
        let l1 := (l.taken n b).takeAck n b (flitAck f)
        let bu := (l1.side n).bundle b
        if typeSequenced (flitType f) then
          if flitSeq f = bu.rxSeq + 1 then
            if flitType f = 1 then l1.takeMsg n b f else l1.takeDisc n b f
          else if bu.discarding then l1
          else l1.wantRetrain n b
        else if 6 ≤ (flitType f).toNat then l1.wantRetrain n b
        else if flitType f = 4 then l1.updSide n (fun s => { s with wanted := true })
        else l1 := if_neg (by simp [hg])
  rw [e]
  dsimp only
  generalize (l.taken n b).takeAck n b (flitAck f) = l1
  refine ⟨fun h => ?_, fun h hs => ?_, fun h hs => ?_, fun h hs hd => ?_, fun h hs hd => ?_, fun h => ?_, fun h => ?_,
    fun h => ?_⟩
  · simp [h, typeSequenced]
  · simp [h, hs, typeSequenced]
  · simp [h, hs, typeSequenced]
  · obtain h | h := h <;> simpa [h, hd, typeSequenced] using fun h' => absurd h' hs
  · obtain h | h := h <;> simpa [h, hd, typeSequenced] using fun h' => absurd h' hs
  · simp [h, typeSequenced]
  · simp [h]
  · have h5 : flitType f ≠ 5 := by rintro h5; simp [h5] at h
    have h1 : flitType f ≠ 1 := by rintro h1; simp [h1] at h
    have h2 : flitType f ≠ 2 := by rintro h2; simp [h2] at h
    simp only [typeSequenced, h, h1, h2, h5, decide_false, Bool.or_false, if_false, if_true, Bool.false_eq_true]

/-- An `ACTIVE` side takes a flit of one of the types, and any whose CRC fails. -/
theorem State.flit_taken {s : State} {n : Nat} (b : Nat) {f : Flit} {ts : List Nat} (ha : (s.links.side n).st = .active)
    (h : flitGood f = false ∨ (flitType f).toNat ∈ ts) :
    s.flit n b f ts = { s with links := s.links.receive n b f } := by
  refine if_pos ?_
  obtain h | h := h <;> simp [ha, h]

/-- A `MSG` flit that completes no message leaves the links as it was received. -/
theorem execMsgFlit_plain {s : State} {n b : Nat} {f : Flit} (ha : (s.links.side n).st = .active)
    (h : flitGood f = false ∨ (flitType f).toNat ∈ 1 :: span 6 10)
    (hm : (s.links.receive n b f).mesh.length = s.links.mesh.length) :
    exec (.msgFlit n b f) s = .next { s with links := s.links.receive n b f } := by
  have e : exec (.msgFlit n b f) s = execMsgFlit n b f s := rfl
  rw [e]
  unfold execMsgFlit
  dsimp only
  rw [State.flit_taken b ha h]
  cases s.links.passing n b f with
  | none => rfl
  | some p => exact congrArg Host.Outcome.next (if_pos hm)

/-- A `MSG` flit that completes a message for this die delivers it. -/
theorem execMsgFlit_here {s : State} {n b : Nat} {f : Flit} (ha : (s.links.side n).st = .active)
    (h : flitGood f = false ∨ (flitType f).toNat ∈ 1 :: span 6 10) (hp : s.links.passing n b f = none) :
    exec (.msgFlit n b f) s = .next { s with links := s.links.receive n b f } := by
  have e : exec (.msgFlit n b f) s = execMsgFlit n b f s := rfl
  rw [e]
  unfold execMsgFlit
  dsimp only
  rw [State.flit_taken b ha h, hp]

/-- A `MSG` flit that completes a message bound for another die sends it on. -/
theorem execMsgFlit_on {s : State} {n b : Nat} {f : Flit} {p : NetMsg} (ha : (s.links.side n).st = .active)
    (h : flitGood f = false ∨ (flitType f).toNat ∈ 1 :: span 6 10) (hp : s.links.passing n b f = some p)
    (hm : (s.links.receive n b f).mesh.length ≠ s.links.mesh.length) :
    exec (.msgFlit n b f) s =
      .next ({ s with links := { s.links.receive n b f with mesh := s.links.mesh } }.sendFrom (dieOf n) p) := by
  have e : exec (.msgFlit n b f) s = execMsgFlit n b f s := rfl
  rw [e]
  unfold execMsgFlit
  dsimp only
  rw [State.flit_taken b ha h, hp]
  exact congrArg Host.Outcome.next (if_neg hm)

/-- What a `DISC` flit in sequence leaves. -/
theorem Links.takeDisc_spec (l : Links) (n b : Nat) (f : Flit) :
    ((l.takeDisc n b f).side n).peer = some f.data ∧ (((l.takeDisc n b f).side n).bundle b).rxSeq = flitSeq f ∧
    (l.takeDisc n b f).mesh = l.mesh := by
  let l1 := l.updSide n (fun s => { s.updBundle b (fun bu =>
    { bu with rxSeq := flitSeq f, discarding := false }) with peer := some f.data })
  have hs : (l.takeDisc n b f).side n = l1.side n ∧ (l.takeDisc n b f).mesh = l1.mesh := by
    unfold Links.takeDisc
    dsimp only
    split
    · exact ⟨Links.side_fileDisc _ _ _ _, Links.mesh_fileDisc _ _ _⟩
    · split
      · exact ⟨rfl, rfl⟩
      · split
        · exact ⟨Links.side_fileDisc _ _ _ _, Links.mesh_fileDisc _ _ _⟩
        · exact ⟨rfl, rfl⟩
  have h1 : l1.side n = { (l.side n).updBundle b (fun bu =>
    { bu with rxSeq := flitSeq f, discarding := false }) with peer := some f.data } := Links.side_updSide_self _ _ _
  have h2 : (({ (l.side n).updBundle b (fun bu =>
      { bu with rxSeq := flitSeq f, discarding := false }) with peer := some f.data } : Side).bundle b)
      = { (l.side n).bundle b with rxSeq := flitSeq f, discarding := false } := tblGet_mod_self Bundle.reset (l.side n).bundles b
        (fun bu => { bu with rxSeq := flitSeq f, discarding := false })
  refine ⟨?_, ?_, hs.2⟩
  · rw [hs.1, h1]
  · rw [hs.1, h1, h2]

/-- A `MSG` flit in sequence joins its message, and its `TAIL` delivers it. -/
theorem Links.takeMsg_rows (l : Links) (n b : Nat) (f : Flit) :
    let part := (if flitHead f then [] else ((l.side n).bundle b).part) ++ [f.data]
    let l1 := l.updSide n (·.updBundle b (fun bu =>
      { bu with rxSeq := flitSeq f, discarding := false, part := if flitTail f then [] else part }))
    (flitTail f = false → l.takeMsg n b f = l1) ∧
    (flitTail f = true →
      l.takeMsg n b f = { l1 with mesh := l.mesh ++ [{ side := n, cls := flitClass f, body := part }] }) :=
  ⟨fun h => if_neg (ne_true_of_eq_false h), fun h => if_pos h⟩

/-! ## Training -/

/-- An operation on a hinge counts only for the links as they are. -/
theorem State.onHinge_congr {s : State} {f g : Links → Links} (h : Nat) (e : f s.links = g s.links) :
    s.onHinge h f = s.onHinge h g := by
  unfold State.onHinge
  dsimp only
  rw [e]

theorem authSide_ne_subSide {h : Nat} (hh : h < 8) : authSide h ≠ subSide h := by
  interval_cases h <;> decide

theorem Links.side_updHinge {l : Links} {h m : Nat} (hh : h < 8) (f : Side → Side) (hm : m = authSide h ∨ m = subSide h) :
    (l.updHinge h f).side m = f (l.side m) := by
  unfold Links.updHinge
  obtain rfl | rfl := hm
  · rw [Links.side_updSide_ne _ (authSide_ne_subSide hh), Links.side_updSide_self]
  · rw [Links.side_updSide_self, Links.side_updSide_ne _ (authSide_ne_subSide hh).symm]

/-- The sides after a failed attempt, before it is counted whether the hinge fails. -/
def Side.attemptFailed (full : Bool) (s : Side) : Side :=
  { s with
    failCount := s.failCount + 1, st := .clock, waiting := true, wanted := false, forceFull := s.forceFull || full }

theorem Links.failAttempt_eq (l : Links) (h : Nat) (full : Bool) :
    l.failAttempt h full =
      if ((l.updHinge h (Side.attemptFailed full)).side (authSide h)).failCount = 3 then
        (l.updHinge h (Side.attemptFailed full)).failHinge h
      else l.updHinge h (Side.attemptFailed full) := rfl

/-- A side once it has failed. -/
def Side.failed (s : Side) : Side :=
  { s with st := .failed, waiting := false, wanted := false, bundles := [], held := [] }

theorem Links.failSide_sides (l : Links) (n : Nat) : (l.failSide n).sides = (l.updSide n Side.failed).sides := rfl

theorem Links.failSide_self (l : Links) (n : Nat) :
    ((l.failSide n).side n).st = .failed ∧ ((l.failSide n).side n).held = [] ∧
    ∀ y ∈ (l.side n).held, y ∈ (l.failSide n).lost := by
  have hs : (l.failSide n).side n = (l.side n).failed := by
    unfold Links.side
    rw [Links.failSide_sides]
    exact Links.side_updSide_self l n Side.failed
  refine ⟨by rw [hs] <;> rfl, by rw [hs] <;> rfl, fun y hy => ?_⟩
  exact List.mem_append_right _ hy

theorem Links.failSide_ne (l : Links) {n m : Nat} (h : m ≠ n) : (l.failSide n).side m = l.side m := by
  unfold Links.side
  rw [Links.failSide_sides]
  exact Links.side_updSide_ne l h Side.failed

theorem Links.lost_failSide {l : Links} (n : Nat) {y : NetMsg} (hy : y ∈ l.lost) : y ∈ (l.failSide n).lost :=
  List.mem_append_left _ (List.mem_append_left _ hy)

/-- A hinge that fails has both its sides failed, and loses what they hold. -/
theorem Links.failHinge_side {l : Links} {h m : Nat} (hh : h < 8) (hm : m = authSide h ∨ m = subSide h) :
    ((l.failHinge h).side m).st = .failed ∧ ((l.failHinge h).side m).held = [] ∧
    ∀ y ∈ (l.side m).held, y ∈ (l.failHinge h).lost := by
  have hne := authSide_ne_subSide hh
  unfold Links.failHinge
  obtain rfl | rfl := hm
  · obtain ⟨h1, h2, h3⟩ := l.failSide_self (authSide h)
    rw [Links.failSide_ne _ hne]
    exact ⟨h1, h2, fun y hy => Links.lost_failSide _ (h3 y hy)⟩
  · obtain ⟨h1, h2, h3⟩ := (l.failSide (authSide h)).failSide_self (subSide h)
    rw [Links.failSide_ne _ hne.symm] at h3
    exact ⟨h1, h2, h3⟩

/-- The sides of a hinge after a failed attempt: the third failure in a row fails the hinge. -/
theorem Links.failAttempt_sides (l : Links) {h : Nat} (hh : h < 8) :
    ((l.side (authSide h)).failCount ≠ 2 → ∀ m, m = authSide h ∨ m = subSide h →
      ((l.failAttempt h false).side m).st = .clock ∧ ((l.failAttempt h false).side m).waiting = true ∧
      ((l.failAttempt h false).side m).failCount = (l.side m).failCount + 1) ∧
    ((l.side (authSide h)).failCount = 2 → ∀ m, m = authSide h ∨ m = subSide h →
      ((l.failAttempt h false).side m).st = .failed ∧ ((l.failAttempt h false).side m).held = [] ∧
      ∀ y ∈ (l.side m).held, y ∈ (l.failAttempt h false).lost) := by
  have hc : ((l.updHinge h (Side.attemptFailed false)).side (authSide h)).failCount
      = (l.side (authSide h)).failCount + 1 :=
    congrArg Side.failCount (Links.side_updHinge hh (Side.attemptFailed false) (.inl rfl))
  rw [Links.failAttempt_eq, hc]
  refine ⟨fun h2 m hm => ?_, fun h2 m hm => ?_⟩
  · have h3 : (l.side (authSide h)).failCount + 1 ≠ 3 := by
      revert h2
      generalize (l.side (authSide h)).failCount = c
      revert c
      decide
    rw [if_neg h3, Links.side_updHinge hh (Side.attemptFailed false) hm]
    exact ⟨rfl, rfl, rfl⟩
  · have h3 : (l.side (authSide h)).failCount + 1 = 3 := by rw [h2] <;> rfl
    obtain ⟨f1, f2, f3⟩ := Links.failHinge_side (l := l.updHinge h (Side.attemptFailed false)) hh hm
    rw [Links.side_updHinge hh (Side.attemptFailed false) hm] at f3
    rw [if_pos h3]
    exact ⟨f1, f2, f3⟩

/-- A good statement of `CONFIRM`. -/
theorem Links.widthFlit_confirm (l : Links) {n : Nat} (b : Nat) {f : Flit} (hs : (l.side n).st = .confirm)
    (hg : flitGood f = true) (hp : f.data.getLsbD 1 = true) :
    l.widthFlit n b f =
      if f.data.getLsbD 0 = ((l.taken n b).side n).half then (l.taken n b).goActive n
      else (l.taken n b).failAttempt (hingeOf n) true := by
  unfold Links.widthFlit
  dsimp only
  rw [if_neg (by simp [hg]), show (({ l with wire := dropWire n b l.wire } : Links).side n).st = .confirm from hs, hp] <;> rfl

/-- A good statement of `WIDTH_SET`. -/
theorem Links.widthFlit_widthSet (l : Links) {n : Nat} (b : Nat) {f : Flit} (hs : (l.side n).st = .widthSet)
    (hg : flitGood f = true) (hp : f.data.getLsbD 1 = false) :
    l.widthFlit n b f = (l.taken n b).widthSetFlit n f.data := by
  unfold Links.widthFlit
  dsimp only
  rw [if_neg (by simp [hg]), show (({ l with wire := dropWire n b l.wire } : Links).side n).st = .widthSet from hs, hp] <;> rfl

/-- A good `WIDTH` flit at a side that settles its width. -/
theorem execWidthFlit_good {s : State} {n b : Nat} {f : Flit} {g : Links → Links}
    (hs : ((s.links.side n).st = .widthSet || (s.links.side n).st = .confirm) = true) (hg : flitGood f = true)
    (ht : flitType f = 3) (e : s.links.widthFlit n b f = g s.links) :
    exec (.widthFlit n b f) s = .next (s.onHinge (hingeOf n) g) := by
  have e0 : exec (.widthFlit n b f) s = execWidthFlit n b f s := rfl
  rw [e0]
  unfold execWidthFlit
  dsimp only
  rw [hs, if_pos (by simp [ht])]
  exact congrArg Host.Outcome.next (State.onHinge_congr _ e)

/-- Settles O37: each command by the state of its side or hinge. -/
theorem hingeRows : Obligations.HingeRows := by
  unfold Obligations.HingeRows
  refine ⟨fun s n b m f => ?_, fun s h n b q i die pa pb f => ?_⟩
  · obtain ⟨hside, hhold, hlost, hhere⟩ := s.sendFrom_rows (dieOf n) m
    have em : exec (.hingeMessageSend n m) s = .next (s.sendFrom (dieOf n) m) := rfl
    intro l x ends bad l0 l1 bu retrain inSeq
    refine ⟨fun e he => ?_, fun he => ?_, fun he => ?_, fun he => ?_, fun ha hg => ?_, fun ha hg => ?_, fun ha => ?_⟩
    · obtain ⟨r1, r2, r3⟩ := s.links.send_rows e m
      rw [em, hside e he]
      exact ⟨fun h => by rw [r1 h] <;> rfl, fun h => by rw [r2 h], fun h h' => by rw [r3 h h']⟩
    · rw [em, hhold he]
    · rw [em, hlost he]
    · rw [em, hhere he]
    · have hb : ∀ ts, s.flit n b f ts = { s with links := (l.taken n b).badCrc n b } := fun ts =>
        (State.flit_taken b ha (.inl hg)).trans (by rw [Links.receive_bad hg])
      have hr := Links.receive_bad (l := l) (n := n) (b := b) hg
      refine ⟨?_, congrArg Host.Outcome.next (hb [0]), congrArg Host.Outcome.next (hb [5]),
        congrArg Host.Outcome.next (hb [4]), congrArg Host.Outcome.next (hb [2])⟩
      rw [execMsgFlit_plain ha (.inl hg) (by rw [hr] <;> rfl), hr] <;> rfl
    · obtain ⟨r0, r1, r2, rd, rn, r4, r5, r6⟩ := Links.receive_good (l := l) (n := n) (b := b) hg
      have hf : ∀ ts : List Nat, (flitType f).toNat ∈ ts →
          s.flit n b f ts = { s with links := s.links.receive n b f } := fun ts h => State.flit_taken b ha (.inr h)
      have hm1 : flitType f = 1 → (flitType f).toNat ∈ 1 :: span 6 10 := fun h => by rw [h]; decide
      have hd2 : flitType f = 2 → exec (.discFlit n b f) s = .next { s with links := s.links.receive n b f } :=
        fun h => congrArg Host.Outcome.next (hf [2] (by rw [h]; decide))
      refine ⟨fun ht hs => ?_, fun ht hs => ?_, fun hs hd => ⟨fun ht => ?_, fun ht => ?_⟩,
        fun hs hd hact => ⟨fun ht => ?_, fun ht => ?_⟩, fun ht => ?_, fun ht => ?_, fun ht => ?_, fun ht hact => ?_⟩
      · obtain ⟨m1, m2⟩ := l1.takeMsg_rows n b f
        have e1 := r1 ht hs
        intro part l2
        refine ⟨fun hx => ?_, fun hx hp => ?_, fun p hx hp => ?_⟩
        · have e2 : s.links.receive n b f = l2 := e1.trans (m1 hx)
          rw [execMsgFlit_plain ha (.inr (hm1 ht)) (by rw [e2] <;> rfl), e2]
        · rw [execMsgFlit_here ha (.inr (hm1 ht)) hp, e1.trans (m2 hx)] <;> rfl
        · have e2 := e1.trans (m2 hx)
          have hlen : (s.links.receive n b f).mesh.length ≠ s.links.mesh.length := by
            rw [e2]
            show (l1.mesh ++ [_]).length ≠ l.mesh.length
            rw [List.length_append, show l1.mesh = l.mesh from rfl]
            exact Nat.succ_ne_self _
          rw [execMsgFlit_on ha (.inr (hm1 ht)) hp hlen, e2] <;> rfl
      · refine ⟨_, hd2 ht, ?_⟩
        rw [r2 ht hs]
        exact l1.takeDisc_spec n b f
      · have e1 := rd (.inl ht) hs hd
        rw [execMsgFlit_plain ha (.inr (hm1 ht)) (by rw [e1] <;> rfl), e1] <;> rfl
      · rw [hd2 ht, rd (.inr ht) hs hd] <;> rfl
      · have e1 := (rn (.inl ht) hs hd).trans (Links.wantRetrain_active b hact)
        rw [execMsgFlit_plain ha (.inr (hm1 ht)) (by rw [e1] <;> rfl), e1] <;> rfl
      · rw [hd2 ht, (rn (.inr ht) hs hd).trans (Links.wantRetrain_active b hact)] <;> rfl
      · exact congrArg Host.Outcome.next ((hf [0] (by rw [ht]; decide)).trans (by rw [r0 ht] <;> rfl))
      · exact congrArg Host.Outcome.next ((hf [4] (by rw [ht]; decide)).trans (by rw [r4 ht] <;> rfl))
      · exact congrArg Host.Outcome.next ((hf [5] (by rw [ht]; decide)).trans (by rw [r5 ht] <;> rfl))
      · have e1 := (r6 ht).trans (Links.wantRetrain_active b hact)
        have hmem : (flitType f).toNat ∈ 1 :: span 6 10 := by
          have hlt := (flitType f).isLt
          simp [span]
          exact .inr ⟨(flitType f).toNat - 6, by omega, by omega⟩
        rw [execMsgFlit_plain ha (.inr hmem) (by rw [e1] <;> rfl), e1] <;> rfl
    · have hw := Links.wantRetrain_active (l := l) b ha
      refine ⟨congrArg (fun x => Host.Outcome.next ({ s with links := x } : State)) hw, fun hd => ?_, fun hu => ?_⟩
      · exact congrArg Host.Outcome.next ((if_pos hd).trans (congrArg (fun x => ({ s with links := x } : State)) hw))
      · exact congrArg Host.Outcome.next ((if_pos hu).trans (congrArg (fun x => ({ s with links := x } : State)) hw))
  · intro l a c ends
    refine ⟨fun hd => ?_, fun ha hc hw => ?_, fun ha hc hw => ?_, fun ha hc => ?_, fun hi => ?_, fun hst hg ht hp => ?_,
      fun hst hg ht hp => ?_, fun hst => ?_, ?_, fun hd => ?_, fun h1 h2 => ?_,
      ?_, fun hh => l.failAttempt_sides hh⟩
    · exact congrArg Host.Outcome.next (if_pos hd)
    · exact congrArg (fun x => Host.Outcome.next ({ s with links := x } : State)) (if_pos ⟨ha, hc, by rw [hw] <;> rfl⟩)
    · exact congrArg (fun x => Host.Outcome.next ({ s with links := x } : State)) (if_pos ⟨ha, hc, by rw [hw] <;> rfl⟩)
    · exact congrArg Host.Outcome.next (if_pos (by rw [ha, hc] <;> rfl))
    · exact congrArg Host.Outcome.next (if_pos hi)
    · exact execWidthFlit_good (by rw [hst] <;> rfl) hg ht (l.widthFlit_confirm b hst hg hp)
    · exact execWidthFlit_good (by rw [hst] <;> rfl) hg ht (l.widthFlit_widthSet b hst hg hp)
    · exact congrArg Host.Outcome.next (if_pos hst)
    · intro d hu hus hor hre has h1 h2 h3
      have e : exec (.hostLossTimeout q) s = execHostLossTimeout q s := rfl
      rw [e]
      unfold execHostLossTimeout
      dsimp only
      exact congrArg Host.Outcome.next (if_pos (by
        rw [show (s.chip.quad q).up = true from hu, show (s.chip.quad q).unusable = false from hus,
          show (s.chip.quad q).orphaned = false from hor, show (s.chip.quad q).underReset = false from hre,
          show (s.chip.quad q).asleep = false from has, decide_eq_true (show s.links.hingeState q ≠ .active from h1),
          decide_eq_true (show s.links.hingeState q ≠ .failed from h2),
          decide_eq_true (show s.links.hingeState q ≠ .off from h3)] <;> rfl))
    · refine congrArg Host.Outcome.next (if_pos ?_)
      obtain hd | hd := hd
      · rw [hd] <;> rfl
      · cases hr : l.rediscover with
        | nil => exact absurd hr hd
        | cons x r => rw [List.isEmpty_cons, Bool.not_false, Bool.or_true]
    · exact congrArg (fun x => Host.Outcome.next ({ s with links := x } : State)) (if_pos (by
        simpa [Links.ctlActs] using And.intro h1 h2))
    · intro e full
      refine ⟨fun h1 => ?_, fun h1 hw => ?_, fun h1 hw => ?_⟩
      · exact congrArg (fun x => Host.Outcome.next ({ s with links := x } : State)) (if_pos h1)
      · exact congrArg (fun x => Host.Outcome.next ({ s with links := x } : State)) ((if_neg h1).trans (if_pos hw))
      · exact congrArg (fun x => Host.Outcome.next ({ s with links := x } : State))
          ((if_neg h1).trans (if_neg (ne_true_of_eq_false hw)))

end Sys2Proof.Machine
end

section
/-! PROOFS. Requests at a home (O38). -/

namespace Sys2Proof.Machine

/-! ## Arrival -/

/-- The oldest message of the network arrives, when it is the one that is looked for. -/
theorem Chip.arrive_front {k : Chip} {m : CohMsg} {r : List CohMsg} (hn : k.net = m :: r) {p : CohMsg → Bool}
    (hp : p m = true) (given : CohMsg) (f : Chip → CohMsg → Chip) :
    k.arrive p given f = f { k with net := r } m := by
  have h1 : k.net.find? p = some m := by rw [hn, List.find?_cons_of_pos hp]
  have h2 : k.net.takeWhile (fun x => x ≠ m) = [] := by rw [hn]; exact List.takeWhile_cons_of_neg (by simp)
  have h3 : k.net.erase m = r := by rw [hn]; exact List.erase_cons_head ..
  unfold Chip.arrive
  rw [h1]
  dsimp only
  rw [h2, h3, List.any_nil, if_neg Bool.false_ne_true]

/-- A request of a present agent that stands first in the network reaches its home. -/
theorem Chip.arriveRequest_front {k : Chip} {kind : CohKind} {a line : Nat} {r : List CohMsg} (req : HReq)
    (hs : k.homeServes line = true) (hp : k.agentPresent a = true)
    (hn : k.net = mkMsg kind a (k.homeOf line) line :: r) :
    k.arriveRequest kind a line req = ({ k with net := r } : Chip).homeRequest (k.homeOf line) line req := by
  unfold Chip.arriveRequest
  dsimp only
  rw [hp, hs, Bool.and_true, if_pos rfl, Chip.arrive_front hn (decide_eq_true rfl)] <;> rfl

theorem Chip.arriveUncached_served {k : Chip} {line : Nat} (req : HReq) (hs : k.homeServes line = true) :
    k.arriveUncached line req = k.homeRequest (k.homeOf line) line req := if_pos hs

/-! ## A request that waits or starts -/

/-- A request for the line can start at a home: no transaction of the line, none that waits for it, and room. -/
def Home.Idle (h : Home) (home line : Nat) : Prop :=
  h.isBusy line = false ∧ h.waiting.any (fun w => w.1 = line) = false ∧ h.busy.length < homeCap home

/-- A request that waits at its home. -/
def Chip.waits (k : Chip) (home line : Nat) (req : HReq) : Chip :=
  k.updHome home (fun h => { h with waiting := h.waiting ++ [(line, req)] })

section Request

variable {k k2 : Chip} {home line : Nat} {req : HReq}

theorem Home.mustWait_of_idle {h : Home} (hi : h.Idle home line) :
    ¬ (h.isBusy line || h.waiting.any (fun w => w.1 = line) || homeCap home ≤ h.busy.length) = true := by
  obtain ⟨h1, h2, h3⟩ := hi
  rw [h1, h2, decide_eq_false (Nat.not_le.2 h3)]
  exact Bool.false_ne_true

theorem Home.mustWait_of_not_idle {h : Home} (hi : ¬ h.Idle home line) :
    (h.isBusy line || h.waiting.any (fun w => w.1 = line) || homeCap home ≤ h.busy.length) = true := by
  by_contra hc
  simp only [Bool.or_eq_true, decide_eq_true_eq, not_or, Bool.not_eq_true, Nat.not_le] at hc
  obtain ⟨⟨h1, h2⟩, h3⟩ := hc
  exact hi ⟨h1, h2, h3⟩

/-- A request that finds its line idle starts. -/
theorem Chip.homeRequest_starts (hi : (k.home home).Idle home line) (hs : k.homeStart home line req = (k2, true)) :
    k.homeRequest home line req = k2.cacheUse line req.writes false := by
  unfold Chip.homeRequest
  dsimp only
  rw [if_neg (Home.mustWait_of_idle hi), hs]

/-- A request that cannot start for want of a way waits. -/
theorem Chip.homeRequest_noRoom (hi : (k.home home).Idle home line) (hs : k.homeStart home line req = (k2, false)) :
    k.homeRequest home line req = k2.waits home line req := by
  unfold Chip.homeRequest
  dsimp only
  rw [if_neg (Home.mustWait_of_idle hi), hs] <;> rfl

/-- A request that finds its line not idle waits. -/
theorem Chip.homeRequest_waits (hi : ¬ (k.home home).Idle home line) :
    k.homeRequest home line req = k.waits home line req := by
  unfold Chip.homeRequest
  dsimp only
  rw [if_pos (Home.mustWait_of_not_idle hi)] <;> rfl

end Request

/-! ## The start of a transaction, by the state of the entry -/

theorem Chip.grantFresh_room {k : Chip} {home line : Nat} (a : Nat) (h : (k.roomAt home line).2 = true) :
    k.grantFresh home line a = (((k.roomAt home line).1.sendLine .dataE home a line).setDir home line
      (ownerEnt a ((k.roomAt home line).1.home home).nextAge), true) := by
  unfold Chip.grantFresh
  generalize k.roomAt home line = t at *
  obtain ⟨k1, b⟩ := t
  obtain rfl : b = true := h
  rfl

theorem Chip.grantFresh_noRoom {k : Chip} {home line : Nat} (a : Nat) (h : (k.roomAt home line).2 = false) :
    k.grantFresh home line a = ((k.roomAt home line).1, false) := by
  unfold Chip.grantFresh
  generalize k.roomAt home line = t at *
  obtain ⟨k1, b⟩ := t
  obtain rfl : b = false := h
  rfl

section Start

variable {k : Chip} {home line : Nat} {e : DirEnt} (he : (k.home home).entry line = e) (a : Nat)
include he

theorem Chip.homeStart_getS :
    (e.dstate = dsFree → k.homeStart home line (.getS a) = k.grantFresh home line a) ∧
    (e.dstate = dsS → k.homeStart home line (.getS a) = ((k.sendLine .dataF home a line).setDir home line
      { e with sharers := e.sharers ||| agentBit a, fidx := BitVec.ofNat 8 a, dstate := dsF }, true)) ∧
    (e.dstate = dsF ∨ e.dstate = dsX → k.homeStart home line (.getS a) =
      ((k.send { mkMsg .fwdGetS home (if e.dstate = dsF then e.fidx.toNat else e.holders.headD 0xFF) line with
        req := a }).setBusy home line .bFS (some (.getS a))
        [if e.dstate = dsF then e.fidx.toNat else e.holders.headD 0xFF], true)) := by
  subst he
  unfold Chip.homeStart
  dsimp only
  refine ⟨fun h => if_pos h, fun h => ?_, fun h => ?_⟩
  · rw [if_neg (by rw [h]; decide), if_pos h]
  · have h1 : ((k.home home).entry line).dstate ≠ dsFree := by obtain h | h := h <;> rw [h] <;> decide
    have h2 : ((k.home home).entry line).dstate ≠ dsS := by obtain h | h := h <;> rw [h] <;> decide
    rw [if_neg h1, if_neg h2]

theorem Chip.homeStart_getM :
    (e.dstate = dsFree → k.homeStart home line (.getM a) = k.grantFresh home line a) ∧
    (e.dstate = dsX → k.homeStart home line (.getM a) = ((k.send { mkMsg .fwdGetM home (e.holders.headD 0xFF) line with
      req := a }).setBusy home line .bFM (some (.getM a)) [e.holders.headD 0xFF], true)) ∧
    (e.dstate = dsS ∨ e.dstate = dsF → k.homeStart home line (.getM a) =
      (if e.holders.filter (· ≠ a) = [] then (k.sendLine .dataE home a line).setDir home line (ownerEnt a e.age)
        else (k.snoopAll .inv home line (e.holders.filter (· ≠ a))).setBusy home line .bInv (some (.getM a))
          (e.holders.filter (· ≠ a)), true)) := by
  subst he
  unfold Chip.homeStart
  dsimp only
  refine ⟨fun h => if_pos h, fun h => ?_, fun h => ?_⟩
  · rw [if_neg (by rw [h]; decide), if_pos h]
  · have h1 : ((k.home home).entry line).dstate ≠ dsFree := by obtain h | h := h <;> rw [h] <;> decide
    have h2 : ((k.home home).entry line).dstate ≠ dsX := by obtain h | h := h <;> rw [h] <;> decide
    rw [if_neg h1, if_neg h2]
    cases hf : ((k.home home).entry line).holders.filter (· ≠ a) <;> rfl

theorem Chip.homeStart_readOnce :
    k.homeStart home line (.readOnce a) =
      (if e.dstate = dsX then (k.send { mkMsg .fwdGetS home (e.holders.headD 0xFF) line with
          req := a, once := true }).setBusy home line .bOnce (some (.readOnce a)) [e.holders.headD 0xFF]
        else k.sendLine .data home a line, true) := by
  subst he
  unfold Chip.homeStart
  dsimp only
  split <;> rfl

theorem Chip.homeStart_writeFull (mask : BitVec 128) (d : LineData) (po : Bool) :
    k.homeStart home line (.writeFull a mask d po) =
      (if e.dstate = dsFree then (k.mergeLine line mask d po).send (mkMsg .wbAck home a line)
        else (k.snoopAll .inv home line e.holders).setBusy home line .bInv (some (.writeFull a mask d po)) e.holders,
        true) := by
  subst he
  unfold Chip.homeStart
  dsimp only
  split <;> rfl

theorem Chip.homeStart_atomic (addr : Nat) (op : AmoOp) (v w : U64) :
    k.homeStart home line (.atomic a addr op v w) =
      (if e.dstate = dsFree then k.homeAtomic home line a addr op v w
        else (k.snoopAll .inv home line e.holders).setBusy home line .bInv (some (.atomic a addr op v w)) e.holders,
        true) := by
  subst he
  unfold Chip.homeStart
  dsimp only
  split <;> rfl

end Start

/-! ## Puts -/

/-- What a put leaves of the entry of a line that its agent does not own alone. -/
def DirEnt.without (e : DirEnt) (p : Nat) : DirEnt :=
  { e with
    sharers := e.sharers &&& ~~~agentBit p
    fidx := if e.fidx = BitVec.ofNat 8 p then 0xFF else e.fidx
    dstate := if e.fidx = BitVec.ofNat 8 p ∨ e.fidx = 0xFF then dsS else dsF }

/-- The put of an agent that holds the line not alone removes that agent. -/
theorem Chip.homePut_holder {k : Chip} {home line p : Nat} {clean : Bool} {put : Option (Bool × (LineData × Bool))}
    (hs : ¬ (((k.home home).entry line).dstate = dsX ∧ ((k.home home).entry line).sharers = agentBit p))
    (hh : ((k.home home).entry line).sharers.getLsbD p = true) :
    k.homePut home line p clean put =
      (if ((k.home home).entry line).sharers &&& ~~~agentBit p = 0 then k.setDir home line DirEnt.free
        else k.setDir home line (((k.home home).entry line).without p)).send (mkMsg .wbAck home p line) := by
  unfold Chip.homePut
  dsimp only
  generalize (k.home home).entry line = e at *
  have hc : (decide (e.dstate = dsX) && decide (e.sharers = agentBit p) && (clean || put.isSome)) = false := by
    rw [← Bool.decide_and, decide_eq_false hs] <;> rfl
  have hd : (if (if e.fidx = BitVec.ofNat 8 p then (0xFF : BitVec 8) else e.fidx) = 0xFF then dsS else dsF)
      = if e.fidx = BitVec.ofNat 8 p ∨ e.fidx = 0xFF then dsS else dsF := by
    by_cases h : e.fidx = BitVec.ofNat 8 p <;> simp [h]
  rw [hc, if_neg Bool.false_ne_true, if_pos hh, hd] <;> rfl

/-- The put of an agent that does not hold the line is acknowledged. -/
theorem Chip.homePut_stranger {k : Chip} {home line p : Nat} {clean : Bool} {put : Option (Bool × (LineData × Bool))}
    (hs : ¬ (((k.home home).entry line).dstate = dsX ∧ ((k.home home).entry line).sharers = agentBit p))
    (hh : ((k.home home).entry line).sharers.getLsbD p = false) :
    k.homePut home line p clean put = k.send (mkMsg .wbAck home p line) := by
  unfold Chip.homePut
  dsimp only
  generalize (k.home home).entry line = e at *
  have hc : (decide (e.dstate = dsX) && decide (e.sharers = agentBit p) && (clean || put.isSome)) = false := by
    rw [← Bool.decide_and, decide_eq_false hs] <;> rfl
  rw [hc, if_neg Bool.false_ne_true, if_neg (ne_true_of_eq_false hh)]

/-- The put of the sole owner. -/
theorem Chip.homePut_owner {k : Chip} {home line p : Nat}
    (hs : ((k.home home).entry line).dstate = dsX ∧ ((k.home home).entry line).sharers = agentBit p)
    (d : LineData) (po : Bool) :
    k.homePut home line p true none = (k.setDir home line DirEnt.free).send (mkMsg .wbAck home p line) ∧
    k.homePut home line p false (some (false, (d, po))) =
      ((k.writeLine line d po).setDir home line DirEnt.free).send (mkMsg .wbAck home p line) ∧
    k.homePut home line p false (some (true, (d, po))) =
      (k.writeLine line d po).send (mkMsg .wbAck home p line) := by
  obtain ⟨h1, h2⟩ := hs
  unfold Chip.homePut
  dsimp only
  rw [decide_eq_true h1, decide_eq_true h2]
  exact ⟨rfl, rfl, rfl⟩

/-! ## The rows of the commands -/

/-- A `PutM` that stands first in the network reaches its home with its line. -/
theorem execPutm_front {s : State} {a line : Nat} {keep po : Bool} {d : LineData} {r : List CohMsg} {k2 : Chip}
    (hs : s.chip.homeServes line = true) (hp : s.chip.agentPresent a = true)
    (hn : s.chip.net = { mkDataMsg .putM a (s.chip.homeOf line) line d po with keep := keep } :: r)
    (h : ({ s.chip with net := r } : Chip).homeRequest (s.chip.homeOf line) line (.putM a keep d po) = k2) :
    exec (.putm a line keep d po) s = s.goes k2 := by
  have e : exec (.putm a line keep d po) s = execPutm a line keep d po s := rfl
  rw [e]
  unfold execPutm State.onChip
  dsimp only
  rw [hp, hs, Bool.and_true, if_pos rfl, Chip.arrive_front hn (decide_eq_true rfl)]
  exact congrArg s.goes h

/-- An atomic on an aligned word of an idle line is performed, once no cache holds the line. -/
theorem execAtomic_idle {s : State} {line i : Nat} (hs : s.chip.homeServes line = true)
    (hi : (s.chip.home (s.chip.homeOf line)).Idle (s.chip.homeOf line) line) (h16 : i < 16) (a : Nat) (op : AmoOp)
    (v w : U64) :
    exec (.atomic a (line * 128 + 8 * i) op v w) s = s.goes
      ((if ((s.chip.home (s.chip.homeOf line)).entry line).dstate = dsFree then
          s.chip.homeAtomic (s.chip.homeOf line) line a (line * 128 + 8 * i) op v w
        else (s.chip.snoopAll .inv (s.chip.homeOf line) line
            ((s.chip.home (s.chip.homeOf line)).entry line).holders).setBusy (s.chip.homeOf line) line .bInv
          (some (.atomic a (line * 128 + 8 * i) op v w))
          ((s.chip.home (s.chip.homeOf line)).entry line).holders).cacheUse line true false) := by
  have e : exec (.atomic a (line * 128 + 8 * i) op v w) s = execAtomic a (line * 128 + 8 * i) op v w s := rfl
  have hl : lineOf (line * 128 + 8 * i) = line := by unfold lineOf; omega
  rw [e]
  unfold execAtomic State.onChip
  dsimp only
  rw [if_pos (by omega), hl, Chip.arriveUncached_served _ hs,
    Chip.homeRequest_starts hi (Chip.homeStart_atomic rfl a _ op v w)] <;> rfl

/-- The oldest request that waits for a free line, once the home has room: it starts, or its victim is chosen. -/
theorem Chip.homeResume_rows {k : Chip} {home line l : Nat} {q : HReq} {k2 : Chip}
    (hf : (k.home home).waiting.find? (fun w => w.1 = line) = some (l, q)) (hb : (k.home home).isBusy line = false)
    (hc : (k.home home).busy.length < homeCap home) :
    (k.homeStart home line q = (k2, true) → k.homeResume home line =
      (k2.updHome home (fun h => { h with waiting := dropFirst (fun w => w.1 = line) h.waiting })).cacheUse line
        q.writes false) ∧
    (k.homeStart home line q = (k2, false) → k.homeResume home line = k2) := by
  have hg : ¬ ((k.home home).isBusy line || homeCap home ≤ (k.home home).busy.length) = true := by
    rw [hb, decide_eq_false (Nat.not_le.2 hc)]
    exact Bool.false_ne_true
  unfold Chip.homeResume
  dsimp only
  rw [hf]
  dsimp only
  rw [if_neg hg]
  exact ⟨fun h => by rw [h], fun h => by rw [h]⟩

/-- Settles O38: each request by the state of its line's entry. -/
theorem coherenceRequests : Obligations.CoherenceRequests := by
  unfold Obligations.CoherenceRequests
  refine ⟨fun s a line r keep po d mask op v w => ?_, fun k home line p d po => ?_⟩
  · intro k home k1 h e idle atHome waits owner rd wr hs
    have hH : k1.home home = h := rfl
    have he : (k1.home home).entry line = e := rfl
    have arrived : ∀ (kind : CohKind) (req : HReq), k.agentPresent a = true → atHome kind →
        k.arriveRequest kind a line req = k1.homeRequest home line req := fun kind req hp hn =>
      Chip.arriveRequest_front req hs hp hn
    have starts : ∀ (req : HReq) (k2 : Chip), idle → k1.homeStart home line req = (k2, true) →
        k1.homeRequest home line req = k2.cacheUse line req.writes false := fun req k2 hi he =>
      Chip.homeRequest_starts (k := k1) hi he
    have stays : ∀ req : HReq, ¬ idle → k1.homeRequest home line req = waits k1 req := fun req hi =>
      Chip.homeRequest_waits (k := k1) hi
    have on : ∀ {f g : Chip}, f = g → (.next (s.onChip (fun _ => f)) : Out) = s.goes g := fun h => by rw [h] <;> rfl
    refine ⟨fun hp => ⟨fun hn => ⟨fun hi => ?_, fun hi => ⟨fun h1 h2 => ?_, fun h1 h2 => ?_, fun h1 => ?_, fun h1 => ?_⟩⟩,
        fun hn => ⟨fun hi => ?_, fun hi => ⟨fun h1 h2 => ?_, fun h1 => ?_, fun h1 => ?_⟩⟩,
        fun hi => ⟨fun hn => ?_, fun hn => ?_, fun hn => ?_, fun hn => ?_⟩,
        fun hi => ⟨fun hn => ?_, fun hn => ?_, fun hn => ?_, fun hn => ?_⟩⟩,
      fun hi => ⟨?_, ?_, fun i hi16 => ?_⟩, fun hi => ⟨?_, ?_⟩, fun q l k2 hf hb hc => ⟨fun ht => ?_, fun ht => ?_⟩⟩
    · exact on ((arrived .getS (.getS a) hp hn).trans (stays _ hi))
    · exact on ((arrived .getS (.getS a) hp hn).trans (starts _ _ hi
        (((Chip.homeStart_getS he a).1 h1).trans (Chip.grantFresh_room a h2))))
    · exact on ((arrived .getS (.getS a) hp hn).trans (Chip.homeRequest_noRoom (k := k1) hi
        (((Chip.homeStart_getS he a).1 h1).trans (Chip.grantFresh_noRoom a h2))))
    · exact on ((arrived .getS (.getS a) hp hn).trans (starts _ _ hi ((Chip.homeStart_getS he a).2.1 h1)))
    · exact on ((arrived .getS (.getS a) hp hn).trans (starts _ _ hi ((Chip.homeStart_getS he a).2.2 h1)))
    · exact on ((arrived .getM (.getM a) hp hn).trans (stays _ hi))
    · exact on ((arrived .getM (.getM a) hp hn).trans (starts _ _ hi
        (((Chip.homeStart_getM he a).1 h1).trans (Chip.grantFresh_room a h2))))
    · exact on ((arrived .getM (.getM a) hp hn).trans (starts _ _ hi ((Chip.homeStart_getM he a).2.1 h1)))
    · exact on ((arrived .getM (.getM a) hp hn).trans (starts _ _ hi ((Chip.homeStart_getM he a).2.2 h1)))
    · exact on ((arrived .putS (.putS a) hp hn).trans (starts _ _ hi rfl))
    · exact on ((arrived .putF (.putF a) hp hn).trans (starts _ _ hi rfl))
    · exact on ((arrived .putE (.putE a) hp hn).trans (starts _ _ hi rfl))
    · exact execPutm_front hs hp hn (starts (.putM a keep d po) _ hi rfl)
    · exact on ((arrived .putS (.putS a) hp hn).trans (stays _ hi))
    · exact on ((arrived .putF (.putF a) hp hn).trans (stays _ hi))
    · exact on ((arrived .putE (.putE a) hp hn).trans (stays _ hi))
    · exact execPutm_front hs hp hn (stays (.putM a keep d po) hi)
    · exact on ((Chip.arriveUncached_served (.readOnce a) hs).trans (Chip.homeRequest_starts (k := k) hi
        (Chip.homeStart_readOnce (k := k) rfl a)))
    · exact on ((Chip.arriveUncached_served (.writeFull a mask d po) hs).trans (Chip.homeRequest_starts (k := k) hi
        (Chip.homeStart_writeFull (k := k) rfl a mask d po)))
    · exact execAtomic_idle hs hi hi16 a op v w
    · exact on ((Chip.arriveUncached_served (.readOnce a) hs).trans (Chip.homeRequest_waits (k := k) hi))
    · exact on ((Chip.arriveUncached_served (.writeFull a mask d po) hs).trans (Chip.homeRequest_waits (k := k) hi))
    · exact on ((if_pos hs).trans ((Chip.homeResume_rows hf hb hc).1 ht))
    · exact on ((if_pos hs).trans ((Chip.homeResume_rows hf hb hc).2 ht))
  · intro e rest sole ack shrunk
    refine ⟨fun h => Chip.homePut_owner h d po, fun hs hh => ?_, fun hs hh => ?_⟩
    · exact ⟨Chip.homePut_holder hs hh, Chip.homePut_holder hs hh, Chip.homePut_holder hs hh⟩
    · exact ⟨Chip.homePut_stranger hs hh, Chip.homePut_stranger hs hh, Chip.homePut_stranger hs hh⟩

end Sys2Proof.Machine
end

section
/-! PROOFS. Messages to caches, and the answers of caches at a home (O39). -/

namespace Sys2Proof.Machine

/-! ## The line as a snoop finds it -/

/-- Counting a `BackInv` touches one cluster's count only. -/
theorem Chip.countBack_eq (k : Chip) (a : Nat) (m : CohMsg) :
    k.countBack a m = k ∨ (64 ≤ a ∧
      k.countBack a m = k.updCluster (a - 64) (fun c => { c with backInv := satAdd c.backInv 1 })) := by
  unfold Chip.countBack
  by_cases h : (decide (a < 64) || decide (m.kind ≠ .backInv)) = true
  · exact .inl (if_pos h)
  · refine .inr ⟨?_, if_neg h⟩
    by_contra hc
    exact h (by rw [decide_eq_true (Nat.not_le.1 hc)] <;> rfl)

/-- Counting a `BackInv` leaves every line. -/
@[simp] theorem Chip.cline_countBack (k : Chip) (a : Nat) (m : CohMsg) (line : Nat) :
    (k.countBack a m).cline a line = k.cline a line := by
  obtain h | ⟨ha, h⟩ := k.countBack_eq a m
  · rw [h]
  · rw [h]
    unfold Chip.cline
    rw [if_neg (Nat.not_lt.2 ha), if_neg (Nat.not_lt.2 ha), Chip.cluster_upd_self]
    rfl

@[simp] theorem Chip.homeOf_countBack (k : Chip) (a : Nat) (m : CohMsg) (line : Nat) :
    (k.countBack a m).homeOf line = k.homeOf line := by
  obtain h | ⟨ha, h⟩ := k.countBack_eq a m <;> rw [h] <;> rfl

/-- The home of a line depends on the HBM packages only. -/
theorem Chip.homeOf_congr {k l : Chip} (h : k.hbmPkg = l.hbmPkg) (line : Nat) : k.homeOf line = l.homeOf line := by
  unfold Chip.homeOf Chip.ownerQuad
  rw [h]

@[simp] theorem Chip.hbmPkg_updLine (k : Chip) (a line : Nat) (f : CLine → CLine) :
    (k.updLine a line f).hbmPkg = k.hbmPkg := by rw [Chip.updLine_eq]

@[simp] theorem Chip.hbmPkg_send (k : Chip) (m : CohMsg) : (k.send m).hbmPkg = k.hbmPkg := by rw [Chip.send_eq]

@[simp] theorem Chip.hbmPkg_countInv (k : Chip) (a : Nat) (kind : CohKind) (b : Bool) :
    (k.countInv a kind b).hbmPkg = k.hbmPkg := by
  unfold Chip.countInv
  split <;> rfl

@[simp] theorem Chip.hbmPkg_dropReservation (k : Chip) (a line : Nat) : (k.dropReservation a line).hbmPkg = k.hbmPkg := by
  unfold Chip.dropReservation
  split <;> rfl

/-! ## Snoops -/

section Snoop

variable {k : Chip} {a line : Nat} {m : CohMsg} {z : SnoopKind} (hl : m.line = line) (hz : m.snoop = z)
include hl hz

/-- A snoop of a line that waits for its data is held. -/
theorem Chip.takeSnoop_held (hd : defers (k.cline a line).st z = true) :
    k.takeSnoop a m = (k.countBack a m).updLine a line (fun e => { e with snoop := some m }) := by
  subst hl hz
  unfold Chip.takeSnoop
  dsimp only
  rw [Chip.cline_countBack, if_pos hd]

/-- A cell marked × is answered with `InvAck` and recorded. -/
theorem Chip.takeSnoop_unexpected (hd : defers (k.cline a line).st z = false) (hr : snoopRow (k.cline a line).st z = none) :
    k.takeSnoop a m = ((k.countBack a m).send (mkMsg .invAck a (k.homeOf line) line)).protocolError a line m.kind := by
  subst hl hz
  unfold Chip.takeSnoop
  dsimp only
  rw [Chip.cline_countBack, if_neg (ne_true_of_eq_false hd)]
  unfold Chip.answerSnoop
  dsimp only
  rw [Chip.cline_countBack, hr, Chip.homeOf_countBack]

/-- A cell of R351 gives the next state and what goes to the requester and to the home. -/
theorem Chip.takeSnoop_answered {st : CState} {toReq : Option CohKind} {toHome : CohKind}
    (hd : defers (k.cline a line).st z = false) (hr : snoopRow (k.cline a line).st z = some (st, (toReq, toHome))) :
    k.takeSnoop a m =
      (let e := k.cline a line
       let k2 := ((k.countBack a m).updLine a line (fun e => { e with st := st })).countInv a m.kind e.locked
       let k3 := if st = .i ∨ st = .imD ∨ st = .iiA then k2.dropReservation a line else k2
       let k4 := match toReq with
         | some kind => k3.send (mkDataMsg kind a m.req line e.data e.poison)
         | none => k3
       k4.send (if toHome = .data then mkDataMsg .data a (k4.homeOf line) line e.data e.poison
         else mkMsg .invAck a (k4.homeOf line) line)) := by
  subst hl hz
  have hor : ∀ {α : Type} (x y : α), (if (decide (st = .i) || decide (st = .imD) || decide (st = .iiA)) = true then x else y)
      = if st = .i ∨ st = .imD ∨ st = .iiA then x else y := fun x y => by
    simp only [Bool.or_eq_true, decide_eq_true_eq, or_assoc]
  unfold Chip.takeSnoop
  dsimp only
  rw [Chip.cline_countBack, if_neg (ne_true_of_eq_false hd)]
  unfold Chip.answerSnoop
  dsimp only
  rw [Chip.cline_countBack, hr]
  dsimp only
  rw [hor]
  have hk : (if st = .i ∨ st = .imD ∨ st = .iiA then
        (((k.countBack a m).updLine a m.line (fun e => { e with st := st })).countInv a m.kind
          (k.cline a m.line).locked).dropReservation a m.line
      else ((k.countBack a m).updLine a m.line (fun e => { e with st := st })).countInv a m.kind
        (k.cline a m.line).locked).hbmPkg = (k.countBack a m).hbmPkg := by
    split <;> simp
  generalize (if st = .i ∨ st = .imD ∨ st = .iiA then _ else _ : Chip) = k3 at *
  cases toReq with
  | none =>
    dsimp only
    rw [Chip.homeOf_congr hk]
  | some kind =>
    dsimp only
    rw [Chip.homeOf_congr ((Chip.hbmPkg_send _ _).trans hk)]

end Snoop

/-- A snoop that stands first in the network reaches its cache. -/
theorem Chip.arriveSnoop_front {k : Chip} {m : CohMsg} {r : List CohMsg} (hs : k.homeServes m.line = true)
    (hp : k.agentPresent m.dst = true) (hn : k.net = m :: r) :
    k.arriveSnoop m = ({ k with net := r } : Chip).takeSnoop m.dst m := by
  unfold Chip.arriveSnoop
  rw [hp, hs, Bool.and_true, if_pos rfl, Chip.arrive_front hn (decide_eq_true rfl)]

/-! ## Grants -/

/-- The state a grant gives a line that waits for it (R351). -/
def CState.granted : CState → CohKind → Option CState
  | .isD, .dataE => some .e
  | .isD, .dataF => some .f
  | .imD, .dataE => some .m
  | .smD, .dataE => some .m
  | .fmD, .dataE => some .m
  | _, _ => none

/-- What a grant that a line waits for leads to. -/
theorem Chip.takeGrant_taken {k : Chip} {a line : Nat} {kind : CohKind} {y : CState} (d : LineData) (p : Bool)
    (h : (k.cline a line).st.granted kind = some y) :
    k.takeGrant a line kind d p =
      (((((k.updLine a line (fun e => { e with st := y, data := d, poison := p })).catchLine a line d p).drainAgent
        a).heldSnoop a line).drainAgent a) := by
  unfold Chip.takeGrant
  dsimp only
  split
  case h_1 hn => exact absurd (h.symm.trans hn) (by simp)
  case h_2 z hz =>
    obtain rfl : y = z := Option.some.inj (h.symm.trans hz)
    rfl

theorem Chip.takeGrant_unexpected {k : Chip} {a line : Nat} {kind : CohKind} (d : LineData) (p : Bool)
    (h : (k.cline a line).st.granted kind = none) :
    k.takeGrant a line kind d p = k.protocolError a line kind := by
  unfold Chip.takeGrant
  dsimp only
  split
  case h_1 hn => rfl
  case h_2 z hz => exact absurd (h.symm.trans hz) (by simp)

/-- A grant that stands first in the network reaches its cache. -/
theorem Chip.arriveGrant_front {k : Chip} {kind : CohKind} {a line : Nat} {d : LineData} {p : Bool} {r : List CohMsg}
    (hs : k.homeServes line = true) (hp : k.agentPresent a = true)
    (hn : k.net = mkDataMsg kind (k.homeOf line) a line d p :: r) :
    k.arriveGrant kind a line d p = ({ k with net := r } : Chip).takeGrant a line kind d p := by
  unfold Chip.arriveGrant
  dsimp only
  rw [hp, hs, Bool.and_true, if_pos rfl, Chip.arrive_front hn (decide_eq_true rfl)] <;> rfl

/-! ## Answers at a home -/

/-- An answer that no transaction waits for changes nothing. -/
theorem Chip.homeAnswer_unawaited {k : Chip} {home line a : Nat} (d : Option (LineData × Bool))
    (h : (k.home home).busy.find? (fun b => b.line = line && b.waits.contains a) = none) :
    k.homeAnswer home line a d = k := by
  unfold Chip.homeAnswer
  rw [h]

/-- An answer with the line, while more are waited for. -/
theorem Chip.homeAnswer_more {k : Chip} {home line a : Nat} {b : Busy} (d : LineData) (po : Bool)
    (h : (k.home home).busy.find? (fun b => b.line = line && b.waits.contains a) = some b) (hw : b.waits.erase a ≠ []) :
    k.homeAnswer home line a (some (d, po)) =
      ((k.writeLine line d po).cacheUse line true false).updHome home (fun h => { h with
        busy := h.busy.map (fun x => if x = b then { b with waits := b.waits.erase a } else x) }) := by
  unfold Chip.homeAnswer
  rw [h]
  dsimp only
  rw [if_neg (by simpa using hw)]

/-! ## The rows of the commands -/

section Rows

variable {s : State} {a line : Nat} {d : LineData} {po : Bool} {r : List CohMsg}
  (hs : s.chip.homeServes line = true)
include hs

theorem execWback_front (hn : s.chip.net = mkMsg .wbAck (s.chip.homeOf line) a line :: r)
    (hp : s.chip.agentPresent a = true) (ha : a < 160) :
    exec (.wback a line) s = s.goes (({ s.chip with net := r } : Chip).takeWbAck a line) := by
  have e : exec (.wback a line) s = execWback a line s := rfl
  rw [e]
  unfold execWback State.onChip
  dsimp only
  rw [hp, hs, Bool.true_or, Bool.and_true, if_pos rfl, Chip.arrive_front hn (decide_eq_true rfl)]
  exact congrArg s.goes (if_pos ha)

theorem execInvack_front (hn : s.chip.net = mkMsg .invAck a (s.chip.homeOf line) line :: r)
    (hp : s.chip.agentPresent a = true) :
    exec (.invack a line) s = s.goes (({ s.chip with net := r } : Chip).homeAnswer (s.chip.homeOf line) line a none) := by
  have e : exec (.invack a line) s = execInvack a line s := rfl
  rw [e]
  unfold execInvack State.onChip
  dsimp only
  rw [hp, hs, Bool.and_true, if_pos rfl, Chip.arrive_front hn (decide_eq_true rfl)] <;> rfl

theorem execData_front {q : Nat} (hn : s.chip.net = mkDataMsg .data a q line d po :: r) :
    exec (.data a q line d po) s =
      s.goes (({ s.chip with net := r } : Chip).deliver (mkDataMsg .data a q line d po)) := by
  have e : exec (.data a q line d po) s = execData a q line d po s := rfl
  rw [e]
  unfold execData State.onChip
  dsimp only
  rw [hs, if_pos rfl, Chip.arrive_front hn (decide_eq_true rfl)] <;> rfl

end Rows

/-- `Data` goes to the transaction of a home, or to the agent that reads. -/
theorem Chip.deliver_data {k : Chip} {a q line : Nat} {d : LineData} {po : Bool} :
    (160 ≤ q → q < 165 →
      k.deliver (mkDataMsg .data a q line d po) = k.homeAnswer q line a (some (d, po))) ∧
    (165 ≤ q → k.deliver (mkDataMsg .data a q line d po) =
      { k with answers := k.answers ++ [mkDataMsg .data a q line d po] }) := by
  refine ⟨fun h1 h2 => if_pos ?_, fun h => if_neg ?_⟩
  · show (decide (160 ≤ q) && decide (q < 165)) = true
    rw [decide_eq_true h1, decide_eq_true h2] <;> rfl
  · show ¬ (decide (160 ≤ q) && decide (q < 165)) = true
    rw [decide_eq_false (Nat.not_lt.2 h), Bool.and_false]
    exact Bool.false_ne_true

/-- Settles O39: each message by the cell of its line's state. -/
theorem coherenceMessages : Obligations.CoherenceMessages := by
  unfold Obligations.CoherenceMessages
  refine ⟨fun s a q line r once po d => ?_, fun k a line b d po => ?_⟩
  · intro k home k1 e row grant hs hp
    have snooped : ∀ (m : CohMsg) (z : SnoopKind) (i : Instr), m.line = line → m.dst = a → m.snoop = z →
        exec i s = s.goes (k.arriveSnoop m) → row i m z := by
      intro m z i hl hd hz hex hn
      have e1 : exec i s = s.goes (k1.takeSnoop a m) := by
        rw [hex, Chip.arriveSnoop_front (by rw [hl]; exact hs) (by rw [hd]; exact hp) hn, hd]
      intro kb
      refine ⟨fun h => ?_, fun h h' => ?_, fun st toReq toHome h h' => ?_⟩
      · exact e1.trans (congrArg s.goes (Chip.takeSnoop_held (k := k1) hl hz h))
      · exact e1.trans (congrArg s.goes (Chip.takeSnoop_unexpected (k := k1) hl hz h h'))
      · exact e1.trans (congrArg s.goes (Chip.takeSnoop_answered (k := k1) hl hz h h'))
    have granted : ∀ (kind : CohKind) (i : Instr) (st : Option CState), st = e.st.granted kind →
        exec i s = s.goes (k.arriveGrant kind a line d po) → grant i kind st := by
      intro kind i st hst hex hn
      have e1 : exec i s = s.goes (k1.takeGrant a line kind d po) :=
        hex.trans (congrArg s.goes (Chip.arriveGrant_front hs hp hn))
      refine ⟨fun y hy => ?_, fun hy => ?_⟩
      · exact e1.trans (congrArg s.goes (Chip.takeGrant_taken (k := k1) d po (hst.symm.trans hy)))
      · exact e1.trans (congrArg s.goes (Chip.takeGrant_unexpected (k := k1) d po (hst.symm.trans hy)))
    refine ⟨snooped _ _ _ rfl rfl rfl rfl, snooped _ _ _ rfl rfl rfl rfl, snooped _ _ _ rfl rfl rfl rfl,
      snooped _ _ _ rfl rfl rfl rfl, granted _ _ _ ?_ rfl, granted _ _ _ ?_ rfl, fun hn ha => execWback_front hs hn hp ha,
      fun hn => execInvack_front hs hn hp, fun hn h1 h2 => ?_, fun hn h => ?_⟩
    · cases e.st <;> rfl
    · cases e.st <;> rfl
    · exact (execData_front hs hn).trans (congrArg s.goes (Chip.deliver_data.1 h1 h2))
    · exact (execData_front hs hn).trans (congrArg s.goes (Chip.deliver_data.2 h))
  · refine ⟨⟨rfl, rfl, rfl, rfl⟩, ⟨rfl, rfl, rfl, rfl⟩, ⟨rfl, rfl, rfl⟩, ⟨rfl, rfl, rfl⟩, ⟨rfl, rfl, rfl, rfl⟩,
      ⟨rfl, rfl, rfl, rfl⟩, ⟨rfl, rfl, rfl⟩, fun st h => ?_, fun z => ⟨rfl, rfl⟩, fun z => rfl, fun z => ?_, fun st z => ?_,
      fun h => Chip.homeAnswer_unawaited none h, fun h hw => Chip.homeAnswer_more d po h hw⟩
    · obtain rfl | rfl | rfl | rfl | rfl | rfl := h <;> simp [snoopRow]
    · cases z <;> simp [defers]
    · cases st <;> simp [defers]

end Sys2Proof.Machine
end

section
/-! PROOFS. What the caches, the homes and the coherence network leave of the quadrants: their operations change a
quadrant's system cache at most. -/

namespace Sys2Proof.Machine

/-- Steps that each keep the quadrants keep them. -/
theorem Chip.quads_foldl {α : Type} {f : Chip → α → Chip} (hf : ∀ k x, (f k x).quads = k.quads) (l : List α) (k : Chip) :
    (l.foldl f k).quads = k.quads := by
  induction l generalizing k with
  | nil => rfl
  | cons x l ih => exact (ih _).trans (hf k x)

/-! ## Operations that keep the quadrants -/

section Frames

variable (k : Chip) (a c h home line n : Nat)

@[simp] theorem Chip.quads_setPoison (p : Bool) : (k.setPoison line p).quads = k.quads := rfl
@[simp] theorem Chip.quads_poke (bs : Bytes) : (k.poke n bs).quads = k.quads := rfl
@[simp] theorem Chip.quads_noteWrite : (k.noteWrite a n).quads = k.quads := rfl
@[simp] theorem Chip.quads_writeLine (d : LineData) (p : Bool) : (k.writeLine line d p).quads = k.quads := rfl
@[simp] theorem Chip.quads_updHome (f : Home → Home) : (k.updHome h f).quads = k.quads := rfl
@[simp] theorem Chip.quads_setDir (e : DirEnt) : (k.setDir home line e).quads = k.quads := rfl
@[simp] theorem Chip.quads_setBusy (kd : BusyKind) (r : Option HReq) (w : List Nat) :
    (k.setBusy home line kd r w).quads = k.quads := rfl
@[simp] theorem Chip.quads_hartTrap (v : U64) : (k.hartTrap h c v).quads = k.quads := rfl
@[simp] theorem Chip.quads_protocolError (m : CohKind) : (k.protocolError a line m).quads = k.quads := rfl
@[simp] theorem Chip.quads_hartStoreError : (k.hartStoreError h).quads = k.quads := rfl
@[simp] theorem Chip.quads_failHart (x : HartAcc) : (k.failHart h x).quads = k.quads := rfl
@[simp] theorem Chip.quads_faultLoad (x : ScAcc) : (k.faultLoad c x n).quads = k.quads := rfl
@[simp] theorem Chip.quads_storeFailed (x : StoreEnt) : (k.storeFailed c x n).quads = k.quads := rfl
@[simp] theorem Chip.quads_sendStore (x : StoreEnt) : (k.sendStore c x).quads = k.quads := rfl

@[simp] theorem Chip.quads_sendLine (m : CohKind) : (k.sendLine m home a line).quads = k.quads := Chip.send_quads _ _

@[simp] theorem Chip.quads_snoopAll (m : CohKind) (as : List Nat) : (k.snoopAll m home line as).quads = k.quads :=
  Chip.quads_foldl (fun k x => Chip.send_quads k _) as k

@[simp] theorem Chip.quads_mergeLine (mask : BitVec 128) (d : LineData) (p : Bool) :
    (k.mergeLine line mask d p).quads = k.quads :=
  Chip.quads_foldl (fun k i => by split <;> rfl) (List.range 128) k

@[simp] theorem Chip.quads_writeMem (bs : Bytes) (p : Bool) : (k.writeMem n bs p).quads = k.quads :=
  by
  unfold Chip.writeMem
  rw [Chip.quads_foldl (fun k l => Chip.quads_setPoison k l _), Chip.quads_poke]

@[simp] theorem Chip.quads_homeAtomic (op : AmoOp) (v w : U64) :
    (k.homeAtomic home line a n op v w).quads = k.quads := by
  unfold Chip.homeAtomic
  dsimp only
  rw [Chip.send_quads]
  split <;> rfl

@[simp] theorem Chip.quads_roomAt : (k.roomAt home line).1.quads = k.quads := by
  unfold Chip.roomAt
  dsimp only
  split
  · rfl
  · rfl
  · split
    · rfl
    · split
      · rfl
      · simp

@[simp] theorem Chip.quads_grantFresh : (k.grantFresh home line a).1.quads = k.quads := by
  cases hr : (k.roomAt home line).2 with
  | true => rw [Chip.grantFresh_room a hr]; simp
  | false => rw [Chip.grantFresh_noRoom a hr]; simp

@[simp] theorem Chip.quads_homePut (b : Bool) (p : Option (Bool × (LineData × Bool))) :
    (k.homePut home line a b p).quads = k.quads := by
  unfold Chip.homePut
  dsimp only
  rw [Chip.send_quads]
  split
  · split
    · split <;> rfl
    · rfl
  · split
    · split <;> rfl
    · rfl

@[simp] theorem Chip.quads_invalidateAll (r : HReq) (as : List Nat) :
    (k.invalidateAll home line r as).1.quads = k.quads := by
  simp [Chip.invalidateAll]

@[simp] theorem Chip.quads_homeStart (r : HReq) : (k.homeStart home line r).1.quads = k.quads := by
  unfold Chip.homeStart
  cases r with
  | getS a =>
    dsimp only
    split
    · simp
    · split <;> simp
  | getM a =>
    dsimp only
    split
    · simp
    · split
      · simp
      · split <;> simp
  | readOnce a | writeFull a _ _ _ | atomic a _ _ _ _ =>
    dsimp only
    split <;> simp
  | putS a | putF a | putE a | putM a _ _ _ => simp

@[simp] theorem Chip.quads_dropHolder : (k.dropHolder line a).quads = k.quads := by
  unfold Chip.dropHolder
  dsimp only
  split
  · rfl
  · split <;> rfl

@[simp] theorem Chip.quads_forgetDead : (k.forgetDead home line).quads = k.quads := by
  unfold Chip.forgetDead
  dsimp only
  split
  · rfl
  · rw [Chip.quads_foldl (fun k x => Chip.quads_dropHolder k x line)]
    split <;> rfl

@[simp] theorem Chip.quads_homeFinish (b : Busy) : (k.homeFinish home b).quads = k.quads := by
  unfold Chip.homeFinish
  dsimp only
  split <;> simp

@[simp] theorem Chip.quads_countBack (m : CohMsg) : (k.countBack a m).quads = k.quads := by
  unfold Chip.countBack
  split <;> rfl

@[simp] theorem Chip.quads_countInv (m : CohKind) (b : Bool) : (k.countInv a m b).quads = k.quads := by
  unfold Chip.countInv
  split <;> rfl

@[simp] theorem Chip.quads_dropReservation : (k.dropReservation a line).quads = k.quads := by
  unfold Chip.dropReservation
  split <;> rfl

@[simp] theorem Chip.quads_answerSnoop (m : CohMsg) : (k.answerSnoop a m).quads = k.quads := by
  unfold Chip.answerSnoop
  dsimp only
  split
  · simp
  · rw [Chip.send_quads]
    split <;> (try rw [Chip.send_quads]) <;> split <;> simp

@[simp] theorem Chip.quads_takeSnoop (m : CohMsg) : (k.takeSnoop a m).quads = k.quads := by
  unfold Chip.takeSnoop
  dsimp only
  split <;> simp

@[simp] theorem Chip.quads_heldSnoop : (k.heldSnoop a line).quads = k.quads := by
  unfold Chip.heldSnoop
  split <;> simp

@[simp] theorem Chip.quads_catchLine (d : LineData) (p : Bool) : (k.catchLine a line d p).quads = k.quads := by
  unfold Chip.catchLine
  dsimp only
  split
  · rfl
  · split <;> simp

@[simp] theorem Chip.quads_endLcHold : (k.endLcHold a line).quads = k.quads := by
  unfold Chip.endLcHold
  split <;> rfl

@[simp] theorem Chip.quads_evict : (k.evict a line).quads = k.quads := by
  unfold Chip.evict
  dsimp only
  split <;> simp

@[simp] theorem Chip.quads_allocate : (k.allocate a line).1.quads = k.quads := by
  unfold Chip.allocate Chip.fresh
  dsimp only
  split
  · split
    · rfl
    · split
      · rfl
      · split <;> simp
  · split
    · rfl
    · split
      · rfl
      · split
        · rfl
        · split <;> simp

@[simp] theorem Chip.quads_requestLine (w : Bool) : (k.requestLine a line w).quads = k.quads := by
  have ha := Chip.quads_allocate k a line
  unfold Chip.requestLine
  dsimp only
  split
  · rfl
  · split
    · split
      · rename_i k1 he
        rw [he] at ha
        rw [Chip.send_quads]
        split
        · exact ha
        · rw [Chip.updLine_quads]; exact ha
      · rename_i k1 he
        rw [he] at ha
        exact ha
    · simp
    · simp
    · rfl

/-! ## Harts -/

@[simp] theorem Chip.quads_fillL1i : (k.fillL1i h line).quads = k.quads := by
  unfold Chip.fillL1i Chip.fresh
  dsimp only
  split
  · rfl
  · split <;> rfl

@[simp] theorem Chip.quads_fillL1d (d : Bool) : (k.fillL1d h line d).quads = k.quads := by
  unfold Chip.fillL1d Chip.fresh
  dsimp only
  split
  · rfl
  · split <;> rfl

@[simp] theorem Chip.quads_fillL1 (f : Bool) (ls : List Nat) : (k.fillL1 h f ls).quads = k.quads :=
  Chip.quads_foldl (fun k l => by split <;> simp) ls k

@[simp] theorem Chip.quads_finishHart (x : HartAcc) (bs : Bytes) (p : Bool) : (k.finishHart h x bs p).quads = k.quads := by
  unfold Chip.finishHart
  dsimp only
  split
  · rfl
  · split <;> split <;> rfl

@[simp] theorem Chip.quads_amoInL2 (x : HartAcc) (op : HartAmoOp) (v : U64) : (k.amoInL2 h x op v).quads = k.quads := by
  unfold Chip.amoInL2
  dsimp only
  split
  · simp
  · split
    · simp
    · split <;> simp
    · simp

@[simp] theorem Chip.quads_tryHart (x : HartAcc) : (k.tryHart h x).quads = k.quads := by
  unfold Chip.tryHart
  dsimp only
  split
  · split
    · simp
    · exact Chip.quads_foldl (fun k l => Chip.quads_requestLine k h l _) _ k
  · split
    · rfl
    · rw [apply_ite Chip.quads]
      rw [Chip.quads_amoInL2, Chip.quads_foldl (fun k l => Chip.quads_requestLine k h l _), ite_self]

@[simp] theorem Chip.quads_tryHartStore (x : HartStore) : (k.tryHartStore h x).quads = k.quads := by
  unfold Chip.tryHartStore
  dsimp only
  split
  · rfl
  · split <;> simp

@[simp] theorem Chip.quads_drainHart : (k.drainHart h n).quads = k.quads := by
  induction n generalizing k with
  | zero => rfl
  | succ n ih =>
    unfold Chip.drainHart
    extract_lets k1 k2
    have h1 : k1.quads = k.quads := by unfold k1; split <;> simp
    have h2 : k2.quads = k.quads := by
      refine Eq.trans ?_ h1
      unfold k2
      split <;> simp
    split
    · exact h2
    · rw [ih, h2]

/-! ## Clusters -/

@[simp] theorem Chip.quads_touch : (k.touch a line).quads = k.quads := by
  unfold Chip.touch
  split <;> simp

@[simp] theorem Chip.quads_ownWritten : (k.ownWritten c a n).quads = k.quads := by
  unfold Chip.ownWritten
  split <;> rfl

@[simp] theorem Chip.quads_finishLoad (x : ScAcc) (bs : Bytes) (p : Bool) : (k.finishLoad c x bs p).quads = k.quads := by
  unfold Chip.finishLoad
  dsimp only
  split <;> rfl

@[simp] theorem Chip.quads_tryLoad (x : ScAcc) : (k.tryLoad c x).quads = k.quads := by
  unfold Chip.tryLoad
  dsimp only
  split
  · rfl
  · split
    · split <;> simp
    · split
      · split <;> simp
      · rfl

@[simp] theorem Chip.quads_tryStore (x : StoreEnt) : (k.tryStore c x).quads = k.quads := by
  unfold Chip.tryStore
  dsimp only
  split
  · rfl
  · split
    · split <;> simp
    · split
      · split <;> simp
      · split <;> simp

@[simp] theorem Chip.quads_sendAccess (x : ScAcc) : (k.sendAccess c x).quads = k.quads := by
  unfold Chip.sendAccess
  dsimp only
  split <;> rfl

@[simp] theorem Chip.quads_sendRemote : (k.sendRemote c).quads = k.quads := by
  unfold Chip.sendRemote
  dsimp only
  rw [Chip.quads_foldl (fun k x => by split <;> simp), Chip.quads_foldl (fun k x => by split <;> simp)]

@[simp] theorem Chip.quads_drain : (k.drain c n).quads = k.quads := by
  induction n generalizing k with
  | zero => rfl
  | succ n ih =>
    unfold Chip.drain
    extract_lets k1 k2 k3
    have h1 : k1.quads = k.quads := by unfold k1; split <;> simp
    have h2 : k2.quads = k.quads := by
      refine Eq.trans ?_ h1
      unfold k2
      split
      · split <;> simp
      · rfl
    have h3 : k3.quads = k.quads := (Chip.quads_sendRemote k2 c).trans h2
    split
    · exact h3
    · rw [ih, h3]

@[simp] theorem Chip.quads_drainAgent : (k.drainAgent a).quads = k.quads := by
  unfold Chip.drainAgent Chip.drainHartAll Chip.drainAll
  split <;> simp

@[simp] theorem Chip.quads_takeGrant (m : CohKind) (d : LineData) (p : Bool) :
    (k.takeGrant a line m d p).quads = k.quads := by
  cases hg : (k.cline a line).st.granted m with
  | none => rw [Chip.takeGrant_unexpected d p hg]; simp
  | some y => rw [Chip.takeGrant_taken d p hg]; simp

@[simp] theorem Chip.quads_takeWbAck : (k.takeWbAck a line).quads = k.quads := by
  unfold Chip.takeWbAck
  dsimp only
  split <;> simp

/-! ## Agents cut from lines -/

@[simp] theorem Chip.quads_flushLine : (k.flushLine line).quads = k.quads := by
  unfold Chip.flushLine
  dsimp only
  rw [Chip.quads_setDir, Chip.quads_foldl (fun k a => by simp)]
  split <;> rfl

@[simp] theorem Chip.quads_pieceFailed (p : Piece) (st id : Nat) (b : Bool) : (k.pieceFailed c n id p st b).quads = k.quads := by
  unfold Chip.pieceFailed
  dsimp only
  split <;> rfl

@[simp] theorem Chip.quads_severMovers (lost : Nat → Bool) (st : Nat) : (k.severMovers c lost st).quads = k.quads := by
  unfold Chip.severMovers
  refine Chip.quads_foldl (fun k m => Chip.quads_foldl (fun k d => ?_) _ k) _ k
  split
  · refine Chip.quads_foldl (fun k p => ?_) _ k
    split
    · rfl
    · split
      · simp
      · split <;> simp
  · rfl

@[simp] theorem Chip.quads_severAgent (lost : Nat → Bool) (st : Nat) : (k.severAgent a lost st).quads = k.quads := by
  unfold Chip.severAgent
  dsimp only
  split
  · rw [Chip.quads_foldl (fun k x => by simp), Chip.quads_foldl (fun k x => by simp)] <;> rfl
  · rw [Chip.quads_severMovers, Chip.quads_foldl (fun k x => by simp), Chip.quads_foldl (fun k x => by simp)] <;> rfl

@[simp] theorem Chip.quads_severAgents (as : List Nat) (lost : Nat → Bool) (st : Nat) :
    (k.severAgents as lost st).quads = k.quads :=
  Chip.quads_foldl (fun k a => Chip.quads_severAgent k a lost st) as k

end Frames

/-! ## What a home leaves of the quadrants -/

/-- The quadrants that sleep, and the launches of each, are the same. -/
def Chip.SameSeats (k t : Chip) : Prop :=
  ∀ q, (t.quad q).asleep = (k.quad q).asleep ∧ (t.quad q).launches = (k.quad q).launches

theorem Chip.SameSeats.refl (k : Chip) : k.SameSeats k := fun _ => ⟨rfl, rfl⟩

theorem Chip.SameSeats.trans {k t u : Chip} (h1 : k.SameSeats t) (h2 : t.SameSeats u) : k.SameSeats u := fun q =>
  ⟨(h2 q).1.trans (h1 q).1, (h2 q).2.trans (h1 q).2⟩

theorem Chip.SameSeats.of_quads {k t : Chip} (h : t.quads = k.quads) : k.SameSeats t := fun q => by
  unfold Chip.quad
  rw [h]
  exact ⟨rfl, rfl⟩

theorem Chip.SameSeats.foldl {α : Type} {f : Chip → α → Chip} (hf : ∀ (k : Chip) x, k.SameSeats (f k x)) (l : List α) (k : Chip) :
    k.SameSeats (l.foldl f k) := by
  induction l generalizing k with
  | nil => exact .refl k
  | cons x l ih => exact (hf k x).trans (ih _)

/-- A change of one quadrant that keeps whether it sleeps, and its launches. -/
theorem Chip.SameSeats.updQuad (k : Chip) (q : Nat) {g : Quad → Quad}
    (hg : ∀ d, (g d).asleep = d.asleep ∧ (g d).launches = d.launches) : k.SameSeats (k.updQuad q g) := fun r => by
  by_cases hr : r = q
  · subst hr
    rw [Chip.quad_upd_self]
    exact hg _
  · rw [Chip.quad_upd_ne _ _ hr]
    exact ⟨rfl, rfl⟩

section Seats

variable (k : Chip) (home line n : Nat)

theorem Chip.sameSeats_cacheUse (w b : Bool) : k.SameSeats (k.cacheUse line w b) := by
  unfold Chip.cacheUse
  dsimp only
  split
  · exact Chip.SameSeats.updQuad _ _ (fun d => ⟨rfl, rfl⟩)
  · exact .of_quads rfl

theorem Chip.sameSeats_homeRequest (r : HReq) : k.SameSeats (k.homeRequest home line r) := by
  have hs := Chip.quads_homeStart k home line r
  unfold Chip.homeRequest
  dsimp only
  split
  · exact .of_quads rfl
  · split
    · rename_i k1 he
      rw [he] at hs
      exact (Chip.SameSeats.of_quads hs).trans (k1.sameSeats_cacheUse line _ _)
    · rename_i k1 he
      rw [he] at hs
      exact .of_quads hs

theorem Chip.sameSeats_homeResume : k.SameSeats (k.homeResume home line) := by
  unfold Chip.homeResume
  dsimp only
  split
  · exact .refl k
  · rename_i r _
    have hs := Chip.quads_homeStart k home line r
    split
    · exact .refl k
    · split
      · rename_i k1 he
        rw [he] at hs
        exact (Chip.SameSeats.of_quads (t := k1.updHome home _) hs).trans (Chip.sameSeats_cacheUse _ line _ _)
      · rename_i k1 he
        rw [he] at hs
        exact .of_quads hs

theorem Chip.sameSeats_homeAnswer (a : Nat) (d : Option (LineData × Bool)) : k.SameSeats (k.homeAnswer home line a d) := by
  unfold Chip.homeAnswer
  split
  · exact .refl k
  · extract_lets k1 b'
    have h1 : k.SameSeats k1 := by
      unfold k1
      split
      · exact (Chip.SameSeats.of_quads (Chip.quads_writeLine k line _ _)).trans (Chip.sameSeats_cacheUse _ line _ _)
      · exact .refl k
    refine h1.trans (.of_quads ?_)
    split <;> simp

theorem Chip.sameSeats_deliver (m : CohMsg) : k.SameSeats (k.deliver m) := by
  unfold Chip.deliver
  split
  iterate 6 exact Chip.sameSeats_homeRequest k _ _ _
  · exact Chip.sameSeats_homeAnswer k _ _ _ _
  · split
    · exact Chip.sameSeats_homeAnswer k _ _ _ _
    · exact .of_quads rfl
  iterate 4 exact .of_quads (Chip.quads_takeSnoop k _ _)
  iterate 2 exact .of_quads (Chip.quads_takeGrant k _ _ _ _ _)
  · split
    · exact .of_quads (Chip.quads_takeWbAck k _ _)
    · exact .of_quads rfl
  iterate 3 exact .refl k

theorem Chip.sameSeats_settle : k.SameSeats (k.settle line n) := by
  induction n generalizing k with
  | zero => exact .refl k
  | succ n ih =>
    unfold Chip.settle
    split
    · refine Chip.SameSeats.trans ?_ (ih _)
      refine Chip.SameSeats.trans ?_ (Chip.sameSeats_deliver _ _)
      exact .of_quads rfl
    · dsimp only
      split
      · exact (Chip.sameSeats_homeResume k _ line).trans (ih _)
      · exact .refl k

theorem Chip.sameSeats_purgeLine (a : Nat) : k.SameSeats (k.purgeLine a line) := by
  unfold Chip.purgeLine
  dsimp only
  refine (k.sameSeats_settle line settleBound).trans (.of_quads ?_)
  rw [Chip.updLine_quads, Chip.quads_dropHolder]
  split <;> rfl

theorem Chip.sameSeats_purgeCache (c : Nat) : k.SameSeats (k.purgeCache c) :=
  Chip.SameSeats.foldl (fun k l => Chip.sameSeats_purgeLine k l (64 + c)) _ k

theorem Chip.sameSeats_flushHome : k.SameSeats (k.flushHome home) := by
  unfold Chip.flushHome
  refine Chip.SameSeats.foldl (fun k e => ?_) _ k
  refine (Chip.sameSeats_settle k e.1 settleBound).trans ?_
  generalize k.settle e.1 settleBound = t
  exact .of_quads (Chip.quads_flushLine t e.1)

theorem Chip.sameSeats_quiesceQuad (q : Nat) : k.SameSeats (k.quiesceQuad q) :=
  ((k.sameSeats_flushHome (160 + q)).trans
    (Chip.SameSeats.foldl (fun k c => Chip.sameSeats_purgeCache k c) _ _)).trans
    (Chip.SameSeats.updQuad _ q (fun _ => ⟨rfl, rfl⟩))

end Seats

end Sys2Proof.Machine
end

section
/-! PROOFS. Device states: entry to and return from D1 and D2, and the power-down (R480-R485). -/

namespace Sys2Proof.Machine

/-- What every step of a list establishes for its element, and no step breaks, holds of each element in the end. -/
theorem foldl_establishes {σ : Type} {f : σ → Nat → σ} {P : Nat → σ → Prop} (hself : ∀ s q, P q (f s q))
    (hkeep : ∀ s q r, P q s → P q (f s r)) {l : List Nat} {q : Nat} (hq : q ∈ l) (s : σ) : P q (l.foldl f s) := by
  have hall : ∀ (l : List Nat) (s : σ), P q s → P q (l.foldl f s) := by
    intro l
    induction l with
    | nil => exact fun s h => h
    | cons r l ih => exact fun s h => ih _ (hkeep s q r h)
  induction l generalizing s with
  | nil => exact absurd hq List.not_mem_nil
  | cons r l ih =>
    obtain rfl | hq := List.mem_cons.1 hq
    · exact hall l _ (hself s q)
    · exact ih hq _

/-! ## D1 -/

/-- A quadrant put to sleep. -/
def Chip.sleepQuad (k : Chip) (q : Nat) : Chip := (k.quiesceQuad q).updQuad q (fun d => { d with asleep := true })

theorem Chip.sleepQuad_self (k : Chip) (q : Nat) : ((k.sleepQuad q).quad q).asleep = true := by
  unfold Chip.sleepQuad
  rw [Chip.quad_upd_self]

theorem Chip.sleepQuad_keeps (k : Chip) (q r : Nat) (h : (k.quad q).asleep = true) :
    ((k.sleepQuad r).quad q).asleep = true := by
  by_cases hr : q = r
  · subst hr
    exact k.sleepQuad_self q
  · unfold Chip.sleepQuad
    rw [Chip.quad_upd_ne _ _ hr, (k.sameSeats_quiesceQuad r q).1, h]

theorem State.enterD1_spec (s : State) :
    s.enterD1.power.dstate = 1 ∧ (∀ q, q ∈ s.chip.runSeats → (s.enterD1.chip.quad q).asleep = true) ∧
    (∀ r, (s.enterD1.power.region r).activity = 0) ∧ s.enterD1.pins = s.pins ∧ s.enterD1.boot = s.boot := by
  refine ⟨rfl, fun q hq => ?_, fun r => ?_, rfl, rfl⟩
  · exact foldl_establishes (f := Chip.sleepQuad) (P := fun q k => (k.quad q).asleep = true) Chip.sleepQuad_self
      Chip.sleepQuad_keeps hq s.chip
  · exact congrArg Region.activity (tblGet_map Region.reset (fun g => { g with activity := 0 }) rfl s.power.regions r)

/-- A quadrant woken. -/
def Chip.wakeQuad (k : Chip) (q : Nat) : Chip := k.updQuad q (fun d => { d with asleep := false })

theorem Chip.wakeQuads_other {q : Nat} (l : List Nat) (h : q ∉ l) (k : Chip) :
    (l.foldl Chip.wakeQuad k).quad q = k.quad q := by
  induction l generalizing k with
  | nil => rfl
  | cons r l ih =>
    rw [List.foldl_cons, ih (fun hq => h (List.mem_cons_of_mem _ hq))]
    exact Chip.quad_upd_ne _ _ (fun e => h (e ▸ List.mem_cons_self))

theorem Chip.wakeQuads_byte (l : List Nat) (k : Chip) (a : Nat) : (l.foldl Chip.wakeQuad k).byte a = k.byte a := by
  induction l generalizing k with
  | nil => rfl
  | cons r l ih => exact ih _

theorem State.leaveD1_spec (s : State) :
    s.leaveD1.power.dstate = 0 ∧ (∀ q, q ∈ s.chip.runSeats → (s.leaveD1.chip.quad q).asleep = false) ∧
    (∀ q, q ∉ s.chip.runSeats → s.leaveD1.chip.quad q = s.chip.quad q) ∧ (∀ a, s.leaveD1.chip.byte a = s.chip.byte a) := by
  refine ⟨rfl, fun q hq => ?_, fun q hq => ?_, fun a => ?_⟩
  · refine foldl_establishes (f := Chip.wakeQuad) (P := fun q k => (k.quad q).asleep = false) (fun k q => ?_)
      (fun k q r h => ?_) hq s.chip
    · unfold Chip.wakeQuad
      rw [Chip.quad_upd_self]
    · unfold Chip.wakeQuad
      by_cases hr : q = r
      · subst hr
        rw [Chip.quad_upd_self]
      · rw [Chip.quad_upd_ne _ _ hr, h]
  · exact Chip.wakeQuads_other _ hq s.chip
  · exact Chip.wakeQuads_byte _ s.chip a

/-! ## A quadrant that starts anew -/

/-- Repairs end what is pending for a quadrant, and change nothing else of it. -/
theorem Chip.quad_applyRepairs (k : Chip) (sts : List Nat) (q : Nat) :
    ∃ v, (k.applyRepairs sts).quad q = { k.quad q with pprPend := v } := by
  let f : Nat → Quad → Quad := fun r d => if (stacksOf r).any sts.contains then { d with pprPend := 0 } else d
  have hq : (k.applyRepairs sts).quads = k.quads.map (fun e => (e.1, f e.1 e.2)) := by
    unfold Chip.applyRepairs
    dsimp only
    rw [Chip.quads_foldl]
    · refine List.map_congr_left (fun e _ => ?_)
      unfold f
      split <;> rfl
    · exact fun k la => rfl
  have hf : ∀ r, f r Quad.reset = Quad.reset := fun r => by unfold f; split <;> rfl
  unfold Chip.quad
  rw [hq, tblGet_mapKey Quad.reset f hf]
  unfold f
  split
  · exact ⟨0, rfl⟩
  · exact ⟨_, rfl⟩

/-- The quadrant that a reset leaves. -/
def Quad.cleared (d : Quad) : Quad :=
  { trainingQuad with
    nextLaunch := d.nextLaunch, charged := d.charged, hbmCe := d.hbmCe, sramCe := d.sramCe, ue := d.ue,
    pprPend := d.pprPend }

/-- A reset of one quadrant leaves the others, but for repairs that end. -/
theorem Chip.quad_clearQuad (k : Chip) (q r : Nat) :
    ∃ v, (k.clearQuad r).quad q = { (if q = r then (k.quad r).cleared else k.quad q) with pprPend := v } := by
  let k1 := k.updQuad r (fun _ => (k.quad r).cleared)
  let k2 := (quadClusters r).foldl (fun k c => k.updCluster c (fun x =>
    { Cluster.reset with nextNo := x.nextNo, nextId := x.nextId })) k1
  have h2 : (k2.zeroQuad r).quads = k1.quads := Chip.quads_foldl (fun k c => rfl) (quadClusters r) k1
  have h1 : k1.quad q = if q = r then (k.quad r).cleared else k.quad q := by
    split
    · rename_i h
      subst h
      exact Chip.quad_upd_self _ _ _
    · rename_i h
      exact Chip.quad_upd_ne _ _ h
  obtain ⟨v, hv⟩ := (k2.zeroQuad r).quad_applyRepairs (stacksOf r) q
  refine ⟨v, ?_⟩
  rw [← h1, ← show (k2.zeroQuad r).quad q = k1.quad q by unfold Chip.quad; rw [h2]]
  exact hv

/-! ## D2 -/

/-- A quadrant as D2 takes it. -/
def Chip.downQuad (k : Chip) (q : Nat) : Chip :=
  (((k.quiesceQuad q).severAgents hartAgents (k.unitsOf q) stLinkLost).clearQuad q).updQuad q (fun d =>
    { d with asleep := true, underReset := false })

theorem Chip.downQuad_self (k : Chip) (q : Nat) :
    ((k.downQuad q).quad q).asleep = true ∧ ((k.downQuad q).quad q).launches = [] := by
  unfold Chip.downQuad
  obtain ⟨v, hv⟩ := ((k.quiesceQuad q).severAgents hartAgents (k.unitsOf q) stLinkLost).quad_clearQuad q q
  rw [Chip.quad_upd_self, hv, if_pos rfl]
  exact ⟨rfl, rfl⟩

theorem Chip.downQuad_keeps (k : Chip) (q r : Nat) (h : (k.quad q).asleep = true ∧ (k.quad q).launches = []) :
    ((k.downQuad r).quad q).asleep = true ∧ ((k.downQuad r).quad q).launches = [] := by
  by_cases hr : q = r
  · subst hr
    exact k.downQuad_self q
  · unfold Chip.downQuad
    rw [Chip.quad_upd_ne _ _ hr]
    have h1 := k.sameSeats_quiesceQuad r
    generalize k.quiesceQuad r = t at *
    have hs := h1.trans (.of_quads (t.quads_severAgents hartAgents (k.unitsOf r) stLinkLost)) q
    generalize t.severAgents hartAgents (k.unitsOf r) stLinkLost = u at *
    obtain ⟨v, hv⟩ := u.quad_clearQuad q r
    rw [hv, if_neg hr]
    exact ⟨hs.1.trans h.1, hs.2.trans h.2⟩

/-- Every port is off. -/
def Fabric.AllOff (f : Fabric) : Prop := ∀ n, n < 12 → (f.port n).st = .off

theorem Fabric.place_allOff {f : Fabric} (h : f.AllOff) (w : JoinWait) : (f.place w).AllOff := by
  have hl : f.live w.group = [] := by
    unfold Fabric.live
    rw [List.filter_eq_nil_iff]
    intro n hn
    rw [h n (List.mem_range.1 hn)]
    simp
  unfold Fabric.place
  rw [hl]
  exact h

theorem Fabric.release_allOff {f : Fabric} (h : f.AllOff) : f.release.AllOff := by
  have hall : ∀ (l : List JoinWait) (f : Fabric), f.AllOff → (l.foldl Fabric.place f).AllOff := by
    intro l
    induction l with
    | nil => exact fun f h => h
    | cons w l ih => exact fun f h => ih _ (Fabric.place_allOff h w)
  unfold Fabric.release
  exact hall _ _ h

/-- A port switched off. -/
def Port.switchedOff (p : Port) : Port := { p.restart with st := .off }

theorem Fabric.switchOff_allOff (f : Fabric) :
    ((List.range 12).foldl (fun f n => f.updPort n Port.switchedOff) f).AllOff := fun n hn =>
  Fabric.foldl_updPort_port Port.switchedOff (fun p => p.st = .off) (fun _ => rfl) (List.range 12) f n
    (.inl (List.mem_range.2 hn))

/-! ### Hinges -/

/-- Each side is as it was, or off. -/
def Links.Quieter (l t : Links) : Prop := ∀ n, (t.side n).st = (l.side n).st ∨ (t.side n).st = .off

theorem Links.Quieter.refl (l : Links) : l.Quieter l := fun _ => .inl rfl

theorem Links.Quieter.trans {l t u : Links} (h1 : l.Quieter t) (h2 : t.Quieter u) : l.Quieter u := fun n =>
  (h2 n).elim (fun h => (h1 n).imp h.trans h.trans) .inr

theorem Links.Quieter.updSide (l : Links) (n : Nat) {f : Side → Side} (hf : ∀ x, (f x).st = .off) :
    l.Quieter (l.updSide n f) := fun m => by
  by_cases hm : m = n
  · subst hm
    rw [Links.side_updSide_self]
    exact .inr (hf _)
  · rw [Links.side_updSide_ne l hm]
    exact .inl rfl

/-- A hinge is off, or has failed. -/
def Links.HingeDown (l : Links) (h : Nat) : Prop := l.hingeState h = .off ∨ l.hingeState h = .failed

theorem Links.HingeDown.quieter {l t : Links} {h : Nat} (hd : l.HingeDown h) (hq : l.Quieter t) : t.HingeDown h := by
  unfold Links.HingeDown Links.hingeState at *
  obtain ha | ha := hq (authSide h)
  · rw [ha]
    split
    · rename_i hact
      rw [if_pos hact] at hd
      obtain hs | hs := hq (subSide h)
      · rw [hs]
        exact hd
      · exact .inl hs
    · rename_i hact
      rw [if_neg hact] at hd
      exact hd
  · rw [ha]
    exact .inl rfl

/-- A side that goes off. -/
def Side.wentOff (x : Side) : Side :=
  { x with st := .off, waiting := false, wanted := false, bundles := [], held := [], before := none }

/-- One hinge of a seat goes off, unless it has failed. -/
def Links.resetHinge (q : Nat) (l : Links) (h : Nat) : Links :=
  if l.hingeState h = .failed then l
  else
    let l1 := l.updHinge h Side.wentOff
    let mine := if dieOf (authSide h) = q then authSide h else subSide h
    { l1.updSide mine (fun _ => { Side.reset with fresh := true }) with
      wire := l1.wire.filter (fun w => hingeOf w.1 ≠ h)
      records := l1.records.filter (fun r => hingeOf r.1 ≠ h)
      discHeld := l1.discHeld.filter (fun r => hingeOf r.1 ≠ h) }

theorem Links.resetSeat_eq (l : Links) (q : Nat) : l.resetSeat q = (seatHinges q).foldl (Links.resetHinge q) l := rfl

theorem Links.resetHinge_quieter (q : Nat) (l : Links) (h : Nat) : l.Quieter (l.resetHinge q h) := by
  unfold Links.resetHinge
  split
  · exact .refl l
  · exact ((Links.Quieter.updSide l (authSide h) (f := Side.wentOff) (fun _ => rfl)).trans
      (Links.Quieter.updSide _ (subSide h) (f := Side.wentOff) (fun _ => rfl))).trans
      (Links.Quieter.updSide _ _ (f := fun _ => { Side.reset with fresh := true }) (fun _ => rfl))

theorem Links.resetHinge_down (q : Nat) (l : Links) (h : Nat) : (l.resetHinge q h).HingeDown h := by
  unfold Links.resetHinge
  split
  · rename_i hf
    exact .inr hf
  · have h1 : (l.updHinge h Side.wentOff).HingeDown h := by
      have ha : ((l.updHinge h Side.wentOff).side (authSide h)).st = .off := by
        unfold Links.updHinge
        by_cases he : authSide h = subSide h
        · rw [he, Links.side_updSide_self] <;> rfl
        · rw [Links.side_updSide_ne _ he, Links.side_updSide_self] <;> rfl
      unfold Links.HingeDown Links.hingeState
      rw [ha]
      exact .inl rfl
    exact h1.quieter (Links.Quieter.updSide _ _ (f := fun _ => { Side.reset with fresh := true }) (fun _ => rfl))

theorem Links.resetSeat_down (q : Nat) (l : Links) {h : Nat} (hh : h ∈ seatHinges q) : (l.resetSeat q).HingeDown h := by
  rw [Links.resetSeat_eq]
  exact foldl_establishes (P := fun h l => Links.HingeDown l h) (Links.resetHinge_down q)
    (fun l h r hd => hd.quieter (Links.resetHinge_quieter q l r)) hh l

theorem Links.resetSeat_quieter (q : Nat) (l : Links) : l.Quieter (l.resetSeat q) := by
  rw [Links.resetSeat_eq]
  generalize seatHinges q = hs
  induction hs generalizing l with
  | nil => exact .refl l
  | cons h hs ih => exact (Links.resetHinge_quieter q l h).trans (ih _)

theorem State.enterD2_spec (s : State) :
    s.enterD2.power.dstate = 2 ∧
    (∀ q, q ∈ s.chip.runSeats → (s.enterD2.chip.quad q).asleep = true ∧ (s.enterD2.chip.quad q).launches = []) ∧
    (∀ n, n < 12 → (s.enterD2.chip.fabric.port n).st = .off) ∧
    (∀ q ∈ s.chip.seats, ∀ h ∈ seatHinges q, s.enterD2.links.hingeState h = .off ∨ s.enterD2.links.hingeState h = .failed) ∧
    (∀ r, r ∈ s.enterD2.pins.rails ↔ r ∈ s.pins.rails ∧ (r < 3 ∨ 5 < r)) ∧ s.enterD2.boot = s.boot := by
  refine ⟨rfl, fun q hq => ?_, ?_, fun q hq => ?_, fun r => ?_, rfl⟩
  · exact foldl_establishes (f := Chip.downQuad)
      (P := fun q k => (k.quad q).asleep = true ∧ (k.quad q).launches = []) Chip.downQuad_self Chip.downQuad_keeps hq s.chip
  · exact Fabric.release_allOff (Fabric.switchOff_allOff _)
  · exact foldl_establishes (P := fun q l => ∀ h ∈ seatHinges q, Links.HingeDown l h)
      (fun l q h hh => Links.resetSeat_down q l hh)
      (fun l q r hl h hh => (hl h hh).quieter (Links.resetSeat_quieter r l)) hq _
  · show r ∈ s.pins.rails.filter (fun r => decide (r < 3) || decide (5 < r)) ↔ _
    rw [List.mem_filter, Bool.or_eq_true, decide_eq_true_eq, decide_eq_true_eq]

/-! ## The return from D2 -/

@[simp] theorem Links.rediscover_send (l : Links) (n : Nat) (m : NetMsg) : (l.send n m).rediscover = l.rediscover := by
  unfold Links.send
  split <;> rfl

/-- Messages on their way leave the chip and the seats that repeat discovery. -/
theorem State.sendFrom_keeps (s : State) (d : Nat) (m : NetMsg) :
    (s.sendFrom d m).chip = s.chip ∧ (s.sendFrom d m).links.rediscover = s.links.rediscover := by
  unfold State.sendFrom
  split
  · exact ⟨rfl, rfl⟩
  · exact ⟨rfl, Links.rediscover_send _ _ _⟩
  · exact ⟨rfl, rfl⟩
  · exact ⟨rfl, rfl⟩

theorem State.leaveSeat_keeps (s : State) (q : Nat) (u : Bool) (e : Nat × NetMsg) :
    (s.leaveSeat q u e).chip = s.chip ∧ (s.leaveSeat q u e).links.rediscover = s.links.rediscover := by
  unfold State.leaveSeat
  split
  · exact ⟨rfl, rfl⟩
  · split
    · exact ⟨rfl, rfl⟩
    · exact s.sendFrom_keeps _ _

theorem State.evacuate_keeps (s : State) (q : Nat) (u : Bool) :
    (s.evacuate q u).chip = s.chip ∧ (s.evacuate q u).links.rediscover = s.links.rediscover := by
  have hall : ∀ (l : List (Nat × NetMsg)) (t : State),
      (l.foldl (fun s e => s.leaveSeat q u e) t).chip = t.chip ∧
      (l.foldl (fun s e => s.leaveSeat q u e) t).links.rediscover = t.links.rediscover := by
    intro l
    induction l with
    | nil => exact fun t => ⟨rfl, rfl⟩
    | cons e l ih => exact fun t =>
        ⟨(ih _).1.trans (t.leaveSeat_keeps q u e).1, (ih _).2.trans (t.leaveSeat_keeps q u e).2⟩
  have hc : (s.links.clearSeat q).rediscover = s.links.rediscover := by
    have hf : ∀ (hs : List Nat) (l : Links),
        (hs.foldl (fun l h => l.updHinge h (fun x => { x with bundles := [], held := [] })) l).rediscover
          = l.rediscover := by
      intro hs
      induction hs with
      | nil => exact fun l => rfl
      | cons h hs ih => exact fun l => ih _
    exact hf (seatHinges q) s.links
  exact ⟨(hall _ _).1, (hall _ _).2.trans hc⟩

/-- A seat that trains again: the quadrants stay, and the seat is the last that repeats discovery. -/
theorem State.retrainSeat_keeps (s : State) (q : Nat) :
    (s.retrainSeat q).chip.quads = s.chip.quads ∧
    (s.retrainSeat q).links.rediscover = s.links.rediscover.filter (· ≠ q) ++ [q] := by
  obtain ⟨h1, h2⟩ := s.evacuate_keeps q false
  refine ⟨(congrArg Chip.quads h1 :), ?_⟩
  show ((s.evacuate q false).links.rediscover.filter (· ≠ q)) ++ [q] = _
  rw [h2]

/-- A seat on the return from D2. -/
def State.wakeSeat (s : State) (q : Nat) : State := (s.onChip (fun k => k.clearQuad q)).retrainSeat q

theorem State.wakeSeat_self (s : State) (q : Nat) :
    q ∈ (s.wakeSeat q).links.rediscover ∧ ((s.wakeSeat q).chip.quad q).underReset = true := by
  obtain ⟨h1, h2⟩ := (s.onChip (fun k => k.clearQuad q)).retrainSeat_keeps q
  obtain ⟨v, hv⟩ := s.chip.quad_clearQuad q q
  refine ⟨?_, ?_⟩
  · unfold State.wakeSeat
    rw [h2]
    exact List.mem_append_right _ List.mem_cons_self
  · have e : (s.wakeSeat q).chip.quad q = (s.chip.clearQuad q).quad q := by
      unfold State.wakeSeat Chip.quad
      rw [h1] <;> rfl
    rw [e, hv, if_pos rfl] <;> rfl

theorem State.wakeSeat_keeps (s : State) (q r : Nat)
    (h : q ∈ s.links.rediscover ∧ (s.chip.quad q).underReset = true) :
    q ∈ (s.wakeSeat r).links.rediscover ∧ ((s.wakeSeat r).chip.quad q).underReset = true := by
  by_cases hr : q = r
  · subst hr
    exact s.wakeSeat_self q
  · obtain ⟨h1, h2⟩ := (s.onChip (fun k => k.clearQuad r)).retrainSeat_keeps r
    obtain ⟨v, hv⟩ := s.chip.quad_clearQuad q r
    refine ⟨?_, ?_⟩
    · unfold State.wakeSeat
      rw [h2]
      exact List.mem_append_left _ (List.mem_filter.2 ⟨h.1, decide_eq_true hr⟩)
    · have e : (s.wakeSeat r).chip.quad q = (s.chip.clearQuad r).quad q := by
        unfold State.wakeSeat Chip.quad
        rw [h1] <;> rfl
      rw [e, hv, if_neg hr]
      exact h.2

theorem State.leaveD2_spec (s : State) :
    s.leaveD2.power.dstate = 0 ∧ s.leaveD2.power.moving = true ∧ s.leaveD2.pins.rails = [1, 2, 3, 4, 5, 6, 7] ∧
    (∀ q, q ∈ s.chip.runSeats → q ∈ s.leaveD2.links.rediscover ∧ (s.leaveD2.chip.quad q).underReset = true) :=
  ⟨rfl, rfl, rfl, fun _ hq => foldl_establishes (f := State.wakeSeat)
    (P := fun q s => q ∈ s.links.rediscover ∧ (s.chip.quad q).underReset = true) State.wakeSeat_self
    State.wakeSeat_keeps hq s⟩

/-! ## The power-down -/

theorem State.powerDown_spec {s d : State} (hd : s.drainModule = d) :
    s.powerDown.pins.pgood = false ∧ s.powerDown.pins.rails = [] ∧ s.powerDown.boot.phase = .off ∧
    (∀ a, s.powerDown.chip.byte a = 0) ∧ s.powerDown.boot.counter = d.boot.counter ∧
    s.powerDown.boot.owner = d.boot.owner ∧
    s.powerDown.boot.tumbler.floor = d.boot.tumbler.floor ∧
    s.powerDown.chip.fabric.podRec = d.chip.fabric.podRec ∧
    s.powerDown.chip.mgmt.log = d.chip.mgmt.log := by
  unfold State.powerDown
  rw [hd]
  exact ⟨rfl, rfl, rfl, fun _ => rfl, rfl, rfl, rfl, rfl, rfl⟩

end Sys2Proof.Machine
end

section
/-! PROOFS. Clocks, limiters and energy counters (R477, R486-R490, R492, R495, R497, R498). -/

namespace Sys2Proof.Machine

/-! ## Limits -/

/-- The lesser of two limits with their codes; the first on a tie. -/
def lesser (b x : Nat × BitVec 3) : Nat × BitVec 3 := if x.fst < b.fst then x else b

theorem lesser_spec (b x : Nat × BitVec 3) :
    (lesser b x).1 ≤ b.1 ∧ (lesser b x).1 ≤ x.1 ∧ (lesser b x = b ∨ lesser b x = x) := by
  unfold lesser
  split
  · exact ⟨by omega, le_rfl, .inr rfl⟩
  · exact ⟨le_rfl, by omega, .inl rfl⟩

/-- The limit in force is no greater than any limit, and its code names one that it equals. -/
def IsLimit (req cap throt oc : Nat) (est : Option Nat) (b : Nat × BitVec 3) : Prop :=
  b.1 ≤ req ∧ b.1 ≤ cap ∧ b.1 ≤ throt ∧ b.1 ≤ oc ∧ (∀ x, est = some x → b.1 ≤ x) ∧
    (b.2 = 0 ∧ b.1 = req ∨ b.2 = 1 ∧ b.1 = cap ∨ b.2 = 2 ∧ b.1 = throt ∨ b.2 = 3 ∧ b.1 = oc ∨
      b.2 = 4 ∧ est = some b.1)

/-- The smallest of the limits that do not come from the estimator. -/
theorem isLimit_settled (req cap throt oc : Nat) :
    IsLimit req cap throt oc none (lesser (lesser (lesser (req, 0) (cap, 1)) (throt, 2)) (oc, 3)) := by
  obtain ⟨h1, h2, h3⟩ := lesser_spec (req, 0) (cap, 1)
  obtain ⟨h4, h5, h6⟩ := lesser_spec (lesser (req, 0) (cap, 1)) (throt, 2)
  obtain ⟨h7, h8, h9⟩ := lesser_spec (lesser (lesser (req, 0) (cap, 1)) (throt, 2)) (oc, 3)
  refine ⟨(h7.trans h4).trans h1, (h7.trans h4).trans h2, h7.trans h5, h8, by simp, ?_⟩
  obtain h9 | h9 := h9
  · rw [h9]
    obtain h6 | h6 := h6
    · rw [h6]
      obtain h3 | h3 := h3
      · rw [h3]
        exact .inl ⟨rfl, rfl⟩
      · rw [h3]
        exact .inr (.inl ⟨rfl, rfl⟩)
    · rw [h6]
      exact .inr (.inr (.inl ⟨rfl, rfl⟩))
  · rw [h9]
    exact .inr (.inr (.inr (.inl ⟨rfl, rfl⟩)))

theorem smallest_isLimit (req cap throt oc : Nat) (est : Option Nat) :
    IsLimit req cap throt oc est (smallest req cap throt oc est) := by
  have hb := isLimit_settled req cap throt oc
  cases est with
  | none => exact hb
  | some e =>
    have he : smallest req cap throt oc (some e) =
        lesser (lesser (lesser (lesser (req, 0) (cap, 1)) (throt, 2)) (oc, 3)) (e, 4) := rfl
    rw [he]
    generalize lesser (lesser (lesser (req, 0) (cap, 1)) (throt, 2)) (oc, 3) = b at *
    obtain ⟨h1, h2, h3⟩ := lesser_spec b (e, 4)
    obtain ⟨r1, r2, r3, r4, _, r5⟩ := hb
    refine ⟨h1.trans r1, h1.trans r2, h1.trans r3, h1.trans r4, fun x hx => ?_, ?_⟩
    · obtain rfl := Option.some.inj hx
      exact h2
    · obtain h3 | h3 := h3
      · rw [h3]
        exact r5.imp id (Or.imp id (Or.imp id (Or.imp id (fun h => absurd h.2 (by simp)))))
      · rw [h3]
        exact .inr (.inr (.inr (.inr ⟨rfl, rfl⟩)))

theorem limStep_eq (lim target down : Nat) (a b : Prop) [Decidable a] [Decidable b] :
    limStep lim target down (decide a) (decide b) =
      if a then max 2600 (min lim target - down) else if b then min 8400 (lim + 100) else lim := by
  simp only [limStep, decide_eq_true_eq]

/-! ## Power windows -/

/-- The ceilings of regions are all that throttling sets. -/
theorem Power.throttleRegions_eq (l : List Nat) (p : Power) :
    ∃ rs, l.foldl Power.throttleRegion p = { p with regions := rs } := by
  induction l generalizing p with
  | nil => exact ⟨p.regions, rfl⟩
  | cons r l ih =>
    obtain ⟨rs, h⟩ := ih (p.throttleRegion r)
    exact ⟨rs, h⟩

/-- What the end of a window leaves of the limiters and the target. -/
theorem State.windowLimits_spec {s : State} {r : WindowReading} {u : Power} (hu : s.windowLimits r = u) :
    u.inputW = r.inputW ∧ u.root = s.power.root ∧ u.cap = s.power.capSet ∧
    u.capLim = (if s.power.limit s.chip.variantIx < r.inputW.toNat then
        max 2600 (min s.power.capLim s.power.target -
          100 * max 1 ((r.inputW.toNat - s.power.limit s.chip.variantIx) / 50))
      else if 100 * r.inputW.toNat < 97 * s.power.limit s.chip.variantIx then min 8400 (s.power.capLim + 100)
      else s.power.capLim) ∧
    u.ocLim = (if inputLimitOf s.chip.variantIx < r.inputA.toNat then
        max 2600 (min s.power.ocLim s.power.target - 200)
      else if 10 * r.inputA.toNat < 9 * inputLimitOf s.chip.variantIx then min 8400 (s.power.ocLim + 100)
      else s.power.ocLim) ∧
    IsLimit u.requested u.capLim u.throtLim u.ocLim u.estLim (u.target, u.limiter) ∧
    (s.power.fixed = true → u.requested = s.power.requested) := by
  have hl := smallest_isLimit (s.nextRequested r.inputW.toNat (s.power.limit s.chip.variantIx))
    (capStep s.power.capLim s.power.target r.inputW.toNat (s.power.limit s.chip.variantIx))
    (limStep s.power.throtLim s.power.target 100 ((s.power.sensor 20).atLeast 840) ((s.power.sensor 20).below 824))
    (limStep s.power.ocLim s.power.target 200 (decide (inputLimitOf s.chip.variantIx < r.inputA.toNat))
      (decide (10 * r.inputA.toNat < 9 * inputLimitOf s.chip.variantIx)))
    (s.power.estLim.map (fun _ => if s.power.limit s.chip.variantIx = tdpOf s.chip.variantIx then 7800 else r.estimateMhz))
  unfold State.windowLimits at hu
  dsimp only at hu
  generalize smallest _ _ _ _ _ = b at hl hu
  obtain ⟨t, l⟩ := b
  dsimp only at hu
  obtain ⟨rs, hrs⟩ := Power.throttleRegions_eq (List.range 12) _
  rw [hrs] at hu
  subst hu
  refine ⟨rfl, rfl, rfl, ?_, ?_, hl, fun hf => ?_⟩
  · exact limStep_eq _ _ _ _ _
  · exact limStep_eq _ _ _ _ _
  · exact if_pos hf

/-- The record of intervals leaves the limiters, the quadrants and the pins. -/
theorem State.recordIntervals_keeps (s : State) :
    (∃ a i l h, s.recordIntervals.power =
      { s.power with acted := a, intervals := i, lastLoop := l, history := h }) ∧
    s.recordIntervals.chip.quads = s.chip.quads ∧ s.recordIntervals.pins = s.pins := by
  have hpost : ∀ (l : List Nat) (n : Nat) (t : State),
      (l.foldl (fun s loop => s.onChip (fun k => k.post 0x0202 1 7 [loop, n])) t).power = t.power ∧
      (l.foldl (fun s loop => s.onChip (fun k => k.post 0x0202 1 7 [loop, n])) t).chip.quads = t.chip.quads ∧
      (l.foldl (fun s loop => s.onChip (fun k => k.post 0x0202 1 7 [loop, n])) t).pins = t.pins := by
    intro l n
    induction l with
    | nil => exact fun t => ⟨rfl, rfl, rfl⟩
    | cons x l ih => exact fun t => ih _
  unfold State.recordIntervals
  dsimp only
  split
  · exact ⟨⟨s.power.acted, s.power.intervals, s.power.lastLoop, s.power.history, rfl⟩, rfl, rfl⟩
  · split
    · exact ⟨⟨[], s.power.intervals, s.power.lastLoop, s.power.history, rfl⟩, rfl, rfl⟩
    · obtain ⟨h1, h2, h3⟩ := hpost s.power.acted _ _
      exact ⟨⟨_, _, _, _, h1⟩, h2, h3⟩

/-- The end of a power window of 1 ms. -/
theorem execPowerWindow_up {s : State} (r : WindowReading) (hup : s.tumblerUp = true) :
    ∃ t : State, exec (.powerWindow r) s = .next t ∧
      (∃ a i l h, t.power = { s.windowLimits r with acted := a, intervals := i, lastLoop := l, history := h }) ∧
      t.chip.quads = s.chip.quads ∧ t.pins = s.pins := by
  have e : exec (.powerWindow r) s = execPowerWindow r s := rfl
  rw [e]
  unfold execPowerWindow
  dsimp only
  rw [if_neg (by simp [hup])]
  have key : ∀ s2 : State, s2.power = s.windowLimits r ∧ s2.chip.quads = s.chip.quads ∧ s2.pins = s.pins →
      ∃ t : State, (.next s2.recordIntervals : Out) = .next t ∧
        (∃ a i l h, t.power = { s.windowLimits r with acted := a, intervals := i, lastLoop := l, history := h }) ∧
        t.chip.quads = s.chip.quads ∧ t.pins = s.pins := by
    rintro s2 ⟨hp, hq, hn⟩
    obtain ⟨⟨a, i, l, h, h1⟩, h3, h4⟩ := s2.recordIntervals_keeps
    rw [hp] at h1
    exact ⟨_, rfl, ⟨a, i, l, h, h1⟩, h3.trans hq, h4.trans hn⟩
  exact key _ (by split <;> exact ⟨rfl, rfl, rfl⟩)

/-! ## Energy -/

/-- The clusters of a quadrant that will be charged. -/
def Chip.charge (k : Chip) (q : Nat) : Chip := k.updQuad q (fun d => { d with charged := d.charging })

theorem Chip.quad_charges (l : List Nat) (k : Chip) {q : Nat} (h : q ∈ l ∨ (k.quad q).charged = (k.quad q).charging) :
    ((l.foldl Chip.charge k).quad q).charged = (k.quad q).charging ∧
    ((l.foldl Chip.charge k).quad q).launches = (k.quad q).launches := by
  induction l generalizing k with
  | nil => exact ⟨h.resolve_left List.not_mem_nil, rfl⟩
  | cons r l ih =>
    by_cases hr : q = r
    · subst hr
      have e : (k.charge q).quad q = { k.quad q with charged := (k.quad q).charging } := Chip.quad_upd_self k q _
      have hi := ih (k.charge q) (.inr (by rw [e] <;> rfl))
      rw [e] at hi
      exact hi
    · have e : (k.charge r).quad q = k.quad q := Chip.quad_upd_ne k _ hr
      have hi := ih (k.charge r) (by
        rw [e]
        exact h.imp_left (fun h => (List.mem_cons.1 h).resolve_left hr))
      rw [e] at hi
      exact hi

theorem Chip.mem_charges (l : List Nat) (k : Chip) : (l.foldl Chip.charge k).mem = k.mem := by
  induction l generalizing k with
  | nil => rfl
  | cons r l ih => exact ih _

/-- One measured amount goes to its counter. -/
theorem addEnergy_one (m : SMap U64) {l : List (Nat × Nat)} {i x : Nat} (h : l = [(i, x)]) :
    tblGet 0 (addEnergy m l) i = tblGet 0 m i + BitVec.ofNat 64 x := by
  subst h
  exact tblGet_mod_self (0 : U64) m i (· + BitVec.ofNat 64 x)

/-- One share is charged as far as the core energy of its quadrant reaches. -/
theorem addShares_one (ran : Nat → Nat → Bool) (m : SMap U64) {c n x y : Nat} :
    tblGet 0 (addShares ran m [(c / 24, x)] [(c, (n, y))]) n =
      tblGet 0 m n + (if ran c n = true then BitVec.ofNat 64 (min y x) else 0) := by
  unfold addShares
  split
  · have hl : (([(c / 24, x)].filter (fun e => e.1 = c / 24)).map (·.2)).foldl (· + ·) 0 = x := by simp
    unfold addShares
    dsimp only
    rw [hl]
    exact tblGet_mod_self (0 : U64) m n (· + BitVec.ofNat 64 (min y x))
  · unfold addShares
    exact (BitVec.add_zero _).symm

/-- The fields that an update of the energy counters sets. -/
theorem execEnergyUpdate_up {s : State} (e : EnergyReading) (hup : s.tumblerUp = true) :
    ∃ t : State, exec (.energyUpdate e) s = .next t ∧ t.chip = (List.range 4).foldl Chip.charge s.chip ∧
      t.links = s.links ∧
      t.power.hostEnergy = s.power.hostEnergy + BitVec.ofNat 64 e.hostDie ∧
      t.power.modEnergy = s.power.modEnergy + BitVec.ofNat 64 e.module ∧
      t.power.qEnergy = addEnergy s.power.qEnergy (e.core.filter (fun x => s.chip.quadPresent x.1)) ∧
      t.power.hbmEnergy = addEnergy s.power.hbmEnergy (e.stack.filter (fun x => s.chip.stackPresent x.1)) ∧
      t.power.wqEnergy = addShares (fun c n => (s.chip.quad (c / 24)).charged.contains (c, n)) s.power.wqEnergy
        (e.core.filter (fun x => s.chip.quadPresent x.1)) e.share := by
  have h : exec (.energyUpdate e) s = execEnergyUpdate e s := rfl
  rw [h]
  unfold execEnergyUpdate
  rw [if_pos hup]
  exact ⟨_, rfl, rfl, rfl, rfl, rfl, rfl, rfl, rfl⟩

end Sys2Proof.Machine
end

section
/-! PROOFS. Regions and sensors (R393, R491, R493-R495, R501), and the rows of power (O57). -/

namespace Sys2Proof.Machine

/-! ## Regions -/

/-- A number that moves up stays below its goal, and comes as near as its step allows; so it is for one that moves down. -/
theorem towards_spec (x goal n : Nat) :
    (x ≤ goal → x ≤ towards x goal n ∧ towards x goal n ≤ goal ∧ towards x goal n ≤ x + n ∧
      (towards x goal n = goal ∨ towards x goal n = x + n)) ∧
    (goal ≤ x → goal ≤ towards x goal n ∧ towards x goal n ≤ x ∧ x ≤ towards x goal n + n ∧
      (towards x goal n = goal ∨ towards x goal n + n = x)) := by
  unfold towards
  split <;> omega

theorem towards_le (x goal n : Nat) {b : Nat} (hx : x ≤ b) (hg : goal ≤ b) : towards x goal n ≤ b := by
  unfold towards
  split <;> omega

/-- A window of a clocked region. -/
theorem execRampWindow_clocked {s : State} {r : Nat} (d : BitVec 8) (hr : r < 12)
    (hc : quadClocked (s.chip.quad (r / 3)) = true) :
    exec (.rampWindow r d) s = .next (s.onPower (fun p => p.updRegion r (fun g =>
      { g with activity := BitVec.ofNat 8 (towards g.activity.toNat
        (min d.toNat (min g.ceiling.toNat (if p.railCap.contains (r / 3) then 128 else 255))) (rampStep g.table)) }))) := by
  have e : exec (.rampWindow r d) s = execRampWindow r d s := rfl
  rw [e]
  unfold execRampWindow
  rw [if_pos (by rw [hc, decide_eq_true hr] <;> rfl)]

/-- The droop detector of a clocked region. -/
theorem execDroopDetect_clocked {s : State} {r : Nat} (hr : r < 12) (hc : quadClocked (s.chip.quad (r / 3)) = true) :
    exec (.droopDetect r) s = .next { s with
      power := (s.power.updRegion r (fun g => { g with droop := true })).act 1 } := by
  have e : exec (.droopDetect r) s = execDroopDetect r s := rfl
  rw [e]
  unfold execDroopDetect
  rw [if_pos (by rw [hc, decide_eq_true hr] <;> rfl)] <;> rfl

theorem Power.mem_act (p : Power) (n : Nat) : n ∈ (p.act n).acted := by
  unfold Power.act
  split
  · rename_i h
    exact List.contains_iff_mem.1 h
  · exact List.mem_append_right _ List.mem_cons_self

/-! ## Sensors -/

/-- The throttle threshold of a sensor. -/
theorem throttleAt_rows (n : Nat) :
    (n < 12 ∨ n = 20 → throttleAt n = some 840) ∧ (¬ (n < 12 ∨ n = 20) → n < 20 → throttleAt n = some 760) ∧
    (¬ (n < 12 ∨ n = 20) → ¬ n < 20 → throttleAt n = none) := by
  unfold throttleAt
  exact ⟨fun h => if_pos (or_decide.2 h), fun h h' => (if_neg (fun c => h (or_decide.1 c))).trans (if_pos h'),
    fun h h' => (if_neg (fun c => h (or_decide.1 c))).trans (if_neg h')⟩

/-- The trip temperature of a sensor. -/
theorem tripAt_rows (n : Nat) :
    (n < 12 ∨ n = 20 → tripAt n = some 960) ∧ (¬ (n < 12 ∨ n = 20) → n < 20 → tripAt n = some 840) ∧
    (¬ (n < 12 ∨ n = 20) → ¬ n < 20 → tripAt n = none) := by
  unfold tripAt
  exact ⟨fun h => if_pos (or_decide.2 h), fun h h' => (if_neg (fun c => h (or_decide.1 c))).trans (if_pos h'),
    fun h h' => (if_neg (fun c => h (or_decide.1 c))).trans (if_neg h')⟩

theorem tripAt_iff (n : Nat) :
    (tripAt n = some 960 ↔ n < 12 ∨ n = 20) ∧ (tripAt n = some 840 ↔ 12 ≤ n ∧ n < 20) := by
  obtain ⟨h1, h2, h3⟩ := tripAt_rows n
  by_cases c1 : n < 12 ∨ n = 20
  · rw [h1 c1]
    exact ⟨iff_of_true rfl c1, iff_of_false (by decide) (by omega)⟩
  · by_cases c2 : n < 20
    · rw [h2 c1 c2]
      exact ⟨iff_of_false (by decide) c1, iff_of_true rfl (by omega)⟩
    · rw [h3 c1 c2]
      exact ⟨iff_of_false (by decide) c1, iff_of_false (by decide) (by omega)⟩

/-- A trip of a powered module drives `FAULT_N` low and takes the rails down. -/
theorem State.trip_pins {s : State} (c : TripCause) (h : s.pins.pgood = true) :
    (s.trip c).pins.faultN = false ∧ (s.trip c).pins.pgood = false ∧ (s.trip c).pins.rails = [] := by
  unfold State.trip
  dsimp only
  rw [if_neg (by simp [h])]
  exact ⟨rfl, rfl, rfl⟩

/-- A sensor at its trip temperature trips. -/
theorem execThermalTrip_hot {s : State} {n a : Nat} (ha : tripAt n = some a)
    (hx : (s.power.sensor n).atLeast a = true) :
    exec (.thermalTrip n) s = .next ((s.onChip (fun k => k.post 0x0201 2 (sensorUnit n)
      [n, (s.power.sensor n).temp.toNat, 2])).trip (.sensor n)) := by
  have e : exec (.thermalTrip n) s = execThermalTrip n s := rfl
  rw [e]
  unfold execThermalTrip
  rw [ha]
  dsimp only
  rw [if_pos hx]

/-- Whether a reading throttles. -/
theorem Sensor.read_throt (x : Sensor) (n : Nat) (t : BitVec 12) :
    (x.read n t).throt = true ↔ (n < 12 ∨ n = 20) ∧ 840 ≤ t.toInt ∨ 12 ≤ n ∧ n < 20 ∧ 760 ≤ t.toInt := by
  unfold Sensor.read
  dsimp only
  obtain ⟨h1, h2, h3⟩ := throttleAt_rows n
  by_cases c1 : n < 12 ∨ n = 20
  · rw [h1 c1]
    exact decide_eq_true_iff.trans ⟨fun h => .inl ⟨c1, h⟩, fun h => h.elim (·.2) (fun h => absurd h.1 (by omega))⟩
  · by_cases c2 : n < 20
    · rw [h2 c1 c2]
      exact decide_eq_true_iff.trans ⟨fun h => .inr ⟨by omega, c2, h⟩, fun h => h.elim (fun h => absurd h.1 c1) (·.2.2)⟩
    · rw [h3 c1 c2]
      exact ⟨fun h => absurd h Bool.false_ne_true, fun h => h.elim (fun h => absurd h.1 c1) (fun h => absurd h.2.1 c2)⟩

/-- What a reading leaves. -/
theorem State.takeReading_spec (s : State) (n : Nat) (t : BitVec 12) :
    (s.takeReading n t).power.sensors = tblPut Sensor.reset s.power.sensors n ((s.power.sensor n).read n t) ∧
    (s.takeReading n t).pins.thermN = !(List.range 21).any (fun m => ((s.takeReading n t).power.sensor m).throt) ∧
    (s.takeReading n t).chip.quads = s.chip.quads ∧ (s.takeReading n t).power.root = s.power.root := by
  unfold State.takeReading
  dsimp only
  split
  · exact ⟨rfl, rfl, rfl, rfl⟩
  · split
    · exact ⟨rfl, rfl, rfl, rfl⟩
    · split
      · exact ⟨rfl, rfl, rfl, rfl⟩
      · exact ⟨rfl, rfl, rfl, rfl⟩

/-- The sensors and `THERM_N` after a reading. -/
theorem State.takeReading_sensors (s : State) (n : Nat) (t : BitVec 12) :
    (s.takeReading n t).power.sensor n = (s.power.sensor n).read n t ∧
    (∀ m, m ≠ n → (s.takeReading n t).power.sensor m = s.power.sensor m) ∧
    ((s.takeReading n t).pins.thermN = false ↔ ∃ m, m < 21 ∧ ((s.takeReading n t).power.sensor m).throt = true) := by
  obtain ⟨h1, h2, -, -⟩ := s.takeReading_spec n t
  refine ⟨?_, fun m hm => ?_, ?_⟩
  · unfold Power.sensor at h1 ⊢
    rw [h1, tblGet_put_self]
  · unfold Power.sensor at h1 ⊢
    rw [h1, tblGet_put_ne _ _ _ hm]
  · rw [h2]
    simp only [Bool.not_eq_false', List.any_eq_true, List.mem_range]

/-- Settles O57: each command by its condition, and the device states by what they do to every seat. -/
theorem powerRows : Obligations.PowerRows := by
  unfold Obligations.PowerRows
  refine ⟨fun s r region q e => ?_, fun s region n demand temp w => ?_, fun s => ?_⟩
  · intro k p power clocked
    refine ⟨fun hp hr ht => ?_, fun ht => ?_, fun hs => ?_, fun hup => ?_, fun x hx => ?_, fun hc => ?_, fun hr => ?_,
      fun hq => ?_, rfl, fun hp => rfl, fun hup => ?_⟩
    · exact congrArg Host.Outcome.next (if_pos (by
        rw [show s.pins.pgood = true from hp, decide_eq_true (show s.power.root ≠ s.power.target from hr),
          show s.links.training = false from ht] <;> rfl))
    · exact congrArg Host.Outcome.next (if_neg (by
        rw [show s.links.training = true from ht, Bool.not_true, Bool.and_false] <;> exact Bool.false_ne_true))
    · exact congrArg Host.Outcome.next (if_pos hs)
    · obtain ⟨t, ht, ⟨a, i, l, h, hu⟩, hq, hn⟩ := execPowerWindow_up r hup
      generalize hv : s.windowLimits r = v at hu
      obtain ⟨w1, w2, w3, w4, w5, ⟨l1, l2, l3, l4, l5, l6⟩, w6⟩ := State.windowLimits_spec hv
      refine ⟨t, ht, ?_⟩
      rw [hu]
      exact ⟨w1, w2, w3, w4, w5, l1, l2, l3, l4, l5, l6, w6, hq, hn⟩
    · have h : exec .estimatorCalibrated s = execEstimatorCalibrated s := rfl
      rw [h]
      unfold execEstimatorCalibrated
      rw [show s.power.estLim = some x from hx] <;> rfl
    · exact execDroopDetect_clocked hc.1 hc.2
    · exact congrArg Host.Outcome.next (if_pos hr)
    · refine ⟨_, congrArg Host.Outcome.next (if_pos hq), ?_, fun i => ?_, ?_, rfl⟩
      · exact List.mem_append_right _ List.mem_cons_self
      · show i ∈ (p.railCap.filter (· ≠ q) ++ [q]) ↔ _
        rw [List.mem_append, List.mem_filter, List.mem_singleton, decide_eq_true_eq]
        by_cases hi : i = q <;> simp [hi]
      · exact p.mem_act 2
    · obtain ⟨t, ht, hk, hl, h1, h2, h3, h4, h5⟩ := execEnergyUpdate_up e hup
      refine ⟨t, ht, ?_, hl, fun i hi => ?_, h1, h2, fun i x hx hi => ⟨?_, fun c n y hy hc => ?_⟩, fun i x hx hi => ?_⟩
      · rw [hk]
        exact Chip.mem_charges _ _
      · rw [hk]
        exact Chip.quad_charges (List.range 4) s.chip (.inl (List.mem_range.2 hi))
      · rw [h3]
        exact addEnergy_one _ (by rw [hx]; exact List.filter_cons_of_pos hi)
      · subst hc
        have hf : e.core.filter (fun x => s.chip.quadPresent x.1) = [(c / 24, x)] := by
          rw [hx]
          exact List.filter_cons_of_pos hi
        rw [h5, hf, hy, addShares_one]
        simp only [List.contains_iff_mem]
        rfl
      · rw [h4]
        exact addEnergy_one _ (by rw [hx]; exact List.filter_cons_of_pos hi)
  · intro k p x g
    refine ⟨fun hr hc => ?_, fun hup hn => ?_, fun a ha hv ht hp => ?_, (tripAt_iff n).1, (tripAt_iff n).2,
      fun hw => ?_, fun hw => ?_⟩
    · refine ⟨_, execRampWindow_clocked demand hr hc, ?_⟩
      intro a goal
      have hreg : ∀ i, (({ s with power := s.power.updRegion region (fun g =>
          { g with activity := BitVec.ofNat 8 (towards g.activity.toNat goal (rampStep g.table)) }) } : State).power.region i)
          = if i = region then { g with activity := BitVec.ofNat 8 (towards g.activity.toNat goal (rampStep g.table)) }
            else s.power.region i := by
        intro i
        refine (Power.region_upd _ _ _ _).trans ?_
        split
        · rename_i h
          rw [h]
        · rfl
      have hself := (hreg region).trans (if_pos rfl)
      have hgoal : goal ≤ 255 := (min_le_left _ _).trans (by omega)
      have ha : a = towards g.activity.toNat goal (rampStep g.table) := by
        have h := congrArg (fun z : Region => z.activity.toNat) hself
        refine h.trans ?_
        exact Nat.mod_eq_of_lt (Nat.lt_succ_of_le (towards_le _ _ _ (by omega) hgoal))
      obtain ⟨t1, t2⟩ := towards_spec g.activity.toNat goal (rampStep g.table)
      rw [← ha] at t1 t2
      refine ⟨t1, t2, ?_, ?_, fun i hi => ?_, rfl⟩
      · exact (congrArg Region.ceiling hself :)
      · exact (congrArg Region.table hself :)
      · exact (hreg i).trans (if_neg hi)
    · have hg : (s.tumblerUp && (s.chip.junctions.contains n || n = 21 || n = 22)) = true := by
        rw [hup, Bool.true_and]
        simpa [or_assoc] using hn
      obtain ⟨s1, s2, s3⟩ := s.takeReading_sensors n temp
      obtain ⟨-, -, h3, h4⟩ := s.takeReading_spec n temp
      refine ⟨s.takeReading n temp, congrArg Host.Outcome.next (if_pos hg), ?_⟩
      intro y
      have hy : y = x.read n temp := s1
      rw [hy]
      refine ⟨rfl, rfl, Sensor.read_throt _ _ _, ?_, s3, s2, h3, h4⟩
      show (if (!x.valid || decide (x.maxT.toInt < temp.toInt)) = true then temp else x.maxT) = _
      simp only [Bool.or_eq_true, Bool.not_eq_true', decide_eq_true_eq]
    · have hx : (s.power.sensor n).atLeast a = true := by
        unfold Sensor.atLeast
        rw [show (s.power.sensor n).valid = true from hv, decide_eq_true ht] <;> rfl
      exact ⟨_, execThermalTrip_hot ha hx, State.trip_pins _ hp⟩
    · have hs : regSets { part := .full, val := w } 28 = true := by rw [regSets_full]; exact hw
      refine ⟨_, congrArg Host.Outcome.next (if_pos hs), ?_, fun m hm => ?_⟩
      · exact tblGet_mod_self Sensor.reset s.power.sensors n (fun x => { x with maxT := x.temp })
      · exact tblGet_mod_ne Sensor.reset s.power.sensors (fun x => { x with maxT := x.temp }) hm
    · have hs : ¬ regSets { part := .full, val := w } 28 = true := by
        rw [regSets_full]
        exact ne_true_of_eq_false hw
      exact congrArg Host.Outcome.next (if_neg hs)
  · intro seat d
    exact ⟨s.enterD1_spec, s.enterD2_spec, s.leaveD1_spec, s.leaveD2_spec, State.powerDown_spec rfl⟩

end Sys2Proof.Machine
end
